-- ==== Sys2Proof/Word.lean ====
section
/-! DEFINITION. The data units of R8 (spec/00_scope.md) and the finite table in which the model holds
every sparse piece of state. -/

namespace Sys2Proof

/-- A byte (R8). -/
abbrev Byte := BitVec 8

/-- A word, the contents of one register in one lane (R8, R17). -/
abbrev Word := BitVec 32

/-- A double, the contents of a register pair (R8, R17). -/
abbrev Double := BitVec 64

/-- One bit for each of the 32 lanes of a warp; bit L stands for lane L. -/
abbrev LaneSet := BitVec 32

/-- A finite map from natural-number keys, held as pairs with rising keys. -/
abbrev Table (β : Type) := List (Nat × β)

end Sys2Proof
end

