-- ==== Sys2Proof/Syntax.lean ====
section
/-! DEFINITION. Every row of spec/opcode_table.json as one constructor of `Instr`: the instruction words
of chapters 04 to 08, the engine command words of R191, and the events of the hardware, the host and
the Bausk controller. Register numbers, types and modifiers are decoded once, here. -/

namespace Sys2Proof

/-- Operand codes of R19 (spec/01_architectural_state.md). `bad c` is code 252 + c. -/
inductive Opnd
  | v (n : Fin 192)
  | k (n : Fin 56)
  | zero
  | laneid
  | warpid
  | ones
  | bad (c : Fin 4)
deriving DecidableEq, Repr

/-- TYPE codes of R70 (spec/03_clauses_encoding_assembly.md), in code order. -/
inductive Ty
  | f32 | f64 | bf16 | f16 | e4m3 | e5m2 | e2m1 | e8m0
  | s8 | s16 | s32 | s64 | n8 | n16 | n32 | n64
deriving DecidableEq, Repr

/-- Rounding codes of R38 (spec/02_number_formats.md). -/
inductive Rnd
  | rn | rz | rp | rm
deriving DecidableEq, Repr

/-- Scope codes of R68; the levels of R2. -/
inductive Scope
  | thr | wrp | grp | cls | die | chp | mod | pod
deriving DecidableEq, Repr

/-- ORDER codes of R68. -/
inductive Order
  | plain | acq | rel | ar
deriving DecidableEq, Repr

/-- SPACE codes of R68. -/
inductive Space
  | generic | global | core | cluster | register
deriving DecidableEq, Repr

/-- The guard predicate of R66: predicate PRED, negated when NEG is set. -/
structure Guard where
  neg  : Bool
  pred : Fin 8
deriving DecidableEq, Repr

/-- Guard, type, destination and one source. -/
structure R1 where
  g  : Guard
  ty : Ty
  d  : Opnd
  a  : Opnd
deriving DecidableEq, Repr

/-- Guard, type, destination and two sources. -/
structure R2 where
  g  : Guard
  ty : Ty
  d  : Opnd
  a  : Opnd
  b  : Opnd
deriving DecidableEq, Repr

/-- Guard, type, destination and three sources. -/
structure R3 where
  g  : Guard
  ty : Ty
  d  : Opnd
  a  : Opnd
  b  : Opnd
  c  : Opnd
deriving DecidableEq, Repr

/-- Modifiers of a rounding two-operand instruction (R107). -/
structure FMod where
  rnd : Rnd
  na  : Bool
  nb  : Bool
  nc  : Bool
deriving DecidableEq, Repr

/-- The two forms of meet (R85). -/
inductive MeetForm
  | direct (disp : Word)
  | reg (a : Opnd)
deriving DecidableEq, Repr

/-- The IMM field of wait (R90). -/
structure WaitImm where
  tmo : Nat
  all : Bool
  cnt : Fin 4
deriving DecidableEq, Repr

/-- Integer conditions of R100. -/
inductive ICond
  | eq | ne | lt | le | gt | ge
deriving DecidableEq, Repr

/-- Floating-point conditions of R114. -/
inductive FCond
  | eq | ne | lt | le | gt | ge | ord | uno | ltu | leu | gtu | geu
deriving DecidableEq, Repr

/-- Comparison codes of R91, also used by BRC and WMEM (R191). -/
inductive MCond
  | eq | ne | ltu | geu | lts | ges
deriving DecidableEq, Repr

/-- Modes of xlane (R104). -/
inductive XMode
  | sel | off | rot | fly
deriving DecidableEq, Repr

/-- Modes of wext (R97). -/
inductive WMode
  | lo | hi | rot
deriving DecidableEq, Repr

/-- Modes of lpoll with their destination (R105). -/
inductive PollForm
  | every (pd : Fin 8)
  | some (pd : Fin 8)
  | same (pd : Fin 8)
  | mask (d : Opnd)
  | count (d : Opnd)
  | first (d : Opnd)
deriving DecidableEq, Repr

/-- Operations of wred (R106). -/
inductive RedOp
  | add | min | max | and | or | xor
deriving DecidableEq, Repr

/-- Type and element selection of a conversion (R107, R121). -/
structure CvMod where
  rnd  : Rnd
  sty  : Ty
  sidx : Fin 8
  didx : Fin 8
  sat  : Bool
deriving DecidableEq, Repr

/-- The memory form F-M (R68). -/
structure MForm where
  g     : Guard
  ty    : Ty
  ofs   : BitVec 12
  a     : Opnd
  d     : Opnd
  order : Order
  scope : Scope
  space : Space
deriving DecidableEq, Repr

/-- A product instruction of the matrix unit (R165, R166). `cv` is the convergence check of R156. -/
structure Prod where
  g    : Guard
  ty   : Ty
  a    : Opnd
  b    : Opnd
  tile : Fin 64
  zc   : Bool
  cv   : Option (Fin 8)
deriving DecidableEq, Repr

/-- Modes of amv with the operand each uses (R166, R172). -/
inductive AmvMode
  | a2v (d : Opnd)
  | v2a (a : Opnd)
  | a2c (a : Opnd)
  | c2a (a : Opnd)
deriving DecidableEq, Repr

/-- The axis of tcon8 (R166). -/
inductive Axis
  | x | y | z
deriving DecidableEq, Repr

/-- An engine context that runs commands: root or canopy engine (R177, R272). -/
inductive EngRef
  | root (die slice ctx : Nat)
  | canopy (die engine ctx : Nat)
deriving DecidableEq, Repr

/-- Which write an event performs (R216): some lanes of a warp's instruction, the oldest write of a cluster's
path to a home slice, or a write of an engine program. -/
inductive WriteRef
  | issued (warp seq : Nat) (lanes : LaneSet) (dest : Nat)
  | home (path : Nat)
  | engine (e : EngRef) (index : Nat)
deriving DecidableEq, Repr

/-- How a host request arrives: its interface, whether through the physical function, and the key set of the interface's IDE
stream under which it comes, none outside the stream (R292, R342). -/
structure HostPort where
  iface  : Nat
  pf     : Bool
  stream : Option Bool
deriving DecidableEq, Repr

/-- A host register (R7, R292, R295, R304, R347, R354). -/
inductive HostReg
  | mbbase (m : Nat)
  | mbctl (m : Nat)
  | mbhead (m : Nat)
  | mbtail (m : Nat)
  | mbctx (m : Nat)
  | ctxid (slot : Nat)
  | ptroot (slot : Nat)
  | tvec (slot : Nat)
  | tlbiva (slot : Nat)
  | tlbictl (slot : Nat)
  | ctxctl (slot : Nat)
  | ctxsave (slot : Nat)
  | apctl (w : Nat)
  | apbase (w : Nat)
  | truststat
  | startRecord (double : Nat)
deriving DecidableEq, Repr

/-- What a start met in one start-sequence step: the units that failed, as start-record unit entries (R354),
and whether a mandatory step's own check failed (R355). -/
structure StepFail where
  step  : Nat
  units : List Double
  whole : Bool
deriving DecidableEq, Repr

/-- A die entry of the configuration record (R356). -/
structure DieConfig where
  cores  : BitVec 144
  slices : BitVec 32
  hbmStacks : BitVec 2
  links  : BitVec 7
deriving DecidableEq, Repr

/-- The configuration record (R356) with its signature and what the check of it finds; `clean` says no reserved bit is set. -/
structure ConfigRecord where
  magic    : Word
  version  : BitVec 16
  serial   : Double
  dieMask  : BitVec 32
  fmax     : Nat
  lthr     : BitVec 16
  scrubp   : Nat
  clean    : Bool
  signed   : Bool
  dies     : List DieConfig
  signature : BitVec 768
deriving DecidableEq, Repr

/-- The channel of an SPDM request: an interface's connection or one of its sessions (R339), the version that the request names, and,
inside a session, the serial number of the keys that protect it. -/
structure Channel where
  iface   : Nat
  session : Option Nat
  version : Nat
  key     : Nat
deriving DecidableEq, Repr

/-- What a KEY_EXCHANGE asks for (R12, R339): the version, the asymmetric, hash, group and cipher algorithms by the numbers that the
model gives those of R339 (0 for each; log entry 69), pre-shared keys, mutual authentication, and the exchange data. -/
structure KeyOffer where
  version : Nat
  asym    : Nat
  hash    : Nat
  group   : Nat
  aead    : Nat
  psk     : Bool
  auth    : Bool
  data    : Nat
deriving DecidableEq, Repr

/-- A key set of an IDE stream: whether the stream is a link stream, its identifier, and a key for each sub-stream (R342). -/
structure IdeKeys where
  link       : Bool
  stream     : BitVec 8
  posted     : BitVec 256
  nonPosted  : BitVec 256
  completion : BitVec 256
deriving DecidableEq, Repr

/-- A clause header (R53), its reserved bits left out. -/
structure Header where
  sbmask : BitVec 8
  w1cls  : Fin 8
  w1thr  : Nat
  w0cls  : Fin 8
  w0thr  : Nat
  priv   : Bool
  yhint  : Bool
  park   : Bool
  ports  : BitVec 4
  count  : Fin 16
deriving DecidableEq, Repr

/-- One constructor for each row of spec/opcode_table.json. -/
inductive Instr
  -- control and convergence (R82)
  | nop (g : Guard)
  | bra (g : Guard) (disp : Word)
  | brx (g : Guard) (a : Opnd) (disp : Word)
  | call (g : Guard) (d : Opnd) (disp : Word)
  | callx (g : Guard) (d a : Opnd) (disp : Word)
  | ret (g : Guard) (a : Opnd)
  | exit (g : Guard)
  | meet (g : Guard) (form : MeetForm) (d : Opnd)
  | sign (g : Guard) (n : Fin 8)
  | wait (g : Guard) (d a : Opnd) (imm : WaitImm)
  | bar (g : Guard) (id : Fin 16) (count : Nat)
  | cbar (g : Guard) (id : Fin 16) (count : Nat)
  | yield (g : Guard)
  | trap (g : Guard) (code : Word)
  | cvset (g : Guard) (n : Fin 8) (a : Opnd)
  -- integer, logic and predicates (R96 to R101)
  | iadd (x : R2) (sat : Bool)
  | isub (x : R2) (sat : Bool)
  | imul (x : R2)
  | imulhi (x : R2)
  | imad (x : R3)
  | imadw (x : R3)
  | iadd64 (x : R2) (sat : Bool)
  | isub64 (x : R2) (sat : Bool)
  | imul64 (x : R2)
  | imad64 (x : R3)
  | shl (x : R2)
  | shr (x : R2)
  | sar (x : R2)
  | mix3 (x : R3) (t : BitVec 8)
  | imin (x : R2)
  | imax (x : R2)
  | iabs (x : R1) (sat : Bool)
  | icmp (g : Guard) (ty : Ty) (pd : Fin 8) (cc : ICond) (a b : Opnd)
  | sel (x : R2) (pc : Fin 8)
  | popc (x : R1)
  | clz (x : R1)
  | brev (x : R1)
  | bfe (x : R2)
  | bfi (x : R3)
  | iaddp (x : R2) (sat : Bool)
  | isubp (x : R2) (sat : Bool)
  | iminp (x : R2)
  | imaxp (x : R2)
  | iabsp (x : R1) (sat : Bool)
  | idp4 (x : R3) (sat : Bool)
  | mov (x : R1)
  | movi (g : Guard) (ty : Ty) (d : Opnd) (imm : Word)
  | xlane (x : R3) (mode : XMode)
  | lpoll (g : Guard) (form : PollForm) (q : Fin 8)
  | wred (x : R1) (op : RedOp)
  | pmix3 (g : Guard) (pd pa pb pc : Fin 8) (t : BitVec 8)
  | pget (g : Guard) (d : Opnd)
  | pset (g : Guard) (mask : BitVec 7) (a : Opnd)
  | wext (x : R3) (mode : WMode)
  | iaddi (x : R1) (imm : Word)
  | imuli (x : R1) (imm : Word)
  | icmpi (g : Guard) (ty : Ty) (pd : Fin 8) (cc : ICond) (a : Opnd) (imm : Word)
  | mixi (g : Guard) (t : BitVec 4) (d a : Opnd) (imm : Word)
  -- floating point and conversion (R107 to R126)
  | fadd (x : R2) (m : FMod)
  | fmul (x : R2) (m : FMod)
  | ffma (x : R3) (m : FMod)
  | fmin (x : R2) (rnd : Rnd) (nan : Bool)
  | fmax (x : R2) (rnd : Rnd) (nan : Bool)
  | fcmp (g : Guard) (pd : Fin 8) (cc : FCond) (a b : Opnd) (rnd : Rnd)
  | fabs (x : R1) (rnd : Rnd) (neg : Bool)
  | fclass (x : R1) (rnd : Rnd) (elem : Fin 8)
  | dadd (x : R2) (m : FMod)
  | dmul (x : R2) (m : FMod)
  | dfma (x : R3) (m : FMod)
  | dmin (x : R2) (rnd : Rnd) (nan : Bool)
  | dmax (x : R2) (rnd : Rnd) (nan : Bool)
  | dcmp (g : Guard) (pd : Fin 8) (cc : FCond) (a b : Opnd) (rnd : Rnd)
  | dclass (x : R1) (rnd : Rnd)
  | hadd2 (x : R2) (m : FMod)
  | hmul2 (x : R2) (m : FMod)
  | hfma2 (x : R3) (m : FMod)
  | hmin2 (x : R2) (rnd : Rnd) (nan : Bool)
  | hmax2 (x : R2) (rnd : Rnd) (nan : Bool)
  | hcmp2 (x : R2) (rnd : Rnd) (cc : FCond)
  | faddi (x : R1) (imm : Word)
  | fmuli (x : R1) (imm : Word)
  | frcp (x : R1) (rnd : Rnd)
  | frsq (x : R1) (rnd : Rnd)
  | fsqrt (x : R1) (rnd : Rnd)
  | fex2 (x : R1) (rnd : Rnd)
  | flg2 (x : R1) (rnd : Rnd)
  | fsin (x : R1) (rnd : Rnd)
  | fcos (x : R1) (rnd : Rnd)
  | ftanh (x : R1) (rnd : Rnd)
  | dsqrt (x : R1) (rnd : Rnd)
  | drcp (x : R1) (rnd : Rnd)
  | cvff (x : R1) (m : CvMod)
  | cvfi (x : R1) (m : CvMod)
  | cvif (x : R1) (m : CvMod)
  | cvii (x : R1) (m : CvMod)
  | pkf8 (x : R2) (rnd : Rnd) (sat : Bool)
  | pkf4 (x : R2) (rnd : Rnd) (q : Fin 8)
  | mxsc (x : R1) (rnd : Rnd) (inv : Bool)
  -- memory, windows, atomics and locks (R128)
  | ld (x : MForm) (fresh : Bool)
  | st (x : MForm)
  | ldb (x : MForm) (fresh : Bool)
  | stb (x : MForm)
  | ldw (x : MForm) (clr : Bool)
  | setempty (x : MForm)
  | atadd (x : MForm) (slot : Option (Fin 8))
  | atmin (x : MForm) (slot : Option (Fin 8))
  | atmax (x : MForm) (slot : Option (Fin 8))
  | atand (x : MForm) (slot : Option (Fin 8))
  | ator (x : MForm) (slot : Option (Fin 8))
  | atxor (x : MForm) (slot : Option (Fin 8))
  | atexch (x : MForm) (slot : Option (Fin 8))
  | atcas (x : MForm) (slot : Option (Fin 8)) (b : Opnd)
  | redadd (x : MForm)
  | redmin (x : MForm)
  | redmax (x : MForm)
  | redand (x : MForm)
  | redor (x : MForm)
  | redxor (x : MForm)
  | fxadd (x : MForm)
  | fxrd (x : MForm) (rnd : Rnd)
  | nins (x : MForm) (b : Opnd)
  | lock (x : MForm)
  | unlock (x : MForm)
  | fence (x : MForm)
  -- matrix, accumulators and contraction (R166)
  | mma (x : Prod)
  | mmag (x : Prod) (c : Opnd)
  | mmas (x : Prod)
  | sfpush (g : Guard) (ty : Ty) (a : Opnd) (kindB : Bool) (cv : Option (Fin 8))
  | sfpushFlush (g : Guard)
  | mmx (x : Prod) (unsignedA : Bool)
  | aalloc (g : Guard) (d : Opnd) (mask : Word)
  | afree (g : Guard) (mask : Word)
  | acqa (g : Guard) (a : Opnd) (mask : Word)
  | rela (g : Guard) (mask : Word)
  | amv (g : Guard) (mode : AmvMode) (spec : Opnd) (tile : Fin 64) (cv : Option (Fin 8))
  | tcon8 (g : Guard) (u m o : Opnd) (axis : Axis) (tr acc : Bool) (cv : Option (Fin 8))
  -- engines, cambium and system (R174, R186 to R189)
  | rsub (g : Guard) (scope : Scope) (d a b c : Opnd)
  | cpost (g : Guard) (scope : Scope) (a b : Opnd)
  | ctok (g : Guard) (scope : Scope) (a b : Opnd)
  | abort (g : Guard) (scope : Scope) (a b : Opnd)
  | abortRoot (g : Guard) (scope : Scope) (a : Opnd)
  | mcst (x : MForm) (blk : Bool) (b : Opnd)
  | rfence (g : Guard) (scope : Scope) (a : Opnd)
  | cdecl (g : Guard) (scope : Scope) (a b : Opnd)
  | sweep (g : Guard) (scope : Scope) (d a b c : Opnd)
  | byield (g : Guard) (scope : Scope) (retire : Bool) (a b c : Opnd)
  | bwakeNow (g : Guard) (scope : Scope) (a b : Opnd)
  | bwakeNext (g : Guard) (scope : Scope) (a b : Opnd)
  | bstate (g : Guard) (d a b : Opnd)
  | sget (g : Guard) (ty : Ty) (d : Opnd) (n : BitVec 16)
  | sset (g : Guard) (ty : Ty) (a : Opnd) (n : BitVec 16)
  | tret (g : Guard)
  | clkrd (g : Guard) (ty : Ty) (d : Opnd) (rt : Bool)
  | preempt (g : Guard) (d : Opnd)
  | unassignedOpcode (op : BitVec 8)
  -- clause, memory and trap events
  | arbitrate (q : Nat)
  | clauseBoundary (q : Nat)
  | longLatencyResult (warp seq : Nat) (lanes : LaneSet) (level1 : Bool)
  | atomicReturn (warp seq : Nat)
  | registerWindowWriteArrive (warp seq : Nat) (lanes : LaneSet)
  | writePerformed (w : WriteRef)
  | atomicPerform (warp seq : Nat)
  | creditCharge (core offset : Nat)
  | lockRequestArrive (warp seq : Nat)
  | unlockArrive (warp seq : Nat)
  | fenceAcknowledge (warp seq : Nat)
  | waitMet (warp : Nat)
  | waitTimeout (warp : Nat)
  | waitMemoryPoll (warp : Nat)
  | ldwAction (warp seq : Nat)
  | copyGranuleLand (transfer granule : Nat)
  | windowCopyFault (transfer : Nat)
  | pushGranuleLand (transfer granule : Nat)
  | recordInvalidationComplete (warp seq : Nat)
  | matrixOpPerform (core : Nat) (early : List Nat)
  | warpEnd (warp : Nat)
  | watchdogFire (core ctx : Nat)
  | trapEntry (warp : Nat)
  -- dispatches, mailboxes and the host
  | mailboxTakeEntry (m : Nat)
  | dispatchAccept (d : Nat)
  | groupPlace (d : Nat)
  | dispatchComplete (d : Nat)
  | dispatchKill (d : Nat)
  | dispatchReplay (d : Nat)
  | mbtailWrite (p : HostPort) (m : Nat) (value : Word)
  | mbctxWrite (p : HostPort) (m : Nat) (upper id : BitVec 16)
  | mbctlEnable (p : HostPort) (m : Nat) (value : Word)
  | mbctlKill (p : HostPort) (m : Nat) (value : Word)
  | mbctlErrClear (p : HostPort) (m : Nat) (value : Word)
  | ctxidWrite (p : HostPort) (slot : Nat) (value : Word)
  | ctxctlPreq (p : HostPort) (slot : Nat) (value : Word)
  | preemptSave (slot : Nat)
  | ctxctlResume (p : HostPort) (slot : Nat) (value : Word)
  | tlbictlInvalidate (p : HostPort) (slot : Nat) (value : Word)
  | tlbInvalidateComplete (slot : Nat)
  | apctlWrite (p : HostPort) (w : Nat) (en : Bool) (fields : Word)
  | hostBar2Read (p : HostPort) (w offset count : Nat)
  | hostBar2Write (p : HostPort) (w offset : Nat) (bytes : List Byte)
  | registerWrite (p : HostPort) (r : HostReg) (value : Double)
  -- engine programs and their commands (R190 to R193)
  | rootProgramAccept (die slice : Nat)
  | rootProgramStart (die slice : Nat)
  | cmdNop
  | cmdSeti (fa : Fin 16) (x : Double)
  | cmdAddi (fa fb : Fin 16) (x : Double)
  | cmdAdd (fa fb fc : Fin 16) (imm : Word)
  | cmdMad (fa fb fc : Fin 16) (x : Double)
  | cmdLdg (fa fb : Fin 16) (x : Double)
  | cmdStg (fa fb : Fin 16) (x : Double) (rel : Bool)
  | cmdAtom (fa fb : Fin 16) (x : Double)
  | cmdMove (fa fb : Fin 16) (imm : Word)
  | cmdPush (fa fb fc : Fin 16)
  | cmdPushmc (fa fb fc : Fin 16) (imm : Word)
  | cmdStep (fa fb : Fin 16)
  | cmdRed (fa fb : Fin 16) (imm : Word) (comm : BitVec 8) (bf16 : Bool)
  | cmdSum (fa fb fc : Fin 16) (imm : Word) (bf16 : Bool)
  | cmdSig (fa : Fin 16) (imm : Word)
  | cmdTok (imm : Word) (die : BitVec 10)
  | cmdWtok (imm : Word) (consume : Bool) (tmo : BitVec 28)
  | cmdWbar (fa : Fin 16) (phase : Bool) (tmo : BitVec 28)
  | cmdWmem (fa fb : Fin 16) (cmp : MCond) (wide : Bool) (tmo : BitVec 28)
  | cmdBr (imm : Word)
  | cmdBrc (fa fb : Fin 16) (cmp : MCond) (imm : Word)
  | cmdLoop (fa : Fin 16) (imm : Word)
  | cmdFence (scope : Scope)
  | cmdChunk
  | cmdEnd
  | cmdBadOpcode (opc : BitVec 8)
  | engineWaitMet (e : EngRef)
  | engineWaitTimeout (e : EngRef)
  -- canopy engines, collectives and group commands
  | canopyBlockAccept (die engine : Nat)
  | canopyBlockStart (die engine : Nat)
  | tokenDeliver (flight : Nat)
  | blockTokenTimeout (die index : Nat)
  | redChildArrive (flight : Nat)
  | reductionTimeout (node : Nat)
  | redResultDeliver (flight : Nat)
  | collectivePacketIngress (die : Nat) (ctx comm : Nat) (attempt : BitVec 16)
  | attemptAbortArrive (flight : Nat)
  | agreementPropose (round : Nat)
  | agreementVote (round die : Nat)
  | agreementCommit (round : Nat)
  | agreementRoundTimeout (round : Nat)
  | groupCommandComplete (round : Nat)
  -- cambium engines
  | declarationAccept (site : Nat)
  | sweepRequestAccept (site : Nat)
  | scanStep (site slot : Nat)
  | wakeTake (site : Nat)
  | byieldTake (site : Nat)
  | sweepEnd (dispatch slot : Nat)
  -- integrity and repair
  | scrubSector (die sector errors : Nat)
  | scrubWriteback (die : Nat)
  | coreRetire (core : Nat) (intact : Bool)
  | lateTransitionReplay (core : Nat)
  | clockStepDown (die : Nat)
  | clockStepUp (die : Nat)
  | linkReplay (die link : Nat)
  | linkRetrain (die link : Nat)
  | routeGenerationInstall (die link : Nat) (routes : List (Nat × Nat × List (Nat × Nat)))
  | routePairSwitch (die site : Nat)
  | thermalClockStep (die : Nat) (up : Bool)
  | thermalPowerCut
  -- resets, the Bausk controller and trust
  | coldReset (fails : List StepFail)
  | warmReset (fails : List StepFail)
  | rtRealign (up : Bool) (ticks : Nat)
  | clearStartRecord
  | installConfigurationRecord (r : ConfigRecord)
  | readRingRecord (die : Nat)
  | readStartRecord
  | readSensors
  | getMeasurements (ch : Channel) (index : Nat) (sign : Bool)
  | getCertificate (ch : Channel)
  | challenge (ch : Channel) (nonce : BitVec 256)
  | keyExchange (iface : Nat) (offer : KeyOffer)
  | keyUpdate (ch : Channel)
  | heartbeat (ch : Channel)
  | setMode (ch : Option Channel) (value : Byte)
  | getReceipt (ch : Channel) (nonce : BitVec 256)
  | liveActivation (verified : Bool) (digest : Nat)
  | ideKeyProgram (ch : Channel) (keys : IdeKeys) (world : Nat)
  | ideKeySetSwitch (iface : Nat)
  | ideIntegrityFailure (iface : Nat)
  | linkRetrainEnd (die link : Nat) (ok : Bool)
  | clockStepComplete (die : Nat)
  | liveActivationEnd
  | interfaceReset (iface : Nat)
deriving DecidableEq, Repr

end Sys2Proof
end

