-- ==== Sys2Proof/WellFormed.lean ====
section
/-! DEFINITION. Which instructions have an encoding: the TYPE, SPACE, ORDER, SCOPE and modifier codes that each
row of R82, R96 to R106, R107 to R126, R128, R166, R174, R186 and R188 accepts. An instruction word that breaks one of
these raises the illegal-encoding fault of R67. Operand codes are not judged here: R19 and R20 fault on them when
the instruction issues. -/

namespace Sys2Proof

/-- s32 and n32. -/
def Ty.int32 : Ty → Bool
  | .s32 | .n32 => true
  | _ => false

/-- s64 and n64. -/
def Ty.int64 : Ty → Bool
  | .s64 | .n64 => true
  | _ => false

/-- n32 and n64. -/
def Ty.plain : Ty → Bool
  | .n32 | .n64 => true
  | _ => false

/-- The integer types s8 to n64. -/
def Ty.isInt : Ty → Bool
  | .s8 | .s16 | .s32 | .s64 | .n8 | .n16 | .n32 | .n64 => true
  | _ => false

/-- The floating-point types a conversion can produce (R121). -/
def Ty.isFloat : Ty → Bool
  | .f64 | .f32 | .bf16 | .f16 | .e4m3 | .e5m2 | .e2m1 => true
  | _ => false

/-- bf16 and f16. -/
def Ty.half : Ty → Bool
  | .bf16 | .f16 => true
  | _ => false

/-- Packed integer element types (R102). -/
def Ty.packed : Ty → Bool
  | .s16 | .n16 | .s8 | .n8 => true
  | _ => false

/-- Elements of a type in one 32-bit lane (R35); 1 for types of 32 and 64 bits. -/
def Ty.count : Ty → Nat
  | .bf16 | .f16 | .s16 | .n16 => 2
  | .e4m3 | .e5m2 | .s8 | .n8 | .e8m0 => 4
  | .e2m1 => 8
  | _ => 1

/-- The level of a scope, from 0 (.thr) to 7 (.pod) (R2, R68). -/
def Scope.level : Scope → Nat
  | .thr => 0
  | .wrp => 1
  | .grp => 2
  | .cls => 3
  | .die => 4
  | .chp => 5
  | .mod => 6
  | .pod => 7

/-- R129: without an order the scope field is 0; with one the scope is wider than .thr. -/
def MForm.orderWf (x : MForm) : Bool :=
  match x.order with
  | .plain => x.scope = .thr
  | _ => x.scope ≠ .thr

/-- A load order: plain or .acq (R128). -/
def Order.loads : Order → Bool
  | .plain | .acq => true
  | _ => false

/-- A store order: plain or .rel (R128). -/
def Order.stores : Order → Bool
  | .plain | .rel => true
  | _ => false

/-- The spaces of atomics and reductions (R128). -/
def Space.atomic : Space → Bool
  | .register => false
  | _ => true

/-- The spaces of ldw and setempty (R128). -/
def Space.window : Space → Bool
  | .generic | .core => true
  | _ => false

/-- Types of the arithmetic atomics (R143). -/
def Ty.atomic : Ty → Bool
  | .s32 | .n32 | .s64 | .n64 | .f32 => true
  | _ => false

/-- A two-operand modifier group has no NC bit (R107). -/
def FMod.two (m : FMod) : Bool := !m.nc

/-- Atomics and reductions: spaces, type set and order set of their row (R128, R143). -/
def MForm.atomicWf (x : MForm) (tys : Bool) (orders : Bool) : Bool :=
  tys && x.space.atomic && orders && x.orderWf

/-- The width in bits that R186 gives a system register; none for a number that its table does not list. -/
def sysWidth (n : BitVec 16) : Option Nat :=
  let n := n.toNat
  if n = 1 then some 64
  else if n = 2 then some 32
  else if 0x10 ≤ n ∧ n ≤ 0x17 then some 64
  else if n = 0x21 then some 32
  else if n = 0x30 then some 32
  else if 0x100 ≤ n ∧ n ≤ 0x13F then some 64
  else if 0x200 ≤ n ∧ n ≤ 0x20F then some 32
  else none

/-- The TYPE of sget and sset equals the register's width (R186). -/
def sysTypeOk (n : BitVec 16) (ty : Ty) : Bool :=
  match sysWidth n, ty with
  | some 32, .n32 => true
  | some 64, .n64 => true
  | _, _ => false

/-- A register that R186 lists as read-only, WDESC aside. -/
def sysReadOnly (n : BitVec 16) : Bool :=
  n.toNat = 0x30 || (0x200 ≤ n.toNat && n.toNat ≤ 0x20F)

/-- Types of a conversion (R121). -/
def CvMod.wf (m : CvMod) (ty : Ty) (src dst : Ty → Bool) (satOk : Bool) : Bool :=
  src m.sty && dst ty && m.sty ≠ ty && (!m.sat || satOk) && m.sidx.val < m.sty.count && m.didx.val < ty.count

/-- The opcodes that the map of R71 assigns. -/
def opAssigned (op : Nat) : Bool :=
  op ≤ 0x0E || (0x20 ≤ op && op ≤ 0x4A) || (0x60 ≤ op && op ≤ 0x6E) || (0x70 ≤ op && op ≤ 0x81) ||
    (0x88 ≤ op && op ≤ 0x8E) || (0xA0 ≤ op && op ≤ 0xA5) || (0xA8 ≤ op && op ≤ 0xBB) ||
    (0xD0 ≤ op && op ≤ 0xDA) || (0xE8 ≤ op && op ≤ 0xF2) || (0xF8 ≤ op && op ≤ 0xFC)

/-- The instructions that have an encoding. Events have none and are always well formed. -/
def Instr.wf : Instr → Bool
  | .wait _ _ _ i => i.tmo < 2 ^ 28
  | .bar _ _ n => n ≤ 64
  | .cbar _ _ n => n ≤ 512
  | .iadd x _ | .isub x _ | .imin x | .imax x => x.ty.int32 || x.ty.int64
  | .imul x | .imulhi x => x.ty.int32
  | .imad x | .imadw x => x.ty.int32
  | .iadd64 x _ | .isub64 x _ | .imul64 x => x.ty.int64
  | .imad64 x => x.ty.int64
  | .shl x | .shr x | .sar x | .sel x _ => x.ty.plain
  | .mix3 x _ | .xlane x _ => x.ty.plain
  | .iabs x _ => x.ty = .s32 || x.ty = .s64
  | .icmp _ ty _ _ _ _ | .icmpi _ ty _ _ _ _ | .movi _ ty _ _ => ty.int32 || ty.int64
  | .popc x | .clz x | .brev x | .mov x => x.ty.plain
  | .bfe x => x.ty.int32
  | .bfi x => x.ty = .n32
  | .iaddp x _ | .isubp x _ | .iminp x | .imaxp x => x.ty.packed
  | .iabsp x _ => x.ty = .s16 || x.ty = .s8
  | .idp4 x _ => x.ty = .s8 || x.ty = .n8
  | .wred x _ | .iaddi x _ | .imuli x _ => x.ty.int32 || x.ty.int64
  | .wext x _ => x.ty = .n32
  | .fadd x m | .fmul x m => x.ty = .f32 && m.two
  | .ffma x _ => x.ty = .f32
  | .fmin x _ _ | .fmax x _ _ => x.ty = .f32
  | .fabs x _ _ => x.ty = .f32 || x.ty = .f64 || x.ty.half
  | .fclass x _ e => (x.ty = .f32 || x.ty.half || x.ty = .e4m3 || x.ty = .e5m2) && e.val < x.ty.count
  | .dadd x m | .dmul x m => x.ty = .f64 && m.two
  | .dfma x _ => x.ty = .f64
  | .dmin x _ _ | .dmax x _ _ => x.ty = .f64
  | .dclass x _ => x.ty = .f64
  | .hadd2 x m | .hmul2 x m => x.ty.half && m.two
  | .hfma2 x _ => x.ty.half
  | .hmin2 x _ _ | .hmax2 x _ _ => x.ty.half
  | .hcmp2 x _ _ => x.ty.half
  | .faddi x _ | .fmuli x _ => x.ty = .f32 || x.ty = .f64
  | .frcp x _ | .frsq x _ | .fsqrt x _ | .fex2 x _ | .flg2 x _ | .fsin x _ | .fcos x _ | .ftanh x _ => x.ty = .f32
  | .dsqrt x _ | .drcp x _ => x.ty = .f64
  | .cvff x m => m.wf x.ty (fun t => t.isFloat || t = .e8m0) Ty.isFloat (x.ty = .e5m2)
  | .cvfi x m => m.wf x.ty Ty.isFloat Ty.isInt false
  | .cvif x m => m.wf x.ty Ty.isInt Ty.isFloat (x.ty = .e5m2)
  | .cvii x m => m.wf x.ty Ty.isInt Ty.isInt true
  | .pkf8 x _ sat => (x.ty = .e4m3 || x.ty = .e5m2) && (!sat || x.ty = .e5m2)
  | .pkf4 x _ _ => x.ty = .e2m1
  | .mxsc x _ _ => x.ty = .e4m3 || x.ty = .e5m2 || x.ty = .e2m1
  | .ld x _ => x.ty.isInt && x.order.loads && x.orderWf
  | .st x => x.ty.isInt && x.order.stores && x.orderWf
  | .ldb x _ => x.ty.plain && x.order.loads && x.orderWf
  | .stb x => x.ty.plain && x.order.stores && x.orderWf
  | .ldw x _ => x.ty.plain && x.space.window && x.order.loads && x.orderWf
  | .setempty x => x.ty = .f32 && x.space.window && x.order = .plain && x.orderWf && x.d = .zero
  | .atadd x _ | .atmin x _ | .atmax x _ => x.atomicWf x.ty.atomic true
  | .atand x _ | .ator x _ | .atxor x _ | .atexch x _ | .atcas x _ _ => x.atomicWf x.ty.plain true
  | .redadd x | .redmin x | .redmax x => x.atomicWf x.ty.atomic x.order.stores
  | .redand x | .redor x | .redxor x => x.atomicWf x.ty.plain x.order.stores
  | .fxadd x => x.atomicWf (x.ty = .f32 || x.ty = .bf16 || x.ty = .s32) x.order.stores
  | .fxrd x _ => x.atomicWf (x.ty = .f32 || x.ty = .f64 || x.ty = .s32 || x.ty = .s64) x.order.loads
  | .nins x _ => x.atomicWf (x.ty = .e2m1) x.order.stores
  | .lock x | .unlock x =>
    x.ty = .f32 && (x.space = .generic || x.space = .global) && x.order = .plain && 2 ≤ x.scope.level && x.d = .zero
  | .fence x =>
    x.ty = .f32 && x.space = .generic && x.order ≠ .plain && 1 ≤ x.scope.level && x.d = .zero && x.a = .zero && x.ofs = 0
  | .mma x | .mmag x _ =>
    x.ty = .f32 || x.ty.half || x.ty = .e4m3 || x.ty = .e5m2 || x.ty = .s8
  | .mmas x => x.ty = .e4m3 || x.ty = .e2m1
  | .sfpush _ ty _ _ _ => ty = .f32 || ty = .e8m0
  | .mmx x _ => x.ty.half
  | .rsub _ s _ _ _ _ | .sweep _ s _ _ _ _ => 4 ≤ s.level
  | .cpost _ s _ _ | .ctok _ s _ _ | .abort _ s _ _ | .cdecl _ s _ _ => 4 ≤ s.level
  | .abortRoot _ s _ | .rfence _ s _ => 4 ≤ s.level
  | .mcst x blk _ =>
    x.ty.isInt && x.space = .global && (x.order = .plain || (x.order = .rel && 2 ≤ x.scope.level)) && x.orderWf &&
      (!blk || x.ty.plain)
  | .byield _ s _ _ _ _ => 2 ≤ s.level
  | .bwakeNow _ s _ _ | .bwakeNext _ s _ _ => 2 ≤ s.level
  | .sget _ ty _ n => sysTypeOk n ty
  | .sset _ ty _ n => sysTypeOk n ty && !sysReadOnly n
  | .clkrd _ ty _ _ => ty.plain
  | .cmdFence s => 2 ≤ s.level
  | .cmdBadOpcode opc => 0x19 ≤ opc.toNat
  | .unassignedOpcode op => !opAssigned op.toNat
  | _ => true

end Sys2Proof
end

