-- ==== Sys2Proof/Decode.lean ====
section
/-! DEFINITION. The decoder and the encoder of instruction words (R66 to R71), clause headers (R53) and engine
command words (R190, R191). A word is read as a natural number with bit 0 its least significant bit. The decoder
reads the fields of a word, and accepts the instruction only when its encoding is that very word: so an unused
operand field that is not 248, a modifier bit that the row does not define and a reserved code are all rejected (R67). -/

namespace Sys2Proof

/-- Why a word is not an instruction. Each is an illegal encoding (R61 steps 1 and 2, R67); for an engine command each is
fault code 1 (R191). -/
inductive DecodeError
  /-- A field holds a code that R67 to R70 or the instruction's rule reserves. -/
  | reservedCode
  /-- TYPE, SPACE, ORDER, SCOPE or a modifier is one that the instruction's row does not accept. -/
  | notAccepted
  /-- An unused operand field is not 248, or an undefined bit is set. -/
  | undefinedBits
deriving DecidableEq, Repr

/-- The `n`-bit field of `w` whose lowest bit is bit `lo` (R6). -/
def fld (w lo n : Nat) : Nat := w / 2 ^ lo % 2 ^ n

/-- A flag as a bit. -/
def bit (x : Bool) : Nat := if x then 1 else 0

/-- Bit `i` of `m` as a flag. -/
def flag (m i : Nat) : Bool := m / 2 ^ i % 2 = 1

/-- The low three bits. -/
def fin3 (n : Nat) : Fin 8 := ⟨n % 8, Nat.mod_lt _ (by decide)⟩

/-- The code of an operand (R19). -/
def Opnd.code : Opnd → Nat
  | .v n => n.val
  | .k n => 192 + n.val
  | .zero => 248
  | .laneid => 249
  | .warpid => 250
  | .ones => 251
  | .bad c => 252 + c.val

/-- The operand of an 8-bit code (R19). -/
def Opnd.ofCode (c : Nat) : Opnd :=
  if h : c < 192 then .v ⟨c, h⟩
  else if h : c < 248 then .k ⟨c - 192, by omega⟩
  else if c = 248 then .zero
  else if c = 249 then .laneid
  else if c = 250 then .warpid
  else if c = 251 then .ones
  else .bad ⟨(c - 252) % 4, Nat.mod_lt _ (by decide)⟩

/-- The TYPE code (R70). -/
def Ty.code : Ty → Nat
  | .f32 => 0 | .f64 => 1 | .bf16 => 2 | .f16 => 3 | .e4m3 => 4 | .e5m2 => 5 | .e2m1 => 6 | .e8m0 => 7
  | .s8 => 8 | .s16 => 9 | .s32 => 10 | .s64 => 11 | .n8 => 12 | .n16 => 13 | .n32 => 14 | .n64 => 15

/-- The type of a 4-bit code (R70). -/
def Ty.ofCode : Nat → Ty
  | 0 => .f32 | 1 => .f64 | 2 => .bf16 | 3 => .f16 | 4 => .e4m3 | 5 => .e5m2 | 6 => .e2m1 | 7 => .e8m0
  | 8 => .s8 | 9 => .s16 | 10 => .s32 | 11 => .s64 | 12 => .n8 | 13 => .n16 | 14 => .n32 | _ => .n64

/-- The rounding code (R38). -/
def Rnd.code : Rnd → Nat
  | .rn => 0 | .rz => 1 | .rp => 2 | .rm => 3

/-- The rounding code in the low two bits of a modifier field (R107). -/
def Rnd.ofCode (m : Nat) : Rnd :=
  match m % 4 with
  | 0 => .rn | 1 => .rz | 2 => .rp | _ => .rm

/-- The scope in the low three bits (R68, R174). -/
def Scope.ofCode (m : Nat) : Scope :=
  match m % 8 with
  | 0 => .thr | 1 => .wrp | 2 => .grp | 3 => .cls | 4 => .die | 5 => .chp | 6 => .mod | _ => .pod

/-- The ORDER code (R68). -/
def Order.code : Order → Nat
  | .plain => 0 | .acq => 1 | .rel => 2 | .ar => 3

/-- The order of a 2-bit code (R68). -/
def Order.ofCode : Nat → Order
  | 0 => .plain | 1 => .acq | 2 => .rel | _ => .ar

/-- The SPACE code (R68). -/
def Space.code : Space → Nat
  | .generic => 0 | .global => 1 | .core => 2 | .cluster => 3 | .register => 4

/-- The space of a 3-bit code; codes 5 to 7 are reserved (R68). -/
def Space.ofCode : Nat → Option Space
  | 0 => some .generic | 1 => some .global | 2 => some .core | 3 => some .cluster | 4 => some .register | _ => none

/-- The condition code of icmp (R100). -/
def ICond.code : ICond → Nat
  | .eq => 0 | .ne => 1 | .lt => 2 | .le => 3 | .gt => 4 | .ge => 5

/-- The condition of a code; 6 and above are illegal (R100). -/
def ICond.ofCode : Nat → Option ICond
  | 0 => some .eq | 1 => some .ne | 2 => some .lt | 3 => some .le | 4 => some .gt | 5 => some .ge | _ => none

/-- The condition code of fcmp, dcmp and hcmp2 (R114). -/
def FCond.code : FCond → Nat
  | .eq => 0 | .ne => 1 | .lt => 2 | .le => 3 | .gt => 4 | .ge => 5 | .ord => 6 | .uno => 7
  | .ltu => 8 | .leu => 9 | .gtu => 10 | .geu => 11

/-- The condition of a code; 12 to 15 are illegal (R114). -/
def FCond.ofCode : Nat → Option FCond
  | 0 => some .eq | 1 => some .ne | 2 => some .lt | 3 => some .le | 4 => some .gt | 5 => some .ge | 6 => some .ord
  | 7 => some .uno | 8 => some .ltu | 9 => some .leu | 10 => some .gtu | 11 => some .geu | _ => none

/-- The comparison code of R91. -/
def MCond.code : MCond → Nat
  | .eq => 0 | .ne => 1 | .ltu => 2 | .geu => 3 | .lts => 4 | .ges => 5

/-- The comparison of a code; 6 and 7 are reserved (R91, R191). -/
def MCond.ofCode : Nat → Option MCond
  | 0 => some .eq | 1 => some .ne | 2 => some .ltu | 3 => some .geu | 4 => some .lts | 5 => some .ges | _ => none

/-- The mode code of xlane (R104). -/
def XMode.code : XMode → Nat
  | .sel => 0 | .off => 1 | .rot => 2 | .fly => 3

/-- The mode of xlane in the low two bits (R104). -/
def XMode.ofCode (m : Nat) : XMode :=
  match m % 4 with
  | 0 => .sel | 1 => .off | 2 => .rot | _ => .fly

/-- The mode code of wext (R97). -/
def WMode.code : WMode → Nat
  | .lo => 0 | .hi => 1 | .rot => 2

/-- The mode of wext; code 3 is illegal (R97). -/
def WMode.ofCode : Nat → Option WMode
  | 0 => some .lo | 1 => some .hi | 2 => some .rot | _ => none

/-- The operation code of wred (R106). -/
def RedOp.code : RedOp → Nat
  | .add => 0 | .min => 1 | .max => 2 | .and => 3 | .or => 4 | .xor => 5

/-- The operation of wred; codes 6 and 7 are illegal (R106). -/
def RedOp.ofCode : Nat → Option RedOp
  | 0 => some .add | 1 => some .min | 2 => some .max | 3 => some .and | 4 => some .or | 5 => some .xor | _ => none

/-- The mode of lpoll with its destination, a predicate field or an operand code; modes 6 and 7 are illegal (R105). -/
def PollForm.ofMode (m : Nat) (pd : Fin 8) (d : Opnd) : Option PollForm :=
  match m with
  | 0 => Option.some (.every pd) | 1 => Option.some (.some pd) | 2 => Option.some (.same pd)
  | 3 => Option.some (.mask d) | 4 => Option.some (.count d) | 5 => Option.some (.first d) | _ => none

/-- The axis code of tcon8 (R166). -/
def Axis.code : Axis → Nat
  | .x => 0 | .y => 1 | .z => 2

/-- The axis of a code; code 3 is reserved (R166). -/
def Axis.ofCode : Nat → Option Axis
  | 0 => some .x | 1 => some .y | 2 => some .z | _ => none

/-- RND, NA, NB and NC of R107, counted from bit 48. -/
def FMod.code (m : FMod) : Nat := m.rnd.code + 8 * bit m.na + 16 * bit m.nb + 32 * bit m.nc

/-- The modifier group of an arithmetic instruction (R107). -/
def FMod.ofCode (m : Nat) : FMod := ⟨Rnd.ofCode m, flag m 3, flag m 4, flag m 5⟩

/-- RND, SAT, STYPE, SIDX and DIDX of R107, counted from bit 48. -/
def CvMod.code (m : CvMod) : Nat :=
  m.rnd.code + 4 * bit m.sat + 16 * m.sty.code + 256 * m.sidx.val + 2048 * m.didx.val

/-- The modifier group of a conversion (R107). -/
def CvMod.ofCode (m : Nat) : CvMod :=
  ⟨Rnd.ofCode m, Ty.ofCode (m / 16 % 16), fin3 (m / 256), fin3 (m / 2048), flag m 2⟩

/-- The convergence check of R156: CVE in bit 15 and CVN in bits 14:12 of the modifier field. -/
def cvCode : Option (Fin 8) → Nat
  | none => 0
  | some n => 32768 + 4096 * n.val

/-- The convergence check of a modifier field (R156). -/
def cvOf (m : Nat) : Option (Fin 8) := if flag m 15 then some (fin3 (m / 4096)) else none

/-- The tile of a modifier field (R166). -/
def tile (m : Nat) : Fin 64 := ⟨m / 4 % 64, Nat.mod_lt _ (by decide)⟩

/-- MMOD of a returning atomic: a named slot, or any (R128). -/
def slotCode : Option (Fin 8) → Nat
  | none => 0
  | some n => 8 + n.val

/-- The slot of an MMOD field (R128). -/
def slotOf (mm : Nat) : Option (Fin 8) := if flag mm 3 then some (fin3 mm) else none

/-- PRED and NEG of F-R and F-M (R66, R68). -/
def guardR (w : Nat) : Guard := ⟨flag (fld w 43 1) 0, fin3 (fld w 40 3)⟩

/-- PRED and NEG of F-I and F-B (R66, R69). -/
def guardI (w : Nat) : Guard := ⟨flag (fld w 31 1) 0, fin3 (fld w 28 3)⟩

/-- A word of format F-R (R66). -/
def frWord (op d a b c : Nat) (g : Guard) (ty mod : Nat) : Nat :=
  op + 2 ^ 8 * d + 2 ^ 16 * a + 2 ^ 24 * b + 2 ^ 32 * c + 2 ^ 40 * g.pred.val + 2 ^ 43 * bit g.neg + 2 ^ 44 * ty + 2 ^ 48 * mod

/-- A word of format F-I or F-B (R66, R69). -/
def fiWord (op d a : Nat) (g : Guard) (ty imm : Nat) : Nat :=
  op + 2 ^ 8 * d + 2 ^ 16 * a + 2 ^ 24 * ty + 2 ^ 28 * g.pred.val + 2 ^ 31 * bit g.neg + 2 ^ 32 * imm

/-- A word of format F-M (R68). -/
def mWord (op b mmod : Nat) (x : MForm) : Nat :=
  op + 2 ^ 8 * x.d.code + 2 ^ 16 * x.a.code + 2 ^ 24 * b + 2 ^ 32 * x.space.code + 2 ^ 35 * x.scope.level +
    2 ^ 38 * x.order.code + 2 ^ 40 * x.g.pred.val + 2 ^ 43 * bit x.g.neg + 2 ^ 44 * x.ty.code + 2 ^ 48 * mmod +
    2 ^ 52 * x.ofs.toNat

/-- The two doubles of an engine command: header and operand X (R190). -/
def cmdWords (opc fa fb fc flags imm x : Nat) : List Nat :=
  [opc + 2 ^ 12 * fa + 2 ^ 16 * fb + 2 ^ 20 * fc + 2 ^ 24 * flags + 2 ^ 32 * imm, x]

/-- The common fields of a memory instruction (R68). -/
def mf (w : Nat) : Option MForm :=
  (Space.ofCode (fld w 32 3)).map fun space =>
    { g := guardR w, ty := Ty.ofCode (fld w 44 4), ofs := BitVec.ofNat 12 (fld w 52 12), a := Opnd.ofCode (fld w 16 8),
      d := Opnd.ofCode (fld w 8 8), order := Order.ofCode (fld w 38 2), scope := Scope.ofCode (fld w 35 3), space }

/-- Opcodes 0x00 to 0x0F of R71. -/
def rawControl (w op : Nat) : Option Instr :=
  let g := guardR w
  let gi := guardI w
  let tyI := fld w 24 4
  let m := fld w 48 16
  let immN := fld w 32 32
  let imm := BitVec.ofNat 32 (fld w 32 32)
  let d := Opnd.ofCode (fld w 8 8)
  let a := Opnd.ofCode (fld w 16 8)
  match op with
  | 0x00 => some (.nop g)
  | 0x01 => some (.bra gi imm)
  | 0x02 => some (.brx gi a imm)
  | 0x03 => some (.call gi d imm)
  | 0x04 => some (.callx gi d a imm)
  | 0x05 => some (.ret gi a)
  | 0x06 => some (.exit g)
  | 0x07 => some (.meet gi (if tyI % 2 = 1 then .reg a else .direct imm) d)
  | 0x08 => some (.sign g (fin3 m))
  | 0x09 => some (.wait gi d a ⟨immN / 16, immN / 8 % 2 = 1, ⟨immN / 2 % 4, Nat.mod_lt _ (by decide)⟩⟩)
  | 0x0A => some (.bar gi ⟨immN % 16, Nat.mod_lt _ (by decide)⟩ (immN / 256 % 1024))
  | 0x0B => some (.cbar gi ⟨immN % 16, Nat.mod_lt _ (by decide)⟩ (immN / 256 % 1024))
  | 0x0C => some (.yield g)
  | 0x0D => some (.trap gi imm)
  | 0x0E => some (.cvset g (fin3 m) a)
  | _ => none

/-- Opcodes 0x20 to 0x2F of R71. -/
def rawInteger (w op : Nat) : Option Instr :=
  let g := guardR w
  let ty := Ty.ofCode (fld w 44 4)
  let m := fld w 48 16
  let d := Opnd.ofCode (fld w 8 8)
  let a := Opnd.ofCode (fld w 16 8)
  let b := Opnd.ofCode (fld w 24 8)
  let c := Opnd.ofCode (fld w 32 8)
  match op with
  | 0x20 => some (.iadd ⟨g, ty, d, a, b⟩ (flag m 0))
  | 0x21 => some (.isub ⟨g, ty, d, a, b⟩ (flag m 0))
  | 0x22 => some (.imul ⟨g, ty, d, a, b⟩)
  | 0x23 => some (.imulhi ⟨g, ty, d, a, b⟩)
  | 0x24 => some (.imad ⟨g, ty, d, a, b, c⟩)
  | 0x25 => some (.imadw ⟨g, ty, d, a, b, c⟩)
  | 0x26 => some (.iadd64 ⟨g, ty, d, a, b⟩ (flag m 0))
  | 0x27 => some (.isub64 ⟨g, ty, d, a, b⟩ (flag m 0))
  | 0x28 => some (.imul64 ⟨g, ty, d, a, b⟩)
  | 0x29 => some (.imad64 ⟨g, ty, d, a, b, c⟩)
  | 0x2A => some (.shl ⟨g, ty, d, a, b⟩)
  | 0x2B => some (.shr ⟨g, ty, d, a, b⟩)
  | 0x2C => some (.sar ⟨g, ty, d, a, b⟩)
  | 0x2D => some (.mix3 ⟨g, ty, d, a, b, c⟩ (BitVec.ofNat 8 m))
  | 0x2E => some (.imin ⟨g, ty, d, a, b⟩)
  | 0x2F => some (.imax ⟨g, ty, d, a, b⟩)
  | _ => none

/-- Opcodes 0x30 to 0x3F of R71. -/
def rawLogic (w op : Nat) : Option Instr :=
  let g := guardR w
  let gi := guardI w
  let ty := Ty.ofCode (fld w 44 4)
  let tyi := Ty.ofCode (fld w 24 4)
  let m := fld w 48 16
  let imm := BitVec.ofNat 32 (fld w 32 32)
  let dN := fld w 8 8
  let cN := fld w 32 8
  let d := Opnd.ofCode (fld w 8 8)
  let a := Opnd.ofCode (fld w 16 8)
  let b := Opnd.ofCode (fld w 24 8)
  let c := Opnd.ofCode (fld w 32 8)
  match op with
  | 0x30 => some (.iabs ⟨g, ty, d, a⟩ (flag m 0))
  | 0x31 => (ICond.ofCode (dN / 8)).map fun cc => .icmp g ty (fin3 dN) cc a b
  | 0x32 => some (.sel ⟨g, ty, d, a, b⟩ (fin3 cN))
  | 0x33 => some (.popc ⟨g, ty, d, a⟩)
  | 0x34 => some (.clz ⟨g, ty, d, a⟩)
  | 0x35 => some (.brev ⟨g, ty, d, a⟩)
  | 0x36 => some (.bfe ⟨g, ty, d, a, b⟩)
  | 0x37 => some (.bfi ⟨g, ty, d, a, b, c⟩)
  | 0x38 => some (.iaddp ⟨g, ty, d, a, b⟩ (flag m 0))
  | 0x39 => some (.isubp ⟨g, ty, d, a, b⟩ (flag m 0))
  | 0x3A => some (.iminp ⟨g, ty, d, a, b⟩)
  | 0x3B => some (.imaxp ⟨g, ty, d, a, b⟩)
  | 0x3C => some (.iabsp ⟨g, ty, d, a⟩ (flag m 0))
  | 0x3D => some (.idp4 ⟨g, ty, d, a, b, c⟩ (flag m 0))
  | 0x3E => some (.mov ⟨g, ty, d, a⟩)
  | 0x3F => some (.movi gi tyi d imm)
  | _ => none

/-- Opcodes 0x40 to 0x4F of R71. -/
def rawLane (w op : Nat) : Option Instr :=
  let g := guardR w
  let gi := guardI w
  let ty := Ty.ofCode (fld w 44 4)
  let tyi := Ty.ofCode (fld w 24 4)
  let tyI := fld w 24 4
  let m := fld w 48 16
  let imm := BitVec.ofNat 32 (fld w 32 32)
  let dN := fld w 8 8
  let aN := fld w 16 8
  let bN := fld w 24 8
  let cN := fld w 32 8
  let d := Opnd.ofCode (fld w 8 8)
  let a := Opnd.ofCode (fld w 16 8)
  let b := Opnd.ofCode (fld w 24 8)
  let c := Opnd.ofCode (fld w 32 8)
  match op with
  | 0x40 => some (.xlane ⟨g, ty, d, a, b, c⟩ (XMode.ofCode m))
  | 0x41 => (PollForm.ofMode m (fin3 dN) d).map fun f => .lpoll g f (fin3 aN)
  | 0x42 => (RedOp.ofCode m).map fun op => .wred ⟨g, ty, d, a⟩ op
  | 0x43 => some (.pmix3 g (fin3 dN) (fin3 aN) (fin3 bN) (fin3 cN) (BitVec.ofNat 8 m))
  | 0x44 => some (.pget g d)
  | 0x45 => some (.pset g (BitVec.ofNat 7 m) a)
  | 0x46 => (WMode.ofCode m).map fun mode => .wext ⟨g, ty, d, a, b, c⟩ mode
  | 0x47 => some (.iaddi ⟨gi, tyi, d, a⟩ imm)
  | 0x48 => some (.imuli ⟨gi, tyi, d, a⟩ imm)
  | 0x49 => (ICond.ofCode (dN / 8)).map fun cc => .icmpi gi tyi (fin3 dN) cc a imm
  | 0x4A => some (.mixi gi (BitVec.ofNat 4 tyI) d a imm)
  | _ => none

/-- Opcodes 0x60 to 0x6F of R71. -/
def rawFloat (w op : Nat) : Option Instr :=
  let g := guardR w
  let ty := Ty.ofCode (fld w 44 4)
  let m := fld w 48 16
  let dN := fld w 8 8
  let d := Opnd.ofCode (fld w 8 8)
  let a := Opnd.ofCode (fld w 16 8)
  let b := Opnd.ofCode (fld w 24 8)
  let c := Opnd.ofCode (fld w 32 8)
  match op with
  | 0x60 => some (.fadd ⟨g, ty, d, a, b⟩ (FMod.ofCode m))
  | 0x61 => some (.fmul ⟨g, ty, d, a, b⟩ (FMod.ofCode m))
  | 0x62 => some (.ffma ⟨g, ty, d, a, b, c⟩ (FMod.ofCode m))
  | 0x63 => some (.fmin ⟨g, ty, d, a, b⟩ (Rnd.ofCode m) (flag m 2))
  | 0x64 => some (.fmax ⟨g, ty, d, a, b⟩ (Rnd.ofCode m) (flag m 2))
  | 0x65 => (FCond.ofCode (dN / 8 % 16)).map fun cc => .fcmp g (fin3 dN) cc a b (Rnd.ofCode m)
  | 0x66 => some (.fabs ⟨g, ty, d, a⟩ (Rnd.ofCode m) (flag m 3))
  | 0x67 => some (.fclass ⟨g, ty, d, a⟩ (Rnd.ofCode m) (fin3 (m / 4)))
  | 0x68 => some (.dadd ⟨g, ty, d, a, b⟩ (FMod.ofCode m))
  | 0x69 => some (.dmul ⟨g, ty, d, a, b⟩ (FMod.ofCode m))
  | 0x6A => some (.dfma ⟨g, ty, d, a, b, c⟩ (FMod.ofCode m))
  | 0x6B => some (.dmin ⟨g, ty, d, a, b⟩ (Rnd.ofCode m) (flag m 2))
  | 0x6C => some (.dmax ⟨g, ty, d, a, b⟩ (Rnd.ofCode m) (flag m 2))
  | 0x6D => (FCond.ofCode (dN / 8 % 16)).map fun cc => .dcmp g (fin3 dN) cc a b (Rnd.ofCode m)
  | 0x6E => some (.dclass ⟨g, ty, d, a⟩ (Rnd.ofCode m))
  | _ => none

/-- Opcodes 0x70 to 0x8F of R71. -/
def rawHalf (w op : Nat) : Option Instr :=
  let g := guardR w
  let gi := guardI w
  let ty := Ty.ofCode (fld w 44 4)
  let tyi := Ty.ofCode (fld w 24 4)
  let m := fld w 48 16
  let imm := BitVec.ofNat 32 (fld w 32 32)
  let d := Opnd.ofCode (fld w 8 8)
  let a := Opnd.ofCode (fld w 16 8)
  let b := Opnd.ofCode (fld w 24 8)
  let c := Opnd.ofCode (fld w 32 8)
  match op with
  | 0x70 => some (.hadd2 ⟨g, ty, d, a, b⟩ (FMod.ofCode m))
  | 0x71 => some (.hmul2 ⟨g, ty, d, a, b⟩ (FMod.ofCode m))
  | 0x72 => some (.hfma2 ⟨g, ty, d, a, b, c⟩ (FMod.ofCode m))
  | 0x73 => some (.hmin2 ⟨g, ty, d, a, b⟩ (Rnd.ofCode m) (flag m 2))
  | 0x74 => some (.hmax2 ⟨g, ty, d, a, b⟩ (Rnd.ofCode m) (flag m 2))
  | 0x75 => (FCond.ofCode (m / 16 % 16)).map fun cc => .hcmp2 ⟨g, ty, d, a, b⟩ (Rnd.ofCode m) cc
  | 0x76 => some (.faddi ⟨gi, tyi, d, a⟩ imm)
  | 0x77 => some (.fmuli ⟨gi, tyi, d, a⟩ imm)
  | 0x78 => some (.frcp ⟨g, ty, d, a⟩ (Rnd.ofCode m))
  | 0x79 => some (.frsq ⟨g, ty, d, a⟩ (Rnd.ofCode m))
  | 0x7A => some (.fsqrt ⟨g, ty, d, a⟩ (Rnd.ofCode m))
  | 0x7B => some (.fex2 ⟨g, ty, d, a⟩ (Rnd.ofCode m))
  | 0x7C => some (.flg2 ⟨g, ty, d, a⟩ (Rnd.ofCode m))
  | 0x7D => some (.fsin ⟨g, ty, d, a⟩ (Rnd.ofCode m))
  | 0x7E => some (.fcos ⟨g, ty, d, a⟩ (Rnd.ofCode m))
  | 0x7F => some (.ftanh ⟨g, ty, d, a⟩ (Rnd.ofCode m))
  | 0x80 => some (.dsqrt ⟨g, ty, d, a⟩ (Rnd.ofCode m))
  | 0x81 => some (.drcp ⟨g, ty, d, a⟩ (Rnd.ofCode m))
  | 0x88 => some (.cvff ⟨g, ty, d, a⟩ (CvMod.ofCode m))
  | 0x89 => some (.cvfi ⟨g, ty, d, a⟩ (CvMod.ofCode m))
  | 0x8A => some (.cvif ⟨g, ty, d, a⟩ (CvMod.ofCode m))
  | 0x8B => some (.cvii ⟨g, ty, d, a⟩ (CvMod.ofCode m))
  | 0x8C => some (.pkf8 ⟨g, ty, d, a, b⟩ (Rnd.ofCode m) (flag m 2))
  | 0x8D => some (.pkf4 ⟨g, ty, d, a, b⟩ (Rnd.ofCode m) (fin3 (m / 4)))
  | 0x8E => some (.mxsc ⟨g, ty, d, a⟩ (Rnd.ofCode m) (flag m 2))
  | _ => none

/-- Opcodes 0xA0 to 0xAF of R71. -/
def rawMemory (w op : Nat) : Option Instr :=
  let mm := fld w 48 4
  let b := Opnd.ofCode (fld w 24 8)
  match op with
  | 0xA0 => (mf w).map fun x => .ld x (flag mm 0)
  | 0xA1 => (mf w).map fun x => .st x
  | 0xA2 => (mf w).map fun x => .ldb x (flag mm 0)
  | 0xA3 => (mf w).map fun x => .stb x
  | 0xA4 => (mf w).map fun x => .ldw x (flag mm 0)
  | 0xA5 => (mf w).map fun x => .setempty x
  | 0xA8 => (mf w).map fun x => .atadd x (slotOf mm)
  | 0xA9 => (mf w).map fun x => .atmin x (slotOf mm)
  | 0xAA => (mf w).map fun x => .atmax x (slotOf mm)
  | 0xAB => (mf w).map fun x => .atand x (slotOf mm)
  | 0xAC => (mf w).map fun x => .ator x (slotOf mm)
  | 0xAD => (mf w).map fun x => .atxor x (slotOf mm)
  | 0xAE => (mf w).map fun x => .atexch x (slotOf mm)
  | 0xAF => (mf w).map fun x => .atcas x (slotOf mm) b
  | _ => none

/-- Opcodes 0xB0 to 0xBF of R71. -/
def rawReduce (w op : Nat) : Option Instr :=
  let mm := fld w 48 4
  let b := Opnd.ofCode (fld w 24 8)
  match op with
  | 0xB0 => (mf w).map fun x => .redadd x
  | 0xB1 => (mf w).map fun x => .redmin x
  | 0xB2 => (mf w).map fun x => .redmax x
  | 0xB3 => (mf w).map fun x => .redand x
  | 0xB4 => (mf w).map fun x => .redor x
  | 0xB5 => (mf w).map fun x => .redxor x
  | 0xB6 => (mf w).map fun x => .fxadd x
  | 0xB7 => (mf w).map fun x => .fxrd x (Rnd.ofCode mm)
  | 0xB8 => (mf w).map fun x => .nins x b
  | 0xB9 => (mf w).map fun x => .lock x
  | 0xBA => (mf w).map fun x => .unlock x
  | 0xBB => (mf w).map fun x => .fence x
  | _ => none

/-- Opcodes 0xD0 to 0xDF of R71. -/
def rawMatrix (w op : Nat) : Option Instr :=
  let g := guardR w
  let gi := guardI w
  let ty := Ty.ofCode (fld w 44 4)
  let m := fld w 48 16
  let imm := BitVec.ofNat 32 (fld w 32 32)
  let d := Opnd.ofCode (fld w 8 8)
  let a := Opnd.ofCode (fld w 16 8)
  let b := Opnd.ofCode (fld w 24 8)
  let c := Opnd.ofCode (fld w 32 8)
  match op with
  | 0xD0 => some (.mma ⟨g, ty, a, b, tile m, flag m 11, cvOf m⟩)
  | 0xD1 => some (.mmag ⟨g, ty, a, b, tile m, flag m 11, cvOf m⟩ c)
  | 0xD2 => some (.mmas ⟨g, ty, a, b, tile m, flag m 11, cvOf m⟩)
  | 0xD3 => some (if flag m 1 then .sfpushFlush g else .sfpush g ty a (flag m 0) (cvOf m))
  | 0xD4 => some (.mmx ⟨g, ty, a, b, tile m, flag m 11, cvOf m⟩ (flag m 0))
  | 0xD5 => some (.aalloc gi d imm)
  | 0xD6 => some (.afree gi imm)
  | 0xD7 => some (.acqa gi a imm)
  | 0xD8 => some (.rela gi imm)
  | 0xD9 => some (.amv g (match m / 1024 % 4 with | 0 => .a2v d | 1 => .v2a a | 2 => .a2c a | _ => .c2a a) b (tile m) (cvOf m))
  | 0xDA => (Axis.ofCode (m / 256 % 4)).map fun ax => .tcon8 g a b c ax (flag m 10) (flag m 11) (cvOf m)
  | _ => none

/-- Opcodes 0xE8 to 0xFF of R71. -/
def rawEngine (w op : Nat) : Option Instr :=
  let g := guardR w
  let gi := guardI w
  let ty := Ty.ofCode (fld w 44 4)
  let tyi := Ty.ofCode (fld w 24 4)
  let m := fld w 48 16
  let mm := fld w 48 4
  let immN := fld w 32 32
  let d := Opnd.ofCode (fld w 8 8)
  let a := Opnd.ofCode (fld w 16 8)
  let b := Opnd.ofCode (fld w 24 8)
  let c := Opnd.ofCode (fld w 32 8)
  match op with
  | 0xE8 => some (.rsub g (Scope.ofCode m) d a b c)
  | 0xE9 => some (.cpost g (Scope.ofCode m) a b)
  | 0xEA => some (.ctok g (Scope.ofCode m) a b)
  | 0xEB => some (if flag m 3 then .abortRoot g (Scope.ofCode m) a else .abort g (Scope.ofCode m) a b)
  | 0xEC => (mf w).map fun x => .mcst x (flag mm 0) b
  | 0xED => some (.rfence g (Scope.ofCode m) a)
  | 0xEE => some (.cdecl g (Scope.ofCode m) a b)
  | 0xEF => some (.sweep g (Scope.ofCode m) d a b c)
  | 0xF0 => some (.byield g (Scope.ofCode m) (flag m 3) a b c)
  | 0xF1 => some (if flag m 3 then .bwakeNext g (Scope.ofCode m) a b else .bwakeNow g (Scope.ofCode m) a b)
  | 0xF2 => some (.bstate g d a b)
  | 0xF8 => some (.sget gi tyi d (BitVec.ofNat 16 immN))
  | 0xF9 => some (.sset gi tyi a (BitVec.ofNat 16 immN))
  | 0xFA => some (.tret g)
  | 0xFB => some (.clkrd g ty d (flag m 0))
  | 0xFC => some (.preempt g d)
  | _ => none

/-- The fields of an instruction word, read under the form of its opcode. -/
def rawInstr (w : Nat) : Option Instr :=
  let op := fld w 0 8
  match op / 16 with
  | 0x0 => rawControl w op
  | 0x2 => rawInteger w op
  | 0x3 => rawLogic w op
  | 0x4 => rawLane w op
  | 0x6 => rawFloat w op
  | 0x7 => rawHalf w op
  | 0x8 => rawHalf w op
  | 0xA => rawMemory w op
  | 0xB => rawReduce w op
  | 0xD => rawMatrix w op
  | 0xE => rawEngine w op
  | 0xF => rawEngine w op
  | _ => none

/-- The fields of an engine command with header `h` and operand `xN` (R190, R191). -/
def rawCommand (h xN : Nat) : Option Instr :=
  let opc := fld h 0 8
  let fa : Fin 16 := ⟨fld h 12 4, Nat.mod_lt _ (by decide)⟩
  let fb : Fin 16 := ⟨fld h 16 4, Nat.mod_lt _ (by decide)⟩
  let fc : Fin 16 := ⟨fld h 20 4, Nat.mod_lt _ (by decide)⟩
  let fl := fld h 24 8
  let imm := BitVec.ofNat 32 (fld h 32 32)
  let x := BitVec.ofNat 64 xN
  match opc with
  | 0x00 => some (.cmdNop)
  | 0x01 => some (.cmdSeti fa x)
  | 0x02 => some (.cmdAddi fa fb x)
  | 0x03 => some (.cmdAdd fa fb fc imm)
  | 0x04 => some (.cmdMad fa fb fc x)
  | 0x05 => some (.cmdLdg fa fb x)
  | 0x06 => some (.cmdStg fa fb x (flag fl 0))
  | 0x07 => some (.cmdAtom fa fb x)
  | 0x08 => some (.cmdMove fa fb imm)
  | 0x09 => some (.cmdPush fa fb fc)
  | 0x0A => some (.cmdPushmc fa fb fc imm)
  | 0x0B => some (.cmdStep fa fb)
  | 0x0C => some (.cmdRed fa fb imm (BitVec.ofNat 8 xN) (flag xN 8))
  | 0x0D => some (.cmdSum fa fb fc imm (flag fl 0))
  | 0x0E => some (.cmdSig fa imm)
  | 0x0F => some (.cmdTok imm (BitVec.ofNat 10 xN))
  | 0x10 => some (.cmdWtok imm (flag fl 0) (BitVec.ofNat 28 xN))
  | 0x11 => some (.cmdWbar fa (flag fl 0) (BitVec.ofNat 28 xN))
  | 0x12 => (MCond.ofCode (fl % 8)).map fun cmp => .cmdWmem fa fb cmp (flag fl 3) (BitVec.ofNat 28 xN)
  | 0x13 => some (.cmdBr imm)
  | 0x14 => (MCond.ofCode (fl % 8)).map fun cmp => .cmdBrc fa fb cmp imm
  | 0x15 => some (.cmdLoop fa imm)
  | 0x16 => some (.cmdFence (Scope.ofCode fl))
  | 0x17 => some (.cmdChunk)
  | 0x18 => some (.cmdEnd)
  | _ => some (.cmdBadOpcode (BitVec.ofNat 8 opc))

/-- The words of a well-formed instruction: one of 64 bits, two for an engine command, none for an event. -/
def encode : Instr → List Nat
  | .nop g => [frWord 0x00 Opnd.zero.code Opnd.zero.code Opnd.zero.code Opnd.zero.code g 0 0]
  | .bra g disp => [fiWord 0x01 Opnd.zero.code Opnd.zero.code g 0 disp.toNat]
  | .brx g a disp => [fiWord 0x02 Opnd.zero.code a.code g 0 disp.toNat]
  | .call g d disp => [fiWord 0x03 d.code Opnd.zero.code g 0 disp.toNat]
  | .callx g d a disp => [fiWord 0x04 d.code a.code g 0 disp.toNat]
  | .ret g a => [fiWord 0x05 Opnd.zero.code a.code g 0 0]
  | .exit g => [frWord 0x06 Opnd.zero.code Opnd.zero.code Opnd.zero.code Opnd.zero.code g 0 0]
  | .meet g (.direct disp) d => [fiWord 0x07 d.code Opnd.zero.code g 0 disp.toNat]
  | .meet g (.reg a) d => [fiWord 0x07 d.code a.code g 1 0]
  | .sign g n => [frWord 0x08 Opnd.zero.code Opnd.zero.code Opnd.zero.code Opnd.zero.code g 0 n.val]
  | .wait g d a i => [fiWord 0x09 d.code a.code g 0 (2 * i.cnt.val + 8 * bit i.all + 16 * i.tmo)]
  | .bar g id n => [fiWord 0x0A Opnd.zero.code Opnd.zero.code g 0 (id.val + 256 * n)]
  | .cbar g id n => [fiWord 0x0B Opnd.zero.code Opnd.zero.code g 0 (id.val + 256 * n)]
  | .yield g => [frWord 0x0C Opnd.zero.code Opnd.zero.code Opnd.zero.code Opnd.zero.code g 0 0]
  | .trap g code => [fiWord 0x0D Opnd.zero.code Opnd.zero.code g 0 code.toNat]
  | .cvset g n a => [frWord 0x0E Opnd.zero.code a.code Opnd.zero.code Opnd.zero.code g 0 n.val]
  | .iadd x sat => [frWord 0x20 x.d.code x.a.code x.b.code Opnd.zero.code x.g x.ty.code (bit sat)]
  | .isub x sat => [frWord 0x21 x.d.code x.a.code x.b.code Opnd.zero.code x.g x.ty.code (bit sat)]
  | .imul x => [frWord 0x22 x.d.code x.a.code x.b.code Opnd.zero.code x.g x.ty.code 0]
  | .imulhi x => [frWord 0x23 x.d.code x.a.code x.b.code Opnd.zero.code x.g x.ty.code 0]
  | .imad x => [frWord 0x24 x.d.code x.a.code x.b.code x.c.code x.g x.ty.code 0]
  | .imadw x => [frWord 0x25 x.d.code x.a.code x.b.code x.c.code x.g x.ty.code 0]
  | .iadd64 x sat => [frWord 0x26 x.d.code x.a.code x.b.code Opnd.zero.code x.g x.ty.code (bit sat)]
  | .isub64 x sat => [frWord 0x27 x.d.code x.a.code x.b.code Opnd.zero.code x.g x.ty.code (bit sat)]
  | .imul64 x => [frWord 0x28 x.d.code x.a.code x.b.code Opnd.zero.code x.g x.ty.code 0]
  | .imad64 x => [frWord 0x29 x.d.code x.a.code x.b.code x.c.code x.g x.ty.code 0]
  | .shl x => [frWord 0x2A x.d.code x.a.code x.b.code Opnd.zero.code x.g x.ty.code 0]
  | .shr x => [frWord 0x2B x.d.code x.a.code x.b.code Opnd.zero.code x.g x.ty.code 0]
  | .sar x => [frWord 0x2C x.d.code x.a.code x.b.code Opnd.zero.code x.g x.ty.code 0]
  | .mix3 x t => [frWord 0x2D x.d.code x.a.code x.b.code x.c.code x.g x.ty.code t.toNat]
  | .imin x => [frWord 0x2E x.d.code x.a.code x.b.code Opnd.zero.code x.g x.ty.code 0]
  | .imax x => [frWord 0x2F x.d.code x.a.code x.b.code Opnd.zero.code x.g x.ty.code 0]
  | .iabs x sat => [frWord 0x30 x.d.code x.a.code Opnd.zero.code Opnd.zero.code x.g x.ty.code (bit sat)]
  | .icmp g ty pd cc a b => [frWord 0x31 (pd.val + 8 * cc.code) a.code b.code Opnd.zero.code g ty.code 0]
  | .sel x pc => [frWord 0x32 x.d.code x.a.code x.b.code pc.val x.g x.ty.code 0]
  | .popc x => [frWord 0x33 x.d.code x.a.code Opnd.zero.code Opnd.zero.code x.g x.ty.code 0]
  | .clz x => [frWord 0x34 x.d.code x.a.code Opnd.zero.code Opnd.zero.code x.g x.ty.code 0]
  | .brev x => [frWord 0x35 x.d.code x.a.code Opnd.zero.code Opnd.zero.code x.g x.ty.code 0]
  | .bfe x => [frWord 0x36 x.d.code x.a.code x.b.code Opnd.zero.code x.g x.ty.code 0]
  | .bfi x => [frWord 0x37 x.d.code x.a.code x.b.code x.c.code x.g x.ty.code 0]
  | .iaddp x sat => [frWord 0x38 x.d.code x.a.code x.b.code Opnd.zero.code x.g x.ty.code (bit sat)]
  | .isubp x sat => [frWord 0x39 x.d.code x.a.code x.b.code Opnd.zero.code x.g x.ty.code (bit sat)]
  | .iminp x => [frWord 0x3A x.d.code x.a.code x.b.code Opnd.zero.code x.g x.ty.code 0]
  | .imaxp x => [frWord 0x3B x.d.code x.a.code x.b.code Opnd.zero.code x.g x.ty.code 0]
  | .iabsp x sat => [frWord 0x3C x.d.code x.a.code Opnd.zero.code Opnd.zero.code x.g x.ty.code (bit sat)]
  | .idp4 x sat => [frWord 0x3D x.d.code x.a.code x.b.code x.c.code x.g x.ty.code (bit sat)]
  | .mov x => [frWord 0x3E x.d.code x.a.code Opnd.zero.code Opnd.zero.code x.g x.ty.code 0]
  | .movi g ty d i => [fiWord 0x3F d.code Opnd.zero.code g ty.code i.toNat]
  | .xlane x mode => [frWord 0x40 x.d.code x.a.code x.b.code x.c.code x.g x.ty.code mode.code]
  | .lpoll g (.every pd) q => [frWord 0x41 pd.val q.val Opnd.zero.code Opnd.zero.code g 0 0]
  | .lpoll g (.some pd) q => [frWord 0x41 pd.val q.val Opnd.zero.code Opnd.zero.code g 0 1]
  | .lpoll g (.same pd) q => [frWord 0x41 pd.val q.val Opnd.zero.code Opnd.zero.code g 0 2]
  | .lpoll g (.mask d) q => [frWord 0x41 d.code q.val Opnd.zero.code Opnd.zero.code g 0 3]
  | .lpoll g (.count d) q => [frWord 0x41 d.code q.val Opnd.zero.code Opnd.zero.code g 0 4]
  | .lpoll g (.first d) q => [frWord 0x41 d.code q.val Opnd.zero.code Opnd.zero.code g 0 5]
  | .wred x op => [frWord 0x42 x.d.code x.a.code Opnd.zero.code Opnd.zero.code x.g x.ty.code op.code]
  | .pmix3 g pd pa pb pc t => [frWord 0x43 pd.val pa.val pb.val pc.val g 0 t.toNat]
  | .pget g d => [frWord 0x44 d.code Opnd.zero.code Opnd.zero.code Opnd.zero.code g 0 0]
  | .pset g mask a => [frWord 0x45 Opnd.zero.code a.code Opnd.zero.code Opnd.zero.code g 0 mask.toNat]
  | .wext x mode => [frWord 0x46 x.d.code x.a.code x.b.code x.c.code x.g x.ty.code mode.code]
  | .iaddi x i => [fiWord 0x47 x.d.code x.a.code x.g x.ty.code i.toNat]
  | .imuli x i => [fiWord 0x48 x.d.code x.a.code x.g x.ty.code i.toNat]
  | .icmpi g ty pd cc a i => [fiWord 0x49 (pd.val + 8 * cc.code) a.code g ty.code i.toNat]
  | .mixi g t d a i => [fiWord 0x4A d.code a.code g t.toNat i.toNat]
  | .fadd x m => [frWord 0x60 x.d.code x.a.code x.b.code Opnd.zero.code x.g x.ty.code m.code]
  | .fmul x m => [frWord 0x61 x.d.code x.a.code x.b.code Opnd.zero.code x.g x.ty.code m.code]
  | .ffma x m => [frWord 0x62 x.d.code x.a.code x.b.code x.c.code x.g x.ty.code m.code]
  | .fmin x rnd nan => [frWord 0x63 x.d.code x.a.code x.b.code Opnd.zero.code x.g x.ty.code (rnd.code + 4 * bit nan)]
  | .fmax x rnd nan => [frWord 0x64 x.d.code x.a.code x.b.code Opnd.zero.code x.g x.ty.code (rnd.code + 4 * bit nan)]
  | .fcmp g pd cc a b rnd => [frWord 0x65 (pd.val + 8 * cc.code) a.code b.code Opnd.zero.code g 0 rnd.code]
  | .fabs x rnd neg => [frWord 0x66 x.d.code x.a.code Opnd.zero.code Opnd.zero.code x.g x.ty.code (rnd.code + 8 * bit neg)]
  | .fclass x rnd e => [frWord 0x67 x.d.code x.a.code Opnd.zero.code Opnd.zero.code x.g x.ty.code (rnd.code + 4 * e.val)]
  | .dadd x m => [frWord 0x68 x.d.code x.a.code x.b.code Opnd.zero.code x.g x.ty.code m.code]
  | .dmul x m => [frWord 0x69 x.d.code x.a.code x.b.code Opnd.zero.code x.g x.ty.code m.code]
  | .dfma x m => [frWord 0x6A x.d.code x.a.code x.b.code x.c.code x.g x.ty.code m.code]
  | .dmin x rnd nan => [frWord 0x6B x.d.code x.a.code x.b.code Opnd.zero.code x.g x.ty.code (rnd.code + 4 * bit nan)]
  | .dmax x rnd nan => [frWord 0x6C x.d.code x.a.code x.b.code Opnd.zero.code x.g x.ty.code (rnd.code + 4 * bit nan)]
  | .dcmp g pd cc a b rnd => [frWord 0x6D (pd.val + 8 * cc.code) a.code b.code Opnd.zero.code g 1 rnd.code]
  | .dclass x rnd => [frWord 0x6E x.d.code x.a.code Opnd.zero.code Opnd.zero.code x.g x.ty.code rnd.code]
  | .hadd2 x m => [frWord 0x70 x.d.code x.a.code x.b.code Opnd.zero.code x.g x.ty.code m.code]
  | .hmul2 x m => [frWord 0x71 x.d.code x.a.code x.b.code Opnd.zero.code x.g x.ty.code m.code]
  | .hfma2 x m => [frWord 0x72 x.d.code x.a.code x.b.code x.c.code x.g x.ty.code m.code]
  | .hmin2 x rnd nan => [frWord 0x73 x.d.code x.a.code x.b.code Opnd.zero.code x.g x.ty.code (rnd.code + 4 * bit nan)]
  | .hmax2 x rnd nan => [frWord 0x74 x.d.code x.a.code x.b.code Opnd.zero.code x.g x.ty.code (rnd.code + 4 * bit nan)]
  | .hcmp2 x rnd cc => [frWord 0x75 x.d.code x.a.code x.b.code Opnd.zero.code x.g x.ty.code (rnd.code + 16 * cc.code)]
  | .faddi x i => [fiWord 0x76 x.d.code x.a.code x.g x.ty.code i.toNat]
  | .fmuli x i => [fiWord 0x77 x.d.code x.a.code x.g x.ty.code i.toNat]
  | .frcp x rnd => [frWord 0x78 x.d.code x.a.code Opnd.zero.code Opnd.zero.code x.g x.ty.code rnd.code]
  | .frsq x rnd => [frWord 0x79 x.d.code x.a.code Opnd.zero.code Opnd.zero.code x.g x.ty.code rnd.code]
  | .fsqrt x rnd => [frWord 0x7A x.d.code x.a.code Opnd.zero.code Opnd.zero.code x.g x.ty.code rnd.code]
  | .fex2 x rnd => [frWord 0x7B x.d.code x.a.code Opnd.zero.code Opnd.zero.code x.g x.ty.code rnd.code]
  | .flg2 x rnd => [frWord 0x7C x.d.code x.a.code Opnd.zero.code Opnd.zero.code x.g x.ty.code rnd.code]
  | .fsin x rnd => [frWord 0x7D x.d.code x.a.code Opnd.zero.code Opnd.zero.code x.g x.ty.code rnd.code]
  | .fcos x rnd => [frWord 0x7E x.d.code x.a.code Opnd.zero.code Opnd.zero.code x.g x.ty.code rnd.code]
  | .ftanh x rnd => [frWord 0x7F x.d.code x.a.code Opnd.zero.code Opnd.zero.code x.g x.ty.code rnd.code]
  | .dsqrt x rnd => [frWord 0x80 x.d.code x.a.code Opnd.zero.code Opnd.zero.code x.g x.ty.code rnd.code]
  | .drcp x rnd => [frWord 0x81 x.d.code x.a.code Opnd.zero.code Opnd.zero.code x.g x.ty.code rnd.code]
  | .cvff x m => [frWord 0x88 x.d.code x.a.code Opnd.zero.code Opnd.zero.code x.g x.ty.code m.code]
  | .cvfi x m => [frWord 0x89 x.d.code x.a.code Opnd.zero.code Opnd.zero.code x.g x.ty.code m.code]
  | .cvif x m => [frWord 0x8A x.d.code x.a.code Opnd.zero.code Opnd.zero.code x.g x.ty.code m.code]
  | .cvii x m => [frWord 0x8B x.d.code x.a.code Opnd.zero.code Opnd.zero.code x.g x.ty.code m.code]
  | .pkf8 x rnd sat => [frWord 0x8C x.d.code x.a.code x.b.code Opnd.zero.code x.g x.ty.code (rnd.code + 4 * bit sat)]
  | .pkf4 x rnd q => [frWord 0x8D x.d.code x.a.code x.b.code Opnd.zero.code x.g x.ty.code (rnd.code + 4 * q.val)]
  | .mxsc x rnd inv => [frWord 0x8E x.d.code x.a.code Opnd.zero.code Opnd.zero.code x.g x.ty.code (rnd.code + 4 * bit inv)]
  | .ld x fresh => [mWord 0xA0 Opnd.zero.code (bit fresh) x]
  | .st x => [mWord 0xA1 Opnd.zero.code 0 x]
  | .ldb x fresh => [mWord 0xA2 Opnd.zero.code (bit fresh) x]
  | .stb x => [mWord 0xA3 Opnd.zero.code 0 x]
  | .ldw x clr => [mWord 0xA4 Opnd.zero.code (bit clr) x]
  | .setempty x => [mWord 0xA5 Opnd.zero.code 0 x]
  | .atadd x slot => [mWord 0xA8 Opnd.zero.code (slotCode slot) x]
  | .atmin x slot => [mWord 0xA9 Opnd.zero.code (slotCode slot) x]
  | .atmax x slot => [mWord 0xAA Opnd.zero.code (slotCode slot) x]
  | .atand x slot => [mWord 0xAB Opnd.zero.code (slotCode slot) x]
  | .ator x slot => [mWord 0xAC Opnd.zero.code (slotCode slot) x]
  | .atxor x slot => [mWord 0xAD Opnd.zero.code (slotCode slot) x]
  | .atexch x slot => [mWord 0xAE Opnd.zero.code (slotCode slot) x]
  | .atcas x slot b => [mWord 0xAF b.code (slotCode slot) x]
  | .redadd x => [mWord 0xB0 Opnd.zero.code 0 x]
  | .redmin x => [mWord 0xB1 Opnd.zero.code 0 x]
  | .redmax x => [mWord 0xB2 Opnd.zero.code 0 x]
  | .redand x => [mWord 0xB3 Opnd.zero.code 0 x]
  | .redor x => [mWord 0xB4 Opnd.zero.code 0 x]
  | .redxor x => [mWord 0xB5 Opnd.zero.code 0 x]
  | .fxadd x => [mWord 0xB6 Opnd.zero.code 0 x]
  | .fxrd x rnd => [mWord 0xB7 Opnd.zero.code rnd.code x]
  | .nins x b => [mWord 0xB8 b.code 0 x]
  | .lock x => [mWord 0xB9 Opnd.zero.code 0 x]
  | .unlock x => [mWord 0xBA Opnd.zero.code 0 x]
  | .fence x => [mWord 0xBB Opnd.zero.code 0 x]
  | .mma x => [frWord 0xD0 Opnd.zero.code x.a.code x.b.code Opnd.zero.code x.g x.ty.code (cvCode x.cv + 2048 * bit x.zc + 4 * x.tile.val + 0)]
  | .mmag x c => [frWord 0xD1 Opnd.zero.code x.a.code x.b.code c.code x.g x.ty.code (cvCode x.cv + 2048 * bit x.zc + 4 * x.tile.val + 0)]
  | .mmas x => [frWord 0xD2 Opnd.zero.code x.a.code x.b.code Opnd.zero.code x.g x.ty.code (cvCode x.cv + 2048 * bit x.zc + 4 * x.tile.val + 0)]
  | .sfpush g ty a kindB cv => [frWord 0xD3 Opnd.zero.code a.code Opnd.zero.code Opnd.zero.code g ty.code (cvCode cv + bit kindB)]
  | .sfpushFlush g => [frWord 0xD3 Opnd.zero.code Opnd.zero.code Opnd.zero.code Opnd.zero.code g 0 2]
  | .mmx x unsignedA => [frWord 0xD4 Opnd.zero.code x.a.code x.b.code Opnd.zero.code x.g x.ty.code (cvCode x.cv + 2048 * bit x.zc + 4 * x.tile.val + bit unsignedA)]
  | .aalloc g d mask => [fiWord 0xD5 d.code Opnd.zero.code g 0 mask.toNat]
  | .afree g mask => [fiWord 0xD6 Opnd.zero.code Opnd.zero.code g 0 mask.toNat]
  | .acqa g a mask => [fiWord 0xD7 Opnd.zero.code a.code g 0 mask.toNat]
  | .rela g mask => [fiWord 0xD8 Opnd.zero.code Opnd.zero.code g 0 mask.toNat]
  | .amv g (.a2v d) spec t cv => [frWord 0xD9 d.code Opnd.zero.code spec.code Opnd.zero.code g 0 (cvCode cv + 1024 * 0 + 4 * t.val)]
  | .amv g (.v2a a) spec t cv => [frWord 0xD9 Opnd.zero.code a.code spec.code Opnd.zero.code g 0 (cvCode cv + 1024 * 1 + 4 * t.val)]
  | .amv g (.a2c a) spec t cv => [frWord 0xD9 Opnd.zero.code a.code spec.code Opnd.zero.code g 0 (cvCode cv + 1024 * 2 + 4 * t.val)]
  | .amv g (.c2a a) spec t cv => [frWord 0xD9 Opnd.zero.code a.code spec.code Opnd.zero.code g 0 (cvCode cv + 1024 * 3 + 4 * t.val)]
  | .tcon8 g u mo o axis tr acc cv => [frWord 0xDA Opnd.zero.code u.code mo.code o.code g 0 (cvCode cv + 2048 * bit acc + 1024 * bit tr + 256 * axis.code)]
  | .rsub g s d a b c => [frWord 0xE8 d.code a.code b.code c.code g 0 s.level]
  | .cpost g s a b => [frWord 0xE9 Opnd.zero.code a.code b.code Opnd.zero.code g 0 s.level]
  | .ctok g s a b => [frWord 0xEA Opnd.zero.code a.code b.code Opnd.zero.code g 0 s.level]
  | .abort g s a b => [frWord 0xEB Opnd.zero.code a.code b.code Opnd.zero.code g 0 s.level]
  | .abortRoot g s a => [frWord 0xEB Opnd.zero.code a.code Opnd.zero.code Opnd.zero.code g 0 (s.level + 8)]
  | .mcst x blk b => [mWord 0xEC b.code (bit blk) x]
  | .rfence g s a => [frWord 0xED Opnd.zero.code a.code Opnd.zero.code Opnd.zero.code g 0 s.level]
  | .cdecl g s a b => [frWord 0xEE Opnd.zero.code a.code b.code Opnd.zero.code g 0 s.level]
  | .sweep g s d a b c => [frWord 0xEF d.code a.code b.code c.code g 0 s.level]
  | .byield g s r a b c => [frWord 0xF0 Opnd.zero.code a.code b.code c.code g 0 (s.level + 8 * bit r)]
  | .bwakeNow g s a b => [frWord 0xF1 Opnd.zero.code a.code b.code Opnd.zero.code g 0 s.level]
  | .bwakeNext g s a b => [frWord 0xF1 Opnd.zero.code a.code b.code Opnd.zero.code g 0 (s.level + 8)]
  | .bstate g d a b => [frWord 0xF2 d.code a.code b.code Opnd.zero.code g 0 0]
  | .sget g ty d n => [fiWord 0xF8 d.code Opnd.zero.code g ty.code n.toNat]
  | .sset g ty a n => [fiWord 0xF9 Opnd.zero.code a.code g ty.code n.toNat]
  | .tret g => [frWord 0xFA Opnd.zero.code Opnd.zero.code Opnd.zero.code Opnd.zero.code g 0 0]
  | .clkrd g ty d rt => [frWord 0xFB d.code Opnd.zero.code Opnd.zero.code Opnd.zero.code g ty.code (bit rt)]
  | .preempt g d => [frWord 0xFC d.code Opnd.zero.code Opnd.zero.code Opnd.zero.code g 0 0]
  | .cmdNop => cmdWords 0x00 0 0 0 0 0 0
  | .cmdSeti fa x => cmdWords 0x01 fa.val 0 0 0 0 x.toNat
  | .cmdAddi fa fb x => cmdWords 0x02 fa.val fb.val 0 0 0 x.toNat
  | .cmdAdd fa fb fc i => cmdWords 0x03 fa.val fb.val fc.val 0 i.toNat 0
  | .cmdMad fa fb fc x => cmdWords 0x04 fa.val fb.val fc.val 0 0 x.toNat
  | .cmdLdg fa fb x => cmdWords 0x05 fa.val fb.val 0 0 0 x.toNat
  | .cmdStg fa fb x rel => cmdWords 0x06 fa.val fb.val 0 (bit rel) 0 x.toNat
  | .cmdAtom fa fb x => cmdWords 0x07 fa.val fb.val 0 0 0 x.toNat
  | .cmdMove fa fb i => cmdWords 0x08 fa.val fb.val 0 0 i.toNat 0
  | .cmdPush fa fb fc => cmdWords 0x09 fa.val fb.val fc.val 0 0 0
  | .cmdPushmc fa fb fc i => cmdWords 0x0A fa.val fb.val fc.val 0 i.toNat 0
  | .cmdStep fa fb => cmdWords 0x0B fa.val fb.val 0 0 0 0
  | .cmdRed fa fb i comm bf => cmdWords 0x0C fa.val fb.val 0 0 i.toNat (comm.toNat + 256 * bit bf)
  | .cmdSum fa fb fc i bf => cmdWords 0x0D fa.val fb.val fc.val (bit bf) i.toNat 0
  | .cmdSig fa i => cmdWords 0x0E fa.val 0 0 0 i.toNat 0
  | .cmdTok i die => cmdWords 0x0F 0 0 0 0 i.toNat die.toNat
  | .cmdWtok i consume tmo => cmdWords 0x10 0 0 0 (bit consume) i.toNat tmo.toNat
  | .cmdWbar fa ph tmo => cmdWords 0x11 fa.val 0 0 (bit ph) 0 tmo.toNat
  | .cmdWmem fa fb cmp wide tmo => cmdWords 0x12 fa.val fb.val 0 (cmp.code + 8 * bit wide) 0 tmo.toNat
  | .cmdBr i => cmdWords 0x13 0 0 0 0 i.toNat 0
  | .cmdBrc fa fb cmp i => cmdWords 0x14 fa.val fb.val 0 cmp.code i.toNat 0
  | .cmdLoop fa i => cmdWords 0x15 fa.val 0 0 0 i.toNat 0
  | .cmdFence s => cmdWords 0x16 0 0 0 s.level 0 0
  | .cmdChunk => cmdWords 0x17 0 0 0 0 0 0
  | .cmdEnd => cmdWords 0x18 0 0 0 0 0 0
  | .cmdBadOpcode opc => cmdWords opc.toNat 0 0 0 0 0 0
  | .unassignedOpcode op => [op.toNat]
  | _ => []

/-- The instruction of a 64-bit word. An unassigned opcode is an instruction of its own (R71). -/
def decodeInstr (w : Nat) : Except DecodeError Instr :=
  if opAssigned (fld w 0 8) then
    match rawInstr w with
    | none => .error .reservedCode
    | some i => if !i.wf then .error .notAccepted else if encode i = [w] then .ok i else .error .undefinedBits
  else .ok (.unassignedOpcode (BitVec.ofNat 8 (fld w 0 8)))

/-- The engine command of a header and its operand X. A command of an opcode that R191 does not list is an instruction
of its own, whatever its other fields hold. -/
def decodeCommand (h x : Nat) : Except DecodeError Instr :=
  if 0x19 ≤ fld h 0 8 then .ok (.cmdBadOpcode (BitVec.ofNat 8 (fld h 0 8)))
  else
    match rawCommand h x with
    | none => .error .reservedCode
    | some i => if !i.wf then .error .notAccepted else if encode i = [h, x] then .ok i else .error .undefinedBits

/-- Decoding of the words that `encode` gives: one word is an instruction, two are an engine command. -/
def decode : List Nat → Except DecodeError Instr
  | [w] => decodeInstr w
  | [h, x] => decodeCommand h x
  | _ => .error .reservedCode

/-- The header in a 64-bit word, or none when bits 55:38 or bit 11 are set (R53, R61 step 4). The TAG is not judged here. -/
def decodeHeader (w : Nat) : Option Header :=
  if fld w 38 18 = 0 ∧ fld w 11 1 = 0 then
    some { sbmask := BitVec.ofNat 8 (fld w 30 8), w1cls := fin3 (fld w 27 3), w1thr := fld w 21 6,
           w0cls := fin3 (fld w 18 3), w0thr := fld w 12 6, priv := flag w 10, yhint := flag w 9, park := flag w 8,
           ports := BitVec.ofNat 4 (fld w 4 4), count := ⟨fld w 0 4, Nat.mod_lt _ (by decide)⟩ }
  else none

/-- The TAG of a header word (R53). -/
def headerTag (w : Nat) : Nat := fld w 56 8

/-- The word of a header (R53). -/
def encodeHeader (h : Header) : Nat :=
  h.count.val + 2 ^ 4 * h.ports.toNat + 2 ^ 8 * bit h.park + 2 ^ 9 * bit h.yhint + 2 ^ 10 * bit h.priv +
    2 ^ 12 * h.w0thr + 2 ^ 18 * h.w0cls.val + 2 ^ 21 * h.w1thr + 2 ^ 27 * h.w1cls.val + 2 ^ 30 * h.sbmask.toNat +
    2 ^ 56 * 0xCA

/-- The instruction that the decoder reads from the bits `w` of a table row of `nbits` bits: a 64-bit instruction word,
or with more than 64 bits an engine command, whose header comes first. -/
def decodeTableWord (nbits w : Nat) : Option Instr :=
  let r := if nbits ≤ 64 then decodeInstr (w % 2 ^ 64) else decodeCommand (w % 2 ^ 64) (w / 2 ^ 64 % 2 ^ 64)
  match r with
  | .ok i => some i
  | .error _ => none

end Sys2Proof
end

