-- ==== Sys2Proof/Config.lean ====
section
/-! DEFINITION. What the manual leaves open or leaves to an implementation: opaque constants, so that no proof can
see a value of them. Each is named in a log entry of notes/assumptions. -/

namespace Sys2Proof

/-- A free value of the step that reads it: the argument is State.time.fresh, which the reader advances
(log entry 2). -/
opaque Config.free : Nat → Nat

/-- Which of the results inside its error bound a function of R119 gives: the function's opcode and its input bits
(log entry 7). -/
opaque Config.approx : Nat → Nat → Nat

/-- SHA-384 over a value (R337, R340, R350); its bits are not given by the manual (log entry 8). -/
opaque Config.digest : Nat → BitVec 384

/-- The 96-byte signature of R337 over a value, drawn with the randomness of the second argument (log entry 8). -/
opaque Config.signature : Nat → Nat → BitVec 768

/-- The bytes of the module's certificate chain (R337; log entry 8). -/
opaque Config.certificate : List Byte

/-- Digests of the measured images (R340): 1 boot stage, 3 controller firmware (log entry 8). -/
opaque Config.imageDigest : Nat → BitVec 384

/-- The DATA field of a ring record entry, by its code and the items that R336 lists; the places of the items in it and the
codes of places and units are not given by the manual (log entry 10). -/
opaque Config.ringData : Nat → List Nat → Nat

/-- Room of Greux's snapshot area on a die, in 64 KiB frames (R300; log entry 9). -/
opaque Config.snapshotFrames : Nat → Nat

/-- Room of the save area of a context slot, in 64 KiB frames (R316; log entry 9). -/
opaque Config.saveFrames : Nat → Nat

/-- The host interface that Greux assigns a mailbox to (R292; log entry 9). -/
opaque Config.mailboxOwner : Nat → Fin 4

/-- What the one-cycle scrambler adds to a byte of core store under a world's key: world, core and offset (R344; log entry 60). -/
opaque Config.scrambler : Nat → Nat → Nat → BitVec 8

/-- What a byte of a line decrypts to under the key of a world that did not write it: world and physical address (R345, R346;
log entry 60). -/
opaque Config.garbled : Nat → Nat → BitVec 8

/-- Zelermain's vendor identifier (R339; log entry 8). -/
opaque Config.vendorId : Nat

/-- How long a session lasts after its latest heartbeat, in rt (R339; log entry 69). -/
opaque Config.heartbeat : Nat

/-- The unit entry of the start record that names a failed interface: R354 gives no kind for one (log entry 6). -/
opaque Config.interfaceUnit : Nat → BitVec 64

end Sys2Proof
end

