-- ==== Sys2Proof/Machine/Bits.lean ====
section
/-! DEFINITION. Bit fields, sign extension and byte order (R5, R35) over naturals, and lane sets. -/

namespace Sys2Proof.Machine

/-- Bits hi:lo of a value. -/
def bits (w hi lo : Nat) : Nat := w / 2 ^ lo % 2 ^ (hi + 1 - lo)

/-- Bit i of a value is set. -/
def bitOf (w i : Nat) : Bool := w / 2 ^ i % 2 = 1

/-- 1 for true, 0 for false. -/
def b2n (b : Bool) : Nat := if b then 1 else 0

/-- The low n bits of a value read as a signed number. -/
def toSigned (n w : Nat) : Int :=
  let v := w % 2 ^ n
  if v < 2 ^ (n - 1) then v else (v : Int) - 2 ^ n

/-- An exact integer wrapped to n bits. -/
def wrap (n : Nat) (i : Int) : Nat := (i % (2 ^ n : Nat)).toNat

/-- An exact integer limited to a range. -/
def clampInt (lo hi i : Int) : Int := max lo (min hi i)

/-- n bytes of a value, least significant first (R5). -/
def toBytes : Nat → Nat → List Byte
  | 0, _ => []
  | n + 1, v => BitVec.ofNat 8 v :: toBytes n (v / 256)

/-- The value of bytes held least significant first (R5). -/
def ofBytes : List Byte → Nat
  | [] => 0
  | b :: t => b.toNat + 256 * ofBytes t

/-- Whether a lane is in a lane set. -/
def inSet (m : LaneSet) (l : Nat) : Bool := m.toNat.testBit l

/-- The lanes of a lane set, in increasing order. -/
def lanesOf (m : LaneSet) : List Nat := (List.range 32).filter (inSet m)

/-- The lane set of one lane. -/
def oneLane (l : Nat) : LaneSet := BitVec.ofNat 32 (2 ^ l)

/-- The lane set of the lanes that satisfy a condition. -/
def laneSet (p : Nat → Bool) : LaneSet :=
  (List.range 32).foldl (fun m l => if p l then m ||| oneLane l else m) 0

/-- Every lane. -/
def allLanes : LaneSet := 0xFFFFFFFF

/-- The lowest-numbered lane of a set, if it has one. -/
def lowest (m : LaneSet) : Option Nat := (lanesOf m).head?

/-- The number of set bits among the low n bits of a value. -/
def popCount (n w : Nat) : Nat := ((List.range n).filter (bitOf w)).length

/-- The elements of a list by position, with a default. -/
def nth {β : Type} (d : β) (l : List β) (i : Nat) : β := l.getD i d

/-- Rounds up to a multiple of m. -/
def roundUp (v m : Nat) : Nat := (v + m - 1) / m * m

/-- Whether two ranges of addresses share an address. -/
def overlaps (a n b m : Nat) : Bool := a < b + m && b < a + n

/-- Inserts a number in a rising list. -/
def insertNat (a : Nat) : List Nat → List Nat
  | [] => [a]
  | b :: t => if a ≤ b then a :: b :: t else b :: insertNat a t

/-- The numbers of a list in rising order. -/
def sortNat (l : List Nat) : List Nat := l.foldr insertNat []

/-- Adds one to a counter of n bits that saturates. -/
def bump (n v : Nat) : Nat := min (2 ^ n - 1) (v + 1)

end Sys2Proof.Machine
end

