-- ==== Sys2Proof/Machine/Tables.lean ====
section
/-! DEFINITION. Operations on the finite tables that hold sparse state: pairs with strictly rising keys. `tset`
keeps the canonical form in which no entry equals what an unlisted key reads as. -/

namespace Sys2Proof.Machine

variable {β : Type}

/-- The entry at a key, if one is listed. -/
def tfind : Table β → Nat → Option β
  | [], _ => none
  | (k, v) :: t, a => if k = a then some v else tfind t a

/-- What a key reads as: its entry, or `d` when it is not listed. -/
def tget (d : β) : Table β → Nat → β
  | [], _ => d
  | (k, v) :: t, a => if k = a then v else tget d t a

/-- Lists `v` at a key, in key order. -/
def tput : Table β → Nat → β → Table β
  | [], a, v => [(a, v)]
  | (k, w) :: t, a, v =>
    if a < k then (a, v) :: (k, w) :: t
    else if a = k then (a, v) :: t
    else (k, w) :: tput t a v

/-- Removes every entry at a key (a table in key order holds at most one). -/
def tdel : Table β → Nat → Table β
  | [], _ => []
  | (k, w) :: t, a => if k = a then tdel t a else (k, w) :: tdel t a

/-- Writes `v` at a key of a table whose unlisted keys read as `d`. -/
def tset [DecidableEq β] (d : β) (t : Table β) (a : Nat) (v : β) : Table β :=
  if v = d then tdel t a else tput t a v

/-- Applies a function to the entry at a key, if one is listed. -/
def tmap (f : β → β) : Table β → Nat → Table β
  | [], _ => []
  | (k, w) :: t, a => if k = a then (k, f w) :: t else (k, w) :: tmap f t a

/-- The listed values. -/
def tvals (t : Table β) : List β := t.map Prod.snd

/-- The listed keys. -/
def tkeys (t : Table β) : List Nat := t.map Prod.fst

/-- Keys rise strictly and no entry equals `d`: the canonical form of a table whose unlisted keys read as `d`. -/
def tcanon [DecidableEq β] (d : β) : Table β → Bool
  | [] => true
  | [(_, v)] => v ≠ d
  | (k, v) :: (j, w) :: t => (v ≠ d) && decide (k < j) && tcanon d ((j, w) :: t)

/-- The first key from `i` on, within `n` keys, that a table does not list. -/
def tfresh (t : Table β) : Nat → Nat → Nat
  | i, 0 => i
  | i, n + 1 => if (tfind t i).isNone then i else tfresh t (i + 1) n

/-- A key above every listed key. -/
def tnext (t : Table β) : Nat := t.foldl (fun m e => max m (e.1 + 1)) 0

end Sys2Proof.Machine
end

