-- ==== Sys2Proof/Machine/State.lean ====
section
/-! DEFINITION. The machine's state as plain data: everything the spec gives the module, and the agenda by which the
model's own data says which agent moves next (log entry 1). Numbers name units: die d is the identifier of R264;
core c of die d is 256 d + c; a quarter is 4 core + q; a group slot is 64 core + g; a warp is 64 slot + w;
cluster site n of die d is 32 d + n; root engine e of die d is 32 d + e; canopy engine e of die d is 2 d + e. -/

namespace Sys2Proof.Machine

/-- Why the whole module stops. -/
inductive Fault
  /-- Raised by step when module power is cut (R358) and nothing is on the agenda. Safe: no claim about a next state
  can be proved of a module without power. -/
  | powerOff
  /-- Raised by step when the module is held failed (R355) and nothing is on the agenda: it accepts nothing. Safe,
  for the same reason. -/
  | heldFailed
deriving DecidableEq, Repr

/-- Why the model gives an instruction no meaning. -/
inductive Refusal
  /-- Raised by exec for an instruction without a meaning in the model, with its mnemonic. Safe: nothing about its next
  state can be proved. No arm of this model raises it. -/
  | notModelled (mnemonic : String)
deriving DecidableEq, Repr

/-! ### Time and the agenda -/

/-- Who issues when the agenda is empty: a quarter of a core or an engine context. -/
inductive Agent
  | quarter (q : Nat)
  | engine (e : EngRef)
deriving DecidableEq, Repr

/-- Readings of the sensors of R358: hottest junction of each die, coolant inlet in degrees, flow in litres a minute,
power in watts. -/
structure Sensors where
  junction : Table Nat
  inlet    : Nat
  flow     : Nat
  power    : Nat
deriving DecidableEq, Repr

/-- A request of SPDM beside those that have an instruction (R12, R339): the versions, the capabilities, the algorithms for an offer, a
vendor-defined request other than those of R348 and R351, by vendor identifier and code, or any other request, by its code. -/
inductive SpdmQuery
  | versions
  | capabilities
  | algorithms (offer : KeyOffer)
  | vendor (id code : Nat)
  | other (code : Nat)
deriving DecidableEq, Repr

/-- A capability of R339. -/
inductive SpdmCap
  | cert | chal | measSig | keyEx | encrypt | mac | keyUpd | hbeat
deriving DecidableEq, Repr

/-- One move of one agent, or one input of the outside world. -/
inductive Move
  | issue (q : Nat)
  | command (e : EngRef)
  | event (i : Instr)
  | hostStore (address : Nat) (bytes : List Byte)
  | sectorError (sector : Nat) (corrected : Bool)
  | hostError (unit : Nat) (bad : Bool)
  | granuleError (core granule : Nat)
  | accumulatorError (core granule : Nat)
  | level1Error (core line granule : Nat)
  | tlbEvict (core index : Nat)
  | walkFill (die slot va : Nat)
  | walkEvict (die index : Nat)
  | level1Evict (core line : Nat)
  | sliceEvict (sector : Nat)
  | matrixRead (core place : Nat) (granules : List Nat)
  | sense (r : Sensors)
  | readRegister (p : HostPort) (r : HostReg)
  | spdm (ch : Channel) (q : SpdmQuery)
  | sessionEnd (iface session : Nat)
  | sessionLapse (iface session : Nat)
  | joinPod (module : Nat) (mode : Bool) (mask : BitVec 32) (dies : List DieConfig)
  | leavePod (module : Nat)
  | start
  | powerOn (fails : List StepFail)
deriving DecidableEq, Repr

/-- Time since module reset (R9, R188, R359). -/
structure Time where
  now      : Nat
  adjust   : Int
  floor    : Nat
  lastMove : Nat
  fresh    : Nat
deriving DecidableEq, Repr

/-- The model's own data: which agent moves next, and after how many clk. -/
structure Sched where
  agenda : List (Nat × Move)
  agent  : Agent
deriving DecidableEq, Repr

/-! ### Memory -/

/-- A reduction that its home performs (R143 to R148): what it computes, the type, place and size of its location, its operand and
compare value. -/
structure Combine where
  instr   : Instr
  ty      : Ty
  pa      : Nat
  size    : Nat
  operand : Nat
  cmp     : Nat
deriving DecidableEq, Repr

/-- A write that has entered its cluster's path and is not applied at its home (R215, R216): the warp and operation it
belongs to with its clause, instruction, lanes and address, its dispatch and world, the warps that have acquired it, the warps that have
released it to their groups and whether one has to its cluster since (R221, R222), and the bytes by physical address, or the reduction
that it is. -/
structure PathWrite where
  warp  : Nat
  seq   : Nat
  clause : Nat
  index : Nat
  lanes : LaneSet
  va    : Nat
  dispatch : Nat
  world : Nat
  after : List Nat
  rels  : List Nat
  cls   : Bool
  bytes : List (Nat × Byte)
  combine : Option Combine
deriving DecidableEq, Repr

/-- Device and host memory (R211, R322, R327, R345, R215); `keyed` gives the world, plus one, under whose key a cache slice holds a
sector (R344); `hostBad` marks the 32-byte units of host memory whose accesses meet an uncorrectable error (R293, R298). -/
structure Mem where
  hbm      : Table Byte
  keyed    : Table Nat
  poison   : Table Bool
  versions : Table Nat
  lineKeys : Table Nat
  host     : Table Byte
  hostBad  : Table Bool
  paths    : Table (List PathWrite)
deriving DecidableEq, Repr

/-! ### Cores, groups and warps -/

/-- A line of the level-1 region (R14, R135): its bytes, the world under whose key it was filled (R344), whether it is one of home code 2
that is kept (R213), and which of its eight granules are poisoned (R322). -/
structure Line where
  bytes  : List Byte
  world  : Nat
  pinned : Bool
  bad    : List Nat
deriving DecidableEq, Repr

/-- A cached table entry (R308): context slot, first virtual address that it serves, low bits of an address that it leaves to the
page or the tables below, entry. -/
structure TlbEntry where
  slot  : Nat
  va    : Nat
  size  : Nat
  entry : Double
deriving DecidableEq, Repr

/-- State of an accumulator bank (R160): owner group slot, the set S that holds the token and the holders H. -/
structure Bank where
  owner   : Nat
  set     : Option Double
  holders : Double
deriving DecidableEq, Repr

/-- The computation of a queued matrix operation (R165 to R173). -/
inductive MatOp
  | product (i : Instr) (tile : Nat) (zc : Bool)
  | tensor (i : Instr) (u m o : Nat)
  | toRegs (tile row n : Nat) (d : Nat)
  | fromRegs (tile row n : Nat) (rows : List Word)
  | toCore (tile row n : Nat) (offset : Nat)
  | fromCore (tile row n : Nat) (offset : Nat)
  | zero (banks : Word)
  | drop (banks : Word)
deriving DecidableEq, Repr

/-- An entry of the matrix queue (R154): who issued it, the core-store offsets of its operands with their lengths, the
register vectors and scales it took at issue, and the granules of its operands as they stood at issue. -/
structure Queued where
  warp   : Nat
  seq    : Option Nat
  op     : MatOp
  aOff   : Nat
  bOff   : Nat
  aLen   : Nat
  bLen   : Nat
  vector : List Word
  scales : List Word
  image  : Table Nat
deriving DecidableEq, Repr

/-- A transfer held at a barrier until its limit allows the charge (R233), in order of holding. -/
structure Held where
  barrier  : Nat
  transfer : Nat
deriving DecidableEq, Repr

/-- One core (R13 to R16, R135, R140, R154, R159, R208, R308); `ldws` holds the ldw instructions that wait, by warp and
operation, in order of their issue at the core store. The watchdog entry of a context slot is the time since which
its conditions have held. `worlds` holds stretches of the store with the world under whose key their bytes were last seen, by
offset and length, the latest first (R344). -/
structure Core where
  store     : Table Byte
  empty     : Table Bool
  poison    : Table Bool
  pl1sz     : Byte
  l1sz      : Byte
  level1    : Table Line
  tlb       : List TlbEntry
  queue     : List Queued
  held      : List Held
  ldws      : List (Nat × Nat)
  watch     : Table Nat
  banks     : Table Bank
  acc       : Table Word
  accPoison : Table Bool
  worlds    : List (Nat × Nat × Nat)
deriving DecidableEq, Repr

/-- A fault known for a warp (R311, R312); `order` is its place in warp order. -/
structure FaultRec where
  order    : Nat
  clause   : Nat
  index    : Nat
  cause    : Nat
  sub      : Nat
  addr     : Nat
  lanes    : LaneSet
  code     : Nat
  deferred : Bool
deriving DecidableEq, Repr

/-- A condition of a wait with the value that a memory condition last read, if it has read one (R91, R92). -/
structure WaitCond where
  entry : BitVec 128
  seen  : Option Nat
deriving DecidableEq, Repr

/-- A wait in progress (R90, R92): its clause and instruction, the threads that took part in the clause with their next pc
and the signs they made, the active lanes. -/
structure Waiting where
  clause   : Nat
  index    : Nat
  took     : LaneSet
  next     : Nat
  signed   : Table LaneSet
  lanes    : LaneSet
  dst      : Opnd
  all      : Bool
  conds    : List WaitCond
  deadline : Option Nat
deriving DecidableEq, Repr

/-- A bar or cbar that has not arrived yet (R94, R95): its clause and instruction, the threads that took part in the clause with
their next pc and the signs they made, the active lanes, the barrier it names and its COUNT. -/
structure Arriving where
  clause  : Nat
  index   : Nat
  took    : LaneSet
  next    : Nat
  signed  : Table LaneSet
  lanes   : LaneSet
  cluster : Bool
  id      : Nat
  count   : Nat
deriving DecidableEq, Repr

/-- How a clause ends. -/
inductive Ending
  | done
  | fault
  | trap (code : Word)
  | tret
  | wait (w : Waiting)
  | barrier (b : Arriving)
  | yield
  | preempt (d : Opnd) (lanes : LaneSet)
  | withdrawn
deriving DecidableEq, Repr

/-- The clause a quarter runs (R53, R60): its warp, header, words, next instruction, the threads that take part, branch
targets, the threads that signed each cv, a stall at issue, and the registers as the last boundary left them (R27). -/
structure Clause where
  warp    : Nat
  h       : Nat
  header  : Header
  words   : List Nat
  index   : Nat
  lanes   : LaneSet
  targets : Table Nat
  signed  : Table LaneSet
  stalled : Bool
  ending  : Option Ending
  v       : Table Word
  k       : Table Word
deriving DecidableEq, Repr

/-- A phase of a barrier (R94, R95): the COUNT its first arrival fixed, the warps that arrived, and the phases completed. -/
structure BarPhase where
  count    : Nat
  arrived  : List Nat
  complete : Nat
deriving DecidableEq, Repr

/-- State of a window-table entry (R242). -/
inductive WinState
  | absent
  | filling (transfer : Nat)
  | full
deriving DecidableEq, Repr

/-- A window-table entry (R240, R241); offsets are absolute. -/
structure Window where
  offset : Nat
  size   : Nat
  bar    : Option Nat
  record : Nat
  coords : Double
  mode   : Fin 3
  state  : WinState
deriving DecidableEq, Repr

/-- A group resident in a group slot (R195, R197, R283). -/
structure Group where
  dispatch : Nat
  slot     : Nat
  rank     : Nat
  ids      : List Nat
  domain   : List Nat
  instanceId : Nat
  base     : Nat
  size     : Nat
  nreg     : Nat
  wpg      : Nat
  scrb     : Nat
  barb     : Nat
  prio     : Nat
  roles    : Word
  accMask  : Word
  bars     : Table BarPhase
  windows  : Table Window
deriving DecidableEq, Repr

/-- Status of a thread (R22). -/
inductive Status
  | running
  | meeting
  | sign
  | exited
deriving DecidableEq, Repr

/-- Where an access goes: a global virtual address, or an offset of a core's store (R130). -/
inductive Loc
  | global (va : Nat)
  | store (core offset : Nat)
deriving DecidableEq, Repr

/-- One lane's access, or one lane's write at one destination of an mcst: its bytes to write, its operand and compare
value, and whether it is performed. -/
structure Access where
  lane  : Nat
  dest  : Nat
  loc   : Loc
  size  : Nat
  data  : List Byte
  cmp   : Nat
  done  : Bool
deriving DecidableEq, Repr

/-- What an outstanding operation does. -/
inductive OpKind
  | load (fresh : Bool)
  | blockLoad (fresh : Bool)
  | windowLoad (clr : Bool)
  | store
  | blockStore
  | atomic (i : Instr)
  | reduce (i : Instr)
  | sumRead (rnd : Rnd)
  | multicast
  | lock
  | unlock
  | fence
  | setempty
  | bud
  | copy (transfer : Nat)
  | matrix
  | submit
  | post
  | cambium (left : Nat)
deriving DecidableEq, Repr

/-- An outstanding operation of a warp: its place in warp order, counter class (R25), clause and instruction for fault records, lanes,
order and scope, destination, scoreboard slot (R26), accesses, the lanes' results and the conditions that their conversions met (R147).
-/
structure Op where
  seq     : Nat
  cls     : Option Nat
  kind    : OpKind
  clause  : Nat
  index   : Nat
  lanes   : LaneSet
  order   : Order
  scope   : Scope
  ty      : Ty
  dst     : Opnd
  slot    : Option Nat
  acc     : List Access
  results : Table Nat
  flags   : Word
  landed  : Bool
  done    : Bool
deriving DecidableEq, Repr

/-- A write to registers held until a boundary (R27): a 32-bit register of a lane or a uniform register, with the bits
it replaces. -/
structure Pending where
  uniform : Bool
  key     : Nat
  mask    : Word
  value   : Word
deriving DecidableEq, Repr

/-- What a warp does between its clauses. -/
inductive Phase
  | between
  | issuing
  | parked
  | waiting (w : Waiting)
  | arriving (b : Arriving)
  | barrier (cluster : Bool) (id phase : Nat)
  | entering
  | ended
  | gone
deriving DecidableEq, Repr

/-- The trap registers of R312. -/
structure TrapRegs where
  cause  : Double
  clause : Double
  index  : Double
  addr   : Double
  lanes  : Double
  code   : Double
  stat   : Double
  raddr  : Double
  ridx   : Double
  pcs    : Table Double
deriving DecidableEq, Repr

/-- One warp (R17 to R27, R56, R92, R109, R170, R205, R257, R311 to R313). Vector register N of lane L has key 32 N + L;
`heldCv` holds for each lane the convergence registers it is held on, one bit each (R83); `parks` is the PARK bit of a clause
that has ended and not parked the warp yet; `exits` holds the threads that exited in the handler (R313); `withdrawn` holds the ldw
instructions that a save or a return from the handler issues again, `onReturn` those that a deadlock fault withdrew, until the handler
returns (R140, R209). -/
structure Warp where
  v         : Table Word
  k         : Table Word
  pcs       : Table Nat
  mrs       : Table Nat
  preds     : Table LaneSet
  status    : Table Status
  heldCv    : Table Nat
  cvs       : Table Double
  ops       : List Op
  seq       : Nat
  pendLong  : List Pending
  pendStore : List Pending
  pendFlags : Word
  fpst      : Word
  scales    : List Word
  trap      : TrapRegs
  handler   : Bool
  exits     : LaneSet
  faults    : List FaultRec
  resume    : Option (Nat × Nat)
  issuePc   : Nat
  phase     : Phase
  readyAt   : Nat
  passed    : Nat
  yhint     : Bool
  yielded   : Bool
  parks     : Bool
  withdrawn : List Op
  onReturn  : List Op
  rejoin    : Option (Bool × Nat × Nat)
  resumed   : Option (Opnd × LaneSet)
  buds      : Table (Nat × Nat)
  byFault   : Bool
deriving DecidableEq, Repr

/-- What started a transfer into a core store (R243, R246). -/
inductive Source
  | copy (warp seq window : Nat)
  | push (e : EngRef)
deriving DecidableEq, Repr

/-- A window copy or one destination of a push (R243, R246, R248): its record, coordinates, destination, granules still
to land, whether its record is read and the sub-cause of R312 it met there, whether it is charged, and whether the charge took credit
(`paid`, R233). `place` is the place in warp order of the ldw that started a copy (R227), and for a push the number of its command. The
destinations of one push share `batch`, the number of the first, and the granules of its source that have been read (`image`, with the
poison mark in bit 128); `many` says that it is a PUSHMC. The barrier lies in the space of the group `barGroup`. -/
structure Transfer where
  source  : Source
  place   : Nat
  slot    : Nat
  group   : Nat
  record  : BitVec 512
  coords  : Double
  core    : Nat
  offset  : Nat
  size    : Nat
  bar     : Option Nat
  barGroup : Nat
  started : Bool
  trouble : Option Nat
  charged : Bool
  paid    : Bool
  claims  : Option Nat
  left    : List Nat
  batch   : Nat
  many    : Bool
  image   : Table Nat
deriving DecidableEq, Repr

/-- Cores and everything resident on them; `launched` counts the warps started, so that a warp is told from an earlier one in
its slot (model's own). -/
structure Comp where
  cores     : Table Core
  clauses   : Table Clause
  groups    : Table Group
  cbars     : Table (Table BarPhase)
  warps     : Table Warp
  transfers : Table Transfer
  launched  : Nat
deriving DecidableEq, Repr

/-! ### Dies -/

/-- A communicator entry of a die (R268, R302); `seq` is the sequence number of the die's next RED in the attempt (R273). -/
structure Comm where
  members : List Nat
  rank    : Nat
  version : BitVec 16
  attempt : BitVec 16
  channel : Fin 8
  redtmo  : Nat
  seq     : Nat
deriving DecidableEq, Repr

/-- State of a link (R331, R332): the rt since which it retrains, the rt of its latest replays and failed retrains, and whether a route
generation has been installed for its failure. -/
structure Link where
  inUse       : Bool
  failed      : Bool
  rerouted    : Bool
  retraining  : Option Nat
  replays     : List Nat
  failures    : List Nat
deriving DecidableEq, Repr

/-- The clock of a die (R9, R330, R358): its frequency in MHz and the highest it may take, core cycles counted up to a moment of
nominal clk, the frequency of a step in progress, the late transitions of the window that began at `windowStart`, in all and by core,
the rt since which no window was loud, whether heat has stepped it down, and the rt since which its junction has been cool. -/
structure Clock where
  fmhz        : Nat
  fmax        : Nat
  base        : Nat
  since       : Nat
  stepping    : Option Nat
  windowStart : Nat
  windowLate  : Nat
  lateCores   : Table Nat
  quietSince  : Nat
  hot         : Bool
  coolSince   : Nat
deriving DecidableEq, Repr

/-- Scrubbing and frames of a die (R327, R328): the sectors whose corrections are in flight with the versions they were read at, the
rt of each frame's corrected errors, and retired frames. -/
structure Scrub where
  period      : Nat
  inFlight    : List (Nat × Nat)
  frameErrors : Table (List Nat)
  retired     : Table Bool
deriving DecidableEq, Repr

/-- Saturating and wrapping counters of R335. -/
structure Counts where
  routeGen   : Word
  retired    : Word
  corrected  : Word
  late       : Word
  dropped    : Word
  replays    : Word
  retCores   : Word
deriving DecidableEq, Repr

/-- The collective command in front of a canopy engine: a posted block, a token, an abort (R178, R179). -/
inductive CanopyMsg
  | post (address : Nat)
  | token (id die : Nat)
  | abort (comm attempt : Nat)
deriving DecidableEq, Repr

/-- How a started command of an engine program goes on. -/
inductive ProgPhase
  | queued
  | blocked
  | running
  | waiting (cmd : Instr) (deadline : Option Nat)
  | charging (transfers : List Nat)
  | finishing (state code : Nat)
deriving DecidableEq, Repr

/-- A write of an engine program that is not performed (R192), with the number of the command that made it. -/
structure EngineWrite where
  place : Nat
  va    : Nat
  bytes : List Byte
deriving DecidableEq, Repr

/-- A RED whose result is outstanding (R273, R276, R277): the number of its command, its source, destination and length, and, in a
collective that no tree reduces, the rank whose block it carries. -/
structure RedWait where
  place  : Nat
  src    : Nat
  dst    : Nat
  length : Nat
  block  : Option Nat
deriving DecidableEq, Repr

/-- An engine program or canopy block (R177, R190 to R193, R269 to R273). `reds` holds each RED whose result is outstanding, by 256
times its sequence number plus its communicator; `issued` counts the commands that it has started, so that its writes have an order
(model's own). -/
structure Prog where
  dispatch : Nat
  slot     : Nat
  owner    : Option (Nat × Nat)
  scope    : Scope
  start    : Nat
  arg      : Double
  status   : Nat
  regs     : Table Double
  pc       : Nat
  ncmd     : Nat
  caddr    : Nat
  issued   : Nat
  phase    : ProgPhase
  writes   : List EngineWrite
  block    : Option (BitVec 1024)
  script   : List (BitVec 128)
  order    : Nat
  accepted : Nat
  reds     : Table RedWait
  holdsChunk : Bool
deriving DecidableEq, Repr

/-- A die: availability (R334, R335), counters, ring record (R336), record cache (R239), walk cache (R308), communicators, token counts,
blocks that wait in the matching store with their engines (R278, R279), the next place in the order of R271, the clk since
which its watchdogs are paused (R333), the pairs that a reroute holds, by source unit and target die, each with twice the
generation plus one for a pod plane's, the routes of the current
generation that differ from R265, by target die, as die and link numbers, and whether a reroute involves the die (R332, R333). -/
structure Die where
  enabled   : Bool
  cores     : BitVec 144
  slices    : BitVec 32
  hbmStacks : BitVec 2
  links     : Table Link
  clock     : Clock
  scrub     : Scrub
  counts    : Counts
  lthr      : Nat
  ring      : Table (BitVec 256)
  ringSeq   : Nat
  records   : List (Nat × Nat × BitVec 512)
  walks     : List TlbEntry
  comms     : Table Comm
  tokens    : Table Nat
  waiting   : List (Nat × Prog)
  orders    : Nat
  pause     : Option Nat
  rerouting : Table Nat
  routes    : Table (List (Nat × Nat))
  inReroute : Bool
deriving DecidableEq, Repr

/-! ### Engines -/

/-- An abort.root at a root engine (R178): its warp, operation, scope and dispatch, and the contexts whose aborted programs
have not written their status records, once it has taken effect. -/
structure RootAbort where
  warp     : Nat
  seq      : Nat
  scope    : Scope
  dispatch : Nat
  ctxs     : Option (List Nat)
deriving DecidableEq, Repr

/-- A root engine (R177): submissions in front of it, accepted programs that have not started, contexts, aborts. -/
structure Root where
  front : List Prog
  queue : List Prog
  ctxs  : Table Prog
  aborts : List RootAbort
  turn  : Nat
deriving DecidableEq, Repr

/-- A message in front of a canopy engine, with the warp, operation, clause, instruction and scope it belongs to. -/
structure CanopyFront where
  warp     : Nat
  seq      : Nat
  clause   : Nat
  index    : Nat
  scope    : Scope
  dispatch : Nat
  slot     : Nat
  msg      : CanopyMsg
deriving DecidableEq, Repr

/-- A canopy engine (R272). -/
structure Canopy where
  front : List CanopyFront
  queue : List Prog
  ctxs  : Table Prog
deriving DecidableEq, Repr

/-- A cambium command on its way to an engine (R182, R184, R185). -/
inductive CamMsg
  | declare (slot : Nat) (descriptor : Nat) (scope : Scope)
  | sweep (slot : Nat) (limit : Nat) (stop : Option Nat) (barrier : Option Nat)
  | wake (slot : Nat) (element : Nat) (next : Bool)
deriving DecidableEq, Repr

/-- A cambium command with its warp, operation, clause, instruction, scope and dispatch. -/
structure CamFront where
  warp     : Nat
  seq      : Nat
  clause   : Nat
  index    : Nat
  scope    : Scope
  dispatch : Nat
  msg      : CamMsg
deriving DecidableEq, Repr

/-- A byield or exit of a bud thread that the engine has not taken (R183, R258). -/
structure BudEnd where
  warp     : Nat
  seq      : Nat
  dispatch : Nat
  slot     : Nat
  element  : Nat
  yielded  : Option (Bool × Nat × Nat × Nat × Double)
  clause   : Nat
  index    : Nat
  scope    : Scope
deriving DecidableEq, Repr

/-- A sweep in progress on one engine's slot (R255 to R259): who issued it, its limit, number, stop word and barrier, the
cursor, the last element of the last warp launched, the next index to scan, and the elements of the forming warp with their clauses
and locals. -/
structure Sweep where
  warp    : Nat
  seq     : Nat
  clause  : Nat
  index   : Nat
  limit   : Nat
  k       : Nat
  stop    : Option Nat
  barrier : Option Nat
  cursor  : Option Nat
  launched : Option Nat
  scanned : Nat
  forming : List (Nat × Nat × Nat)
deriving DecidableEq, Repr

/-- A slot of a cambium engine for a dispatch (R250, R251, R255, R258). -/
structure CamSlot where
  dispatch   : Nat
  ctx        : Nat
  descriptor : Nat
  desc       : BitVec 512
  scope      : Scope
  pending    : List Nat
  sweep      : Option Sweep
deriving DecidableEq, Repr

/-- The cambium engine of a cluster site. -/
structure Cambium where
  front : List CamFront
  ends  : List BudEnd
  slots : Table CamSlot
deriving DecidableEq, Repr

/-- A child's contribution at a tree node: OP, TYPE, the elements, and its length (R275, R281). -/
structure Contribution where
  op     : Nat
  bf16   : Bool
  length : Nat
  data   : List Word
deriving DecidableEq, Repr

/-- A node of a reduction tree for one RED (R275, R282): level 0 chip, 1 module, 2 pod. A child is named by its lowest rank. One that
has timed out or met a mismatch is closed: it forwards nothing for its attempt. -/
structure RedNode where
  ctx      : Nat
  comm     : Nat
  attempt  : BitVec 16
  seq      : Nat
  level    : Nat
  die      : Nat
  children : List Nat
  arrived  : Table Contribution
  deadline : Nat
  closed   : Bool
deriving DecidableEq, Repr

/-- Something on its way over the fabric to a die (R278, R280, R275 to R277). The owner of a token that a warp sent is its warp,
operation, clause and instruction. A result is on its way to a tree node, by level and lowest rank, or to a member. A part carries
bytes of the block of a rank to the next engine, which adds its own block to them or takes them as they are. -/
inductive Flight
  | token (ctx id die : Nat) (owner : Option (Nat × Nat × Nat × Nat))
  | abort (ctx comm : Nat) (attempt : BitVec 16) (die : Nat)
  | child (ctx comm : Nat) (attempt : BitVec 16) (seq level child node die : Nat) (c : Contribution)
  | result (ctx comm : Nat) (attempt : BitVec 16) (seq : Nat) (node : Option (Nat × Nat)) (die : Nat) (c : Contribution)
  | part (ctx comm : Nat) (attempt : BitVec 16) (seq block : Nat) (adding : Bool) (die : Nat) (bytes : List Byte)
deriving DecidableEq, Repr

/-- A message of the fabric with the die that sent it and the dies on its way that have judged it (R280). -/
structure Packet where
  src    : Nat
  msg    : Flight
  passed : List Nat := []
deriving DecidableEq, Repr

/-- A queue lock (R149): the dispatch and world of the last agent that changed it; its holder, as the warp and the operation
that took it, and the holder's dispatch; its requests, as warps and operations. -/
structure Lock where
  dispatch : Nat
  world    : Nat
  holder   : Option (Nat × Nat)
  owner    : Nat
  queue    : List (Nat × Nat)
deriving DecidableEq, Repr

/-- Where an agreement round stands (R303). -/
inductive RoundPhase
  | posted
  | proposed
  | committed (ok : Bool) (code : Nat)
deriving DecidableEq, Repr

/-- An agreement round for a group command (R302, R303); `ticket` is the number of the first dispatch taken after it, `holds` the
voters that hold new blocks, `lastVote` the rt of the latest vote. -/
structure Round where
  mailbox  : Nat
  ticket   : Nat
  slot     : Nat
  command  : BitVec 320
  members  : List Nat
  old      : List Nat
  voters   : List Nat
  votes    : Table Nat
  holds    : List Nat
  lastVote : Nat
  acks     : List Nat
  proposed : Nat
  phase    : RoundPhase
deriving DecidableEq, Repr

/-- An rfence whose invalidation is not complete (R181): its warp, its place in warp order, its die, scope and context slot, and the
record it names. -/
structure RecordFence where
  warp   : Nat
  seq    : Nat
  die    : Nat
  scope  : Scope
  slot   : Nat
  record : Option Nat
deriving DecidableEq, Repr

/-- Engines, record fences, the fabric's tree nodes and messages, locks and rounds. -/
structure Eng where
  fences   : List RecordFence
  roots    : Table Root
  canopies : Table Canopy
  cambiums : Table Cambium
  reds     : Table RedNode
  flights  : Table Packet
  locks    : Table Lock
  rounds   : Table Round
deriving DecidableEq, Repr

/-! ### The controller -/

/-- A mailbox's registers (R292). -/
structure Mailbox where
  base   : Double
  ctl    : Word
  head   : Word
  tail   : Word
  ctx    : BitVec 16
  serial : Option Nat
deriving DecidableEq, Repr

/-- A context slot's registers (R304, R314). -/
structure Slot where
  ctxid   : Word
  ptroot  : Double
  tvec    : Double
  tlbiva  : Double
  tlbictl : Word
  ctxctl  : Word
  ctxsave : Double
  resuming : Bool
deriving DecidableEq, Repr

/-- An aperture of an interface (R295). -/
structure Aperture where
  ctl  : Word
  base : Double
deriving DecidableEq, Repr

/-- Where a dispatch stands (R296 to R301). -/
inductive DispatchPhase
  | held
  | accepted
  | killing (code : Nat) (replay : Bool)
  | stopped (code : Nat) (replay : Bool)
  | aborting (code : Nat) (replay : Bool)
  | complete
deriving DecidableEq, Repr

/-- The copy of a page in the snapshot area (R300): its bytes, poison marks, line keys and slice keys, as far as they are listed. -/
structure PageImage where
  bytes    : Table Byte
  poison   : Table Bool
  lineKeys : Table Nat
  keyed    : Table Nat
deriving DecidableEq, Repr

/-- A dispatch held by the controller (R296 to R301): its record and header copies, its tables, the attempts run, the
faults counted, the next group to place, the domains bound, the slots its cdecls named, its snapshot pages with the
content copied; `order` is its place in acceptance order, `ran` the cores its groups have run on, `colls` the collectives
that a kill found queued or running, by die, communicator and attempt. -/
structure Dispatch where
  mailbox   : Nat
  entry     : Nat
  slot      : Nat
  record    : BitVec 2048
  header    : BitVec 256
  buds      : List Nat
  windows   : List (BitVec 256)
  attempts  : Nat
  nfault    : Nat
  faddr     : Nat
  bound     : List (List Nat)
  nextRank  : Nat
  live      : Nat
  started   : Bool
  startEnded : Bool
  order     : Nat
  ran       : List Nat
  colls     : List (Nat × Nat × BitVec 16)
  named     : List Nat
  pages     : Table (Option PageImage)
  phase     : DispatchPhase
deriving DecidableEq, Repr

/-- What the save area holds of a saved group beside its registers (R315, R316): the slot it left, its store bytes, empty and
poisoned granules by offset from its base, the transfers held at its barriers in order of holding (R233), its accumulator banks and
tiles. The group and its warps stand under a number
that is no core's (log entry 33). -/
structure SavedGroup where
  group     : Nat
  left      : Nat
  store     : Table Byte
  empty     : Table Bool
  poison    : Table Bool
  held      : List Held
  banks     : Table Bank
  acc       : Table Word
  accPoison : Table Bool
deriving DecidableEq, Repr

/-- Mailboxes, context slots, apertures, dispatches, the number of the next one, and saved contexts. -/
structure Ctl where
  mailboxes   : Table Mailbox
  nextMailbox : Nat
  slots       : Table Slot
  apertures   : Table Aperture
  dispatches  : Table Dispatch
  nextDispatch : Nat
  saves       : Table (List SavedGroup)
deriving DecidableEq, Repr

/-! ### The module -/

/-- The start record (R354): NSTART, LASTFAIL, ALT, STAT of each step and unit entries. -/
structure StartRecord where
  nstart   : Word
  lastFail : Byte
  alt      : BitVec 12
  stat     : Table Nat
  units    : List Double
deriving DecidableEq, Repr

/-- Module flash (R348, R354, R356): PEND, the start record, both configuration records, and full resets since manufacture. -/
structure Flash where
  pend     : Bool
  start    : StartRecord
  config   : ConfigRecord
  config2  : ConfigRecord
  resets   : Nat
deriving DecidableEq, Repr

/-- A connection or session of an SPDM responder (R339): the transcript since the last signature, whether an activation ended
while it held entries (R341), the serial number of its keys, and the rt of its latest heartbeat. -/
structure Session where
  transcript : List Nat
  stale      : Bool
  keys       : Nat
  beat       : Nat
deriving DecidableEq, Repr

/-- An interface's SPDM responder (R339): its connection and its sessions. -/
structure Responder where
  conn     : Session
  sessions : Table Session
deriving DecidableEq, Repr

/-- An interface's IDE stream (R342, R343): 0 none, 1 keyed, 2 Insecure; which key set is in use and its keys, the keys of the other
set once they are programmed, and the bound world. -/
structure Ide where
  state : Nat
  set   : Bool
  keys  : IdeKeys
  next  : Option IdeKeys
  world : Nat
deriving DecidableEq, Repr

/-- A response or an interrupt that leaves the module: what the outside world is given (log entry 3). -/
inductive Output
  | msix (iface vec : Nat)
  | read (iface : Nat) (bytes : List Byte) (poisoned : Bool)
  | unsupported (iface : Nat)
  | busy (iface : Nat)
  | resynch (iface : Nat)
  | unexpected (iface : Nat)
  | notSupported (iface : Nat)
  | versions (iface : Nat) (l : List Nat)
  | capabilities (iface : Nat) (l : List SpdmCap)
  | algorithms (iface vendor asym hash group aead : Nat)
  | register (iface : Nat) (value : Double)
  | measurements (iface : Nat) (blocks : List (Nat × Nat)) (signature : Option (BitVec 768))
  | certificate (iface : Nat) (chain : List Byte)
  | challenge (iface : Nat) (nonce : BitVec 256) (signature : BitVec 768)
  | session (iface : Nat) (id : Option Nat)
  | ack (iface : Nat)
  | receipt (iface : Nat) (bytes : List Byte)
  | controller (value : List Nat)
deriving DecidableEq, Repr

/-- The last scrub's receipt without its nonce (R350, R351). -/
structure Receipt where
  oldMode : Nat
  newMode : Nat
  frames  : Nat
  retired : List Double
  failed  : List Double
deriving DecidableEq, Repr

/-- State of the module as a whole (R337 to R359): power, held failed, the step of a start in progress with the failures
that it and the starts after it will meet and the record that it writes, the units that it has found in the start record and that are
absent until the next one (R355), TRUSTSTAT's fields, the mode that its scrub brings (R348), whether it scrubs, flash, the
configuration record in force (R357), responders, streams, world keys by world, the other modules of the pod with the keys of the links to
them (R2, R345), the measured runtime (0 the flash image, n + 1 one of digest n) and the one that an activation brings, the receipt, sensors, and what has been given to the outside world. -/
structure Module where
  power       : Bool
  heldFailed  : Bool
  startAt     : Option Nat
  fails       : List StepFail
  record      : StartRecord
  absent      : List Double
  scrub       : Bool
  act         : Bool
  actSince    : Nat
  mode        : Bool
  newMode     : Bool
  scrubbing   : Bool
  flash       : Flash
  config      : ConfigRecord
  responders  : Table Responder
  ide         : Table Ide
  worldKeys   : Table Nat
  pod         : Table Nat
  keySerial   : Nat
  activations : Word
  runtime     : Nat
  newRuntime  : Nat
  receipt     : Option Receipt
  sensors     : Sensors
  outbox      : List Output
deriving DecidableEq, Repr

/-- The whole machine. -/
structure State where
  time  : Time
  sched : Sched
  mem   : Mem
  comp  : Comp
  dies  : Table Die
  eng   : Eng
  ctl   : Ctl
  mod   : Module
deriving DecidableEq, Repr

/-! ### After reset -/

/-- The rated die: core 7 of cluster sites 0 to 7 disabled, so 136 of 144 cores (R1, R357; log entry 6). -/
def ratedCores : BitVec 144 :=
  BitVec.ofNat 144 (2 ^ 144 - 1 - (2 ^ 7 + 2 ^ 15 + 2 ^ 23 + 2 ^ 31 + 2 ^ 39 + 2 ^ 47 + 2 ^ 55 + 2 ^ 63))

/-- The configuration record that the model's flash holds (R356; log entry 6). -/
def ratedConfig : ConfigRecord :=
  { magic := 0x5A434647, version := 1, serial := 0, dieMask := 0xFFFFFFFF, fmax := 1800, lthr := 64, scrubp := 40,
    clean := true, signed := true,
    dies := (List.range 32).map fun _ => { cores := ratedCores, slices := 0xFFFFFFFF, hbmStacks := 3, links := 0x7F }
    signature := 0 }

/-- The start record at its reset values (R354). -/
def StartRecord.reset : StartRecord := { nstart := 0, lastFail := 0xFF, alt := 0, stat := [], units := [] }

/-- A link in use (R331). -/
def Link.reset (inUse : Bool) : Link :=
  { inUse := inUse, failed := false, rerouted := false, retraining := none, replays := [], failures := [] }

/-- The clock of a die at reset: 1,800 MHz (R335). -/
def Clock.reset : Clock :=
  { fmhz := 1800, fmax := 1800, base := 0, since := 0, stepping := none, windowStart := 0, windowLate := 0, lateCores := [],
    quietSince := 0, hot := false, coolSince := 0 }

/-- Counters at reset (R335). -/
def Counts.reset : Counts :=
  { routeGen := 0, retired := 0, corrected := 0, late := 0, dropped := 0, replays := 0, retCores := 0 }

/-- A die at reset with the units that a configuration gives it (R335, R336). -/
def Die.reset (enabled : Bool) (c : DieConfig) : Die :=
  { enabled := enabled, cores := c.cores, slices := c.slices, hbmStacks := c.hbmStacks,
    links := (List.range 7).map fun i => (i, Link.reset (c.links.toNat.testBit i)),
    clock := Clock.reset,
    scrub := { period := 2 ^ 40, inFlight := [], frameErrors := [], retired := [] },
    counts := Counts.reset, lthr := 64, ring := [], ringSeq := 0, records := [], walks := [], comms := [], tokens := [],
    waiting := [], orders := 0, pause := none, rerouting := [], routes := [],
    inReroute := false }

/-- A core at reset (R16): store zero and full, level-1 size 64 KiB. -/
def Core.reset : Core :=
  { store := [], empty := [], poison := [], pl1sz := 1, l1sz := 1, level1 := [], tlb := [], queue := [], held := [], ldws := [],
    watch := [], banks := [], acc := [], accPoison := [], worlds := [] }

/-- The dies of the module at reset. -/
def diesReset : Table Die :=
  ratedConfig.dies.zipIdx.map fun (c, d) => (d, Die.reset true c)

/-- Trap registers of a new warp (log entry 5). -/
def TrapRegs.reset : TrapRegs :=
  { cause := 0, clause := 0, index := 0, addr := 0, lanes := 0, code := 0, stat := 0, raddr := 0, ridx := 0, pcs := [] }

/-- A warp when it is created, before its preloads (R22, R23, R30): no thread runs yet. -/
def Warp.reset : Warp :=
  { v := [], k := [], pcs := [], mrs := [], preds := [], status := [], heldCv := [], cvs := [], ops := [], seq := 0,
    pendLong := [], pendStore := [], pendFlags := 0, fpst := 0, scales := [], trap := TrapRegs.reset, handler := false, exits := 0,
    faults := [], resume := none, issuePc := 0, phase := .between, readyAt := 0, passed := 0, yhint := false, yielded := false,
    parks := false,
    withdrawn := [], onReturn := [], rejoin := none, resumed := none, buds := [], byFault := false }

/-- A root engine at reset. -/
def Root.reset : Root := { front := [], queue := [], ctxs := [], aborts := [], turn := 0 }

/-- A canopy engine at reset. -/
def Canopy.reset : Canopy := { front := [], queue := [], ctxs := [] }

/-- A cambium engine at reset. -/
def Cambium.reset : Cambium := { front := [], ends := [], slots := [] }

/-- A mailbox at reset (R292). -/
def Mailbox.reset : Mailbox := { base := 0, ctl := 0, head := 0, tail := 0, ctx := 0, serial := none }

/-- A context slot at reset (R304). -/
def Slot.reset : Slot :=
  { ctxid := 0, ptroot := 0, tvec := 0, tlbiva := 0, tlbictl := 0, ctxctl := 0, ctxsave := 0, resuming := false }

/-- An aperture at reset (R295). -/
def Aperture.reset : Aperture := { ctl := 0, base := 0 }

/-- A responder without a connection (R339). -/
def Responder.reset : Responder := { conn := { transcript := [], stale := false, keys := 0, beat := 0 }, sessions := [] }

/-- An interface without an IDE stream (R347). -/
def Ide.reset : Ide :=
  { state := 0, set := false, keys := { link := false, stream := 0, posted := 0, nonPosted := 0, completion := 0 },
    next := none, world := 0 }

/-- Nominal sensor readings (R359; log entry 6). -/
def Sensors.reset : Sensors := { junction := [], inlet := 25, flow := 30, power := 0 }

/-- The module right after a cold reset: SCRUB reads 1 and the start sequence is at step 0 (R347, R352, R353). -/
def State.reset : State :=
  { time := { now := 0, adjust := 0, floor := 0, lastMove := 0, fresh := 0 }
    sched := { agenda := [], agent := .quarter 0 }
    mem := { hbm := [], keyed := [], poison := [], versions := [], lineKeys := [], host := [], hostBad := [], paths := [] }
    comp := { cores := [], clauses := [], groups := [], cbars := [], warps := [], transfers := [], launched := 0 }
    dies := diesReset
    eng := { fences := [], roots := [], canopies := [], cambiums := [], reds := [], flights := [], locks := [], rounds := [] }
    ctl := { mailboxes := [], nextMailbox := 0, slots := [], apertures := [], dispatches := [], nextDispatch := 0, saves := [] }
    mod :=
      { power := true, heldFailed := false, startAt := some 0, fails := [], record := { StartRecord.reset with nstart := 1 },
        absent := [], scrub := true, act := false, actSince := 0,
        mode := false, newMode := false, scrubbing := false,
        flash := { pend := false, start := StartRecord.reset, config := ratedConfig, config2 := ratedConfig, resets := 1 }
        config := ratedConfig
        responders := [], ide := [], worldKeys := [], pod := [], keySerial := 0, activations := 0, runtime := 0, newRuntime := 0,
          receipt := none,
        sensors := Sensors.reset, outbox := [] } }

end Sys2Proof.Machine
end

