-- ==== Sys2Proof/Machine/Units.lean ====
section
/-! DEFINITION. Names of units, access to their records in State, time (R9, R188, R359), outputs and the ring
record (R336). -/

namespace Sys2Proof.Machine

/-! ### Names -/

/-- The group slot that holds a warp. -/
def groupOf (w : Nat) : Nat := w / 64
/-- The core that holds a group slot. -/
def coreOfGroup (g : Nat) : Nat := g / 64
/-- The core that holds a warp. -/
def coreOf (w : Nat) : Nat := w / 4096
/-- The die that holds a core. -/
def dieOfCore (c : Nat) : Nat := c / 256
/-- The cluster site of a core: 32 × die + ⌊core / 8⌋ (R2, R130). -/
def siteOf (c : Nat) : Nat := dieOfCore c * 32 + c % 256 / 8
/-- The die of a cluster site. -/
def dieOfSite (site : Nat) : Nat := site / 32
/-- The quarter that a warp runs on: (GSLOT + w) mod 4 (R197). -/
def quarterOf (w : Nat) : Nat := coreOf w * 4 + (groupOf w % 64 + w % 64) % 4
/-- The core of a quarter. -/
def coreOfQuarter (q : Nat) : Nat := q / 4
/-- The core numbers of a cluster site. -/
def coresOfSite (site : Nat) : List Nat := (List.range 8).map fun i => dieOfSite site * 256 + site % 32 * 8 + i

/-! ### Records -/

/-- A core. -/
def State.core (s : State) (c : Nat) : Core := tget Core.reset s.comp.cores c
/-- Changes a core. A saved group stands under a number that is no core's, so that nothing changes a core for it
(log entry 33). -/
def State.onCore (s : State) (c : Nat) (f : Core → Core) : State :=
  if 2 ^ 18 ≤ c then s
  else { s with comp := { s.comp with cores := tput s.comp.cores c (f (s.core c)) } }
/-- A group, if its slot holds one. -/
def State.group? (s : State) (g : Nat) : Option Group := tfind s.comp.groups g
/-- Changes a resident group. -/
def State.onGroup (s : State) (g : Nat) (f : Group → Group) : State :=
  { s with comp := { s.comp with groups := tmap f s.comp.groups g } }
/-- A warp, if its slot holds one. -/
def State.warp? (s : State) (w : Nat) : Option Warp := tfind s.comp.warps w
/-- A warp. -/
def State.warp (s : State) (w : Nat) : Warp := tget Warp.reset s.comp.warps w
/-- Changes a resident warp. -/
def State.onWarp (s : State) (w : Nat) (f : Warp → Warp) : State :=
  { s with comp := { s.comp with warps := tmap f s.comp.warps w } }
/-- Changes the running clause of a quarter. -/
def State.onClause (s : State) (q : Nat) (f : Clause → Clause) : State :=
  { s with comp := { s.comp with clauses := tmap f s.comp.clauses q } }
/-- A die of the pod; a die that the module does not hold is absent. -/
def State.die (s : State) (d : Nat) : Die :=
  tget (Die.reset false { cores := 0, slices := 0, hbmStacks := 0, links := 0 }) s.dies d
/-- Changes a die of the module. -/
def State.onDie (s : State) (d : Nat) (f : Die → Die) : State := { s with dies := tmap f s.dies d }
/-- A root engine. -/
def State.root (s : State) (r : Nat) : Root := tget Root.reset s.eng.roots r
/-- Changes a root engine. -/
def State.onRoot (s : State) (r : Nat) (f : Root → Root) : State :=
  { s with eng := { s.eng with roots := tput s.eng.roots r (f (s.root r)) } }
/-- A canopy engine. -/
def State.canopy (s : State) (e : Nat) : Canopy := tget Canopy.reset s.eng.canopies e
/-- Changes a canopy engine. -/
def State.onCanopy (s : State) (e : Nat) (f : Canopy → Canopy) : State :=
  { s with eng := { s.eng with canopies := tput s.eng.canopies e (f (s.canopy e)) } }
/-- A cambium engine. -/
def State.cambium (s : State) (c : Nat) : Cambium := tget Cambium.reset s.eng.cambiums c
/-- Changes a cambium engine. -/
def State.onCambium (s : State) (c : Nat) (f : Cambium → Cambium) : State :=
  { s with eng := { s.eng with cambiums := tput s.eng.cambiums c (f (s.cambium c)) } }
/-- A dispatch held by the controller. -/
def State.dispatch? (s : State) (d : Nat) : Option Dispatch := tfind s.ctl.dispatches d
/-- Changes a dispatch. -/
def State.onDispatch (s : State) (d : Nat) (f : Dispatch → Dispatch) : State :=
  { s with ctl := { s.ctl with dispatches := tmap f s.ctl.dispatches d } }
/-- A context slot's registers. -/
def State.slot (s : State) (n : Nat) : Slot := tget Slot.reset s.ctl.slots n
/-- Changes a context slot's registers. -/
def State.onSlot (s : State) (n : Nat) (f : Slot → Slot) : State :=
  { s with ctl := { s.ctl with slots := tput s.ctl.slots n (f (s.slot n)) } }
/-- A mailbox's registers. -/
def State.mailbox (s : State) (m : Nat) : Mailbox := tget Mailbox.reset s.ctl.mailboxes m
/-- Changes a mailbox's registers. -/
def State.onMailbox (s : State) (m : Nat) (f : Mailbox → Mailbox) : State :=
  { s with ctl := { s.ctl with mailboxes := tput s.ctl.mailboxes m (f (s.mailbox m)) } }
/-- Changes a transfer. -/
def State.onTransfer (s : State) (t : Nat) (f : Transfer → Transfer) : State :=
  { s with comp := { s.comp with transfers := tmap f s.comp.transfers t } }
/-- Removes a transfer. -/
def State.dropTransfer (s : State) (t : Nat) : State :=
  { s with comp := { s.comp with transfers := tdel s.comp.transfers t } }
/-- The responder of an interface. -/
def State.responder (s : State) (i : Nat) : Responder := tget Responder.reset s.mod.responders i
/-- The IDE stream of an interface. -/
def State.ideOf (s : State) (i : Nat) : Ide := tget Ide.reset s.mod.ide i

/-- The context slot of a group. -/
def State.ctxOfWarp (s : State) (w : Nat) : Nat :=
  match s.group? (groupOf w) with
  | some g => g.slot
  | none => 0

/-- The dispatch of a warp's group. -/
def State.dispatchOfWarp (s : State) (w : Nat) : Nat :=
  match s.group? (groupOf w) with
  | some g => g.dispatch
  | none => 0

/-- The valid bit of a context slot (R304). -/
def Slot.valid (x : Slot) : Bool := bitOf x.ctxid.toNat 31
/-- The context identifier of a slot (R304). -/
def Slot.ident (x : Slot) : Nat := bits x.ctxid.toNat 15 0
/-- The world of a slot (R304). -/
def Slot.world (x : Slot) : Nat := bits x.ctxid.toNat 21 16

/-- The warps of a context slot resident on a core. -/
def State.warpsOn (s : State) (core slot : Nat) : List (Nat × Warp) :=
  s.comp.warps.filter fun (w, _) => coreOf w = core && s.ctxOfWarp w = slot

/-- The group slots of a dispatch. -/
def State.groupsOf (s : State) (d : Nat) : List (Nat × Group) :=
  s.comp.groups.filter fun (_, g) => g.dispatch = d

/-- The warps of a dispatch. -/
def State.warpsOf (s : State) (d : Nat) : List (Nat × Warp) :=
  s.comp.warps.filter fun (w, _) => s.dispatchOfWarp w = d && (s.group? (groupOf w)).isSome

/-! ### Time -/

/-- The rt count (R188, R359): a tick is 18 nominal clk (R9). -/
def State.rt (s : State) : Nat := max s.time.floor ((s.time.now / 18 : Nat) + s.time.adjust).toNat

/-- Core cycles of a die since module reset (R188, R330). -/
def State.clk (s : State) (d : Nat) : Nat :=
  let c := (s.die d).clock
  c.base + (s.time.now - c.since) * c.fmhz / 1800

/-- Lets nominal clk pass. -/
def State.pass (s : State) (dt : Nat) : State := { s with time := { s.time with now := s.time.now + dt } }

/-- A free value, and the state that will give another one next (log entry 2). -/
def State.free (s : State) : Nat × State :=
  (Config.free s.time.fresh, { s with time := { s.time with fresh := s.time.fresh + 1 } })

/-! ### Outputs and the ring record -/

/-- Gives the outside world an output (log entry 3). -/
def State.output (s : State) (o : Output) : State := { s with mod := { s.mod with outbox := s.mod.outbox ++ [o] } }

/-- Writes an event into a die's ring record with its data (R336; log entry 10: the layout of DATA is not stated). -/
def State.ring (s : State) (d code ctx : Nat) (data : List Nat) : State :=
  let ts := s.rt
  s.onDie d fun x =>
    let e := BitVec.ofNat 256 (ts % 2 ^ 64 * 2 ^ 192 + x.ringSeq % 2 ^ 32 * 2 ^ 160 + d % 1024 * 2 ^ 150 +
      code % 2 ^ 16 * 2 ^ 128 + ctx % 2 ^ 16 * 2 ^ 112 + Config.ringData code data % 2 ^ 112)
    { x with ring := tset 0 x.ring (x.ringSeq % 4096) e, ringSeq := (x.ringSeq + 1) % 2 ^ 32 }

/-- A context slot's identifier, for the ring record. -/
def State.ident (s : State) (slot : Nat) : Nat := (s.slot slot).ident

/-! ### Availability -/

/-- The module has been released by a start: until then it accepts no dispatch, and its interfaces answer only
configuration requests (R353, R355, R358). -/
def State.live (s : State) : Bool := s.mod.power && !s.mod.heldFailed && !s.mod.scrub

/-- The unit list of the start record disables an interface (R353, R355; log entry 6). -/
def State.ifaceDown (s : State) (i : Nat) : Bool := s.mod.absent.contains (Config.interfaceUnit i)

/-- An interface takes accesses to memory and registers: the module is released and the interface enabled (R353, R355). -/
def State.ifaceLive (s : State) (iface : Nat) : Bool := s.live && decide (iface < 4) && !s.ifaceDown iface

/-- A request may arrive as it does (R342, R343): inside the stream under the key set in use or the next one, while the stream is keyed;
outside it, in standard mode or where the interface has no stream. -/
def State.streamOk (s : State) (p : HostPort) : Bool :=
  let x := s.ideOf p.iface
  match p.stream with
  | none => !(s.mod.mode && x.state ≠ 0)
  | some k => x.state = 1 && (k = x.set || x.next.isSome)

/-- A host request to registers or memory takes effect. -/
def State.portOpen (s : State) (p : HostPort) : Bool := s.ifaceLive p.iface && s.streamOk p

/-- Changes an interface's stream. -/
def State.onIde (s : State) (iface : Nat) (f : Ide → Ide) : State :=
  { s with mod := { s.mod with ide := tset Ide.reset s.mod.ide iface (f (s.ideOf iface)) } }

/-- A request under the next key set ends acceptance of the one before it (R342). -/
def Ide.switch (x : Ide) : Ide :=
  match x.next with
  | some k => if x.state = 1 then { x with set := !x.set, keys := k, next := none } else x
  | none => x

/-- What a request that takes effect does to its interface's stream. -/
def State.useStream (s : State) (p : HostPort) : State :=
  match p.stream with
  | some k => if k = (s.ideOf p.iface).set then s else s.onIde p.iface Ide.switch
  | none => s

/-- The die of the pod exists and is enabled (R334). -/
def State.dieUp (s : State) (d : Nat) : Bool := (s.die d).enabled

/-- The core is enabled and not retired (R326, R334). -/
def State.coreUp (s : State) (c : Nat) : Bool :=
  s.dieUp (dieOfCore c) && c % 256 < 144 && (s.die (dieOfCore c)).cores.toNat.testBit (c % 256)

/-- A link of a die is in use and has not failed (R331). -/
def State.linkUp (s : State) (d l : Nat) : Bool :=
  match tfind (s.die d).links l with
  | some x => x.inUse && !x.failed
  | none => false

/-- A link of a die carries packets: while it retrains they wait (R331). -/
def State.linkPasses (s : State) (d l : Nat) : Bool :=
  match tfind (s.die d).links l with
  | some x => x.inUse && !x.failed && x.retraining.isNone
  | none => false

/-- The die at the other end of a link within the module (R264): 0 bridge, 1 to 4 the torus. -/
def linkPeer (d l : Nat) : Nat :=
  let chip := d / 2 % 16
  let x := chip % 4
  let y := chip / 4
  let at' (x y : Nat) := d / 32 * 32 + (y % 4 * 4 + x % 4) * 2 + d % 2
  match l with
  | 0 => d / 2 * 2 + (1 - d % 2)
  | 1 => at' (x + 1) y
  | 2 => at' (x + 3) y
  | 3 => at' x (y + 1)
  | 4 => at' x (y + 3)
  | _ => d

/-- The number of the link at its other end. -/
def linkBack (l : Nat) : Nat :=
  match l with
  | 1 => 2
  | 2 => 1
  | 3 => 4
  | 4 => 3
  | n => n

/-! ### Routes (R264, R265, R332) -/

/-- The die to which a link leads on the way to a target: a pod plane leads to the die of the same index in the target's module
(R264). -/
def hopTo (d l t : Nat) : Nat := if l < 5 then linkPeer d l else t / 32 * 32 + d % 32

/-- The links that a hop uses: the one it leaves by and the one it arrives by. -/
def hopLinks (d l t : Nat) : List (Nat × Nat) := [(d, l), (hopTo d l t, linkBack l)]

/-- The links that a route to a target uses. -/
def routeLinks (t : Nat) (path : List (Nat × Nat)) : List (Nat × Nat) := path.flatMap fun (d, l) => hopLinks d l t

/-- The link by which a request leaves a die for another die of its module (R265). -/
def nextHop (d t : Nat) : Option Nat :=
  let c := d % 32 / 2
  let e := t % 32 / 2
  let dx := (e % 4 + 4 - c % 4) % 4
  let dy := (e / 4 + 4 - c / 4) % 4
  if dx ≠ 0 then some (if dx = 3 then 2 else 1)
  else if dy ≠ 0 then some (if dy = 3 then 4 else 3)
  else if d % 2 ≠ t % 2 then some 0
  else none

/-- The links of a request's route within a module, as die and link number (R265). -/
def routeWithin : Nat → Nat → Nat → List (Nat × Nat)
  | 0, _, _ => []
  | n + 1, d, t =>
    match nextHop d t with
    | none => []
    | some l => (d, l) :: routeWithin n (linkPeer d l) t

/-- The route from a die to another (R265): to a die of another module it leaves by the pod plane of the target's index. -/
def route (d t : Nat) : List (Nat × Nat) :=
  if d / 32 = t / 32 then routeWithin 6 d t
  else
    let via := d / 32 * 32 + t % 32
    routeWithin 6 d via ++ [(via, 5 + t / 32 % 2)]

/-- A route leads from a die to another by links of a kind. -/
def routeLeads (up : Nat → Nat → Bool) (t : Nat) : Nat → List (Nat × Nat) → Bool
  | d, [] => d = t
  | d, (e, l) :: path => d = e && (hopLinks d l t).all (fun h => up h.1 h.2) && routeLeads up t (hopTo d l t) path

/-- One round of the search for a route: what the dies of a list lead to, with the way there. -/
def searchStep (up : Nat → Nat → Bool) (t : Nat) (seen : List (Nat × List (Nat × Nat))) : List (Nat × List (Nat × Nat)) :=
  seen.foldl (fun acc (d, path) =>
    (List.range 7).foldl (fun acc l =>
      let e := hopTo d l t
      if (hopLinks d l t).all (fun h => up h.1 h.2) && !acc.any fun x => x.1 = e then acc ++ [(e, path ++ [(d, l)])]
      else acc) acc) seen

/-- The dies that links of a kind reach from a die on the way to a target, each with a shortest way, in at most n rounds. -/
def searchFrom (up : Nat → Nat → Bool) (t : Nat) : Nat → List (Nat × List (Nat × Nat)) → List (Nat × List (Nat × Nat))
  | 0, seen => seen
  | n + 1, seen =>
    let more := searchStep up t seen
    if more.length = seen.length then seen else searchFrom up t n more

/-- A shortest route between two dies by links of a kind, the lowest links first. -/
def searchRoute (up : Nat → Nat → Bool) (d t : Nat) : Option (List (Nat × Nat)) :=
  if d = t then some [] else ((searchFrom up t 64 [(d, [])]).find? fun x => x.1 = t).map Prod.snd

/-- A link is one that the configuration has, failed since or not. -/
def State.linkInUse (s : State) (d l : Nat) : Bool :=
  match tfind (s.die d).links l with
  | some x => x.inUse
  | none => false

/-- The route of a pair in the current generation (R265, R332): the one that Greux chose, that of R265, or, where the configuration
lacks a link of it, a shortest one (log entry 61). -/
def State.pathOf (s : State) (d t : Nat) : List (Nat × Nat) :=
  match tfind (s.die d).routes t with
  | some path => path
  | none =>
    if routeLeads s.linkInUse t d (route d t) then route d t else (searchRoute s.linkInUse d t).getD []

/-- A route leads from one die to another (R332, R334). -/
def State.reachable (s : State) (a b : Nat) : Bool :=
  s.dieUp b && (a = b || routeLeads s.linkUp b a (s.pathOf a b) || (searchRoute s.linkUp a b).isSome)

/-- The unit of a die, beside its 18 cluster sites, for its engines, responses and collective packets. -/
def fabricUnit : Nat := 31

/-- The pair of a source unit and a target die, as the source die's reroute names it (R332). -/
def pairKey (unit target : Nat) : Nat := unit % 32 * 1024 + target

/-- Packets on the route from a die to another wait in their buffers: a link of it retrains or has failed (R331, R332). A die that no
route reaches holds nothing: an access to it faults. -/
def State.routeWaits (s : State) (d t : Nat) : Bool :=
  d ≠ t && s.reachable d t && !routeLeads s.linkPasses t d (s.pathOf d t)

/-- New packets of a unit of a die to another die wait: a reroute holds the pair, or those on its route wait (R332). -/
def State.pairWaits (s : State) (unit d t : Nat) : Bool :=
  (d ≠ t && s.reachable d t && (tfind (s.die d).rerouting (pairKey unit t)).isSome) || s.routeWaits d t

/-- Engines of a die have a held pair, so that its cambium engines wait (R332; log entry 61). -/
def State.enginesWait (s : State) (d : Nat) : Bool :=
  (s.die d).rerouting.any fun (k, _) => k / 1024 = fabricUnit

/-- A request and its response wait on their way between a unit of a die and another die (R331, R332). -/
def State.tripWaits (s : State) (unit d t : Nat) : Bool := s.pairWaits unit d t || s.pairWaits fabricUnit t d

end Sys2Proof.Machine
end

