-- ==== Sys2Proof/Machine/Operands.lean ====
section
/-! DEFINITION. Operand forms: what a code reads as a source and does as a destination (R19, R20), the operand
checks of R61 (R17, R19, R20), predicates and guards (R22, R66, R80). -/

namespace Sys2Proof

/-- A type whose operands are pairs (R35, R70). -/
def Ty.wide : Ty → Bool
  | .f64 | .s64 | .n64 => true
  | _ => false

/-- A type that is read as signed. -/
def Ty.signed : Ty → Bool
  | .s8 | .s16 | .s32 | .s64 => true
  | _ => false

/-- Bits of one element of a type (R35). -/
def Ty.bits : Ty → Nat
  | .e2m1 => 4
  | .e4m3 | .e5m2 | .e8m0 | .s8 | .n8 => 8
  | .bf16 | .f16 | .s16 | .n16 => 16
  | .f32 | .s32 | .n32 => 32
  | .f64 | .s64 | .n64 => 64

/-- Bytes that a memory access of a type moves for one lane (R134). -/
def Ty.bytes (t : Ty) : Nat := max 1 (t.bits / 8)

/-- A value of a type as an exact integer: ext(x) of R96. -/
def Ty.int (t : Ty) (n : Nat) : Int := if t.signed then Machine.toSigned t.bits n else n % 2 ^ t.bits

/-- The range of an integer type (R96). -/
def Ty.minInt (t : Ty) : Int := if t.signed then -(2 ^ (t.bits - 1) : Nat) else 0
/-- The range of an integer type (R96). -/
def Ty.maxInt (t : Ty) : Int := if t.signed then (2 ^ (t.bits - 1) : Nat) - 1 else (2 ^ t.bits : Nat) - 1

/-- An exact integer delivered in a type: clamped with .sat, wrapped without (R96). -/
def Ty.deliver (t : Ty) (sat : Bool) (i : Int) : Nat :=
  Machine.wrap t.bits (if sat then Machine.clampInt t.minInt t.maxInt i else i)

/-- A code that names a vector register (R157). -/
def Opnd.isVector : Opnd → Bool
  | .v _ => true
  | _ => false

end Sys2Proof

namespace Sys2Proof.Machine

/-- The 32-bit value that a source code gives a lane (R19). -/
def Warp.src (W : Warp) (wid : Nat) (o : Opnd) (l : Nat) : Word :=
  match o with
  | .v n => tget 0 W.v (32 * n.val + l)
  | .k n => tget 0 W.k n.val
  | .zero => 0
  | .laneid => BitVec.ofNat 32 l
  | .warpid => BitVec.ofNat 32 (wid % 64)
  | .ones => 0xFFFFFFFF
  | .bad _ => 0

/-- The 64-bit value that a source code gives a lane (R20). -/
def Warp.src64 (W : Warp) (wid : Nat) (o : Opnd) (l : Nat) : Double :=
  match o with
  | .v n => tget 0 W.v (32 * (n.val + 1) + l) ++ tget 0 W.v (32 * n.val + l)
  | .k n => tget 0 W.k (n.val + 1) ++ tget 0 W.k n.val
  | .zero => 0
  | .laneid => BitVec.ofNat 64 l
  | .warpid => BitVec.ofNat 64 (wid % 64)
  | .ones => 0xFFFFFFFFFFFFFFFF
  | .bad _ => 0

/-- A source of either width as a number. -/
def Warp.srcN (W : Warp) (wid : Nat) (wide : Bool) (o : Opnd) (l : Nat) : Nat :=
  if wide then (W.src64 wid o l).toNat else (W.src wid o l).toNat

/-- Writes one lane of a vector register. -/
def Warp.putV (W : Warp) (n l : Nat) (x : Word) : Warp := { W with v := tset 0 W.v (32 * n + l) x }

/-- Writes a uniform register. -/
def Warp.putK (W : Warp) (n : Nat) (x : Word) : Warp := { W with k := tset 0 W.k n x }

/-- Writes a 32-bit result in the active lanes of a destination (R19). -/
def Warp.dst (W : Warp) (o : Opnd) (act : LaneSet) (f : Nat → Word) : Warp :=
  match o with
  | .v n => (lanesOf act).foldl (fun V l => V.putV n.val l (f l)) W
  | .k n =>
    match lowest act with
    | some l => W.putK n.val (f l)
    | none => W
  | _ => W

/-- Writes a 64-bit result in the active lanes of a destination pair (R17, R19, R20). -/
def Warp.dst64 (W : Warp) (o : Opnd) (act : LaneSet) (f : Nat → Double) : Warp :=
  match o with
  | .v n =>
    (lanesOf act).foldl
      (fun V l => (V.putV n.val l ((f l).extractLsb' 0 32)).putV (n.val + 1) l ((f l).extractLsb' 32 32)) W
  | .k n =>
    match lowest act with
    | some l => (W.putK n.val ((f l).extractLsb' 0 32)).putK (n.val + 1) ((f l).extractLsb' 32 32)
    | none => W
  | _ => W

/-- Writes a result of either width given as a number. -/
def Warp.dstN (W : Warp) (wide : Bool) (o : Opnd) (act : LaneSet) (f : Nat → Nat) : Warp :=
  if wide then W.dst64 o act fun l => BitVec.ofNat 64 (f l) else W.dst o act fun l => BitVec.ofNat 32 (f l)

/-! ### Operand checks -/

/-- One operand of an instruction: its code, whether it is a pair, whether it is written. -/
structure Use where
  o     : Opnd
  wide  : Bool
  write : Bool
deriving DecidableEq, Repr

/-- A 32-bit or 64-bit source. -/
def rd (o : Opnd) (wide : Bool := false) : Use := { o := o, wide := wide, write := false }
/-- A 32-bit or 64-bit destination. -/
def wr (o : Opnd) (wide : Bool := false) : Use := { o := o, wide := wide, write := true }

/-- The illegal-operand condition of R19 and R20. -/
def Use.illegal (u : Use) : Bool :=
  match u.o with
  | .v n => u.wide && n.val % 2 = 1
  | .k n => u.wide && n.val % 2 = 1
  | .zero => false
  | .laneid | .warpid | .ones => u.write
  | .bad _ => true

/-- The register-range condition of R17 and R20. -/
def Use.outOfRange (nreg : Nat) (u : Use) : Bool :=
  match u.o with
  | .v n => nreg ≤ n.val || (u.wide && nreg ≤ n.val + 1)
  | _ => false

/-- The first failing operand check of R61, as a cause of R312: 2 illegal operand, 3 register range. -/
def operandFault (nreg : Nat) (us : List Use) : Option Nat :=
  if us.any Use.illegal then some 2
  else if us.any (Use.outOfRange nreg) then some 3
  else none

/-! ### Predicates and guards -/

/-- The lanes in which a predicate is true; p7 reads as true (R22). -/
def Warp.pred (W : Warp) (p : Fin 8) : LaneSet := if p.val = 7 then allLanes else tget 0 W.preds p.val

/-- Writes a predicate in active lanes; a write to p7 is discarded (R22). -/
def Warp.putPred (W : Warp) (p : Fin 8) (act value : LaneSet) : Warp :=
  if p.val = 7 then W
  else { W with preds := tset 0 W.preds p.val ((tget 0 W.preds p.val &&& ~~~act) ||| (value &&& act)) }

/-- The lanes in which a guard is true (R66). -/
def Warp.guardSet (W : Warp) (g : Guard) : LaneSet := if g.neg then ~~~(W.pred g.pred) else W.pred g.pred

/-- Status of a thread (R22). -/
def Warp.statusOf (W : Warp) (l : Nat) : Status := tget .exited W.status l

/-- Changes the status of a thread. -/
def Warp.setStatus (W : Warp) (l : Nat) (x : Status) : Warp := { W with status := tset .exited W.status l x }

/-- The running threads of a warp. -/
def Warp.running (W : Warp) : LaneSet := laneSet fun l => W.statusOf l = .running

/-- The threads of a warp that have not exited. -/
def Warp.unexited (W : Warp) : LaneSet := laneSet fun l => W.statusOf l ≠ .exited

/-- pc of a thread (R22). -/
def Warp.pcOf (W : Warp) (l : Nat) : Nat := tget 0 W.pcs l

/-- mr of a thread (R22). -/
def Warp.mrOf (W : Warp) (l : Nat) : Nat := tget 0 W.mrs l

/-- A convergence register (R23). -/
def Warp.cv (W : Warp) (n : Nat) : Double := tget 0 W.cvs n

/-- The declared set and the signed set of a convergence register (R23). -/
def Warp.cvSets (W : Warp) (n : Nat) : LaneSet × LaneSet := ((W.cv n).extractLsb' 0 32, (W.cv n).extractLsb' 32 32)

/-- Writes a convergence register. -/
def Warp.putCv (W : Warp) (n : Nat) (x : Double) : Warp := { W with cvs := tset 0 W.cvs n x }

/-- cvN is complete: the signed set covers the declared set (R83). -/
def Warp.cvComplete (W : Warp) (n : Nat) : Bool := (W.cvSets n).1 &&& ~~~(W.cvSets n).2 = 0

end Sys2Proof.Machine
end

