-- ==== Sys2Proof/Machine/Flags.lean ====
section
/-! DEFINITION. The exception flags of FPST (R109, R110): a set of conditions and how it enters FPST. -/

namespace Sys2Proof.Machine

/-- Conditions met by an operation (R110). -/
structure Flags where
  nv : Bool := false
  dz : Bool := false
  of : Bool := false
  uf : Bool := false
  nx : Bool := false
deriving DecidableEq, Repr

/-- Conditions met by either of two operations. -/
def Flags.or (a b : Flags) : Flags :=
  { nv := a.nv || b.nv, dz := a.dz || b.dz, of := a.of || b.of, uf := a.uf || b.uf, nx := a.nx || b.nx }

/-- The bits of FPST that a set of conditions sets (R109). -/
def Flags.word (f : Flags) : Word :=
  BitVec.ofNat 32 (b2n f.nv + 2 * b2n f.dz + 4 * b2n f.of + 8 * b2n f.uf + 16 * b2n f.nx)

/-- Conditions met by any of a list of operations. -/
def Flags.all (l : List Flags) : Flags := l.foldl Flags.or {}

/-- Sets flags; none is ever cleared here (R110). -/
def Warp.flag (W : Warp) (f : Flags) : Warp := { W with fpst := W.fpst ||| f.word }

/-- An sset of FPST keeps bits 31:5 zero (R109). -/
def Warp.setFpst (W : Warp) (x : Word) : Warp := { W with fpst := x &&& 0x1F }

end Sys2Proof.Machine
end

