-- ==== Sys2Proof/Machine/Float.lean ====
section
/-! DEFINITION. Floating-point formats, exact values and rounding: R32 to R42 (spec/02_number_formats.md). -/

namespace Sys2Proof.Machine

/-- A format of R32: exponent bits, mantissa bits, bias, whether it has infinities, its largest finite code and its
canonical NaN (R36). e2m1 has no NaN; a NaN converted to it gives 0 (R40). -/
structure Fmt where
  expBits : Nat
  manBits : Nat
  bias    : Int
  hasInf  : Bool
  maxCode : Nat
  nan     : Nat
deriving DecidableEq, Repr

/-- f64 (R32). -/
def f64Fmt : Fmt := ⟨11, 52, 1023, true, 0x7FEFFFFFFFFFFFFF, 0x7FF8000000000000⟩
/-- f32 (R32). -/
def f32Fmt : Fmt := ⟨8, 23, 127, true, 0x7F7FFFFF, 0x7FC00000⟩
/-- bf16 (R32). -/
def bf16Fmt : Fmt := ⟨8, 7, 127, true, 0x7F7F, 0x7FC0⟩
/-- f16 (R32). -/
def f16Fmt : Fmt := ⟨5, 10, 15, true, 0x7BFF, 0x7E00⟩
/-- e5m2 (R32). -/
def e5m2Fmt : Fmt := ⟨5, 2, 15, true, 0x7B, 0x7F⟩
/-- e4m3 (R32). -/
def e4m3Fmt : Fmt := ⟨4, 3, 7, false, 0x7E, 0x7F⟩
/-- e2m1 (R32, R40). -/
def e2m1Fmt : Fmt := ⟨2, 1, 1, false, 0x7, 0x0⟩

/-- The format of a floating-point type. -/
def fmtOf : Ty → Fmt
  | .f64 => f64Fmt
  | .bf16 => bf16Fmt
  | .f16 => f16Fmt
  | .e5m2 => e5m2Fmt
  | .e4m3 => e4m3Fmt
  | .e2m1 => e2m1Fmt
  | _ => f32Fmt

/-- Bits of a value of the format below its sign. -/
def Fmt.width (f : Fmt) : Nat := f.expBits + f.manBits

/-- The sign bit of a format as a number. -/
def Fmt.signBit (f : Fmt) : Nat := 2 ^ f.width

/-- The exponent of the last place of subnormals. -/
def Fmt.minExp (f : Fmt) : Int := 1 - f.bias - f.manBits

/-- A value: NaN, infinity, or (−1)^neg × m × 2^e exactly. -/
inductive Fl
  | nan (signalling : Bool)
  | inf (neg : Bool)
  | num (neg : Bool) (m : Nat) (e : Int)
deriving DecidableEq, Repr

/-- The value of a code of a format (R32, R36). -/
def Fl.decode (f : Fmt) (w : Nat) : Fl :=
  let neg := bitOf w f.width
  let x := w / 2 ^ f.manBits % 2 ^ f.expBits
  let m := w % 2 ^ f.manBits
  if f.hasInf then
    if x = 2 ^ f.expBits - 1 then
      if m = 0 then .inf neg else .nan (!(bitOf m (f.manBits - 1)))
    else if x = 0 then .num neg m f.minExp
    else .num neg (m + 2 ^ f.manBits) (f.minExp + x - 1)
  else if f.nan ≠ 0 ∧ w % f.signBit = f.nan then .nan false
  else if x = 0 then .num neg m f.minExp
  else .num neg (m + 2 ^ f.manBits) (f.minExp + x - 1)

/-- The value of an element of a type: e8m0 has its own form (R32), integer types are exact. -/
def valueOf (t : Ty) (w : Nat) : Fl :=
  match t with
  | .e8m0 => if w % 256 = 255 then .nan false else .num false 1 ((w % 256 : Nat) - 127)
  | .s8 | .s16 | .s32 | .s64 | .n8 | .n16 | .n32 | .n64 =>
    let i := t.int w
    .num (i < 0) i.natAbs 0
  | _ => Fl.decode (fmtOf t) w

/-- A code of a format with its sign. -/
def Fmt.signed (f : Fmt) (neg : Bool) (code : Nat) : Nat := code + b2n neg * f.signBit

/-- Infinity of a format, or its largest finite value where it has none (R40). -/
def Fmt.infCode (f : Fmt) : Nat := if f.hasInf then f.maxCode + 1 else f.maxCode

/-- Whether the discarded part of a magnitude rounds it up (R38): `r` is the kept part, `rem` the rest out of 2^sh. -/
def roundsUp (rnd : Rnd) (neg : Bool) (r rem sh : Nat) : Bool :=
  match rnd with
  | .rn => 2 ^ sh < 2 * rem || (2 * rem = 2 ^ sh && r % 2 = 1 && rem ≠ 0)
  | .rz => false
  | .rp => rem ≠ 0 && !neg
  | .rm => rem ≠ 0 && neg

/-- The magnitude m × 2^e rounded to a multiple of 2^q: the multiple, and whether it is inexact. -/
def roundAt (rnd : Rnd) (neg : Bool) (m : Nat) (e q : Int) : Nat × Bool :=
  if q ≤ e then (m * 2 ^ (e - q).toNat, false)
  else
    let sh := (q - e).toNat
    let r := m / 2 ^ sh
    let rem := m % 2 ^ sh
    (r + b2n (roundsUp rnd neg r rem sh), rem ≠ 0)

/-- The code that an overflow gives (R40). -/
def overflowCode (f : Fmt) (rnd : Rnd) (sat neg : Bool) : Nat :=
  if sat || !f.hasInf then f.maxCode
  else
    match rnd with
    | .rn => f.infCode
    | .rz => f.maxCode
    | .rp => if neg then f.maxCode else f.infCode
    | .rm => if neg then f.infCode else f.maxCode

/-- A nonzero magnitude m × 2^e rounded once to a format, with its conditions (R37, R38, R40, R110). -/
def roundNum (f : Fmt) (rnd : Rnd) (sat neg : Bool) (m : Nat) (e : Int) : Nat × Flags :=
  if m = 0 then (f.signed neg 0, {})
  else
    let top : Int := Nat.log2 m + e
    let free := top - f.manBits
    let q := max free f.minExp
    let (r, inexact) := roundAt rnd neg m e q
    let code := ((q - f.minExp).toNat) * 2 ^ f.manBits + r
    if f.maxCode < code then (f.signed neg (overflowCode f rnd sat neg), { of := true, nx := true })
    else
      let tiny := decide (free < f.minExp) &&
        decide ((roundAt rnd neg m e free).1 < 2 ^ (f.minExp + f.manBits - free).toNat)
      (f.signed neg code, { uf := tiny && inexact, nx := inexact })

/-- A value delivered in a format: conversions of R40, with a NaN made canonical (R36). -/
def roundFl (f : Fmt) (rnd : Rnd) (sat : Bool) : Fl → Nat × Flags
  | .nan sig => (f.nan, { nv := sig || f.nan = 0 })
  | .inf neg =>
    if f.hasInf && !sat then (f.signed neg f.infCode, {}) else (f.signed neg f.maxCode, { nv := true })
  | .num neg m e => roundNum f rnd sat neg m e

/-- The signed integer of a number at a common exponent e0 ≤ e. -/
def atExp (neg : Bool) (m : Nat) (e e0 : Int) : Int :=
  let v : Int := m * 2 ^ (e - e0).toNat
  if neg then -v else v

/-- An exact sum delivered in a format: `i` × 2^e, with the sign of an exact zero given (R37). -/
def roundInt (f : Fmt) (rnd : Rnd) (zeroNeg : Bool) (i e : Int) : Nat × Flags :=
  if i = 0 then (f.signed zeroNeg 0, {}) else roundNum f rnd false (i < 0) i.natAbs e

/-- Invalid: the canonical NaN with NV. -/
def invalid (f : Fmt) : Nat × Flags := (f.nan, { nv := true })

/-- Some operand is a signalling NaN. -/
def Fl.isSignalling : Fl → Bool
  | .nan s => s
  | _ => false

/-- The value is a NaN. -/
def Fl.isNan : Fl → Bool
  | .nan _ => true
  | _ => false

/-- The value is a NaN or an infinity. -/
def Fl.isSpecial : Fl → Bool
  | .num .. => false
  | _ => true

/-- Negation flips the sign (R107). -/
def Fl.negIf (n : Bool) : Fl → Fl
  | .nan s => .nan s
  | .inf neg => .inf (neg ^^ n)
  | .num neg m e => .num (neg ^^ n) m e

/-- The exact product of two values; none for ∞ × 0 (R111). -/
def mulFl : Fl → Fl → Option Fl
  | .nan s, .nan t => some (.nan (s || t))
  | .nan s, y => some (.nan (s || y.isSignalling))
  | x, .nan t => some (.nan (t || x.isSignalling))
  | .inf a, .inf b => some (.inf (a ^^ b))
  | .inf a, .num b m _ => if m = 0 then none else some (.inf (a ^^ b))
  | .num a m _, .inf b => if m = 0 then none else some (.inf (a ^^ b))
  | .num a m e, .num b n d => some (.num (a ^^ b) (m * n) (e + d))

/-- The exact sum of two values rounded once (R37, R111). -/
def addFl (f : Fmt) (rnd : Rnd) : Fl → Fl → Nat × Flags
  | .nan s, y => (f.nan, { nv := s || y.isSignalling })
  | x, .nan t => (f.nan, { nv := t || x.isSignalling })
  | .inf a, .inf b => if a = b then (f.signed a f.infCode, {}) else invalid f
  | .inf a, .num .. => (f.signed a f.infCode, {})
  | .num .., .inf b => (f.signed b f.infCode, {})
  | .num a m e, .num b n d =>
    let e0 := min e d
    let zero := if m = 0 ∧ n = 0 ∧ a = b then a else rnd = .rm
    roundInt f rnd zero (atExp a m e e0 + atExp b n d e0) e0

/-- a × b + c rounded once; ∞ × 0 is invalid even with a quiet NaN c (R110, R111). -/
def fmaFl (f : Fmt) (rnd : Rnd) (a b c : Fl) : Nat × Flags :=
  match mulFl a b with
  | none => invalid f
  | some p => addFl f rnd p c

/-- a × b rounded once (R111). -/
def mulRound (f : Fmt) (rnd : Rnd) (a b : Fl) : Nat × Flags :=
  match mulFl a b with
  | none => invalid f
  | some p => roundFl f rnd false p

/-- The exact value of a number compared with another: −1, 0 or 1, −0 and +0 equal; NaN is not compared. -/
def cmpFl : Fl → Fl → Int
  | .inf a, .inf b => if a = b then 0 else if a then -1 else 1
  | .inf a, _ => if a then -1 else 1
  | _, .inf b => if b then 1 else -1
  | .num a m e, .num b n d =>
    let e0 := min e d
    let x := atExp a m e e0
    let y := atExp b n d e0
    if x < y then -1 else if x = y then 0 else 1
  | _, _ => 0

/-- The sign bit of a value. -/
def Fl.sign : Fl → Bool
  | .nan _ => false
  | .inf n => n
  | .num n _ _ => n

/-- x orders below y, −0 below +0 (R113). -/
def below (x y : Fl) : Bool := cmpFl x y < 0 || (cmpFl x y = 0 && x.sign && !y.sign)

/-- min or max of two codes of a format (R113). -/
def minMax (f : Fmt) (isMax nan : Bool) (a b : Nat) : Nat × Flags :=
  let x := Fl.decode f a
  let y := Fl.decode f b
  let fl : Flags := { nv := x.isSignalling || y.isSignalling }
  if x.isNan && y.isNan then (f.nan, fl)
  else if x.isNan then (if nan then f.nan else b, fl)
  else if y.isNan then (if nan then f.nan else a, fl)
  else (if below x y = isMax then b else a, fl)

/-- A condition of R114 and its NV condition. -/
def FCond.judge (c : FCond) (x y : Fl) : Bool × Flags :=
  let un := x.isNan || y.isNan
  let s := cmpFl x y
  let sig := x.isSignalling || y.isSignalling
  let quiet (r : Bool) : Bool × Flags := (r, { nv := sig })
  let loud (r : Bool) : Bool × Flags := (r, { nv := un })
  match c with
  | .eq => quiet (!un && s = 0)
  | .ne => quiet (un || s ≠ 0)
  | .lt => loud (!un && s < 0)
  | .le => loud (!un && s ≤ 0)
  | .gt => loud (!un && 0 < s)
  | .ge => loud (!un && 0 ≤ s)
  | .ord => quiet (!un)
  | .uno => quiet un
  | .ltu => quiet (un || s < 0)
  | .leu => quiet (un || s ≤ 0)
  | .gtu => quiet (un || 0 < s)
  | .geu => quiet (un || 0 ≤ s)

/-- The class bit of R117. -/
def classOf (f : Fmt) (w : Nat) : Nat :=
  match Fl.decode f w with
  | .nan true => 8
  | .nan false => 9
  | .inf true => 0
  | .inf false => 7
  | .num neg m _ =>
    if m = 0 then (if neg then 3 else 4)
    else if m < 2 ^ f.manBits then (if neg then 2 else 5)
    else (if neg then 1 else 6)

/-! ### Correctly rounded functions (R118) -/

/-- The integer square root of n, from k bits down. -/
def isqrt (n : Nat) : Nat → Nat → Nat
  | 0, r => r
  | k + 1, r => if (r + 2 ^ k) * (r + 2 ^ k) ≤ n then isqrt n k (r + 2 ^ k) else isqrt n k r

/-- A positive rational n / d with a folded sticky bit: a magnitude of at least 2^70 whose last bit says whether it is
inexact, and its exponent. -/
def quotient (n d : Nat) : Nat × Int :=
  let k := 72 + Nat.log2 d
  let q := n * 2 ^ k / d
  (2 * q + b2n (n * 2 ^ k % d ≠ 0), -(k : Int) - 1)

/-- The square root of m × 2^e with a folded sticky bit. -/
def rootOf (m : Nat) (e : Int) : Nat × Int :=
  let odd := e % 2 = 1
  let m := if odd then 2 * m else m
  let e := if odd then e - 1 else e
  let n := m * 2 ^ 144
  let r := isqrt n (Nat.log2 n / 2 + 1) 0
  (2 * r + b2n (r * r ≠ n), e / 2 - 73)

/-- fsqrt and dsqrt (R118, R120). -/
def sqrtFl (f : Fmt) (rnd : Rnd) : Fl → Nat × Flags
  | .nan s => (f.nan, { nv := s })
  | .inf true => invalid f
  | .inf false => (f.infCode, {})
  | .num neg m e =>
    if m = 0 then (f.signed neg 0, {})
    else if neg then invalid f
    else
      let (r, d) := rootOf m e
      roundNum f rnd false false r d

/-- frcp and drcp (R118, R120). The reciprocal of a subnormal is the correctly rounded value of R118: it overflows only where that
value is out of range (log entry 64). -/
def rcpFl (f : Fmt) (rnd : Rnd) : Fl → Nat × Flags
  | .nan s => (f.nan, { nv := s })
  | .inf neg => (f.signed neg 0, {})
  | .num neg m e =>
    if m = 0 then (f.signed neg f.infCode, { dz := true })
    else
      let (q, d) := quotient 1 m
      roundNum f rnd false neg q (d - e)

/-! ### Conversions (R41, R42, R122, R123) -/

/-- A number rounded to an integer under a rounding code, and whether it was inexact. -/
def toInteger (rnd : Rnd) (neg : Bool) (m : Nat) (e : Int) : Int × Bool :=
  let (r, x) := roundAt rnd neg m e 0
  (if neg then -(r : Int) else r, x)

/-- A conversion to an integer type (R41, R123). -/
def toInt (t : Ty) (rnd : Rnd) : Fl → Nat × Flags
  | .nan _ => (0, { nv := true })
  | .inf neg => (wrap t.bits (if neg then t.minInt else t.maxInt), { nv := true })
  | .num neg m e =>
    let (i, x) := toInteger rnd neg m e
    if i < t.minInt then (wrap t.bits t.minInt, { nv := true })
    else if t.maxInt < i then (wrap t.bits t.maxInt, { nv := true })
    else (wrap t.bits i, { nx := x })

end Sys2Proof.Machine
end

