-- ==== Sys2Proof/Machine/Combine.lean ====
section
/-! DEFINITION. What an atomic, reduction, fxadd, fxrd or nins computes at its location: R48 to R51, R143, R144, R146 to R148. -/

namespace Sys2Proof.Machine

/-- The new value of a location of an element type: `m` the old value, `x` the operand, `b` the compare value (R143,
R144). -/
def atomicFn (i : Instr) (ty : Ty) (m x b : Nat) : Nat :=
  let n := ty.bits
  let least (isMax : Bool) : Nat :=
    if ty = .f32 then (minMax f32Fmt isMax false m x).1
    else if isMax then (if ty.int m < ty.int x then x else m) else (if ty.int x < ty.int m then x else m)
  match i with
  | .atadd .. | .redadd .. =>
    if ty = .f32 then (addFl f32Fmt .rn (Fl.decode f32Fmt m) (Fl.decode f32Fmt x)).1 else (m + x) % 2 ^ n
  | .atmin .. | .redmin .. => least false
  | .atmax .. | .redmax .. => least true
  | .atand .. | .redand .. => m &&& x
  | .ator .. | .redor .. => m ||| x
  | .atxor .. | .redxor .. => m ^^^ x
  | .atexch .. => x
  | .atcas .. => if m = b then x else m
  | _ => m

/-- A 32-bit integer addition, which barrier words treat in their own way (R232, R233). -/
def isAdd32 (i : Instr) (ty : Ty) : Bool :=
  match i with
  | .atadd .. | .redadd .. => ty = .s32 || ty = .n32
  | _ => false

/-- The multiple of 2^−120 that fxadd adds; none for a NaN or an infinity (R49, R146). -/
def sumInput (ty : Ty) (w : Nat) : Option Int :=
  match valueOf ty (w % 2 ^ ty.bits) with
  | .num neg m e =>
    let (r, _) := roundAt .rn neg m e (-120)
    some (if neg then -(r : Int) else r)
  | _ => none

/-- The exact value of a sum cell (R48). -/
def cellValue (cell : Nat) : Fl :=
  let i := toSigned 256 cell
  .num (i < 0) i.natAbs (-120)

/-- A sum cell read as a number of a type (R51, R123). -/
def cellRead (ty : Ty) (rnd : Rnd) (cell : Nat) : Nat × Flags :=
  match ty with
  | .f32 | .f64 => roundFl (fmtOf ty) rnd false (cellValue cell)
  | _ => toInt ty rnd (cellValue cell)

/-- The bytes that an atomic of any form leaves at its location: an element, a sum cell or a byte (R143, R146, R148). -/
def atomicBytes (i : Instr) (ty : Ty) (old : List Byte) (x b : Nat) : List Byte :=
  match i with
  | .fxadd .. => toBytes 32 (wrap 256 ((ofBytes old : Nat) + (sumInput ty x).getD 0))
  | .nins .. =>
    let m := ofBytes old
    toBytes 1 (if b % 2 = 0 then m / 16 * 16 + x % 16 else m % 16 + x % 16 * 16)
  | _ => toBytes old.length (atomicFn i ty (ofBytes old) x b)

end Sys2Proof.Machine
end

