-- ==== Sys2Proof/Machine/Memory.lean ====
section
/-! DEFINITION. Where bytes live: HBM at its home (R211 to R213, R323, R325, R346), translation (R305 to R308), the
core store with its areas, granules and register window (R13 to R18, R28, R136, R283), and barriers (R231 to R233). -/

namespace Sys2Proof.Machine

/-! ### HBM at its home -/

/-- The home die of a physical address (R211). -/
def homeDie (pa : Nat) : Nat := pa / 2 ^ 44 % 1024

/-- The home slice of a line (R212). -/
def homeSlice (pa : Nat) : Nat :=
  (((((((bits pa 11 7) ^^^ (bits pa 16 12)) ^^^ (bits pa 21 17)) ^^^ (bits pa 26 22)) ^^^ (bits pa 31 27)) ^^^
    (bits pa 36 32)) ^^^ (bits pa 41 37)) ^^^ (bits pa 43 42)

/-- The number under which the scrambler knows the cache slice of an address, beside those of the cores (R344). -/
def sliceUnit (pa : Nat) : Nat := 2 ^ 18 + homeDie pa * 32 + homeSlice pa

/-- Bytes of HBM that a die has: 48 GiB a stack (R211, R334). -/
def State.hbmSize (s : State) (d : Nat) : Nat := popCount 2 (s.die d).hbmStacks.toNat * 48 * 2 ^ 30

/-- The serial number of the key that a world's lines are written under in confidential mode; 0 for none (R345). -/
def State.keyOf (s : State) (world : Nat) : Nat := tget 0 s.mod.worldKeys world

/-- A line that a world cannot read: its MAC fails under the world's key (R345, R346). -/
def State.badLine (s : State) (world pa : Nat) : Bool :=
  s.mod.mode && (tget 0 s.mem.lineKeys (pa / 128) ≠ s.keyOf world || s.keyOf world = 0)

/-- A sector that reads as poisoned to a world (R325, R346). -/
def State.poisoned (s : State) (world pa : Nat) : Bool := tget false s.mem.poison (pa / 32) || s.badLine world pa

/-- One byte of HBM as its home holds it; an unlisted byte reads 0 (log entry 4). -/
def State.hbmByte (s : State) (pa : Nat) : Byte := tget 0 s.mem.hbm pa

/-- What the scrambler adds to a byte of an on-chip memory that one world wrote and another reads (R344). -/
def reseen (writer reader unit place : Nat) (b : Byte) : Byte :=
  if writer = reader then b else b ^^^ Config.scrambler writer unit place ^^^ Config.scrambler reader unit place

/-- One byte of HBM as a world reads it at its home: scrambled while a cache slice holds it under another world's key (R344; log
entry 79). -/
def State.seenByte (s : State) (world pa : Nat) : Byte :=
  match tget 0 s.mem.keyed pa with
  | 0 => s.hbmByte pa
  | n + 1 => reseen n world (sliceUnit pa) pa (s.hbmByte pa)

/-- Reads n bytes at a physical address, and whether any of their sectors is poisoned. -/
def State.hbmRead (s : State) (world pa n : Nat) : List Byte × Bool :=
  ((List.range n).map fun i => s.seenByte world (pa + i), (List.range n).any fun i => s.poisoned world (pa + i))

/-- Retires a 64 KiB frame (R328). -/
def State.retireFrame (s : State) (die frame : Nat) : State :=
  if tget false (s.die die).scrub.retired frame then s
  else
    (s.onDie die fun d =>
      { d with
        scrub := { d.scrub with retired := tset false d.scrub.retired frame true }
        counts := { d.counts with retired := d.counts.retired + 1 } }).ring die 0x05 0 [frame * 65536]

/-- Marks a sector as poisoned and retires its frame (R325, R328). -/
def State.markSector (s : State) (sector : Nat) : State :=
  let die := homeDie (sector * 32)
  let s := { s with mem := { s.mem with poison := tset false s.mem.poison sector true } }
  (s.ring die 0x02 0 [0, sector * 32]).retireFrame die (sector / 2048)

/-- The sectors of the lines that hold n bytes at an address. -/
def lineSectors (pa n : Nat) : List Nat :=
  (List.range (4 * ((pa + n + 127) / 128 - pa / 128))).map (pa / 128 * 4 + ·)

/-- An access whose lines fail their MAC finds them uncorrectable: their sectors are marked (R346). -/
def State.checkMac (s : State) (world pa n : Nat) : State :=
  if s.mod.mode then
    (lineSectors pa n).foldl (fun s k =>
      if s.badLine world (k * 32) && !tget false s.mem.poison k then s.markSector k else s) s
  else s

/-- Stores one byte of HBM. -/
def State.putHbm (s : State) (pa : Nat) (b : Byte) : State :=
  { s with mem := { s.mem with hbm := tset 0 s.mem.hbm pa b } }

/-- In standard mode the cache slices hold written bytes under the writer's key (R344). -/
def State.keySlices (s : State) (world : Nat) (addrs : List Nat) : State :=
  if s.mod.mode then s
  else { s with mem := { s.mem with keyed := addrs.foldl (fun t a => tset 0 t a (world + 1)) s.mem.keyed } }

/-- A cache slice gives a sector up: HBM holds it in plain in standard mode (R344, R345). -/
def State.evictSlice (s : State) (sector : Nat) : State :=
  { s with mem := { s.mem with keyed := s.mem.keyed.filter fun e => e.1 / 32 ≠ sector } }

/-- Every byte from a first address on, n of them, is among the addresses of a write. -/
def covers (addrs : List Nat) (first n : Nat) : Bool := (List.range n).all fun i => addrs.contains (first + i)

/-- Applies one write at its home (R323, R327, R346): bytes with their physical addresses. A write that covers a whole
sector clears its poison mark; a partial write to a poisoned sector keeps the mark and its bytes are lost; a write that
covers a whole line puts it under the writer's key, and a partial one to a line whose MAC fails marks it. -/
def State.hbmWrite (s : State) (world : Nat) (bytes : List (Nat × Byte)) : State :=
  let addrs := bytes.map Prod.fst
  let lines := (addrs.map (· / 128)).eraseDups
  let s := lines.foldl (fun s n =>
    if s.mod.mode && covers addrs (n * 128) 128 then
      { s with mem := { s.mem with lineKeys := tset 0 s.mem.lineKeys n (s.keyOf world) } }
    else s.checkMac world (n * 128) 128) s
  (addrs.map (· / 32)).eraseDups.foldl (fun s n =>
    let whole := covers addrs (n * 32) 32
    let bad := s.badLine world (n * 32) || (tget false s.mem.poison n && !whole)
    let s :=
      { s with
        mem :=
          { s.mem with
            versions := tset 0 s.mem.versions n (tget 0 s.mem.versions n + 1)
            poison := if whole && !bad then tset false s.mem.poison n false else s.mem.poison } }
    let here := bytes.filter fun e => e.1 / 32 = n
    if bad then s else here.foldl (fun s e => s.putHbm e.1 e.2) (s.keySlices world (here.map Prod.fst))) s

/-- A page as its home holds it, for a snapshot (R300): its bytes, marks and keys (log entry 9). -/
def State.pageImage (s : State) (page : Nat) : PageImage :=
  { bytes := s.mem.hbm.filter fun e => e.1 / 65536 = page
    poison := s.mem.poison.filter fun e => e.1 / 2048 = page
    lineKeys := s.mem.lineKeys.filter fun e => e.1 / 512 = page
    keyed := s.mem.keyed.filter fun e => e.1 / 65536 = page }

/-- Copies each snapshot page of a dispatch that a write touches, before the write is performed (R300). -/
def State.snapshot (s : State) (dispatch : Nat) (addrs : List Nat) : State :=
  (addrs.map (· / 65536)).eraseDups.foldl (fun s page =>
    match s.dispatch? dispatch with
    | some d =>
      match tfind d.pages page with
      | some none =>
        let img := s.pageImage page
        s.onDispatch dispatch fun d => { d with pages := tput d.pages page (some img) }
      | _ => s
    | none => s) s

/-! ### Paths to homes (R215) -/

/-- The path from a cluster site to the home slice of an address. -/
def pathKey (site pa : Nat) : Nat := site * 32768 + homeDie pa * 32 + homeSlice pa

/-- Applies a write at its home, after the copy of each snapshot page it touches (R216, R300). -/
def State.applyWrite (s : State) (dispatch world : Nat) (bytes : List (Nat × Byte)) : State :=
  (s.snapshot dispatch (bytes.map Prod.fst)).hbmWrite world bytes

/-! ### Translation -/

/-- What an access needs of its page (R306). -/
inductive Need
  | read
  | write
  | fetch
deriving DecidableEq, Repr

/-- Low bits of a virtual address within a page at a level (R305). -/
def pageBits (level : Nat) : Nat := if level = 2 then 30 else if level = 1 then 21 else 16

/-- Index of a virtual address at a level (R305). -/
def levelIndex (level va : Nat) : Nat :=
  match level with
  | 4 => bits va 56 48
  | 3 => bits va 47 39
  | 2 => bits va 38 30
  | 1 => bits va 29 21
  | _ => bits va 20 16

/-- Low bits of ADDR that must be zero: a leaf's page size or the next table's alignment (R305, R306). -/
def entryAlign (level : Nat) (leaf : Bool) : Nat := if leaf then pageBits level else if level = 1 then 8 else 12

/-- A valid entry whose layout breaks R306. -/
def malformedEntry (e level : Nat) : Bool :=
  let leaf := bitOf e 1
  bits e 63 60 ≠ 0 || bits e 57 54 ≠ 0 || bits e 7 4 ≠ 0 ||
    (bits e 53 8 * 256) % 2 ^ entryAlign level leaf ≠ 0 ||
    (leaf && 3 ≤ level) || (!leaf && level = 0) || (!leaf && (bits e 59 58 ≠ 0 || bitOf e 3 || bitOf e 2))

/-- An entry found by a walk: its bits and its level. -/
structure Leaf where
  entry : Nat
  level : Nat
deriving DecidableEq, Repr

/-- The address checks that R211, R213, R334 add to a translation, as a sub-cause of R307. `die` is the die that makes
the access. -/
def State.addressFault (s : State) (die pa home : Nat) (need : Need) : Option Nat :=
  if ¬ s.reachable die (homeDie pa) then some 10
  else if s.hbmSize (homeDie pa) ≤ pa % 2 ^ 44 then some 5
  else if need = .write ∧ home = 2 then some 6
  else none

/-- Low bits of an address that an entry of a level leaves to the page or to the tables below (R305). -/
def levelBits (level : Nat) : Nat := if level = 4 then 48 else if level = 3 then 39 else pageBits level

/-- A cached entry that serves an address at a level (R308). -/
def walkFind (cache : List TlbEntry) (slot level va : Nat) : Option TlbEntry :=
  cache.find? fun e => e.slot = slot && e.size = levelBits level && e.va = va / 2 ^ e.size * 2 ^ e.size

/-- The entry of a table that serves an address at a level: the cached copy, or the entry in memory once it passes R306, or a
sub-cause of R307. -/
def State.tableEntry (s : State) (cache : List TlbEntry) (die slot va level table : Nat) : Except Nat Nat :=
  match walkFind cache slot level va with
  | some e => .ok e.entry.toNat
  | none =>
    let at' := table + 8 * levelIndex level va
    match s.addressFault die at' 0 .read with
    | some c => .error c
    | none =>
      let (b, bad) := s.hbmRead (s.slot slot).world at' 8
      let e := ofBytes b
      if bad then .error 7
      else if ¬ bitOf e 0 then .error 1
      else if malformedEntry e level then .error 4
      else .ok e

/-- The walk of R306 from a table at `table` down from a level: its entries by level, the leaf last, or a sub-cause of R307. -/
def State.walkFrom (s : State) (cache : List TlbEntry) (die slot va : Nat) : Nat → Nat → Except Nat (List Leaf)
  | level, table =>
    match s.tableEntry cache die slot va level table with
    | .error c => .error c
    | .ok e =>
      if bitOf e 1 then .ok [{ entry := e, level := level }]
      else
        match level with
        | 0 => .error 4
        | n + 1 =>
          match s.walkFrom cache die slot va n (bits e 53 8 * 256) with
          | .error c => .error c
          | .ok l => .ok ({ entry := e, level := n + 1 } :: l)

/-- The walk of a context slot's tables for a virtual address (R306). An address beyond 57 bits is not valid (log entry 40). -/
def State.walk (s : State) (cache : List TlbEntry) (die slot va : Nat) : Except Nat (List Leaf) :=
  if 2 ^ 57 ≤ va then .error 1
  else s.walkFrom cache die slot va 4 (bits (s.slot slot).ptroot.toNat 53 12 * 4096)

/-- The leaf at the end of a walk. -/
def leafOf (l : List Leaf) : Leaf := l.getLast?.getD { entry := 0, level := 0 }

/-- Whether a leaf allows an access, as a sub-cause of R307. -/
def leafFault (e : Nat) (need : Need) : Option Nat :=
  match need with
  | .read => none
  | .write => if bitOf e 2 then none else some 2
  | .fetch => if bitOf e 3 then none else some 3

/-- The physical address that a leaf maps a virtual address to. -/
def leafAddress (e level va : Nat) : Nat := bits e 53 8 * 256 + va % 2 ^ pageBits level

/-- A translated access: physical address and home code (R213). A failed slice makes its lines home code 3 (R334). -/
structure Phys where
  pa   : Nat
  home : Nat
deriving DecidableEq, Repr

/-- The home code that governs a line: a bypassed slice acts as never cached (R334). -/
def State.homeCode (s : State) (pa code : Nat) : Nat :=
  if (s.die (homeDie pa)).slices.toNat.testBit (homeSlice pa) then code else 3

/-- What a leaf gives an access from a die. -/
def State.useLeaf (s : State) (die va : Nat) (need : Need) (e level : Nat) : Except Nat Phys :=
  match leafFault e need with
  | some c => .error c
  | none =>
    let pa := leafAddress e level va
    let home := s.homeCode pa (bits e 59 58)
    match s.addressFault die pa home need with
    | some c => .error c
    | none => .ok { pa := pa, home := home }

/-- The walk for an access from a die through the die's walk cache (R308): a cached leaf that refuses the access is not trusted for
the refusal, and the tables are walked again without it. -/
def State.walkCached (s : State) (die slot va : Nat) (need : Need) : Except Nat (List Leaf) :=
  let cache := (s.die die).walks
  match s.walk cache die slot va with
  | .error c => .error c
  | .ok l =>
    if (leafFault (leafOf l).entry need).isNone then .ok l
    else s.walk (cache.filter fun e => !bitOf e.entry.toNat 1) die slot va

/-- The cached form of an entry of a walk for an address. -/
def Leaf.cached (f : Leaf) (slot va : Nat) : TlbEntry :=
  let n := levelBits f.level
  { slot := slot, va := va / 2 ^ n * 2 ^ n, size := n, entry := BitVec.ofNat 64 f.entry }

/-- Keeps the entries of a walk in a die's walk cache of 512 entries, the most recently used first (R308). -/
def State.fillWalks (s : State) (die slot va : Nat) (l : List Leaf) : State :=
  let new := l.map fun f => f.cached slot va
  s.onDie die fun d =>
    { d with walks := (new ++ d.walks.filter fun e => !new.any fun n => n.slot = e.slot && n.size = e.size && n.va = e.va).take 512 }

/-- Translation by an engine of a die (R306, R308): the entries of a successful walk, and what the leaf gives. -/
def State.translate (s : State) (die slot va : Nat) (need : Need) : Except Nat Phys :=
  match s.walkCached die slot va need with
  | .error c => .error c
  | .ok l => s.useLeaf die va need (leafOf l).entry (leafOf l).level

/-- A die's walk cache gives up a leaf that refuses an access (R308). -/
def State.dropRefused (s : State) (die slot va : Nat) (need : Need) : State :=
  s.onDie die fun d =>
    { d with
      walks := d.walks.filter fun e =>
        !(e.slot = slot && e.va = va / 2 ^ e.size * 2 ^ e.size && bitOf e.entry.toNat 1 && (leafFault e.entry.toNat need).isSome) }

/-- The address of the entry at which a walk from a table down meets an uncorrectable error, if it does (R306). -/
def State.walkBad (s : State) (cache : List TlbEntry) (die slot va : Nat) : Nat → Nat → Option Nat
  | level, table =>
    match s.tableEntry cache die slot va level table with
    | .error 7 => some (table + 8 * levelIndex level va)
    | .error _ => none
    | .ok e =>
      match level with
      | 0 => none
      | n + 1 => if bitOf e 1 then none else s.walkBad cache die slot va n (bits e 53 8 * 256)

/-- A walk that fails at an entry whose line fails its MAC marks that line (R346). -/
def State.markWalk (s : State) (die slot va : Nat) : State :=
  if 2 ^ 57 ≤ va then s
  else
    match s.walkBad (s.die die).walks die slot va 4 (bits (s.slot slot).ptroot.toNat 53 12 * 4096) with
    | some pa => s.checkMac (s.slot slot).world pa 8
    | none => s

/-- What a translation from a die leaves: its walk cache gives up a leaf that refused the access and keeps what the walk has found, and
a table entry whose MAC fails is marked (R308, R346; log entry 53). -/
def State.keepWalk (s : State) (die slot va : Nat) (need : Need) : State :=
  let s := s.dropRefused die slot va need
  match s.walkCached die slot va need with
  | .error _ => s.markWalk die slot va
  | .ok l => s.fillWalks die slot va l

/-- A cached entry that holds an address (R308). -/
def tlbFind (tlb : List TlbEntry) (slot va : Nat) : Option TlbEntry :=
  tlb.find? fun e => e.slot = slot && e.va = va / 2 ^ e.size * 2 ^ e.size

/-- Translation by a core through its TLB (R308): a copy that allows the access is used; one that refuses it is dropped
and the tables are walked again; a walk that succeeds fills the TLB and the die's walk cache. -/
def State.coreTranslate (s : State) (core slot va : Nat) (need : Need) : State × Except Nat Phys :=
  let die := dieOfCore core
  let cached := tlbFind (s.core core).tlb slot va
  let allows := match cached with
    | some t => (leafFault t.entry.toNat need).isNone
    | none => false
  match cached, allows with
  | some t, true => (s, s.useLeaf die va need t.entry.toNat (if t.size = 30 then 2 else if t.size = 21 then 1 else 0))
  | _, _ =>
    let s := (s.onCore core fun c => { c with tlb := c.tlb.filter fun e => some e ≠ cached }).dropRefused die slot va need
    match s.walkCached die slot va need with
    | .error c => (s.markWalk die slot va, .error c)
    | .ok l =>
      let f := leafOf l
      let s := s.fillWalks die slot va l
      (s.onCore core fun c => { c with tlb := (f.cached slot va :: c.tlb).take 2048 }, s.useLeaf die va need f.entry f.level)

/-! ### The core store -/

/-- What a byte of a group's reservation belongs to (R283). -/
inductive Area
  | register (warp n lane byte : Nat)
  | block (warp n byte : Nat)
  | scratchpad
  | barrier
  | rest
deriving DecidableEq, Repr

/-- Offset of a group's uniform blocks, scratchpad and barrier space from its base (R283). -/
def Group.blocks (g : Group) : Nat := g.wpg * g.nreg * 128
/-- Offset of a group's scratchpad from its base (R283). -/
def Group.scratch (g : Group) : Nat := g.blocks + g.wpg * 256
/-- Offset of a group's barrier space from its base (R283). -/
def Group.barriers (g : Group) : Nat := g.scratch + g.scrb

/-- The area of a byte at an offset from the group's base (R17, R18, R283). -/
def Group.area (g : Group) (o : Nat) : Area :=
  if o < g.blocks then .register (o / (g.nreg * 128)) (o % (g.nreg * 128) / 128) (o % 128 / 4) (o % 4)
  else if o < g.scratch then .block ((o - g.blocks) / 256) ((o - g.blocks) % 256 / 4) (o % 4)
  else if o < g.barriers then .scratchpad
  else if o < g.barriers + g.barb then .barrier
  else .rest

/-- The group whose reservation holds a byte of a core's store. -/
def State.groupAt (s : State) (core o : Nat) : Option (Nat × Group) :=
  s.comp.groups.find? fun (g, x) => coreOfGroup g = core && x.base ≤ o && o < x.base + x.size

/-- The group and area of a byte of a core's store. -/
def State.areaAt (s : State) (core o : Nat) : Option (Nat × Group × Area) :=
  (s.groupAt core o).map fun (g, x) => (g, x, x.area (o - x.base))

/-- A byte of a register area or uniform block (R28). -/
def Area.isRegister : Area → Bool
  | .register .. | .block .. => true
  | _ => false

/-- Every byte of a range lies in one group's reservation. -/
def Group.holds (g : Group) (o n : Nat) : Bool := g.base ≤ o && o + n ≤ g.base + g.size

/-- A range meets a group's register areas or uniform blocks. -/
def Group.meetsRegisters (g : Group) (o n : Nat) : Bool := overlaps o n g.base g.scratch

/-- A range lies wholly in a group's scratchpad. -/
def Group.inScratch (g : Group) (o n : Nat) : Bool := g.base + g.scratch ≤ o && o + n ≤ g.base + g.barriers

/-- A range lies wholly in a group's barrier space. -/
def Group.inBarriers (g : Group) (o n : Nat) : Bool :=
  g.base + g.barriers ≤ o && o + n ≤ g.base + g.barriers + g.barb

/-- A register's value as the warp's last boundary left it (R27, R136): the copy taken at the clause's start while the
warp runs a clause, the register itself otherwise. -/
def State.boundaryReg (s : State) (w : Nat) (uniform : Bool) (key : Nat) : Word :=
  match tfind s.comp.clauses (quarterOf w) with
  | some c =>
    if c.warp = w then (if uniform then tget 0 c.k key else tget 0 c.v key)
    else (if uniform then tget 0 (s.warp w).k key else tget 0 (s.warp w).v key)
  | none => if uniform then tget 0 (s.warp w).k key else tget 0 (s.warp w).v key

/-- One byte of a core's store; register bytes read as the register window gives them (R18, R28, R136). -/
def State.coreByte (s : State) (core o : Nat) : Byte :=
  match s.areaAt core o with
  | some (g, _, .register w n lane b) => (s.boundaryReg (g * 64 + w) false (32 * n + lane)).extractLsb' (8 * b) 8
  | some (g, _, .block w n b) => if n < 56 then (s.boundaryReg (g * 64 + w) true n).extractLsb' (8 * b) 8 else 0
  | _ => tget 0 (s.core core).store o

/-- The world under whose key a byte of a core's store was last seen; none since reset (R344). -/
def Core.worldAt (c : Core) (o : Nat) : Option Nat :=
  (c.worlds.find? fun (b, n, _) => b ≤ o && o < b + n).map fun (_, _, w) => w

/-- A stretch of a core's store comes under a world's key: bytes left under another world's key read scrambled (R344). -/
def State.takeStore (s : State) (core base n world : Nat) : State :=
  s.onCore core fun c =>
    let other (o : Nat) : Option Nat := (c.worldAt o).bind fun w => if w = world then none else some w
    { c with
      worlds := (base, n, world) :: c.worlds.filter fun (b, k, _) => !(base ≤ b && b + k ≤ base + n)
      store :=
        if c.worlds.all fun (b, k, w) => w = world || !overlaps b k base n then c.store
        else (List.range n).foldl (fun t i =>
          match other (base + i) with
          | none => t
          | some w =>
            tset 0 t (base + i) (reseen w world core (base + i) (tget 0 t (base + i))))
          c.store }

/-- Reads n bytes of a core's store, and whether any of their granules is poisoned (R322). -/
def State.coreRead (s : State) (core o n : Nat) : List Byte × Bool :=
  ((List.range n).map fun i => s.coreByte core (o + i),
    (List.range n).any fun i => tget false (s.core core).poison ((o + i) / 16))

/-- Records that the watchdog's conditions failed for a context slot on a core (R208). -/
def State.progress (s : State) (core slot : Nat) : State :=
  let t := s.clk (dieOfCore core)
  s.onCore core fun c => { c with watch := tput c.watch slot t }

/-- Holds a write to a register until the boundary, or makes it at once between clauses (R27, R64, R136). -/
def Warp.applyPending (W : Warp) (p : Pending) : Warp :=
  if p.uniform then W.putK p.key ((tget 0 W.k p.key &&& ~~~p.mask) ||| (p.value &&& p.mask))
  else { W with v := tset 0 W.v p.key ((tget 0 W.v p.key &&& ~~~p.mask) ||| (p.value &&& p.mask)) }

/-- A register-window store reaches the target warp (R27, R136); an empty slot of a bud warp keeps nothing (log entry 75). -/
def State.windowStore (s : State) (w : Nat) (p : Pending) : State :=
  s.onWarp w fun W =>
    if W.phase = .issuing then { W with pendStore := W.pendStore ++ [p] } else W.applyPending p

/-- Writes one byte of a core's store. -/
def State.putCore (s : State) (core o : Nat) (b : Byte) : State :=
  match s.areaAt core o with
  | some (g, _, .register w n lane i) =>
    s.windowStore (g * 64 + w)
      { uniform := false, key := 32 * n + lane, mask := 0xFF <<< (8 * i), value := (b.setWidth 32) <<< (8 * i) }
  | some (g, _, .block w n i) =>
    if n < 56 then
      s.windowStore (g * 64 + w)
        { uniform := true, key := n, mask := 0xFF <<< (8 * i), value := (b.setWidth 32) <<< (8 * i) }
    else s
  | _ => s.onCore core fun c => { c with store := tset 0 c.store o b }

/-- Marks a granule full (R15). -/
def State.fill (s : State) (core granule : Nat) : State :=
  s.onCore core fun c => { c with empty := tset false c.empty granule false }

/-- Applies one write at a core store (R15, R142, R323): its bytes by offset. Its granules become full; a write of a
whole granule clears the poison mark. -/
def State.coreWrite (s : State) (core : Nat) (bytes : List (Nat × Byte)) : State :=
  let addrs := bytes.map Prod.fst
  let s := bytes.foldl (fun s e => s.putCore core e.1 e.2) s
  (addrs.map (· / 16)).eraseDups.foldl (fun s g =>
    let s := s.fill core g
    let s := if covers addrs (g * 16) 16 then
      s.onCore core fun c => { c with poison := tset false c.poison g false } else s
    match s.groupAt core (g * 16) with
    | some (_, x) => s.progress core x.slot
    | none => s) s

/-- Every granule of a range is full; granules of register areas always are (R15). -/
def State.allFull (s : State) (core : Nat) (granules : List Nat) : Bool :=
  granules.all fun g => !(tget false (s.core core).empty g)

/-! ### Arrival barriers -/

/-- The bytes of a barrier as a number (R231). -/
def State.barrierWord (s : State) (core o i : Nat) : Nat := ofBytes (s.coreRead core (o + 4 * i) 4).1

/-- Writes word i of a barrier. -/
def State.putBarrier (s : State) (core o i v : Nat) : State :=
  s.coreWrite core ((toBytes 4 v).zipIdx.map fun (b, j) => (o + 4 * i + j, b))

/-- An arrival of n at a barrier (R232). -/
def State.arrive (s : State) (core o n : Nat) : State :=
  let expect := s.barrierWord core o 0
  let arrived := (s.barrierWord core o 1 + n) % 2 ^ 32
  if expect ≠ 0 ∧ expect ≤ arrived then
    let phase := (s.barrierWord core o 2 + 1) % 2
    (s.putBarrier core o 1 (arrived - expect)).putBarrier core o 2 phase
  else s.putBarrier core o 1 arrived

/-- The phase bit of a barrier (R231). -/
def State.barrierPhase (s : State) (core o : Nat) : Nat := s.barrierWord core o 2 % 2

/-- A 32-bit integer addition to a limit: it saturates below the unlimited value, which stays (R233). -/
def limitCredit (limit n : Nat) : Nat := if limit = 0xFFFFFFFF then limit else min 0xFFFFFFFE (limit + n)

/-- Adds n to the LIMIT of a barrier of a group that is saved, by the barrier's offset from the group's base (R233, R245). -/
def SavedGroup.credit (v : SavedGroup) (o n : Nat) : SavedGroup :=
  let limit := ofBytes ((List.range 4).map fun i => tget 0 v.store (o + 12 + i))
  { v with
    store := (toBytes 4 (limitCredit limit n)).zipIdx.foldl (fun t (b, i) => tset 0 t (o + 12 + i) b) v.store }

/-- Gives back the credit that a transfer's charge took, at the barrier of the group that holds it, saved or on its core (R233, R244,
R245). -/
def State.creditBack (s : State) (t : Transfer) : State :=
  match t.bar with
  | none => s
  | some o =>
    if !t.paid then s
    else if coreOfGroup t.barGroup < 2 ^ 18 then
      let core := coreOfGroup t.barGroup
      s.putBarrier core o 3 (limitCredit (s.barrierWord core o 3) t.size)
    else
      let base := match s.group? t.barGroup with
        | some g => g.base
        | none => 0
      { s with
        ctl :=
          { s.ctl with
            saves := s.ctl.saves.map fun (n, l) =>
              (n, l.map fun v => if v.group = t.barGroup then v.credit (o - base) t.size else v) } }

/-- Charges the transfers held at a barrier, in the order of holding, while its limit allows (R233). -/
def State.chargeHeld (s : State) (core o : Nat) : Nat → State
  | 0 => s
  | n + 1 =>
    match (s.core core).held.find? fun h => h.barrier = o with
    | none => s
    | some h =>
      let size := match tfind s.comp.transfers h.transfer with
        | some t => t.size
        | none => 0
      let limit := s.barrierWord core o 3
      if limit = 0xFFFFFFFF ∨ size ≤ limit then
        let s := if limit = 0xFFFFFFFF then s else s.putBarrier core o 3 (limit - size)
        let s := s.onCore core fun c => { c with held := c.held.filter fun x => x ≠ h }
        let s := s.onTransfer h.transfer fun t => { t with charged := true, paid := limit ≠ 0xFFFFFFFF }
        s.chargeHeld core o n
      else s

/-- Brings a transfer to its barrier: charged at once when nothing is held there and the limit allows, held otherwise
(R233). A transfer without a barrier is never charged. -/
def State.toBarrier (s : State) (t : Nat) : State :=
  match tfind s.comp.transfers t with
  | none => s
  | some x =>
    match x.bar with
    | none => s.onTransfer t fun x => { x with charged := true }
    | some o =>
      let core := coreOfGroup x.barGroup
      let s := s.onCore core fun c => { c with held := c.held ++ [{ barrier := o, transfer := t }] }
      s.chargeHeld core o ((s.core core).held.length)

end Sys2Proof.Machine
end

