-- ==== Sys2Proof/Machine/Ops.lean ====
section
/-! DEFINITION. The shared operations of a warp: counters and slots (R25, R26, R226), pending writes (R27, R64),
faults (R21, R132), issue of an instruction (R60 to R62), the clause boundary (R83), trap entry and return (R311, R313),
and when an access is performed at a scope (R216). -/

namespace Sys2Proof.Machine

/-- The outcome type of exec. -/
abbrev Result := Host.Outcome State Fault Refusal

/-! ### Counters and slots -/

/-- The outstanding counter of a class (R25). -/
def Warp.counter (W : Warp) (c : Nat) : Nat := (W.ops.filter fun o => o.cls = some c).length

/-- An operation is complete for its counter: it is done, or it is an atomic whose old values are in the pending writes
(R25, R226; log entry 50). -/
def Op.counts (o : Op) : Bool := o.done || o.landed

/-- Counts complete operations, oldest of each class first (R25, R226). `blocked` holds classes with an older operation
that is not complete. An atomic that is counted stays until its slot frees (R26). -/
def countDown (blocked : List Nat) : List Op → List Op
  | [] => []
  | o :: t =>
    match o.cls with
    | none => if o.done then countDown blocked t else o :: countDown blocked t
    | some c =>
      if o.counts && !blocked.contains c then
        if o.done then countDown blocked t else { o with cls := none } :: countDown blocked t
      else o :: countDown (if o.counts then blocked else c :: blocked) t

/-- A scoreboard slot is busy (R26). -/
def Warp.busy (W : Warp) (n : Nat) : Bool := W.ops.any fun o => o.slot = some n && !o.done

/-- The slot that an atomic takes: the one it names, or the lowest free one (R26). -/
def Warp.takeSlot (W : Warp) (named : Option (Fin 8)) : Option Nat :=
  match named with
  | some n => if W.busy n.val then none else some n.val
  | none => (List.range 8).find? fun n => !W.busy n

/-- An outstanding operation by its place in warp order. -/
def Warp.op? (W : Warp) (seq : Nat) : Option Op := W.ops.find? fun o => o.seq = seq

/-- Changes an outstanding operation. -/
def Warp.onOp (W : Warp) (seq : Nat) (f : Op → Op) : Warp :=
  { W with ops := W.ops.map fun o => if o.seq = seq then f o else o }

/-! ### Roles, descriptor, header -/

/-- The role of a warp of a group: 0 unrestricted, 1 copy, 2 matrix, 3 vector (R201). -/
def Group.role (g : Group) (i : Nat) : Nat :=
  let c := bits g.roles.toNat 7 0
  let m := bits g.roles.toNat 15 8
  let v := bits g.roles.toNat 23 16
  if i < c then 1 else if i < c + m then 2 else if i < c + m + v then 3 else 0

/-- WDESC of a warp (R24). -/
def Group.descriptor (g : Group) (place i : Nat) : Double :=
  BitVec.ofNat 64 (i % 64 * 2 ^ 52 + g.nreg * 2 ^ 44 + (g.base + i * g.nreg * 128) / 1024 * 2 ^ 30 +
    (g.base + g.blocks + 256 * i) / 256 * 2 ^ 18 + g.prio % 4 * 2 ^ 16 + g.role i * 2 ^ 14 + place % 64 * 2 ^ 8)

/-- Ports that a role admits (R59), as a mask of the PORTS field. -/
def rolePorts : Nat → Nat
  | 1 => 0b1011
  | 2 => 0b0111
  | 3 => 0b0111
  | _ => 0b1111

/-- A header fault: cause, sub-cause and address (R61, R307, R312). -/
structure HeaderFault where
  cause : Nat
  sub   : Nat
  addr  : Nat
  eaten : Bool
deriving DecidableEq, Repr

/-- Fetches one word of a clause through the core's TLB (R305, R325). -/
def State.fetchWord (s : State) (core slot va : Nat) : State × Except HeaderFault Nat :=
  match s.coreTranslate core slot va .fetch with
  | (s, .error c) => (s, .error { cause := 0x15, sub := c, addr := va, eaten := false })
  | (s, .ok p) =>
    let s := s.checkMac (s.slot slot).world p.pa 8
    let (b, bad) := s.hbmRead (s.slot slot).world p.pa 8
    if bad then (s, .error { cause := 0x15, sub := 7, addr := va, eaten := true }) else (s, .ok (ofBytes b))

/-- Fetches n words of a clause from an address on, in order. -/
def State.fetchWords (s : State) (core slot : Nat) : Nat → Nat → State × Except HeaderFault (List Nat)
  | _, 0 => (s, .ok [])
  | va, n + 1 =>
    match s.fetchWord core slot va with
    | (s, .error e) => (s, .error e)
    | (s, .ok w) =>
      match s.fetchWords core slot (va + 8) n with
      | (s, .error e) => (s, .error e)
      | (s, .ok ws) => (s, .ok (w :: ws))

/-- The clause at an address, fetched whole and its header checked in the order of R61: header word, TAG (R55), the
other words, reserved bits, PRIV (R57), PORTS against the role (R59). No header lies at an address that is not a multiple
of 8 (R22, R53), so the check of TAG fails there. -/
def State.fetchClause (s : State) (w h : Nat) : State × Except HeaderFault (Header × List Nat) :=
  let core := coreOf w
  let slot := s.ctxOfWarp w
  match s.fetchWord core slot h with
  | (s, .error e) => (s, .error e)
  | (s, .ok x) =>
    if h % 8 ≠ 0 ∨ headerTag x ≠ 0xCA then (s, .error { cause := 4, sub := 0, addr := h, eaten := false })
    else
      match s.fetchWords core slot (h + 8) (x % 16 + 1) with
      | (s, .error e) => (s, .error e)
      | (s, .ok ws) =>
        match decodeHeader x with
        | none => (s, .error { cause := 1, sub := 0, addr := 0, eaten := false })
        | some hd =>
          let role := match s.group? (groupOf w) with
            | some g => g.role (w % 64)
            | none => 0
          if hd.priv && !(s.warp w).handler then (s, .error { cause := 5, sub := 0, addr := 0, eaten := false })
          else if hd.ports.toNat &&& (15 - rolePorts role) ≠ 0 then
            (s, .error { cause := 6, sub := 0, addr := 0, eaten := false })
          else (s, .ok (hd, ws))

/-- The waits and scoreboard mask of a header are met (R54). -/
def Warp.eligible (W : Warp) (h : Header) : Bool :=
  W.counter h.w0cls.val ≤ h.w0thr && W.counter h.w1cls.val ≤ h.w1thr &&
    (List.range 8).all fun n => !(h.sbmask.toNat.testBit n) || !W.busy n

/-- A pre-emption request is pending for a context slot (R314). -/
def Slot.preq (x : Slot) : Bool := bitOf x.ctxctl.toNat 0

/-- The warp's dispatch is being killed or has been (R299). -/
def State.dying (s : State) (w : Nat) : Bool :=
  match s.dispatch? (s.dispatchOfWarp w) with
  | some d =>
    match d.phase with
    | .killing .. | .stopped .. | .aborting .. => true
    | _ => false
  | none => false

/-- A warp stands on a core: its group is not saved (R315; log entry 33). -/
def resident (w : Nat) : Bool := coreOf w < 2 ^ 18

/-- The routes to the home of a word of a clause hold its fetch (R331, R332). -/
def State.fetchWaits (s : State) (w va : Nat) : Bool :=
  let core := coreOf w
  match (s.coreTranslate core (s.ctxOfWarp w) va .fetch).2 with
  | .error _ => false
  | .ok p => s.tripWaits (siteOf core % 32) (dieOfCore core) (homeDie p.pa)

/-- A warp's next clause is eligible (R54). A clause whose header would fault counts as eligible: the fault is raised when it
is picked (R61). Until the routes to its words let the fetch through, nothing of it is known (R331, R332). -/
def State.nextEligible (s : State) (w : Nat) : Bool :=
  let W := s.warp w
  if s.fetchWaits w W.issuePc then false
  else
    match (s.fetchClause w W.issuePc).2 with
    | .error _ => true
    | .ok (h, _) =>
      W.eligible h && (List.range (h.count.val + 1)).all fun i => !s.fetchWaits w (W.issuePc + 8 + 8 * i)

/-- A warp is ready at its quarter (R205): between clauses, with a running thread, nothing to be done before its next
clause (no ldw to be issued again, R140), and its next clause eligible. -/
def State.ready (s : State) (w : Nat) : Bool :=
  let W := s.warp w
  decide (W.phase = .between) && resident w && W.running ≠ 0 &&
    W.withdrawn.isEmpty && !(s.slot (s.ctxOfWarp w)).preq && !s.dying w && s.nextEligible w

/-- Marks the time from which a warp that is not yet ready can be ready (R205). -/
def State.touch (s : State) (w : Nat) : State :=
  if s.ready w then s
  else
    let t := s.time.now
    s.onWarp w fun W => { W with readyAt := t }

/-- Changes a warp's operations and counts those that are complete. -/
def State.finish (s : State) (w : Nat) (f : Warp → Warp) : State :=
  let s := s.touch w
  let s := s.onWarp w fun W =>
    let W := f W
    { W with ops := countDown [] W.ops }
  s.progress (coreOf w) (s.ctxOfWarp w)

/-- Completes an operation (R25). -/
def State.finishOp (s : State) (w seq : Nat) : State := s.finish w fun W => W.onOp seq fun o => { o with done := true }

/-! ### Faults -/

/-- A fault as an instruction meets it: cause, sub-cause, address, lanes, code (R312). -/
structure Trouble where
  cause : Nat
  sub   : Nat := 0
  addr  : Nat := 0
  lanes : LaneSet := 0
  code  : Nat := 0
deriving DecidableEq, Repr

/-- Adds a fault to those known for a warp. -/
def Warp.addFault (W : Warp) (order clause index : Nat) (deferred : Bool) (t : Trouble) : Warp :=
  { W with
    faults := W.faults ++ [{ order := order, clause := clause, index := index, cause := t.cause, sub := t.sub,
                             addr := t.addr, lanes := t.lanes, code := t.code, deferred := deferred }] }

/-- Adds a deferred fault; lanes of one instruction that meet the same fault are one fault, whose address is that of the
lowest lane (R311, R312). -/
def Warp.addDeferred (W : Warp) (order clause index : Nat) (t : Trouble) : Warp :=
  let same (f : FaultRec) : Bool := f.deferred && f.order = order && f.cause = t.cause && f.sub = t.sub && f.code = t.code
  if W.faults.any same then
    { W with
      faults := W.faults.map fun f =>
        if same f then
          { f with lanes := f.lanes ||| t.lanes,
                   addr := if (lowest t.lanes).getD 32 < (lowest f.lanes).getD 32 then t.addr else f.addr }
        else f }
  else W.addFault order clause index true t

/-- Operation numbers that one warp may use: a warp started later in the same slot uses others. -/
def runSpan : Nat := 2 ^ 64

/-- Two operation numbers of a warp slot belong to the same warp. -/
def sameRun (m n : Nat) : Bool := m / runSpan = n / runSpan

/-- Reports a deferred fault to a warp (R132): at its next boundary it enters its handler, and at once when it stands at
one. A warp that has ended takes none, whether or not another has its slot now. -/
def State.deferFault (s : State) (w order clause index : Nat) (t : Trouble) : State :=
  s.onWarp w fun W =>
    if !sameRun order W.seq then W else
    match W.phase with
    | .ended | .gone => W
    | .between | .parked => { W.addDeferred order clause index t with phase := .entering }
    | _ => W.addDeferred order clause index t

/-- Reports a deferred fault of an operation to its warp. -/
def State.deferOp (s : State) (w : Nat) (o : Op) (t : Trouble) : State := s.deferFault w o.seq o.clause o.index t

/-- A unit consumes an uncorrectable error: the dispatch that owns it is killed, and replayed when R301 allows
(R325). A read by a dispatch that is killed already consumes nothing. -/
def State.consume (s : State) (dispatch die unit addr : Nat) : State :=
  match s.dispatch? dispatch with
  | none => s
  | some d =>
    match d.phase with
    | .accepted =>
      let s := s.ring die 0x03 (s.ident d.slot) [unit, addr, d.mailbox, d.record.toNat]
      let again := bitOf d.record.toNat 18 && decide (d.attempts < 3)
      let code := if bitOf d.record.toNat 18 then 6 else 7
      s.onDispatch dispatch fun d => { d with phase := .killing code again }
    | _ => s

/-! ### Writes on their way to their homes (R215, R216) -/

/-- Performs an atomic in the sync engine beside the home of a physical address (R145, R214). -/
def State.atomicHome (s : State) (dispatch world pa : Nat) (i : Instr) (ty : Ty) (n x b : Nat) :
    State × List Byte × Bool :=
  let s := s.checkMac world pa n
  let (old, bad) := s.hbmRead world pa n
  if bad then (s, old, bad)
  else (s.applyWrite dispatch world ((atomicBytes i ty old x b).zipIdx.map fun (v, j) => (pa + j, v)), old, bad)

/-- The die of the site of a path. -/
def pathSource (key : Nat) : Nat := dieOfSite (key / 32768)

/-- The home die of a path. -/
def pathHome (key : Nat) : Nat := key / 32 % 1024

/-- A write that has come to its home is applied there (R216); a reduction is performed there (R145), and at a poisoned location it is
not performed (R325). -/
def State.applyPathWrite (s : State) (die : Nat) (p : PathWrite) : State :=
  match p.combine with
  | none => s.applyWrite p.dispatch p.world p.bytes
  | some c =>
    let (s, _, bad) := s.atomicHome p.dispatch p.world c.pa c.instr c.ty c.size c.operand c.cmp
    if bad then s.consume p.dispatch die 2 c.pa else s

/-- Applies the oldest write of a path at its home (R215). A home that no route reaches any more applies nothing, and the warp takes a
deferred memory fault (R332). -/
def State.applyPath (s : State) (key : Nat) : State :=
  match tget [] s.mem.paths key with
  | [] => s
  | p :: t =>
    let s := { s with mem := { s.mem with paths := tset [] s.mem.paths key t } }
    if s.reachable (pathSource key) (pathHome key) then s.applyPathWrite (pathSource key) p
    else s.deferFault p.warp p.seq p.clause p.index { cause := 0x20, sub := 10, addr := p.va, lanes := p.lanes }

/-- Applies every write of a path: what a later request on the path finds done (R215). -/
def State.flushPath (s : State) (key : Nat) : State :=
  (List.range (tget [] s.mem.paths key).length).foldl (fun s _ => s.applyPath key) s

/-- Applies every path that holds a write of a kind, so that each such write goes behind the older ones of its path. -/
def State.flushWhere (s : State) (p : PathWrite → Bool) : State :=
  (tkeys s.mem.paths).foldl (fun s key => if (tget [] s.mem.paths key).any p then s.flushPath key else s) s

/-- Applies the writes of a dispatch that are still in paths. -/
def State.flushDispatch (s : State) (dispatch : Nat) : State := s.flushWhere fun p => p.dispatch = dispatch

/-- A write of a kind waits in a path whose route holds it (R331, R332). -/
def State.waitsWhere (s : State) (p : PathWrite → Bool) : Bool :=
  s.mem.paths.any fun (key, l) => l.any p && s.routeWaits (pathSource key) (pathHome key)

/-- A write of a dispatch waits in a path whose route holds it (R331, R332). -/
def State.pathsWait (s : State) (dispatch : Nat) : Bool := s.waitsWhere fun p => p.dispatch = dispatch

/-- A fresh read at a home by an agent of a cluster site: what the site's path holds for that home is applied first. -/
def State.homeRead (s : State) (site world pa n : Nat) : State × List Byte × Bool :=
  let s := (s.flushPath (pathKey site pa)).checkMac world pa n
  (s, s.hbmRead world pa n)

/-! ### Issue -/

/-- What the checks of R61 need to know of an instruction: its port (0 ALU, 1 memory, 2 matrix, 3 engine), whether it ends its clause
(R62), whether it is privileged (R57) or raises a privilege fault everywhere (R24), whether a matrix warp may issue it on the memory
port (R59), its guard and its operands. -/
structure Spec where
  port    : Nat := 0
  ends    : Bool := false
  priv    : Bool := false
  denied  : Bool := false
  arrival : Bool := false
  guard   : Guard
  uses    : List Use := []
deriving DecidableEq, Repr

/-- What an instruction's effect comes to: the state after it, a precise fault, or a stall at issue (R25, R26). -/
inductive Out
  | done (s : State)
  | fault (t : Trouble)
  | stall

/-- What an instruction sees when it issues: quarter, warp, its state, its group, its clause and its active lanes (R22). -/
structure Ctx where
  q   : Nat
  w   : Nat
  W   : Warp
  g   : Group
  c   : Clause
  act : LaneSet
deriving DecidableEq, Repr

/-- The quarter that issues, when the agent is one. -/
def State.quarter (s : State) : Option Nat :=
  match s.sched.agent with
  | .quarter q => some q
  | .engine _ => none

/-- The running clause, warp and group of the issuing quarter, when an instruction can issue there. -/
def State.issuing (s : State) : Option (Nat × Clause × Warp × Group) :=
  match s.quarter with
  | none => none
  | some q =>
    match tfind s.comp.clauses q with
    | none => none
    | some c =>
      if c.ending.isSome then none
      else
        match s.warp? c.warp, s.group? (groupOf c.warp) with
        | some W, some g => some (q, c, W, g)
        | _, _ => none

/-- The lanes in which an instruction acts (R22, R79): taking part, running, guard true. Those that take part are fixed at the clause's
start (log entry 76). -/
def activeLanes (c : Clause) (W : Warp) (g : Guard) : LaneSet := c.lanes &&& W.running &&& W.guardSet g

/-- The checks of R61 from step 3 on, as a cause of R312. -/
def issueFault (p : Spec) (c : Clause) (g : Group) : Option Nat :=
  if !(c.header.ports.toNat.testBit p.port) then some 1
  else if p.port = 1 && g.role (c.warp % 64) = 2 && !p.arrival then some 6
  else if p.ends && c.index ≠ c.header.count.val then some 1
  else if p.denied || (p.priv && !c.header.priv) then some 5
  else operandFault g.nreg p.uses

/-- A precise fault at the current instruction ends the clause there (R21, R60). -/
def State.precise (s : State) (q : Nat) (c : Clause) (t : Trouble) : State :=
  let s := s.onWarp c.warp fun W =>
    { W.addFault W.seq c.h c.index false t with resume := some (c.h, c.index), seq := W.seq + 1 }
  s.onClause q fun c => { c with ending := some .fault, stalled := false }

/-- Moves the clause to its next instruction, or to its end after the last (R60). -/
def State.advance (s : State) (q : Nat) : State :=
  s.onClause q fun c =>
    if c.ending.isSome then { c with stalled := false }
    else if c.index = c.header.count.val then { c with ending := some .done, stalled := false }
    else { c with index := c.index + 1, stalled := false }

/-- Issues an instruction on the agent's quarter: the checks of R61, then its effect. An instruction without an active
lane that passes the checks has no effect. Until it stalls, the warp waits on nothing, so the watchdog's count begins with the
stall (R208). Where no clause runs, nothing issues (log entry 2). -/
def issue (p : Spec) (body : Ctx → State → Out) (s : State) : Result :=
  match s.issuing with
  | none => .next s
  | some (q, c, W, g) =>
    match issueFault p c g with
    | some cause => .next (s.precise q c { cause := cause, lanes := c.lanes })
    | none =>
      let act := activeLanes c W p.guard
      if act = 0 then .next (s.advance q)
      else
        match body { q := q, w := c.warp, W := W, g := g, c := c, act := act } s with
        | .done s => .next (s.advance q)
        | .fault t => .next (s.precise q c t)
        | .stall =>
          let s := if c.stalled then s else s.progress (coreOf c.warp) g.slot
          .next (s.onClause q fun c => { c with stalled := true })

/-- Sets how the running clause ends. -/
def State.endWith (s : State) (q : Nat) (e : Ending) : State := s.onClause q fun c => { c with ending := some e }

/-- An ALU result: changes the issuing warp alone. -/
def alu (p : Spec) (f : Ctx → Warp) (s : State) : Result :=
  issue p (fun x s => .done (s.onWarp x.w fun _ => f x)) s

/-- The first source value of the lowest-numbered active lane, which acts for the warp (R157, R175). -/
def Ctx.one (x : Ctx) (o : Opnd) : Nat :=
  match lowest x.act with
  | some l => (x.W.src x.w o l).toNat
  | none => 0

/-- The same for a pair. -/
def Ctx.one64 (x : Ctx) (o : Opnd) : Nat :=
  match lowest x.act with
  | some l => (x.W.src64 x.w o l).toNat
  | none => 0

/-- A counter stands at 63, so an instruction that would raise it stalls (R25). -/
def Warp.saturated (W : Warp) (c : Nat) : Bool := 63 ≤ W.counter c

/-- A new outstanding operation of the running instruction, without accesses. -/
def Ctx.op (x : Ctx) (cls : Option Nat) (kind : OpKind) : Op :=
  { seq := x.W.seq, cls := cls, kind := kind, clause := x.c.h, index := x.c.index, lanes := x.act, order := .plain,
    scope := .thr, ty := .n32, dst := .zero, slot := none, acc := [], results := [], flags := 0, landed := false, done := false }

/-- Enters an operation in warp order. -/
def Warp.push (W : Warp) (o : Op) : Warp := { W with ops := W.ops ++ [o], seq := W.seq + 1 }

/-- Enters an operation of the issuing warp in warp order; its counter changes (R25, R208). -/
def State.pushOp (s : State) (w : Nat) (o : Op) : State :=
  (s.onWarp w fun W => W.push o).progress (coreOf w) (s.ctxOfWarp w)

/-! ### The level-1 region -/

/-- Drops a line of a core's level-1 region, if it is not pinned (R135, R213). -/
def State.dropLine (s : State) (core pa : Nat) : State :=
  s.onCore core fun c => { c with level1 := c.level1.filter fun (k, l) => k ≠ pa / 128 || l.pinned }

/-- Invalidates a core's level-1 region, pinned lines aside (R135, R213). -/
def State.dropLevel1 (s : State) (core : Nat) : State :=
  s.onCore core fun c => { c with level1 := c.level1.filter fun (_, l) => l.pinned }

/-- A write in a path happens before what a warp releases at a place of its order: the warp's own older one, or one it has acquired
(R221). -/
def PathWrite.before (p : PathWrite) (w seq : Nat) : Bool := (p.warp = w && decide (p.seq < seq)) || p.after.contains w

/-- Changes every write of the paths of a cluster site. -/
def State.onSitePaths (s : State) (site : Nat) (f : PathWrite → PathWrite) : State :=
  { s with mem := { s.mem with paths := s.mem.paths.map fun (k, l) => (k, if k / 32768 = site then l.map f else l) } }

/-- A release of a warp at .grp or .cls is made: the writes before it that wait in their paths are released to the warp's group or to
its cluster (R216, R220, R221; log entry 51). -/
def State.markRelease (s : State) (w seq : Nat) (scope : Scope) : State :=
  if scope.level = 2 ∨ scope.level = 3 then
    s.onSitePaths (siteOf (coreOf w)) fun p =>
      if !p.before w seq then p
      else if scope.level = 3 then { p with cls := true }
      else if p.rels.contains w then p else { p with rels := p.rels ++ [w] }
  else s

/-- A write that waits in a path is released to a warp (R221, R222): to its cluster, or to its group. -/
def PathWrite.releasedTo (p : PathWrite) (w : Nat) : Bool := p.cls || p.rels.any fun v => groupOf v = groupOf w

/-- The writes in the paths of a warp's cluster site that are released to the warp happen before what it does after an acquire, so its
later releases wait for them (R221, R222; log entry 51). -/
def State.orderAfter (s : State) (w : Nat) : State :=
  s.onSitePaths (siteOf (coreOf w)) fun p =>
    if p.releasedTo w && p.warp ≠ w && !p.after.contains w then { p with after := p.after ++ [w] } else p

/-- An acquire of a warp at a scope: at .grp and wider it invalidates the level-1 region (R135) and orders what follows after the
writes that other warps of its cluster site have released to it (R221). -/
def State.acquire (s : State) (w : Nat) (scope : Scope) : State :=
  if 2 ≤ scope.level then (s.dropLevel1 (coreOf w)).orderAfter w else s

/-! ### Performed at a scope -/

/-- A write of an operation waits in a path to a home slice (R215). -/
def State.inPath (s : State) (w seq : Nat) : Bool :=
  s.mem.paths.any fun (_, l) => l.any fun p => p.warp = w && p.seq = seq

/-- An operation that accesses memory, so that releases and fences order it (R152, R155, R220). -/
def OpKind.isAccess : OpKind → Bool
  | .load _ | .blockLoad _ | .windowLoad _ | .store | .blockStore | .atomic _ | .reduce _ | .sumRead _ | .multicast | .matrix => true
  | _ => false

/-- The same of an operation: a matrix operation counts when it writes the core store (R155). -/
def Op.isAccess (o : Op) : Bool :=
  match o.kind with
  | .matrix => !o.acc.isEmpty
  | k => k.isAccess

/-- An operation that reads into a register. -/
def OpKind.isRead : OpKind → Bool
  | .load _ | .blockLoad _ | .windowLoad _ | .atomic _ | .sumRead _ => true
  | _ => false

/-- Every access of an operation is made: its reads have their values, its writes are at their homes or in their paths,
its matrix results are in place. -/
def Op.made (o : Op) : Bool :=
  match o.kind with
  | .matrix => o.done
  | _ => o.done || o.landed || o.acc.all fun a => a.done

/-- An operation of a warp is performed at a scope (R216). -/
def State.performed (s : State) (w : Nat) (o : Op) (scope : Scope) : Bool :=
  o.made && (scope.level < 4 || !s.inPath w o.seq)

/-- The scope at which a write's st count completes: that of its qualifier; without one .grp, and for an mcst the home
(R25, R180). -/
def Op.ownScope (o : Op) : Scope :=
  if o.order = .plain then (if o.kind = .multicast then .pod else .grp) else o.scope

/-- Completes a store-class operation once its writes are performed at its own scope (R25). -/
def State.retire (s : State) (w seq : Nat) : State :=
  match (s.warp w).op? seq with
  | some o => if s.performed w o o.ownScope then s.finishOp w seq else s
  | none => s

/-- A record fence of a warp older than a place in warp order is not complete (R181). -/
def State.recordFenced (s : State) (w seq : Nat) : Bool :=
  s.eng.fences.any fun f => f.warp = w && sameRun f.seq seq && decide (f.seq < seq)

/-- Every access of a warp older than `seq` is performed at a scope: what a release at that scope waits for (R138, R152,
R155, R220). Writes whose operation is already counted may still be in a path, and so may writes of other warps that the
warp has acquired (R221). A lock that is not granted orders what follows it behind its grant (R220). An ldw that a save withdrew is
not performed yet (R140). -/
def State.released (s : State) (w seq : Nat) (scope : Scope) : Bool :=
  (s.warp w).withdrawn.isEmpty &&
    ((s.warp w).ops.all fun o =>
      seq ≤ o.seq || (if o.kind = OpKind.lock then o.done else !o.isAccess || s.performed w o scope)) &&
    (scope.level < 4 || s.mem.paths.all fun (_, l) => l.all fun p => (p.warp ≠ w || seq ≤ p.seq) && !p.after.contains w) &&
    !s.recordFenced w seq

/-- Every load and returning atomic older than `seq` has its value: what an acquire fence waits for (R152). -/
def Warp.valued (W : Warp) (seq : Nat) : Bool := W.ops.all fun o => seq ≤ o.seq || !o.kind.isRead || o.made

/-- An operation that is complete when an engine accepts it (R25). -/
def OpKind.isSubmission : OpKind → Bool
  | .submit | .post | .cambium _ => true
  | _ => false

/-- The condition of a fence (R152). A release fence also waits until the engines have accepted the warp's earlier submissions
and posts (R152, R226; log entry 52). -/
def State.fenceMet (s : State) (w : Nat) (o : Op) : Bool :=
  (match o.order with
    | .rel | .ar =>
      s.released w o.seq o.scope && (s.warp w).ops.all fun x => o.seq ≤ x.seq || !x.kind.isSubmission || x.done
    | _ => true) &&
  (match o.order with
    | .acq | .ar => (s.warp w).valued o.seq
    | _ => true)

/-- What a fence does once its condition holds: it releases, and then it acquires (R152, R220). -/
def State.makeFence (s : State) (w : Nat) (o : Op) : State :=
  let s := match o.order with
    | .rel | .ar => s.markRelease w o.seq o.scope
    | _ => s
  match o.order with
  | .acq | .ar => s.acquire w o.scope
  | _ => s

/-- Completes fences narrower than .die, oldest first, once their condition holds: they complete inside the core
(R152). `n` bounds the number of them. -/
def State.narrowFences (s : State) (w : Nat) : Nat → State
  | 0 => s
  | n + 1 =>
    match (s.warp w).ops.find? fun o => o.kind = .fence && !o.done && decide (o.scope.level < 4) with
    | none => s
    | some o =>
      if s.fenceMet w o then
        let s := s.makeFence w o
        (s.onWarp w fun W => { W with ops := W.ops.filter fun x => x.seq ≠ o.seq }).narrowFences w n
      else s

/-- An access of a warp must wait for an older operation that acquires, a fence, a lock grant or a bud acquire that is
not complete (R138, R152, R220). -/
def Warp.heldBack (W : Warp) (seq : Nat) : Bool :=
  W.ops.any fun o =>
    o.seq < seq &&
      match o.kind with
      | .fence | .lock => !o.done
      | .load _ | .blockLoad _ | .windowLoad _ | .sumRead _ | .atomic _ =>
        (o.order = .acq || o.order = .ar) && !o.made
      | _ => false

/-! ### Accesses to one location (R216, R219) -/

/-- An operation that writes memory lane by lane. -/
def OpKind.isWrite : OpKind → Bool
  | .store | .blockStore | .atomic _ | .reduce _ | .multicast => true
  | _ => false

/-- The virtual address or store offset of a place. -/
def Loc.address : Loc → Nat
  | .global va => va
  | .store _ o => o

/-- Two ranges of bytes share a byte by their addresses. -/
def Loc.meets (a : Loc) (n : Nat) (b : Loc) (m : Nat) : Bool :=
  match a, b with
  | .global x, .global y => overlaps x n y m
  | .store c x, .store d y => c = d && overlaps x n y m
  | _, _ => false

/-- The physical address of a place in global memory, where the warp's translation gives one. -/
def State.physOf (s : State) (w : Nat) (a : Loc) : Option Nat :=
  match a with
  | .store .. => none
  | .global va =>
    match (s.coreTranslate (coreOf w) (s.ctxOfWarp w) va .read).2 with
    | .ok p => some p.pa
    | .error _ => none

/-- Two ranges of bytes of a warp share a location (R218, R219): by their addresses, or because two virtual addresses lead to one
byte. -/
def State.sameBytes (s : State) (w : Nat) (a : Loc) (n : Nat) (b : Loc) (m : Nat) : Bool :=
  a.meets n b m ||
    match s.physOf w a, s.physOf w b with
    | some p, some q => overlaps p n q m
    | _, _ => false

/-- A write of a warp older than `seq` to some of the bytes has still to enter its path or reach its core store: the warp's reads
of them are held until it has (R216). -/
def State.ownWrite (s : State) (w seq : Nat) (a : Loc) (n : Nat) : Bool :=
  (s.warp w).ops.any fun o =>
    o.seq < seq && !o.done && o.kind.isWrite && o.acc.any fun b => !b.done && s.sameBytes w a n b.loc b.size

/-! ### Results and pending writes -/

/-- The pending writes of a result: one 32-bit value per lane, or two for a pair (R27). Only lanes of `lanes` are
written; a uniform destination takes the value of the lowest lane of `act` (R19). -/
def resultWrites (dst : Opnd) (wide : Bool) (act : LaneSet) (value : Nat → Option Nat) : List Pending :=
  let full : Word := 0xFFFFFFFF
  let one (uniform : Bool) (key step : Nat) (v : Nat) : List Pending :=
    { uniform := uniform, key := key, mask := full, value := BitVec.ofNat 32 v } ::
      if wide then [{ uniform := uniform, key := key + step, mask := full, value := BitVec.ofNat 32 (v / 2 ^ 32) }]
      else []
  match dst with
  | .v n => (lanesOf act).flatMap fun l =>
    match value l with
    | some v => one false (32 * n.val + l) 32 v
    | none => []
  | .k n =>
    match lowest act with
    | some l =>
      match value l with
      | some v => one true n.val 1 v
      | none => []
    | none => []
  | _ => []

/-- Long-latency results enter the pending writes, or are written at once between clauses (R27, R63, R64). -/
def Warp.deliver (W : Warp) (ps : List Pending) : Warp :=
  if W.phase = .issuing then { W with pendLong := W.pendLong ++ ps } else ps.foldl Warp.applyPending W

/-- Poison in a destination register (R311). -/
def poisonWord : Nat := 0x7FBADBAD

/-- Applies every pending write in the order of R27, sets the flags of conversions that landed, and frees the slots of
atomics that have returned (R26, R145). -/
def Warp.applyAll (W : Warp) : Warp :=
  let W := (W.pendLong ++ W.pendStore).foldl Warp.applyPending W
  let ops := W.ops.map fun o =>
    match o.kind with
    | .atomic _ => if o.landed then { o with done := true } else o
    | _ => o
  { W with pendLong := [], pendStore := [], fpst := W.fpst ||| W.pendFlags, pendFlags := 0, ops := countDown [] ops }

/-! ### The clause boundary -/

/-- The address after a clause: h + 8 + 8n (R84). -/
def Clause.after (c : Clause) : Nat := c.h + 16 + 8 * c.header.count.val

/-- The address of the next clause in sequence (R53), in the 57 bits of a pc (R22). -/
def Clause.next (c : Clause) : Nat := c.after % 2 ^ 57

/-- Step 2 of R83: each thread that took part moves its pc by R79 and by the branch it took. -/
def Warp.movePcs (W : Warp) (took : LaneSet) (next : Nat) (targets : Table Nat) : Warp :=
  (lanesOf took).foldl (fun V l => { V with pcs := tset 0 V.pcs l (tget next targets l) }) W

/-- A thread is held at a sign on cvN. -/
def Warp.heldOn (W : Warp) (n l : Nat) : Bool := W.statusOf l = .sign && bitOf (tget 0 W.heldCv l) n

/-- Threads held at a sign on cvN become running. -/
def Warp.releaseSigns (W : Warp) (n : Nat) : Warp :=
  (lanesOf allLanes).foldl (fun V l =>
    if V.heldOn n l then { V.setStatus l .running with heldCv := tset 0 V.heldCv l 0 } else V) W

/-- A running thread that signed an incomplete cvN is held on it, beside the registers that hold it already. -/
def Warp.holdSign (W : Warp) (n l : Nat) : Warp :=
  match W.statusOf l with
  | .running => { W.setStatus l .sign with heldCv := tset 0 W.heldCv l (2 ^ n) }
  | .sign => if W.heldOn n l then W else { W with heldCv := tset 0 W.heldCv l (tget 0 W.heldCv l + 2 ^ n) }
  | _ => W

/-- Step 3 of R83 for one convergence register. -/
def Warp.judgeSign (W : Warp) (signed : LaneSet) (n : Nat) : Warp :=
  if W.cvComplete n then W.releaseSigns n
  else (lanesOf (signed &&& (W.cvSets n).2)).foldl (fun V l => V.holdSign n l) W

/-- Step 3 of R83. -/
def Warp.judgeSigns (W : Warp) (signed : Table LaneSet) : Warp :=
  (List.range 8).foldl (fun V n => V.judgeSign (tget 0 signed n) n) W

/-- Step 4 of R83. -/
def Warp.holdMeetings (W : Warp) : Warp :=
  (lanesOf allLanes).foldl (fun V l =>
    if V.statusOf l = .running ∧ V.mrOf l ≠ 0 ∧ V.pcOf l = V.mrOf l then V.setStatus l .meeting else V) W

/-- Step 5 of R83 for one address. -/
def Warp.releaseMeeting (W : Warp) (m : Nat) : Warp :=
  if (lanesOf allLanes).any fun l => W.mrOf l = m && (W.statusOf l = .running || W.statusOf l = .sign) then W
  else
    (lanesOf allLanes).foldl (fun V l =>
      if V.statusOf l = .meeting ∧ V.mrOf l = m then { V.setStatus l .running with mrs := tset 0 V.mrs l 0 } else V) W

/-- Step 5 of R83. -/
def Warp.releaseMeetings (W : Warp) : Warp :=
  (((lanesOf allLanes).filter fun l => W.statusOf l = .meeting).map W.mrOf).eraseDups.foldl Warp.releaseMeeting W

/-- The lowest pc among the threads of a set (R83). -/
def Warp.lowestPc (W : Warp) (m : LaneSet) : Nat :=
  ((lanesOf m).map W.pcOf).foldl min ((((lanesOf m).map W.pcOf).head?).getD 0)

/-- Steps 4 to 6 of R83 and the rule after them: the warp ends, raises a convergence fault, or has an issuing pc. -/
def Warp.settle (W : Warp) : Warp :=
  let W := W.holdMeetings.releaseMeetings
  if W.unexited = 0 then { W with phase := .ended }
  else if W.running = 0 then
    let pc := W.lowestPc W.unexited
    { W.addFault W.seq pc 16 false { cause := 7, lanes := W.unexited } with issuePc := pc, seq := W.seq + 1 }
  else { W with issuePc := W.lowestPc W.running }

/-- Parked until the ld and mma counters are zero, every slot is free and the pending writes are applied (R56). -/
def Warp.unpark (W : Warp) : Warp :=
  match W.phase with
  | .parked =>
    if W.counter 0 = 0 ∧ W.counter 3 = 0 ∧ (List.range 8).all (fun n => !W.busy n) ∧ W.pendLong = [] ∧ W.pendStore = []
    then { W with phase := .between } else W
  | _ => W

/-- A warp that stands between clauses after a clause with PARK parks (R56). -/
def Warp.rest (W : Warp) : Warp :=
  if W.parks && W.phase = Phase.between then { W with phase := .parked, parks := false }.unpark else W

/-- A warp with a known fault enters its handler at the boundary where it stands (R132, R311). -/
def Warp.enterIfFaulted (W : Warp) : Warp :=
  match W.phase with
  | .between | .parked => if W.faults.isEmpty then W else { W with phase := .entering }
  | _ => W

/-- Steps 2 to 6 of R83 for the threads that took part in a clause. -/
def Warp.boundarySteps (W : Warp) (took : LaneSet) (next : Nat) (targets : Table Nat) (signed : Table LaneSet) : Warp :=
  ((W.movePcs took next targets).judgeSigns signed).settle

/-! ### Trap entry and return -/

/-- The conditions that trap entry awaits (R311): stores, reductions and mcst performed at .grp, ld and mma at zero,
slots free, pending writes applied. -/
def State.entryMet (s : State) (w : Nat) : Bool :=
  let W := s.warp w
  (W.ops.all fun o =>
    match o.kind with
    | .store | .blockStore | .reduce _ | .multicast => s.performed w o .grp
    | _ => true) &&
  W.counter 0 = 0 && W.counter 3 = 0 && (List.range 8).all (fun n => !W.busy n) && W.pendLong.isEmpty &&
    W.pendStore.isEmpty

/-- Status code of TSTAT (R312). -/
def Status.code : Status → Nat
  | .running => 0
  | .meeting => 1
  | .sign => 2
  | .exited => 3

/-- Status of a TSTAT code. -/
def Status.ofCode : Nat → Status
  | 0 => .running
  | 1 => .meeting
  | 2 => .sign
  | _ => .exited

/-- The address bits 56:3 of a trap register (R312). -/
def trapAddress (a : Nat) : Double := BitVec.ofNat 64 (a % 2 ^ 57 / 8 * 8)

/-- A fault comes before another (R311): earlier in warp order, and within one instruction that of the lowest lane, which R131
meets first. -/
def FaultRec.before (f g : FaultRec) : Bool :=
  f.order < g.order || (f.order = g.order && (lowest f.lanes).getD 32 < (lowest g.lanes).getD 32)

/-- The fault earliest in warp order; within one instruction the one that R131 meets first (R311). -/
def earliest : List FaultRec → Option FaultRec
  | [] => none
  | f :: t =>
    match earliest t with
    | some g => if g.before f then some g else some f
    | none => some f

/-- The trap registers that steps 1 to 3 of R311 write. -/
def Warp.trapRegs (W : Warp) (f : FaultRec) : TrapRegs :=
  let more := min 255 (W.faults.length - 1)
  let (ra, ri) := W.resume.getD (W.issuePc, 16)
  { cause := BitVec.ofNat 64 (more * 65536 + f.sub % 256 * 256 + f.cause % 256)
    clause := trapAddress f.clause
    index := BitVec.ofNat 64 (b2n f.deferred * 256 + f.index % 32)
    addr := BitVec.ofNat 64 f.addr
    lanes := f.lanes.setWidth 64
    code := BitVec.ofNat 64 f.code
    stat := BitVec.ofNat 64 ((List.range 32).foldl (fun a l => a + (W.statusOf l).code * 4 ^ l) 0)
    raddr := trapAddress ra
    ridx := BitVec.ofNat 64 (ri % 32)
    pcs := (List.range 32).foldl (fun t l => tset 0 t l (trapAddress (W.pcOf l))) [] }

/-- Every thread of a warp exits and leaves every declared set (R86, R87). -/
def Warp.exitAll (W : Warp) : Warp :=
  { W with
    status := []
    cvs := (List.range 8).foldl (fun t n => tset 0 t n (tget 0 t n &&& 0xFFFFFFFF00000000)) W.cvs
    phase := .ended, faults := [], resume := none, rejoin := none, resumed := none, withdrawn := [], onReturn := [] }

/-- A thread of a bud warp ends by exit: its engine is told (R183, R258). -/
def State.budExit (s : State) (w l seq clause index : Nat) : State :=
  match tfind (s.warp w).buds l with
  | none => s
  | some (slot, element) =>
    let dispatch := s.dispatchOfWarp w
    s.onCambium (siteOf (coreOf w)) fun c =>
      { c with ends := c.ends ++ [{ warp := w, seq := seq, dispatch := dispatch, slot := slot, element := element,
                                    yielded := none, clause := clause, index := index, scope := .thr }] }

/-- A warp ends by fault: every thread exits, and the dispatch counts it with the clause of its first such fault (R298,
R311). -/
def State.endByFault (s : State) (w clause : Nat) : State :=
  let s := s.onDispatch (s.dispatchOfWarp w) fun d =>
    { d with nfault := min 0xFFFF (d.nfault + 1), faddr := if d.nfault = 0 then clause else d.faddr }
  let s := (lanesOf (s.warp w).unexited).foldl (fun s l => s.budExit w l (s.warp w).seq clause 16) s
  s.onWarp w fun W => { W.exitAll with byFault := true }

/-- Taking a trap (R311): the trap registers take the earliest known fault and the resume point, each lane's pc and status
is saved, and every thread that has not exited runs at TVEC in trap-handler mode. With TVEC 0, or in trap-handler mode
already (R313), the warp ends by fault instead. -/
def State.takeTrap (s : State) (w : Nat) : State :=
  let W := s.warp w
  let slot := s.ctxOfWarp w
  match earliest W.faults with
  | none => s.onWarp w fun W => { W with phase := .between }
  | some f =>
    if W.handler then
      let s := s.ring (dieOfCore (coreOf w)) 0x11 (s.ident slot) [f.clause, f.cause]
      s.endByFault w f.clause
    else
      let tvec := (s.slot slot).tvec.toNat % 2 ^ 57 / 8 * 8
      let s := s.onWarp w fun W => { W with trap := W.trapRegs f }
      if (s.slot slot).tvec = 0 then s.endByFault w f.clause
      else
        let t := s.time.now
        s.onWarp w fun W =>
          { W with
            handler := true, exits := 0, faults := [], resume := none, phase := .between, issuePc := tvec, readyAt := t
            parks := false
            status := (List.range 32).foldl (fun x l => if W.statusOf l = .exited then x else tset .exited x l .running)
              W.status
            pcs := (List.range 32).foldl (fun x l => if W.statusOf l = .exited then x else tset 0 x l tvec) W.pcs }

/-- Steps 1 and 2 of R313: each lane's status and pc return from TSTAT and TPCn, and trap-handler mode is left. A thread
that exited in the handler has ended for good. -/
def Warp.restoreThreads (W : Warp) : Warp :=
  { W with
    handler := false
    exits := 0
    status := (List.range 32).foldl (fun x l =>
      if inSet W.exits l then tset .exited x l .exited else tset .exited x l (Status.ofCode (W.trap.stat.toNat / 4 ^ l % 4))) W.status
    pcs := (List.range 32).foldl (fun x l => tset 0 x l (tget 0 W.trap.pcs l).toNat) W.pcs }

/-- Returning from a trap (R313): threads are restored, then the warp resumes at a boundary or inside the clause at
TRADDR. Where no running thread stands there it resumes at a boundary too, so that its meetings and its end are judged (R83). A thread
that TSTAT holds at a sign waits on the register it was last held on. -/
def Warp.trapReturn (W : Warp) : Warp :=
  let W := W.restoreThreads
  let resumes := (lanesOf W.running).any fun l => W.pcOf l = W.trap.raddr.toNat
  if W.trap.ridx.toNat = 16 ∨ !resumes then W.settle
  else { W with resume := some (W.trap.raddr.toNat, W.trap.ridx.toNat), issuePc := W.trap.raddr.toNat }

end Sys2Proof.Machine
end

