-- ==== Sys2Proof/Machine/Integer.lean ====
section
/-! DEFINITION. Integer, logic, compare, shift, move and predicate instructions: R96 to R101
(spec/04_isa_control_integer_lanes.md). -/

namespace Sys2Proof.Machine

/-! ### Shapes -/

/-- A one-operand ALU instruction: each active lane's d from a. -/
def unary (x : R1) (wd wa : Bool) (f : Nat → Nat) (s : State) : Result :=
  alu { guard := x.g, uses := [wr x.d wd, rd x.a wa] }
    (fun c => c.W.dstN wd x.d c.act fun l => f (c.W.srcN c.w wa x.a l)) s

/-- A two-operand ALU instruction: each active lane's d from a and b. -/
def binary (x : R2) (wd wa wb : Bool) (f : Nat → Nat → Nat) (s : State) : Result :=
  alu { guard := x.g, uses := [wr x.d wd, rd x.a wa, rd x.b wb] }
    (fun c => c.W.dstN wd x.d c.act fun l => f (c.W.srcN c.w wa x.a l) (c.W.srcN c.w wb x.b l)) s

/-- A three-operand ALU instruction: each active lane's d from a, b and c. -/
def ternary (x : R3) (wd wa wb wc : Bool) (f : Nat → Nat → Nat → Nat) (s : State) : Result :=
  alu { guard := x.g, uses := [wr x.d wd, rd x.a wa, rd x.b wb, rd x.c wc] }
    (fun c => c.W.dstN wd x.d c.act fun l =>
      f (c.W.srcN c.w wa x.a l) (c.W.srcN c.w wb x.b l) (c.W.srcN c.w wc x.c l)) s

/-- An operation on the exact integers of two operands, delivered in the type. -/
def arith (x : R2) (sat : Bool) (f : Int → Int → Int) (s : State) : Result :=
  binary x x.ty.wide x.ty.wide x.ty.wide (fun a b => x.ty.deliver sat (f (x.ty.int a) (x.ty.int b))) s

/-! ### Arithmetic (R96) -/

/-- R96: iadd. -/
def execIadd (x : R2) (sat : Bool) (s : State) : Result := arith x sat (· + ·) s
/-- R96: isub. -/
def execIsub (x : R2) (sat : Bool) (s : State) : Result := arith x sat (· - ·) s
/-- R96: imul, wrapped to 32 bits. -/
def execImul (x : R2) (s : State) : Result := arith x false (· * ·) s
/-- R96: imulhi, bits 63:32 of the exact product. -/
def execImulhi (x : R2) (s : State) : Result :=
  binary x false false false (fun a b => wrap 64 (x.ty.int a * x.ty.int b) / 2 ^ 32) s
/-- R96: imad, wrapped to 32 bits. -/
def execImad (x : R3) (s : State) : Result :=
  ternary x false false false false (fun a b c => wrap 32 (x.ty.int a * x.ty.int b + x.ty.int c)) s
/-- R96: imadw; d and c are pairs. -/
def execImadw (x : R3) (s : State) : Result :=
  ternary x true false false true (fun a b c => wrap 64 (x.ty.int a * x.ty.int b + c)) s
/-- R96: iadd64. -/
def execIadd64 (x : R2) (sat : Bool) (s : State) : Result := arith x sat (fun a b => a + b) s
/-- R96: isub64. -/
def execIsub64 (x : R2) (sat : Bool) (s : State) : Result := arith x sat (fun a b => a - b) s
/-- R96: imul64. -/
def execImul64 (x : R2) (s : State) : Result := arith x false (fun a b => a * b) s
/-- R96: imad64. -/
def execImad64 (x : R3) (s : State) : Result :=
  ternary x true true true true (fun a b c => wrap 64 (x.ty.int a * x.ty.int b + x.ty.int c)) s
/-- R96: imin. -/
def execImin (x : R2) (s : State) : Result := arith x false min s
/-- R96: imax. -/
def execImax (x : R2) (s : State) : Result := arith x false max s
/-- R96: iabs. -/
def execIabs (x : R1) (sat : Bool) (s : State) : Result :=
  unary x x.ty.wide x.ty.wide (fun a => x.ty.deliver sat (x.ty.int a).natAbs) s

/-- The immediate of an F-I instruction at the type's width: sign-extended for 64-bit types (R66). -/
def immOf (t : Ty) (imm : Word) : Nat := if t.wide then wrap 64 imm.toInt else imm.toNat

/-- R96: iaddi. -/
def execIaddi (x : R1) (imm : Word) (s : State) : Result :=
  unary x x.ty.wide x.ty.wide (fun a => (a + immOf x.ty imm) % 2 ^ x.ty.bits) s
/-- R96: imuli. -/
def execImuli (x : R1) (imm : Word) (s : State) : Result :=
  unary x x.ty.wide x.ty.wide (fun a => a * immOf x.ty imm % 2 ^ x.ty.bits) s

/-! ### Shifts (R97) -/

/-- R97: shl. -/
def execShl (x : R2) (s : State) : Result :=
  binary x x.ty.wide x.ty.wide false (fun a n => if x.ty.bits ≤ n then 0 else a * 2 ^ n % 2 ^ x.ty.bits) s
/-- R97: shr. -/
def execShr (x : R2) (s : State) : Result :=
  binary x x.ty.wide x.ty.wide false (fun a n => if x.ty.bits ≤ n then 0 else a / 2 ^ n) s
/-- R97: sar. -/
def execSar (x : R2) (s : State) : Result :=
  binary x x.ty.wide x.ty.wide false
    (fun a n => wrap x.ty.bits (toSigned x.ty.bits a / (2 ^ min n (x.ty.bits - 1) : Nat))) s

/-- The word that wext extracts from w (R97). -/
def wextOf (mode : WMode) (w c : Nat) : Nat :=
  match mode with
  | .lo => w / 2 ^ min c 64 % 2 ^ 32
  | .hi => w * 2 ^ min c 64 / 2 ^ 32 % 2 ^ 32
  | .rot => (w / 2 ^ (c % 64) + w * 2 ^ (64 - c % 64)) % 2 ^ 32

/-- R97: wext. -/
def execWext (x : R3) (mode : WMode) (s : State) : Result :=
  ternary x false false false false (fun a b c => wextOf mode (b * 2 ^ 32 + a) c) s

/-! ### Bit fields (R98) -/

/-- R98: the field of bfe. -/
def bfeOf (signed : Bool) (a b : Nat) : Nat :=
  let pos := bits b 7 0
  let len := min (bits b 15 8) 32
  if len = 0 then 0
  else
    let src := if signed then wrap 288 (toSigned 32 a) else a
    let f := src / 2 ^ pos % 2 ^ len
    if signed then wrap 32 (toSigned len f) else f

/-- R98: the result of bfi. -/
def bfiOf (a b c : Nat) : Nat :=
  let pos := bits b 7 0
  let len := min (bits b 15 8) 32
  (List.range 32).foldl (fun r i =>
    r + b2n (if pos ≤ i ∧ i < pos + len then bitOf a (i - pos) else bitOf c i) * 2 ^ i) 0

/-- R98: bfe. -/
def execBfe (x : R2) (s : State) : Result := binary x false false false (bfeOf x.ty.signed) s
/-- R98: bfi. -/
def execBfi (x : R3) (s : State) : Result := ternary x false false false false bfiOf s
/-- R98: popc; d is a single register. -/
def execPopc (x : R1) (s : State) : Result := unary x false x.ty.wide (popCount x.ty.bits) s

/-- Zeros above the highest set bit of an n-bit value (R98). -/
def leadingZeros (n a : Nat) : Nat := if a % 2 ^ n = 0 then n else n - 1 - Nat.log2 (a % 2 ^ n)

/-- R98: clz; d is a single register. -/
def execClz (x : R1) (s : State) : Result := unary x false x.ty.wide (leadingZeros x.ty.bits) s

/-- The bits of an n-bit value in reverse order (R98). -/
def reverseBits (n a : Nat) : Nat := (List.range n).foldl (fun r i => 2 * r + b2n (bitOf a i)) 0

/-- R98: brev. -/
def execBrev (x : R1) (s : State) : Result := unary x x.ty.wide x.ty.wide (reverseBits x.ty.bits) s

/-! ### Logic (R99) -/

/-- The function table of R99 applied to each of n bits. -/
def mixBits (n t a b c : Nat) : Nat :=
  (List.range n).foldl (fun r i => r + b2n (bitOf t (b2n (bitOf a i) + 2 * b2n (bitOf b i) + 4 * b2n (bitOf c i))) * 2 ^ i) 0

/-- R99: mix3. -/
def execMix3 (x : R3) (t : BitVec 8) (s : State) : Result :=
  ternary x x.ty.wide x.ty.wide x.ty.wide x.ty.wide (mixBits x.ty.bits t.toNat) s
/-- R99: mixi, at 32 bits. -/
def execMixi (g : Guard) (t : BitVec 4) (d a : Opnd) (imm : Word) (s : State) : Result :=
  unary { g := g, ty := .n32, d := d, a := a } false false (fun a => mixBits 32 t.toNat a imm.toNat 0) s
/-- R99: pmix3, the rule of mix3 on one predicate bit. -/
def execPmix3 (g : Guard) (pd pa pb pc : Fin 8) (t : BitVec 8) (s : State) : Result :=
  alu { guard := g } (fun x =>
    let a := x.W.pred pa
    let b := x.W.pred pb
    let c := x.W.pred pc
    x.W.putPred pd x.act (laneSet fun l =>
      t.toNat.testBit (b2n (inSet a l) + 2 * b2n (inSet b l) + 4 * b2n (inSet c l)))) s

/-! ### Compare and select (R100) -/

/-- A condition of R100 on exact integers. -/
def ICond.holds (c : ICond) (a b : Int) : Bool :=
  match c with
  | .eq => a = b
  | .ne => a ≠ b
  | .lt => a < b
  | .le => a ≤ b
  | .gt => b < a
  | .ge => b ≤ a

/-- R100: icmp. -/
def execIcmp (g : Guard) (ty : Ty) (pd : Fin 8) (cc : ICond) (a b : Opnd) (s : State) : Result :=
  alu { guard := g, uses := [rd a ty.wide, rd b ty.wide] } (fun x =>
    x.W.putPred pd x.act (laneSet fun l =>
      ICond.holds cc (ty.int (x.W.srcN x.w ty.wide a l)) (ty.int (x.W.srcN x.w ty.wide b l)))) s
/-- R100: icmpi. -/
def execIcmpi (g : Guard) (ty : Ty) (pd : Fin 8) (cc : ICond) (a : Opnd) (imm : Word) (s : State) : Result :=
  alu { guard := g, uses := [rd a ty.wide] } (fun x =>
    x.W.putPred pd x.act (laneSet fun l =>
      ICond.holds cc (ty.int (x.W.srcN x.w ty.wide a l)) (ty.int (immOf ty imm)))) s
/-- R100: sel. -/
def execSel (x : R2) (pc : Fin 8) (s : State) : Result :=
  alu { guard := x.g, uses := [wr x.d x.ty.wide, rd x.a x.ty.wide, rd x.b x.ty.wide] } (fun c =>
    c.W.dstN x.ty.wide x.d c.act fun l =>
      c.W.srcN c.w x.ty.wide (if inSet (c.W.pred pc) l then x.a else x.b) l) s

/-! ### Moves and predicate transfers (R101) -/

/-- R101: mov. -/
def execMov (x : R1) (s : State) : Result := unary x x.ty.wide x.ty.wide (fun a => a) s
/-- R101: movi. -/
def execMovi (g : Guard) (ty : Ty) (d : Opnd) (imm : Word) (s : State) : Result :=
  alu { guard := g, uses := [wr d ty.wide] } (fun x => x.W.dstN ty.wide d x.act fun _ => immOf ty imm) s
/-- R101: pget. -/
def execPget (g : Guard) (d : Opnd) (s : State) : Result :=
  alu { guard := g, uses := [wr d] } (fun x => x.W.dst d x.act fun l =>
    BitVec.ofNat 32 ((List.range 7).foldl (fun r i => r + b2n (inSet (tget 0 x.W.preds i) l) * 2 ^ i) 0x80)) s
/-- R101: pset. -/
def execPset (g : Guard) (mask : BitVec 7) (a : Opnd) (s : State) : Result :=
  alu { guard := g, uses := [rd a] } (fun x =>
    (List.range 7).foldl (fun V i =>
      if mask.toNat.testBit i then
        V.putPred (fin3 i) x.act (laneSet fun l => (x.W.src x.w a l).toNat.testBit i)
      else V) x.W) s

end Sys2Proof.Machine
end

