-- ==== Sys2Proof/Machine/Lanes.lean ====
section
/-! DEFINITION. Packed integers and lane exchange: R102 to R106 (spec/04_isa_control_integer_lanes.md). -/

namespace Sys2Proof.Machine

/-- Element i of a 32-bit lane, for elements of n bits (R35). -/
def elem (n i w : Nat) : Nat := w / 2 ^ (n * i) % 2 ^ n

/-- A lane built from its elements of n bits, element 0 lowest (R35). -/
def pack (n : Nat) (l : List Nat) : Nat := l.foldr (fun e r => e % 2 ^ n + 2 ^ n * r) 0

/-- An operation on each element of two packed lanes (R102). -/
def packed2 (t : Ty) (f : Nat → Nat → Nat) (a b : Nat) : Nat :=
  pack t.bits ((List.range t.count).map fun i => f (elem t.bits i a) (elem t.bits i b))

/-- A packed instruction whose elements are exact integers delivered in the type (R102). -/
def packedArith (x : R2) (sat : Bool) (f : Int → Int → Int) (s : State) : Result :=
  binary x false false false (packed2 x.ty fun a b => x.ty.deliver sat (f (x.ty.int a) (x.ty.int b))) s

/-- R102: iaddp. -/
def execIaddp (x : R2) (sat : Bool) (s : State) : Result := packedArith x sat (· + ·) s
/-- R102: isubp. -/
def execIsubp (x : R2) (sat : Bool) (s : State) : Result := packedArith x sat (· - ·) s
/-- R102: iminp. -/
def execIminp (x : R2) (s : State) : Result := packedArith x false min s
/-- R102: imaxp. -/
def execImaxp (x : R2) (s : State) : Result := packedArith x false max s
/-- R102: iabsp. -/
def execIabsp (x : R1) (sat : Bool) (s : State) : Result :=
  unary x false false (fun a => packed2 x.ty (fun e _ => x.ty.deliver sat (x.ty.int e).natAbs) a a) s

/-- R103: the exact sum of idp4, delivered as s32 for s8 and n32 for n8. -/
def dotOf (t : Ty) (sat : Bool) (a b c : Nat) : Nat :=
  let r : Ty := if t.signed then .s32 else .n32
  r.deliver sat ((List.range 4).foldl (fun z i => z + t.int (elem 8 i a) * t.int (elem 8 i b)) (r.int c))

/-- R103: idp4. -/
def execIdp4 (x : R3) (sat : Bool) (s : State) : Result :=
  ternary x false false false false (dotOf x.ty sat) s

/-- The source lane that xlane's b names for a lane (R104). -/
def sourceLane (mode : XMode) (l b : Nat) : Int :=
  match mode with
  | .sel => b
  | .off => l + toSigned 32 b
  | .rot => ((l + b) % 32 : Nat)
  | .fly => (l ^^^ b : Nat)

/-- R104: xlane reads every source before it writes any destination. -/
def execXlane (x : R3) (mode : XMode) (s : State) : Result :=
  alu { guard := x.g, uses := [wr x.d x.ty.wide, rd x.a x.ty.wide, rd x.b, rd x.c] } (fun c =>
    let mask := c.one x.c
    c.W.dstN x.ty.wide x.d c.act fun l =>
      let src := sourceLane mode l (c.W.src c.w x.b l).toNat
      let from' := if 0 ≤ src ∧ src ≤ 31 ∧ mask.testBit src.toNat then src.toNat else l
      c.W.srcN c.w x.ty.wide x.a from') s

/-- The lanes of an active set in which q is true (R105). -/
def pollSet (x : Ctx) (q : Fin 8) : LaneSet := x.act &&& x.W.pred q

/-- R105: lpoll. -/
def execLpoll (g : Guard) (form : PollForm) (q : Fin 8) (s : State) : Result :=
  let uses := match form with
    | .mask d | .count d | .first d => [wr d]
    | _ => []
  let all (b : Bool) : LaneSet := if b then allLanes else 0
  alu { guard := g, uses := uses } (fun x =>
    let m := pollSet x q
    match form with
    | .every pd => x.W.putPred pd x.act (all (m = x.act))
    | .some pd => x.W.putPred pd x.act (all (m ≠ 0))
    | .same pd => x.W.putPred pd x.act (all (m = 0 || m = x.act))
    | .mask d => x.W.dst d x.act fun _ => m
    | .count d => x.W.dst d x.act fun _ => BitVec.ofNat 32 (popCount 32 m.toNat)
    | .first d => x.W.dst d x.act fun _ => BitVec.ofNat 32 ((lowest m).getD 32)) s

/-- The combining operation of wred at a type (R106). -/
def redOf (op : RedOp) (t : Ty) (a b : Nat) : Nat :=
  match op with
  | .add => (a + b) % 2 ^ t.bits
  | .min => if t.int a ≤ t.int b then a else b
  | .max => if t.int a ≤ t.int b then b else a
  | .and => a &&& b
  | .or => a ||| b
  | .xor => a ^^^ b

/-- R106: wred combines a over the active lanes and writes the one result to each of them. -/
def execWred (x : R1) (op : RedOp) (s : State) : Result :=
  alu { guard := x.g, uses := [wr x.d x.ty.wide, rd x.a x.ty.wide] } (fun c =>
    let vals := (lanesOf c.act).map fun l => c.W.srcN c.w x.ty.wide x.a l
    let r := match vals with
      | [] => 0
      | v :: t => t.foldl (redOf op x.ty) v
    c.W.dstN x.ty.wide x.d c.act fun _ => r) s

end Sys2Proof.Machine
end

