-- ==== Sys2Proof/Machine/Special.lean ====
section
/-! DEFINITION. The approximated functions of R119 and R120 (spec/05_isa_floating_convert.md). The exact value is
enclosed in fixed point with 160 fraction bits; the result is any f32 inside the error bound of R119, the one that the
opaque choice Config.approx names for the function's input bits (log entry 7). -/

namespace Sys2Proof.Machine

/-- 1 in fixed point. -/
def fixOne : Int := 2 ^ 160
/-- ln 2 in fixed point. -/
def fixLn2 : Int := 0xb17217f7d1cf79abc9e3b39803f2f6af40f34326
/-- 2π with 320 fraction bits. -/
def fixTau : Int :=
  0x6487ed5110b4611a62633145c06e0e68948127044533e63a0105df531d89cd9128a5043cc71a026ef
/-- Half the width of an enclosure: far above the error of any series below. -/
def fixSlack : Int := 2 ^ 20

/-- The sum of a series: n terms from the k-th, each from the one before. -/
def series (next : Nat → Int → Int) : Nat → Nat → Int → Int → Int
  | 0, _, _, acc => acc
  | n + 1, k, t, acc =>
    let t := next k t
    series next n (k + 1) t (acc + t)

/-- e^x for small x. -/
def fixExp (x : Int) : Int := series (fun k t => t * x / fixOne / (k : Int)) 60 1 fixOne fixOne

/-- 2^y as a mantissa from 1 to 2 and an exponent. -/
def fixExp2 (y : Int) : Int × Int := (fixExp (y % fixOne * fixLn2 / fixOne), y / fixOne)

/-- sin x for x within ±π. -/
def fixSin (x : Int) : Int :=
  let x2 := x * x / fixOne
  series (fun k t => -(t * x2 / fixOne / ((2 * k * (2 * k + 1) : Nat) : Int))) 40 1 x x

/-- cos x for x within ±π. -/
def fixCos (x : Int) : Int :=
  let x2 := x * x / fixOne
  series (fun k t => -(t * x2 / fixOne / (((2 * k - 1) * (2 * k) : Nat) : Int))) 40 1 fixOne fixOne

/-- log2 of m / 2^⌊log2 m⌋. -/
def fixLog2 (m : Nat) : Int :=
  let p : Int := 2 ^ Nat.log2 m
  let z := ((m : Int) - p) * fixOne / (m + p)
  let z2 := z * z / fixOne
  let pows := (List.range 60).foldl (fun (acc : Int × Int) k =>
    (acc.1 * z2 / fixOne, acc.2 + acc.1 / ((2 * k + 1 : Nat) : Int))) (z, 0)
  2 * pows.2 * fixOne / fixLn2

/-- The f32 code order: negative codes count down from zero. -/
def f32Index (neg : Bool) (code : Nat) : Int := if neg then -(code : Int) else code

/-- The f32 code at an index; at 0 it is +0 (log entry 7). -/
def f32At (i : Int) : Nat := if i < 0 then i.natAbs + 2 ^ 31 else i.natAbs

/-- The largest f32 at or below x × 2^e, or the smallest at or above it, as an index. -/
def f32Near (up : Bool) (x e : Int) : Int :=
  let neg := decide (x < 0)
  let rnd : Rnd := if up = neg then .rz else .rp
  f32Index neg (roundNum f32Fmt rnd false false x.natAbs e).1

/-- A result inside its bound: any f32 within b × 2^e of every value from (x − slack) × 2^e to (x + slack) × 2^e, not
below a lowest value (R119). -/
def inBound (op a : Nat) (lowest : Option Int) (x b e : Int) : Nat :=
  let lo := x + fixSlack - b
  let lo := match lowest with
    | some z => max z lo
    | none => lo
  let i := f32Near true lo e
  let j := f32Near false (x - fixSlack + b) e
  f32At (i + ((Config.approx op a % (j - i + 1).toNat : Nat) : Int))

/-- An ulp of a value x × 2^e, in units of 2^e: the spacing of f32 in the binade of the value (log entry 65). -/
def ulpOf (x : Int) : Int := 2 ^ (Nat.log2 x.natAbs - 23)

/-- The flags of a result that R119 does not name exact. -/
def inexactOnly : Flags := { nx := true }

/-- frsq: within 1 ulp. -/
def frsqOf (a : Nat) : Nat × Flags :=
  match Fl.decode f32Fmt a with
  | .nan s => (f32Fmt.nan, { nv := s })
  | .inf true => invalid f32Fmt
  | .inf false => (0, {})
  | .num neg m e =>
    if m = 0 then (f32Fmt.signed neg f32Fmt.infCode, { dz := true })
    else if neg then invalid f32Fmt
    else
      let odd := e % 2 = 1
      let m := if odd then 2 * m else m
      let e := if odd then e - 1 else e
      let r : Int := isqrt (2 ^ 400 / m) 201 0
      (inBound 0x79 a none r (ulpOf r) (-200 - e / 2), inexactOnly)

/-- fex2: exact for integers from −149 to 127, otherwise within 2 ulp, or 2^−149 for subnormal results. -/
def fex2Of (a : Nat) : Nat × Flags :=
  match Fl.decode f32Fmt a with
  | .nan s => (f32Fmt.nan, { nv := s })
  | .inf true => (0, {})
  | .inf false => (f32Fmt.infCode, {})
  | .num neg m e =>
    let y := if m = 0 then 0 else atExp neg m (e + 160) 0
    if m = 0 then (0x3F800000, {})
    else if 128 * fixOne ≤ y then (f32Fmt.infCode, { of := true, nx := true })
    else if y % fixOne = 0 ∧ -149 * fixOne ≤ y then ((roundNum f32Fmt .rn false false 1 (y / fixOne)).1, {})
    else
      let y := max y (-200 * fixOne)
      let (x, n) := fixExp2 y
      if n < -126 then
        let r := inBound 0x7B a (some 0) x (2 ^ (-149 - (n - 160)).toNat) (n - 160)
        (r, { nx := true, uf := r < 0x00800000 })
      else
        let r := inBound 0x7B a none x (2 * ulpOf x) (n - 160)
        (r, { nx := true, uf := r < 0x00800000 })

/-- flg2: exact for powers of two; absolute 2^−22 on [0.5, 2], otherwise within 2 ulp. -/
def flg2Of (a : Nat) : Nat × Flags :=
  match Fl.decode f32Fmt a with
  | .nan s => (f32Fmt.nan, { nv := s })
  | .inf true => invalid f32Fmt
  | .inf false => (f32Fmt.infCode, {})
  | .num neg m e =>
    if m = 0 then (f32Fmt.signed true f32Fmt.infCode, { dz := true })
    else if neg then invalid f32Fmt
    else
      let n : Int := Nat.log2 m + e
      if 2 ^ Nat.log2 m = m then ((roundNum f32Fmt .rn false (decide (n < 0)) n.natAbs 0).1, {})
      else
        let x := n * fixOne + fixLog2 m
        let b := if -1 ≤ n ∧ n ≤ 0 then 2 ^ 138 else 2 * ulpOf x
        (inBound 0x7C a none x b (-160), inexactOnly)

/-- The argument of fsin and fcos reduced to ±π exactly over the whole range, in fixed point. -/
def reduceAngle (neg : Bool) (m : Nat) (e : Int) : Int :=
  let r := ((m : Int) * 2 ^ (e + 320).toNat) % fixTau
  let r := if fixTau ≤ 2 * r then r - fixTau else r
  let x := r / fixOne
  if neg then -x else x

/-- A finite number is below 2^−12 in magnitude. -/
def tinyArg (m : Nat) (e : Int) : Bool := (Nat.log2 m : Int) + e < -12

/-- fsin: a exactly below 2^−12, otherwise absolute 2^−21. -/
def fsinOf (a : Nat) : Nat × Flags :=
  match Fl.decode f32Fmt a with
  | .nan s => (f32Fmt.nan, { nv := s })
  | .inf _ => invalid f32Fmt
  | .num neg m e =>
    if m = 0 ∨ tinyArg m e then (a, {})
    else (inBound 0x7D a none (fixSin (reduceAngle neg m e)) (2 ^ 139) (-160), inexactOnly)

/-- fcos: absolute 2^−21. -/
def fcosOf (a : Nat) : Nat × Flags :=
  match Fl.decode f32Fmt a with
  | .nan s => (f32Fmt.nan, { nv := s })
  | .inf _ => invalid f32Fmt
  | .num neg m e =>
    if m = 0 then (0x3F800000, {})
    else (inBound 0x7E a none (fixCos (reduceAngle neg m e)) (2 ^ 139) (-160), inexactOnly)

/-- ftanh: a exactly below 2^−12, ±1 exactly from 9.5 on, otherwise within 2 ulp. -/
def ftanhOf (a : Nat) : Nat × Flags :=
  match Fl.decode f32Fmt a with
  | .nan s => (f32Fmt.nan, { nv := s })
  | .inf neg => (f32Fmt.signed neg 0x3F800000, {})
  | .num neg m e =>
    if m = 0 ∨ tinyArg m e then (a, {})
    else
      let x := atExp false m (e + 160) 0
      if 19 * fixOne ≤ 2 * x then (f32Fmt.signed neg 0x3F800000, {})
      else
        let (p, n) := fixExp2 (2 * x * fixOne / fixLn2)
        let p := p * 2 ^ n.toNat
        let t := (p - fixOne) * fixOne / (p + fixOne)
        let v := if neg then -t else t
        (inBound 0x7F a none v (2 * ulpOf v) (-160), inexactOnly)

end Sys2Proof.Machine
end

