-- ==== Sys2Proof/Machine/FloatArith.lean ====
section
/-! DEFINITION. Floating-point instructions: R107 to R120 (spec/05_isa_floating_convert.md). -/

namespace Sys2Proof.Machine

/-! ### Shapes -/

/-- A floating-point instruction of one operand: results and flags per active lane (R108, R110). -/
def flUnary (x : R1) (wd wa : Bool) (f : Nat → Nat × Flags) (s : State) : Result :=
  alu { guard := x.g, uses := [wr x.d wd, rd x.a wa] } (fun c =>
    let r (l : Nat) := f (c.W.srcN c.w wa x.a l)
    (c.W.dstN wd x.d c.act fun l => (r l).1).flag (Flags.all ((lanesOf c.act).map fun l => (r l).2))) s

/-- A floating-point instruction of two operands. -/
def flBinary (x : R2) (wide : Bool) (f : Nat → Nat → Nat × Flags) (s : State) : Result :=
  alu { guard := x.g, uses := [wr x.d wide, rd x.a wide, rd x.b wide] } (fun c =>
    let r (l : Nat) := f (c.W.srcN c.w wide x.a l) (c.W.srcN c.w wide x.b l)
    (c.W.dstN wide x.d c.act fun l => (r l).1).flag (Flags.all ((lanesOf c.act).map fun l => (r l).2))) s

/-- A floating-point instruction of three operands. -/
def flTernary (x : R3) (wide : Bool) (f : Nat → Nat → Nat → Nat × Flags) (s : State) : Result :=
  alu { guard := x.g, uses := [wr x.d wide, rd x.a wide, rd x.b wide, rd x.c wide] } (fun c =>
    let r (l : Nat) := f (c.W.srcN c.w wide x.a l) (c.W.srcN c.w wide x.b l) (c.W.srcN c.w wide x.c l)
    (c.W.dstN wide x.d c.act fun l => (r l).1).flag (Flags.all ((lanesOf c.act).map fun l => (r l).2))) s

/-- a′ + b′ rounded once (R111). -/
def sumOf (f : Fmt) (m : FMod) (a b : Nat) : Nat × Flags :=
  addFl f m.rnd ((Fl.decode f a).negIf m.na) ((Fl.decode f b).negIf m.nb)
/-- a′ × b′ rounded once (R111). -/
def productOf (f : Fmt) (m : FMod) (a b : Nat) : Nat × Flags :=
  mulRound f m.rnd ((Fl.decode f a).negIf m.na) ((Fl.decode f b).negIf m.nb)
/-- a′ × b′ + c′ rounded once (R111). -/
def fusedOf (f : Fmt) (m : FMod) (a b c : Nat) : Nat × Flags :=
  fmaFl f m.rnd ((Fl.decode f a).negIf m.na) ((Fl.decode f b).negIf m.nb) ((Fl.decode f c).negIf m.nc)

/-- The two elements of a packed lane, each on its own (R39). -/
def twice (f : Nat → Nat × Flags) : Nat × Flags :=
  let x := f 0
  let y := f 1
  (pack 16 [x.1, y.1], x.2.or y.2)

/-! ### f32 and f64 arithmetic (R111, R112) -/

/-- R111: fadd. -/
def execFadd (x : R2) (m : FMod) (s : State) : Result := flBinary x false (sumOf f32Fmt m) s
/-- R111: fmul. -/
def execFmul (x : R2) (m : FMod) (s : State) : Result := flBinary x false (productOf f32Fmt m) s
/-- R111: ffma. -/
def execFfma (x : R3) (m : FMod) (s : State) : Result := flTernary x false (fusedOf f32Fmt m) s
/-- R111: dadd. -/
def execDadd (x : R2) (m : FMod) (s : State) : Result := flBinary x true (sumOf f64Fmt m) s
/-- R111: dmul. -/
def execDmul (x : R2) (m : FMod) (s : State) : Result := flBinary x true (productOf f64Fmt m) s
/-- R111: dfma. -/
def execDfma (x : R3) (m : FMod) (s : State) : Result := flTernary x true (fusedOf f64Fmt m) s

/-- The f32 immediate at the type of the instruction (R66, R112). -/
def immValue (imm : Word) : Fl := Fl.decode f32Fmt imm.toNat

/-- R112: faddi, to nearest even. -/
def execFaddi (x : R1) (imm : Word) (s : State) : Result :=
  flUnary x x.ty.wide x.ty.wide (fun a => addFl (fmtOf x.ty) .rn (Fl.decode (fmtOf x.ty) a) (immValue imm)) s
/-- R112: fmuli, to nearest even. -/
def execFmuli (x : R1) (imm : Word) (s : State) : Result :=
  flUnary x x.ty.wide x.ty.wide (fun a => mulRound (fmtOf x.ty) .rn (Fl.decode (fmtOf x.ty) a) (immValue imm)) s

/-! ### Minimum and maximum (R113) -/

/-- R113: fmin. -/
def execFmin (x : R2) (_rnd : Rnd) (nan : Bool) (s : State) : Result := flBinary x false (minMax f32Fmt false nan) s
/-- R113: fmax. -/
def execFmax (x : R2) (_rnd : Rnd) (nan : Bool) (s : State) : Result := flBinary x false (minMax f32Fmt true nan) s
/-- R113: dmin. -/
def execDmin (x : R2) (_rnd : Rnd) (nan : Bool) (s : State) : Result := flBinary x true (minMax f64Fmt false nan) s
/-- R113: dmax. -/
def execDmax (x : R2) (_rnd : Rnd) (nan : Bool) (s : State) : Result := flBinary x true (minMax f64Fmt true nan) s

/-! ### Compare, absolute value, class (R114, R116, R117) -/

/-- A compare into a predicate (R114). -/
def flCompare (g : Guard) (wide : Bool) (f : Fmt) (pd : Fin 8) (cc : FCond) (a b : Opnd) (s : State) : Result :=
  alu { guard := g, uses := [rd a wide, rd b wide] } (fun c =>
    let r (l : Nat) := FCond.judge cc (Fl.decode f (c.W.srcN c.w wide a l)) (Fl.decode f (c.W.srcN c.w wide b l))
    (c.W.putPred pd c.act (laneSet fun l => (r l).1)).flag (Flags.all ((lanesOf c.act).map fun l => (r l).2))) s

/-- R114: fcmp. -/
def execFcmp (g : Guard) (pd : Fin 8) (cc : FCond) (a b : Opnd) (_rnd : Rnd) (s : State) : Result :=
  flCompare g false f32Fmt pd cc a b s
/-- R114: dcmp. -/
def execDcmp (g : Guard) (pd : Fin 8) (cc : FCond) (a b : Opnd) (_rnd : Rnd) (s : State) : Result :=
  flCompare g true f64Fmt pd cc a b s

/-- |a| or −|a| of one element; a NaN gives the canonical NaN (R116). -/
def absOf (f : Fmt) (neg : Bool) (a : Nat) : Nat :=
  if (Fl.decode f a).isNan then f.nan else f.signed neg (a % f.signBit)

/-- R116: fabs, which raises no flag. -/
def execFabs (x : R1) (_rnd : Rnd) (neg : Bool) (s : State) : Result :=
  unary x x.ty.wide x.ty.wide (fun a =>
    if x.ty.count = 2 then pack 16 [absOf (fmtOf x.ty) neg (elem 16 0 a), absOf (fmtOf x.ty) neg (elem 16 1 a)]
    else absOf (fmtOf x.ty) neg a) s

/-- R117: fclass. -/
def execFclass (x : R1) (_rnd : Rnd) (e : Fin 8) (s : State) : Result :=
  unary x false false (fun a => 2 ^ classOf (fmtOf x.ty) (elem x.ty.bits e.val a)) s
/-- R117: dclass; d is a single register. -/
def execDclass (x : R1) (_rnd : Rnd) (s : State) : Result := unary x false true (fun a => 2 ^ classOf f64Fmt a) s

/-! ### Packed halves (R39, R111, R113, R115) -/

/-- R111: hadd2. -/
def execHadd2 (x : R2) (m : FMod) (s : State) : Result :=
  flBinary x false (fun a b => twice fun i => sumOf (fmtOf x.ty) m (elem 16 i a) (elem 16 i b)) s
/-- R111: hmul2. -/
def execHmul2 (x : R2) (m : FMod) (s : State) : Result :=
  flBinary x false (fun a b => twice fun i => productOf (fmtOf x.ty) m (elem 16 i a) (elem 16 i b)) s
/-- R111: hfma2. -/
def execHfma2 (x : R3) (m : FMod) (s : State) : Result :=
  flTernary x false (fun a b c => twice fun i => fusedOf (fmtOf x.ty) m (elem 16 i a) (elem 16 i b) (elem 16 i c)) s
/-- R113: hmin2. -/
def execHmin2 (x : R2) (_rnd : Rnd) (nan : Bool) (s : State) : Result :=
  flBinary x false (fun a b => twice fun i => minMax (fmtOf x.ty) false nan (elem 16 i a) (elem 16 i b)) s
/-- R113: hmax2. -/
def execHmax2 (x : R2) (_rnd : Rnd) (nan : Bool) (s : State) : Result :=
  flBinary x false (fun a b => twice fun i => minMax (fmtOf x.ty) true nan (elem 16 i a) (elem 16 i b)) s
/-- R115: hcmp2 writes a mask of each element. -/
def execHcmp2 (x : R2) (_rnd : Rnd) (cc : FCond) (s : State) : Result :=
  flBinary x false (fun a b => twice fun i =>
    let r := FCond.judge cc (Fl.decode (fmtOf x.ty) (elem 16 i a)) (Fl.decode (fmtOf x.ty) (elem 16 i b))
    (if r.1 then 0xFFFF else 0, r.2)) s

/-! ### Special functions (R118 to R120) -/

/-- R118: frcp. -/
def execFrcp (x : R1) (rnd : Rnd) (s : State) : Result :=
  flUnary x false false (fun a => rcpFl f32Fmt rnd (Fl.decode f32Fmt a)) s
/-- R118: fsqrt. -/
def execFsqrt (x : R1) (rnd : Rnd) (s : State) : Result :=
  flUnary x false false (fun a => sqrtFl f32Fmt rnd (Fl.decode f32Fmt a)) s
/-- R118: drcp. -/
def execDrcp (x : R1) (rnd : Rnd) (s : State) : Result :=
  flUnary x true true (fun a => rcpFl f64Fmt rnd (Fl.decode f64Fmt a)) s
/-- R118: dsqrt. -/
def execDsqrt (x : R1) (rnd : Rnd) (s : State) : Result :=
  flUnary x true true (fun a => sqrtFl f64Fmt rnd (Fl.decode f64Fmt a)) s
/-- R119: frsq. -/
def execFrsq (x : R1) (_rnd : Rnd) (s : State) : Result := flUnary x false false frsqOf s
/-- R119: fex2. -/
def execFex2 (x : R1) (_rnd : Rnd) (s : State) : Result := flUnary x false false fex2Of s
/-- R119: flg2. -/
def execFlg2 (x : R1) (_rnd : Rnd) (s : State) : Result := flUnary x false false flg2Of s
/-- R119: fsin. -/
def execFsin (x : R1) (_rnd : Rnd) (s : State) : Result := flUnary x false false fsinOf s
/-- R119: fcos. -/
def execFcos (x : R1) (_rnd : Rnd) (s : State) : Result := flUnary x false false fcosOf s
/-- R119: ftanh. -/
def execFtanh (x : R1) (_rnd : Rnd) (s : State) : Result := flUnary x false false ftanhOf s

end Sys2Proof.Machine
end

