-- ==== Sys2Proof/Machine/Convert.lean ====
section
/-! DEFINITION. Conversions and packing with a scale: R121 to R126 (spec/05_isa_floating_convert.md). -/

namespace Sys2Proof.Machine

/-- A conversion of one element of a into d or one of its elements (R122). A narrow destination keeps d's other bits. -/
def convert (x : R1) (m : CvMod) (f : Nat → Nat × Flags) (s : State) : Result :=
  let wa := m.sty.wide
  let wd := x.ty.wide
  let narrow := decide (x.ty.bits < 32)
  alu { guard := x.g, uses := [wr x.d wd, rd x.a wa] ++ if narrow then [rd x.d] else [] } (fun c =>
    let r (l : Nat) := f (elem m.sty.bits m.sidx.val (c.W.srcN c.w wa x.a l))
    let merged (l : Nat) : Nat :=
      if narrow then
        let d := (c.W.src c.w x.d l).toNat
        let n := x.ty.bits
        d - elem n m.didx.val d * 2 ^ (n * m.didx.val) + (r l).1 % 2 ^ n * 2 ^ (n * m.didx.val)
      else (r l).1
    (c.W.dstN wd x.d c.act merged).flag (Flags.all ((lanesOf c.act).map fun l => (r l).2))) s

/-- R122: cvff. -/
def execCvff (x : R1) (m : CvMod) (s : State) : Result :=
  convert x m (fun e => roundFl (fmtOf x.ty) m.rnd m.sat (valueOf m.sty e)) s
/-- R122: cvfi. -/
def execCvfi (x : R1) (m : CvMod) (s : State) : Result := convert x m (fun e => toInt x.ty m.rnd (valueOf m.sty e)) s
/-- R122: cvif. -/
def execCvif (x : R1) (m : CvMod) (s : State) : Result :=
  convert x m (fun e => roundFl (fmtOf x.ty) m.rnd m.sat (valueOf m.sty e)) s
/-- R122: cvii, which raises no flag. -/
def execCvii (x : R1) (m : CvMod) (s : State) : Result :=
  convert x m (fun e => (x.ty.deliver m.sat (m.sty.int e), {})) s

/-- The exact product of an element and a scale rounded once; ∞ × 0 gives the format's NaN (R124, R126). -/
def scaled (f : Fmt) (rnd : Rnd) (sat : Bool) (a b : Fl) : Nat × Flags :=
  match mulFl a b with
  | none => invalid f
  | some p => roundFl f rnd sat p

/-- Register i of a quad (R124). -/
def quadOpnd (a : Opnd) (i : Nat) : Opnd :=
  match a with
  | .v n => if h : n.val + i < 192 then .v ⟨n.val + i, h⟩ else a
  | .k n => if h : n.val + i < 56 then .k ⟨n.val + i, h⟩ else a
  | o => o

/-- The operand checks of pkf8's quad (R124), as a cause of R312. -/
def quadFault (nreg : Nat) (a : Opnd) : Option Nat :=
  match a with
  | .v n => if n.val % 4 ≠ 0 then some 2 else if nreg ≤ n.val + 3 then some 3 else none
  | .k n => if n.val % 4 ≠ 0 then some 2 else none
  | _ => some 2

/-- R124: pkf8. The quad's checks join the operand checks of R61: an illegal operand comes before a register range. -/
def execPkf8 (x : R2) (rnd : Rnd) (sat : Bool) (s : State) : Result :=
  let quad : Use := if quadFault 192 x.a = some 2 then rd (.bad 0) else rd (quadOpnd x.a 3)
  alu { guard := x.g, uses := [wr x.d, quad, rd x.b] } (fun c =>
    let b (l : Nat) := Fl.decode f32Fmt (c.W.src c.w x.b l).toNat
    let r (l i : Nat) :=
      scaled (fmtOf x.ty) rnd sat (Fl.decode f32Fmt (c.W.src c.w (quadOpnd x.a i) l).toNat) (b l)
    (c.W.dst x.d c.act fun l => BitVec.ofNat 32 (pack 8 ((List.range 4).map fun i => (r l i).1))).flag
      (Flags.all ((lanesOf c.act).flatMap fun l => (List.range 4).map fun i => (r l i).2))) s

/-- The exponent of the largest value of an element type (R125). -/
def emaxOf : Ty → Int
  | .e4m3 => 8
  | .e5m2 => 15
  | _ => 2

/-- ⌊log2⌋ of the largest magnitude of a list, none when all are zero (R125). -/
def blockExponent (l : List Fl) : Option Int :=
  l.foldl (fun r x =>
    match x with
    | .num _ m e =>
      if m = 0 then r
      else
        match r with
        | none => some (Nat.log2 m + e)
        | some y => some (max y (Nat.log2 m + e))
    | _ => r) none

/-- The shared scale code of a block of 32 f32 values (R125). -/
def scaleCode (t : Ty) (l : List Fl) : Nat :=
  if l.any Fl.isSpecial then 0xFF
  else
    match blockExponent l with
    | none => 0
    | some y => (clampInt (-127) 127 (y - emaxOf t) + 127).toNat

/-- R125: mxsc reads a in all 32 lanes. -/
def execMxsc (x : R1) (_rnd : Rnd) (inv : Bool) (s : State) : Result :=
  alu { guard := x.g, uses := [wr x.d, rd x.a] } (fun c =>
    let l := (List.range 32).map fun i => Fl.decode f32Fmt (c.W.src c.w x.a i).toNat
    let code := scaleCode x.ty l
    let out := if inv then (if code = 0xFF then 0x7FC00000 else (roundNum f32Fmt .rn false false 1 (127 - code)).1)
      else code
    (c.W.dst x.d c.act fun _ => BitVec.ofNat 32 out).flag { nv := decide (code = 0xFF) }) s

/-- The lanes of a destination that an instruction writes when its results reach only some lanes: a uniform one takes the
value of the lowest-numbered active lane, so it is written only when that lane has a result (R19; log entry 11). -/
def written (d : Opnd) (act some' : LaneSet) : LaneSet :=
  match d with
  | .k _ => if (match lowest act with
      | some l => inSet some' l
      | none => false) then some' else 0
  | _ => some'

/-- R126: pkf4 packs a block into the active lanes among four. -/
def execPkf4 (x : R2) (rnd : Rnd) (q : Fin 8) (s : State) : Result :=
  alu { guard := x.g, uses := [wr x.d, rd x.a, rd x.b] } (fun c =>
    let b := Fl.decode f32Fmt (c.one x.b)
    let quad := c.act &&& laneSet fun l => l / 4 = q.val
    let r (l i : Nat) :=
      scaled e2m1Fmt rnd false (Fl.decode f32Fmt (c.W.src c.w x.a (8 * (l % 4) + i)).toNat) b
    let value (l : Nat) := BitVec.ofNat 32 (pack 4 ((List.range 8).map fun i => (r l i).1))
    (c.W.dst x.d (written x.d c.act quad) value).flag
      (Flags.all ((lanesOf quad).flatMap fun l => (List.range 8).map fun i => (r l i).2))) s

end Sys2Proof.Machine
end

