-- ==== Sys2Proof/Machine/Control.lean ====
section
/-! DEFINITION. Control and convergence: R79 to R95 (spec/04_isa_control_integer_lanes.md). -/

namespace Sys2Proof.Machine

/-- R88: nop has no effect. -/
def execNop (g : Guard) (s : State) : Result := issue { guard := g } (fun _ s => .done s) s

/-! ### Branches and calls (R84) -/

/-- A signed displacement in words added to an address, modulo 2^64 (R84). -/
def displaced (a : Nat) (disp : Word) : Nat := wrap 64 (a + 8 * disp.toInt)

/-- A target that fails the check of R84: bits 2:0 or 63:57 set. -/
def badTarget (t : Nat) : Bool := t % 8 ≠ 0 || 2 ^ 57 ≤ t

/-- The shared effect of R84: every target is checked before any lane moves; the link is an ALU result. -/
def branchTo (p : Spec) (target : Ctx → Nat → Nat) (link : Option Opnd) (s : State) : Result :=
  issue { p with ends := true } (fun x s =>
    match (lanesOf x.act).find? fun l => badTarget (target x l) with
    | some l =>
      .fault { cause := 4, addr := target x l, lanes := laneSet fun l => inSet x.act l && badTarget (target x l) }
    | none =>
      let s := match link with
        | some d => s.onWarp x.w fun W => W.dst64 d x.act fun _ => BitVec.ofNat 64 x.c.after
        | none => s
      .done (s.onClause x.q fun c =>
        { c with targets := (lanesOf x.act).foldl (fun t l => tput t l (target x l)) c.targets })) s

/-- R84: bra. -/
def execBra (g : Guard) (disp : Word) (s : State) : Result :=
  branchTo { guard := g } (fun x _ => displaced x.c.h disp) none s
/-- R84: brx. -/
def execBrx (g : Guard) (a : Opnd) (disp : Word) (s : State) : Result :=
  branchTo { guard := g, uses := [rd a true] } (fun x l => displaced (x.W.src64 x.w a l).toNat disp) none s
/-- R84: call. -/
def execCall (g : Guard) (d : Opnd) (disp : Word) (s : State) : Result :=
  branchTo { guard := g, uses := [wr d true] } (fun x _ => displaced x.c.h disp) (some d) s
/-- R84: callx; A is read before D is written. -/
def execCallx (g : Guard) (d a : Opnd) (disp : Word) (s : State) : Result :=
  branchTo { guard := g, uses := [wr d true, rd a true] } (fun x l => displaced (x.W.src64 x.w a l).toNat disp)
    (some d) s
/-- R84: ret. -/
def execRet (g : Guard) (a : Opnd) (s : State) : Result :=
  branchTo { guard := g, uses := [rd a true] } (fun x l => (x.W.src64 x.w a l).toNat) none s

/-! ### Exit, meetings and signs (R85 to R87) -/

/-- A lane leaves every declared set (R86). -/
def Warp.leaveSets (W : Warp) (l : Nat) : Warp :=
  { W with cvs := (List.range 8).foldl (fun t n => tset 0 t n (tget 0 t n &&& ~~~(BitVec.ofNat 64 (2 ^ l)))) W.cvs }

/-- R87: each active thread exits and leaves every meeting set and declared set; in the handler it exits for good (R313). -/
def execExit (g : Guard) (s : State) : Result :=
  issue { guard := g, ends := true } (fun x s =>
    let s := s.onWarp x.w fun W =>
      (lanesOf x.act).foldl (fun V l => (V.setStatus l .exited).leaveSets l)
        { W with seq := W.seq + 1, exits := if W.handler then W.exits ||| x.act else W.exits }
    .done ((lanesOf x.act).foldl (fun s l => s.budExit x.w l x.W.seq x.c.h x.c.index) s)) s

/-- R85: both forms of meet; the earlier mr goes to the D pair first. -/
def execMeet (g : Guard) (form : MeetForm) (d : Opnd) (s : State) : Result :=
  let uses := match form with
    | .direct _ => [wr d true]
    | .reg a => [wr d true, rd a true]
  let target (x : Ctx) (l : Nat) : Nat := match form with
    | .direct disp => displaced x.c.h disp
    | .reg a => (x.W.src64 x.w a l).toNat
  issue { guard := g, uses := uses } (fun x s =>
    match (lanesOf x.act).find? fun l => badTarget (target x l) with
    | some l =>
      .fault { cause := 4, addr := target x l, lanes := laneSet fun l => inSet x.act l && badTarget (target x l) }
    | none =>
      .done (s.onWarp x.w fun W =>
        (lanesOf x.act).foldl (fun V l => { V with mrs := tset 0 V.mrs l (target x l) })
          (W.dst64 d x.act fun l => BitVec.ofNat 64 (W.mrOf l)))) s

/-- R86: sign marks the active lanes of the declared set; holding is judged at the boundary (R83). -/
def execSign (g : Guard) (n : Fin 8) (s : State) : Result :=
  issue { guard := g } (fun x s =>
    let m := x.act &&& (x.W.cvSets n.val).1
    let s := s.onWarp x.w fun W => W.putCv n.val (W.cv n.val ||| (m ++ (0 : Word)))
    .done (s.onClause x.q fun c => { c with signed := tset 0 c.signed n.val (tget 0 c.signed n.val ||| m) })) s

/-- R86: cvset declares a set, clears its signs and releases the threads held on it. -/
def execCvset (g : Guard) (n : Fin 8) (a : Opnd) (s : State) : Result :=
  issue { guard := g, uses := [rd a] } (fun x s =>
    let s := s.onWarp x.w fun W => (W.putCv n.val (BitVec.ofNat 64 (x.one a))).releaseSigns n.val
    .done (s.onClause x.q fun c => { c with signed := tset 0 c.signed n.val 0 })) s

/-! ### Waits (R90 to R93) -/

/-- The kind of a wait condition (R91). -/
def condKind (e : Nat) : Nat := bits e 63 62

/-- A condition entry that raises a wait-block fault (R91). -/
def badCond (e : Nat) : Bool :=
  let kind := condKind e
  let cmp := bits e 60 58
  let wid := bitOf e 57
  (kind ≠ 2 && (cmp ≠ 0 || wid || e / 2 ^ 64 ≠ 0)) ||
    match kind with
    | 0 => bits e 56 9 ≠ 0
    | 1 => bits e 56 21 ≠ 0 || bits e 19 0 % 16 ≠ 0
    | 2 => 6 ≤ cmp || (!wid && bits e 127 96 ≠ 0) || bits e 56 0 % (if wid then 8 else 4) ≠ 0
    | _ => bits e 56 32 ≠ 0

/-- A comparison of R91 at a width in bits, the word on the left. -/
def compareAt (n : Nat) (c : Nat) (a b : Nat) : Bool :=
  let a := a % 2 ^ n
  let b := b % 2 ^ n
  match c with
  | 0 => a = b
  | 1 => a ≠ b
  | 2 => a < b
  | 3 => b ≤ a
  | 4 => toSigned n a < toSigned n b
  | _ => toSigned n b ≤ toSigned n a

/-- The code of a comparison (R91). -/
def MCond.num : MCond → Nat
  | .eq => 0
  | .ne => 1
  | .ltu => 2
  | .geu => 3
  | .lts => 4
  | .ges => 5

/-- The count of a token of a context slot in a die's matching store (R278). -/
def State.tokens (s : State) (die slot id : Nat) : Nat := tget 0 (s.die die).tokens (slot * 2 ^ 32 + id)

/-- The barrier of a condition holds an error that cannot be corrected, so that judging its phase consumes it (R325; log entry 82): its
offset. -/
def State.condPoison (s : State) (w : Nat) (c : WaitCond) : Option Nat :=
  let e := c.entry.toNat
  if condKind e = 1 && (s.coreRead (coreOf w) (bits e 19 0) 16).2 then some (bits e 19 0) else none

/-- The first such barrier among the conditions of a wait. -/
def State.waitPoison (s : State) (w : Nat) (x : Waiting) : Option Nat := (x.conds.filterMap (s.condPoison w)).head?

/-- The dispatch of a warp consumes an uncorrectable error (R325). -/
def State.warpConsumes (s : State) (w unit addr : Nat) : State :=
  s.consume (s.dispatchOfWarp w) (dieOfCore (coreOf w)) unit addr

/-- Judging the barriers of a wait consumes the first error among them (R325). -/
def State.waitConsumes (s : State) (w : Nat) (x : Waiting) : State :=
  match s.waitPoison w x with
  | some o => s.warpConsumes w 0 o
  | none => s

/-- A condition is met (R91): a memory condition is judged on the word last read, and not before one is read. -/
def State.condMet (s : State) (w : Nat) (c : WaitCond) : Bool :=
  let e := c.entry.toNat
  match condKind e with
  | 0 => (s.warp w).counter (bits e 2 0) ≤ bits e 8 3
  | 1 => s.barrierPhase (coreOf w) (bits e 19 0) = b2n (bitOf e 20)
  | 2 => c.seen.any fun v => compareAt (if bitOf e 57 then 64 else 32) (bits e 60 58) v (bits e 127 64)
  | _ => 1 ≤ s.tokens (dieOfCore (coreOf w)) (s.ctxOfWarp w) (bits e 31 0)

/-- The conditions met, as the low bits of the value that D receives (R92). -/
def State.condBits (s : State) (w : Nat) (cs : List WaitCond) : Nat :=
  cs.zipIdx.foldl (fun a (c, i) => a + b2n (s.condMet w c) * 2 ^ i) 0

/-- A wait is met (R90). -/
def State.waitMet (s : State) (w : Nat) (x : Waiting) : Bool :=
  if x.all then x.conds.all (s.condMet w) else x.conds.any (s.condMet w)

/-- The writes that the end of a wait makes to D: conditions met, and bit 4 for a timeout (R92). -/
def State.waitResult (s : State) (w : Nat) (x : Waiting) (timeout : Bool) : List Pending :=
  resultWrites x.dst false x.lanes fun _ => some (s.condBits w x.conds + b2n timeout * 16)

/-- TMO rt have passed since a wait issued (R92). -/
def State.expired (s : State) (x : Waiting) : Bool :=
  match x.deadline with
  | some t => t ≤ s.rt
  | none => false

/-- Reads the word of a memory condition at its home, as a fresh load of the warp at the wait's place (R92): it waits for older
acquires, fences and locks and for the warp's own older writes of its bytes (R216, R219, R220), it is translated again each
time (R310), routes that hold its request hold it (R331, R332), and what the warp's cluster has on its way there is applied first. An
error after issue is a deferred fault (R132), which the warp takes at the boundary where the wait ends (log entry 18); a poisoned word
is consumed and leaves the last value (R325). -/
def State.readCond (s : State) (w clause index : Nat) (lanes : LaneSet) (c : WaitCond) : State × WaitCond :=
  let e := c.entry.toNat
  let va := bits e 56 0
  let n := if bitOf e 57 then 8 else 4
  let W := s.warp w
  if condKind e ≠ 2 || W.heldBack W.seq || s.ownWrite w W.seq (.global va) n then (s, c)
  else
    match s.coreTranslate (coreOf w) (s.ctxOfWarp w) va .read with
    | (s, .error sub) => (s.deferFault w W.seq clause index { cause := 0x20, sub := sub, addr := va, lanes := lanes }, c)
    | (s, .ok p) =>
      if s.tripWaits (siteOf (coreOf w) % 32) (dieOfCore (coreOf w)) (homeDie p.pa) then (s, c)
      else
      let s := s.dropLine (coreOf w) p.pa
      let (s, b, bad) := s.homeRead (siteOf (coreOf w)) (s.slot (s.ctxOfWarp w)).world p.pa n
      if bad then (s.consume (s.dispatchOfWarp w) (dieOfCore (coreOf w)) 0 p.pa, c)
      else (s, { c with seen := some (ofBytes b) })

/-- Reads every memory condition of a list. -/
def State.readConds (s : State) (w clause index : Nat) (lanes : LaneSet) : List WaitCond → State × List WaitCond
  | [] => (s, [])
  | c :: t =>
    let (s, c) := s.readCond w clause index lanes c
    let (s, t) := s.readConds w clause index lanes t
    (s, c :: t)

/-- Translates the memory conditions of a wait at issue, in order: the first sub-cause that fails, with its address (R91). -/
def State.placeConds (s : State) (w : Nat) : List Nat → State × Option (Nat × Nat)
  | [] => (s, none)
  | e :: t =>
    if condKind e = 2 then
      match s.coreTranslate (coreOf w) (s.ctxOfWarp w) (bits e 56 0) .read with
      | (s, .error c) => (s, some (c, bits e 56 0))
      | (s, .ok _) => s.placeConds w t
    else s.placeConds w t

/-- R90 to R92: reads the block once, checks and translates its conditions, and judges them at issue. A met wait writes D
at this boundary; another one holds the warp. A poisoned block or barrier is consumed, and D takes poison or what the other conditions
give (R311, R325). -/
def execWait (g : Guard) (d a : Opnd) (i : WaitImm) (s : State) : Result :=
  issue { guard := g, ends := true, uses := [wr d, rd a] } (fun x s =>
    let off := x.one a
    let size := (i.cnt.val + 1) * 16
    let first := oneLane ((lowest x.act).getD 0)
    if off % 16 ≠ 0 then .fault { cause := 9, addr := off, lanes := first }
    else if !x.g.holds off size then .fault { cause := 0x0B, addr := off, lanes := first }
    else
      let entries := (List.range (i.cnt.val + 1)).map fun n => ofBytes (s.coreRead (coreOf x.w) (off + 16 * n) 16).1
      if (s.coreRead (coreOf x.w) off size).2 then
        .done ((s.onWarp x.w fun W => W.deliver (resultWrites d false x.act fun _ => some poisonWord)).warpConsumes x.w 0 off)
      else if entries.any badCond then .fault { cause := 9, addr := off, lanes := first }
      else
        match s.placeConds x.w entries with
        | (_, some (c, va)) => .fault { cause := 0x20, sub := c, addr := va, lanes := first }
        | (s, none) =>
          let fresh : List WaitCond := entries.map fun e => { entry := BitVec.ofNat 128 e, seen := none }
          let (s, conds) := s.readConds x.w x.c.h x.c.index first fresh
          let y : Waiting :=
            { clause := x.c.h, index := x.c.index, took := x.c.lanes, next := x.c.next, signed := x.c.signed, lanes := x.act,
              dst := d, all := i.all, conds := conds,
              deadline := if i.tmo = 0 then none else some (s.rt + i.tmo) }
          if s.waitMet x.w y || (s.waitPoison x.w y).isSome then
            let ps := s.waitResult x.w y false
            .done ((s.onWarp x.w fun W => W.deliver ps).waitConsumes x.w y)
          else .done (s.endWith x.q (.wait y))) s

/-! ### After a boundary -/

/-- Where a warp goes after the steps of R83: it parks (R56), enters its handler when a fault is known (R132, R311), or ends
when its dispatch is being killed (R299). -/
def State.afterBoundary (s : State) (w : Nat) : State :=
  let t := s.time.now
  if s.dying w then s.onWarp w Warp.exitAll
  else s.onWarp w fun W => { W with readyAt := t }.rest.enterIfFaulted

/-! ### Barriers (R94, R95) -/

/-- The key of a dispatch's cluster barriers on a cluster site. -/
def cbarKey (dispatch site : Nat) : Nat := dispatch * 2 ^ 20 + site

/-- A barrier before its first arrival. -/
def BarPhase.start : BarPhase := { count := 0, arrived := [], complete := 0 }

/-- The barrier that a warp's bar or cbar names (R94). -/
def State.barPhase (s : State) (w : Nat) (cluster : Bool) (id : Nat) : BarPhase :=
  if cluster then
    tget BarPhase.start (tget [] s.comp.cbars (cbarKey (s.dispatchOfWarp w) (siteOf (coreOf w)))) id
  else
    match s.group? (groupOf w) with
    | some g => tget BarPhase.start g.bars id
    | none => BarPhase.start

/-- Changes the barrier that a warp's bar or cbar names. -/
def State.putBar (s : State) (w : Nat) (cluster : Bool) (id : Nat) (b : BarPhase) : State :=
  if cluster then
    let key := cbarKey (s.dispatchOfWarp w) (siteOf (coreOf w))
    { s with comp := { s.comp with cbars := tput s.comp.cbars key (tput (tget [] s.comp.cbars key) id b) } }
  else s.onGroup (groupOf w) fun g => { g with bars := tput g.bars id b }

/-- The warps that a barrier counts with COUNT 0: those of the group, or of the dispatch's groups on the site, that have
not ended (R94). -/
def State.barWarps (s : State) (w : Nat) (cluster : Bool) : List Nat :=
  (s.comp.warps.filter fun (v, V) =>
    (if cluster then siteOf (coreOf v) = siteOf (coreOf w) && s.dispatchOfWarp v = s.dispatchOfWarp w
     else groupOf v = groupOf w) && V.phase ≠ .gone).map Prod.fst

/-- A warp leaves a barrier: it acquires and is between clauses again, or parks (R56, R94). -/
def State.leaveBar (s : State) (cluster : Bool) (id n v : Nat) : State :=
  let s := s.acquire v (if cluster then .cls else .grp)
  if (s.warp v).phase = .barrier cluster id n then
    let t := s.time.now
    (s.onWarp v fun V => { V with phase := .between, readyAt := t }.rest.enterIfFaulted).progress (coreOf v) (s.ctxOfWarp v)
  else s

/-- BAR_PHASE_COMPLETE (R95): when the arrivals reach the target, every arrived warp is released and the next phase opens. -/
def State.checkBar (s : State) (w : Nat) (cluster : Bool) (id : Nat) : State :=
  let b := s.barPhase w cluster id
  let target := if b.count = 0 then (s.barWarps w cluster).length else b.count
  if b.arrived ≠ [] ∧ target ≤ b.arrived.length then
    let s := s.putBar w cluster id { count := 0, arrived := [], complete := b.complete + 1 }
    b.arrived.foldl (fun s v => s.leaveBar cluster id b.complete v) s
  else s

/-- Judges every barrier of a warp's group and of its dispatch on its cluster site. -/
def State.checkBars (s : State) (w : Nat) : State :=
  let s := match s.group? (groupOf w) with
    | some g => (tkeys g.bars).foldl (fun s id => s.checkBar w false id) s
    | none => s
  (tkeys (tget [] s.comp.cbars (cbarKey (s.dispatchOfWarp w) (siteOf (coreOf w))))).foldl
    (fun s id => s.checkBar w true id) s

/-- A warp arrives at its bar or cbar (R95): its clause ends and it waits for the phase, which it may complete. A COUNT that
differs from the phase's raises a barrier-mismatch fault at the instruction, and the warp does not arrive. A fault that is
known goes first: the warp waits for the phase when it returns from its handler. -/
def State.arriveAt (s : State) (w : Nat) (x : Arriving) : State :=
  let b := s.barPhase w x.cluster x.id
  if b.arrived ≠ [] ∧ b.count ≠ x.count then
    (s.onWarp w fun W =>
      ({ W.addFault W.seq x.clause x.index false { cause := 0x0A, lanes := x.lanes } with
          resume := some (x.clause, x.index), seq := W.seq + 1, phase := .between }.judgeSigns x.signed).settle).afterBoundary w
  else
    let s := (s.markRelease w (s.warp w).seq (if x.cluster then .cls else .grp)).putBar w x.cluster x.id
      { b with count := x.count, arrived := b.arrived ++ [w] }
    let s := s.onWarp w fun W =>
      let W := { W with seq := W.seq + 1, phase := .between }.boundarySteps x.took x.next [] x.signed
      if W.phase ≠ Phase.between then W
      else if W.faults.isEmpty then { W with phase := .barrier x.cluster x.id b.complete }
      else { W with rejoin := some (x.cluster, x.id, b.complete) }.enterIfFaulted
    (s.progress (coreOf w) (s.ctxOfWarp w)).checkBar w x.cluster x.id

/-- A warp whose bar or cbar has not arrived does so once its release is performed (R94). -/
def State.tryArrive (s : State) (w : Nat) : State :=
  match (s.warp w).phase with
  | .arriving x =>
    if resident w && !s.dying w && s.released w (s.warp w).seq (if x.cluster then .cls else .grp) then s.arriveAt w x else s
  | _ => s

/-- A bar or cbar ends its clause; the warp arrives once, at the boundary or as soon after it as its release is performed (R94,
R95). -/
def arriveBar (p : Spec) (cluster : Bool) (id : Fin 16) (count : Nat) (s : State) : Result :=
  issue { p with ends := true } (fun x s =>
    .done (s.endWith x.q (.barrier
      { clause := x.c.h, index := x.c.index, took := x.c.lanes, next := x.c.next, signed := x.c.signed, lanes := x.act,
        cluster := cluster, id := id.val, count := count }))) s

/-- R94, R95: bar. -/
def execBar (g : Guard) (id : Fin 16) (count : Nat) (s : State) : Result :=
  arriveBar { guard := g } false id count s
/-- R94, R95: cbar. -/
def execCbar (g : Guard) (id : Fin 16) (count : Nat) (s : State) : Result :=
  arriveBar { guard := g } true id count s

/-! ### Yield and trap (R88, R89) -/

/-- R88: yield ends the clause and makes the warp newly ready. -/
def execYield (g : Guard) (s : State) : Result :=
  issue { guard := g, ends := true } (fun x s => .done (s.endWith x.q .yield)) s

/-- R89: trap enters the handler with cause "software trap" at the boundary. -/
def execTrap (g : Guard) (code : Word) (s : State) : Result :=
  issue { guard := g, ends := true } (fun x s =>
    let s := s.onWarp x.w fun W =>
      { W.addFault W.seq x.c.h x.c.index false { cause := 0x14, lanes := x.act, code := code.toNat } with
        seq := W.seq + 1 }
    .done (s.endWith x.q (.trap code))) s

end Sys2Proof.Machine
end

