-- ==== Sys2Proof/Machine/Windows.lean ====
section
/-! DEFINITION. Tensor shape records, the record cache, window entries and the landing of copies and pushes: R234 to
R247 (spec/11_root_engines_windows.md). -/

namespace Sys2Proof.Machine

/-! ### Tensor shape records (R234 to R237) -/

/-- DIMS of a record: the number of dimensions minus one. -/
def recDims (r : Nat) : Nat := bits r 502 500
/-- TYPE of a record. -/
def recType (r : Nat) : Ty := Ty.ofCode (bits r 499 496)
/-- Tile extent of a dimension. -/
def recTile (r d : Nat) : Nat := bits r (431 + 16 * d) (416 + 16 * d)
/-- Extent of a dimension. -/
def recExt (r d : Nat) : Nat := bits r (95 + 32 * d) (64 + 32 * d)
/-- Byte stride of a dimension from 1 up. -/
def recStride (r d : Nat) : Nat := if d = 0 then 0 else bits r (271 + 48 * (d - 1)) (224 + 48 * (d - 1))
/-- BASE of a record. -/
def recBase (r : Nat) : Nat := bits r 63 0

/-- Elements of a record's tile. -/
def recCount (r : Nat) : Nat := (List.range (recDims r + 1)).foldl (fun n d => n * recTile r d) 1

/-- Size of a record's tile in bytes (R235). -/
def recSize (r : Nat) : Nat := recCount r * (recType r).bits / 8

/-- The record is well formed (R235). -/
def recOk (r : Nat) : Bool :=
  let z := (recType r).bits / 8
  let dims := recDims r
  bits r 511 503 = 0 && dims ≤ 4 && recBase r < 2 ^ 57 && (z = 0 || recBase r % z = 0) &&
    ((List.range 5).all fun d =>
      if d ≤ dims then 1 ≤ recExt r d && 1 ≤ recTile r d && (z = 0 || recStride r d % z = 0)
      else recExt r d = 0 && recStride r d = 0 && recTile r d = 0) &&
    (z ≠ 0 || recTile r 0 % 2 = 0) && recCount r * (recType r).bits % 128 = 0 && recSize r ≤ 0xFFFF0

/-- Coordinate of a dimension (R236). -/
def coord (q d : Nat) : Nat := bits q (12 * d + 11) (12 * d)

/-- The coordinates fit the record (R236). -/
def coordsOk (r q : Nat) : Bool :=
  bits q 63 60 = 0 && (List.range 5).all fun d => d ≤ recDims r || coord q d = 0

/-- The tile-local coordinates of element c, dimension 0 fastest (R236). -/
def tileCoords (r : Nat) : Nat → Nat → List Nat
  | 0, c => [c % max 1 (recTile r (recDims r))]
  | n + 1, c =>
    let t := max 1 (recTile r (recDims r - (n + 1)))
    c % t :: tileCoords r n (c / t)

/-- The tensor coordinates of element c of tile q (R236). -/
def elemCoords (r q c : Nat) : List Nat :=
  (tileCoords r (recDims r) c).zipIdx.map fun (x, d) => coord q d * recTile r d + x

/-- The element is inside the tensor (R236). -/
def inBounds (r : Nat) (e : List Nat) : Bool := e.zipIdx.all fun (x, d) => x < recExt r d

/-- The source address of an element in half bytes (R236). -/
def elemNibble (r : Nat) (e : List Nat) : Nat :=
  2 * recBase r + e.headD 0 * ((recType r).bits / 4) + 2 * ((e.zipIdx.map fun (x, d) => x * recStride r d).foldl (· + ·) 0)

/-- The source byte of byte b of a tile, for elements of a byte or more; none outside the tensor. -/
def sourceByte (r q b : Nat) : Option Nat :=
  let z := max 1 ((recType r).bits / 8)
  let e := elemCoords r q (b / z)
  if inBounds r e then some ((elemNibble r e / 2 + b % z) % 2 ^ 64) else none

/-- The bytes that byte b of a tile is made from, with the mask of each: two nibbles for e2m1 (R236). -/
def sourceParts (r q b : Nat) : Option Nat × Option Nat :=
  if (recType r).bits = 4 then
    let e := elemCoords r q (2 * b)
    let f := elemCoords r q (2 * b + 1)
    (if inBounds r e then some (elemNibble r e / 2 % 2 ^ 64) else none,
      if inBounds r f then some (elemNibble r f / 2 % 2 ^ 64) else none)
  else (sourceByte r q b, sourceByte r q b)

/-- Tiles of a dimension (R237). -/
def tilesOf (r d : Nat) : Nat := (recExt r d + recTile r d - 1) / recTile r d

/-- Coordinates from a list, dimension 0 first; one that steps past 4095 is kept modulo 4096 (log entry 67). -/
def packCoords (l : List Nat) : Nat := (l.zipIdx.map fun (x, d) => x % 4096 * 2 ^ (12 * d)).foldl (· + ·) 0

/-- Carries a step from dimension d on (R237): `n` dimensions are left above it. A coordinate wraps when it comes to equal its count
of tiles; one that stood beyond it is stepped on (log entry 67). -/
def carry (r q : Nat) : Nat → Nat → Nat → List Nat
  | 0, d, c => [if coord q d + c = tilesOf r d then 0 else coord q d + c]
  | n + 1, d, c =>
    let x := coord q d + c
    if x = tilesOf r d then 0 :: carry r q n (d + 1) 1 else x :: carry r q n (d + 1) 0

/-- One tile further (R237). -/
def stepCoords (r q : Nat) : Nat := packCoords (carry r q (recDims r) 0 1)

/-! ### The record cache (R239) -/

/-- Why a record or source cannot be read. -/
inductive ReadErr
  | translation (sub : Nat)
  | data
deriving DecidableEq, Repr

/-- Reads bytes at a virtual address by an engine of a die or for a copy: fresh, at their home (R236, R239). The bytes lie
in one page. -/
def State.virtRead (s : State) (die : Nat) (site : Option Nat) (slot va n : Nat) : State × Except ReadErr (List Byte) :=
  match s.translate die slot va .read with
  | .error c => (s.keepWalk die slot va .read, .error (.translation c))
  | .ok p =>
    let s := s.keepWalk die slot va .read
    let s := match site with
      | some k => s.flushPath (pathKey k p.pa)
      | none => s
    let s := s.checkMac (s.slot slot).world p.pa n
    let (b, bad) := s.hbmRead (s.slot slot).world p.pa n
    if bad then (s, .error .data) else (s, .ok b)

/-- Looks a record up in a die's cache, or fills it from memory (R239): at most 256 records, the most recently used
first. -/
def State.readRecord (s : State) (die : Nat) (site : Option Nat) (slot addr : Nat) :
    State × Except ReadErr (BitVec 512) :=
  match (s.die die).records.find? fun (c, a, _) => c = slot && a = addr with
  | some (_, _, r) =>
    (s.onDie die fun d =>
      { d with records := (slot, addr, r) :: d.records.filter fun (c, a, _) => !(c = slot && a = addr) }, .ok r)
  | none =>
    match s.virtRead die site slot addr 64 with
    | (s, .error e) => (s, .error e)
    | (s, .ok b) =>
      let r := BitVec.ofNat 512 (ofBytes b)
      (s.onDie die fun d => { d with records := ((slot, addr, r) :: d.records).take 256 }, .ok r)

/-! ### Window entries (R242) -/

/-- Changes a window entry of a group. -/
def State.onWindow (s : State) (g id : Nat) (f : Window → Window) : State :=
  s.onGroup g fun x => { x with windows := tmap f x.windows id }

/-- The window entries of a group that a range of the core store touches. -/
def Group.windowsAt (g : Group) (o n : Nat) : List (Nat × Window) :=
  g.windows.filter fun (_, w) => overlaps o n w.offset w.size

/-- WINDOW_REARM (R242): a full window whose granules are all empty. A step that cannot read a good record leaves the
coordinates (R237). -/
def State.rearm (s : State) (g id : Nat) (w : Window) : State :=
  let core := coreOfGroup g
  let granules := (List.range (w.size / 16)).map fun i => w.offset / 16 + i
  if w.state = .full ∧ granules.all (fun i => tget false (s.core core).empty i) then
    match w.mode.val with
    | 0 => s.onWindow g id fun w => { w with state := .absent }
    | 1 =>
      let slot := match s.group? g with
        | some x => x.slot
        | none => 0
      match s.readRecord (dieOfCore core) (some (siteOf core)) slot w.record with
      | (s, .error _) => s.onWindow g id fun w => { w with state := .absent }
      | (s, .ok r) =>
        let q := w.coords.toNat
        let q := if w.record % 64 = 0 ∧ recOk r.toNat ∧ coordsOk r.toNat q then stepCoords r.toNat q else q
        s.onWindow g id fun w => { w with state := .absent, coords := BitVec.ofNat 64 q }
    | _ => s
  else s

/-- Clears the full bits of granules of a group (R15, R139, R141); those of register areas and uniform blocks stay
full. Windows that become empty re-arm. -/
def State.clearGranules (s : State) (core : Nat) (granules : List Nat) : State :=
  let s := granules.foldl (fun s n =>
    match s.areaAt core (n * 16) with
    | some (_, _, a) => if a.isRegister then s else s.onCore core fun c => { c with empty := tset false c.empty n true }
    | none => s) s
  match granules.head? with
  | none => s
  | some n =>
    match s.groupAt core (n * 16) with
    | none => s
    | some (g, x) =>
      x.windows.foldl (fun s (id, w) =>
        if granules.any fun i => overlaps (i * 16) 16 w.offset w.size then s.rearm g id w else s) s

/-! ### Transfers (R243 to R247) -/

/-- Enters a transfer and brings it to its barrier. -/
def State.startTransfer (s : State) (t : Transfer) : State × Nat :=
  let n := tnext s.comp.transfers
  let s := { s with comp := { s.comp with transfers := tput s.comp.transfers n t } }
  (s.toBarrier n, n)

/-- The sub-cause of a copy whose record, coordinates or size is bad (R235, R236, R243, R312). -/
def copyFault (addr r q size : Nat) : Option Nat :=
  if addr % 64 ≠ 0 ∨ ¬ recOk r ∨ ¬ coordsOk r q then some 8 else if recSize r ≠ size then some 9 else none

/-- The bytes of granule n of a transfer's tile, read fresh from their homes (R236); whether any is poisoned. -/
def State.granuleBytes (s : State) (die : Nat) (site : Option Nat) (t : Transfer) (n : Nat) :
    State × Except Nat (List Byte × Bool) :=
  let r := t.record.toNat
  let one (s : State) (va : Option Nat) : State × Except Nat (Nat × Bool) :=
    match va with
    | none => (s, .ok (0, false))
    | some a =>
      match s.virtRead die site t.slot a 1 with
      | (s, .error (.translation c)) => (s, .error c)
      | (s, .error .data) => (s, .ok (0, true))
      | (s, .ok b) => (s, .ok (ofBytes b, false))
  (List.range 16).foldl (fun acc i =>
    match acc with
    | (s, .error c) => (s, .error c)
    | (s, .ok (bs, bad)) =>
      let parts := sourceParts r t.coords.toNat (16 * n + i)
      match one s parts.1 with
      | (s, .error c) => (s, .error c)
      | (s, .ok (lo, x)) =>
        match one s parts.2 with
        | (s, .error c) => (s, .error c)
        | (s, .ok (hi, y)) => (s, .ok (bs ++ [BitVec.ofNat 8 (lo % 16 + hi / 16 * 16)], bad || x || y)))
    (s, .ok ([], false))

/-- Lands a granule of a transfer in one core-store cycle (R227, R232, R325): bytes, full bit, arrival. -/
def State.landGranule (s : State) (t : Transfer) (n : Nat) (bytes : List Byte) (bad : Bool) : State :=
  let s := s.coreWrite t.core (bytes.zipIdx.map fun (b, i) => (t.offset + 16 * n + i, b))
  let s := if bad then
    s.onCore t.core fun c => { c with poison := tset false c.poison ((t.offset + 16 * n) / 16) true } else s
  match t.bar with
  | some o => s.arrive (coreOfGroup t.barGroup) o 16
  | none => s

/-- The last granule of a copy or claiming push has landed: its window is full (R242). -/
def State.closeWindow (s : State) (id : Nat) (t : Transfer) : State :=
  match t.claims with
  | none => s
  | some w => s.onWindow t.group w fun x => if x.state = .filling id then { x with state := .full } else x

/-- Reads the record of a copy and brings the copy to its barrier (R243). A record that cannot be read or is bad lets
WINDOW_COPY_FAULT end it. -/
def State.beginCopy (s : State) (n : Nat) : State :=
  match tfind s.comp.transfers n with
  | none => s
  | some t =>
    match t.source with
    | .push _ => s
    | .copy _ _ id =>
      let addr := match s.group? t.group with
        | some g => (tget { offset := 0, size := 0, bar := none, record := 0, coords := 0, mode := 0, state := .absent }
            g.windows id).record
        | none => 0
      -- An address of bad alignment names no record, whatever a read there would meet (log entry 78).
      if addr % 64 ≠ 0 then s.onTransfer n fun t => { t with started := true, trouble := some 8 }
      else
      match s.readRecord (dieOfCore t.core) (some (siteOf t.core)) t.slot addr with
      | (s, .error (.translation c)) => s.onTransfer n fun t => { t with started := true, trouble := some c }
      | (s, .error .data) => s.onTransfer n fun t => { t with started := true, trouble := some 7 }
      | (s, .ok r) =>
        let bad := copyFault addr r.toNat t.coords.toNat t.size
        let s := s.onTransfer n fun t => { t with started := true, record := r, trouble := bad }
        if bad.isNone then s.toBarrier n else s

/-- A copy of a warp must wait before it reads its record: for a record fence (R181), or for an acquire, fence or lock before its
ldw (R223, R227). -/
def State.copyHeld (s : State) (w seq place : Nat) : Bool := s.recordFenced w seq || (s.warp w).heldBack place

/-- Begins the copies of a warp that were held back and are held back no more (R181, R223). -/
def State.beginHeldCopies (s : State) (w : Nat) : State :=
  s.comp.transfers.foldl (fun s (n, t) =>
    match t.source with
    | .copy v seq _ => if v = w && !t.started && !s.copyHeld w seq t.place then s.beginCopy n else s
    | .push _ => s) s

/-- A window that has changed state is claimed no longer by a push that claimed it before its group was saved (R245). -/
def State.unclaim (s : State) (g id : Nat) : State :=
  { s with
    comp :=
      { s.comp with
        transfers := s.comp.transfers.map fun (n, t) =>
          (n, if t.group = g && t.claims = some id then { t with claims := none } else t) } }

/-- Starts the copy of an absent window that an ldw touches (R139, R243): the entry is filling, the issuing warp's win
counter rises, and the copy begins unless something holds it back. `o` is the ldw. -/
def State.startCopy (s : State) (w : Nat) (o : Op) (id : Nat) (x : Window) : State :=
  let g := groupOf w
  let seq := (s.warp w).seq
  let n := tnext s.comp.transfers
  let t : Transfer :=
    { source := .copy w seq id, place := o.seq, slot := s.ctxOfWarp w, group := g, record := 0, coords := x.coords,
      core := coreOfGroup g, offset := x.offset, size := x.size, bar := x.bar, barGroup := g, started := false, trouble := none,
      charged := false, paid := false, claims := some id, left := List.range (x.size / 16), batch := n, many := false, image := [] }
  let s := s.unclaim g id
  let s := { s with comp := { s.comp with transfers := tput s.comp.transfers n t } }
  let s := s.pushOp w
    { o with seq := seq, cls := some 2, kind := .copy n, order := .plain, dst := .zero, acc := [], results := [] }
  let s := s.onWindow g id fun y => { y with state := .filling n }
  if s.copyHeld w seq o.seq then s else s.beginCopy n

end Sys2Proof.Machine
end

