-- ==== Sys2Proof/Machine/LoadStore.lean ====
section
/-! DEFINITION. Loads, stores, blocks, window loads and setempty: address formation, the checks at issue and the issue
of an access, R128 to R142 (spec/06_isa_memory_sync.md). The accesses themselves are performed by the events of
Machine/MemEvents.lean. -/

namespace Sys2Proof.Machine

/-! ### Addresses (R130) -/

/-- The window and the offset or virtual address that an address resolves to. -/
inductive Target
  | global (va : Nat)
  | core (off : Nat)
  | register (off : Nat)
  | cluster (site off : Nat)
deriving DecidableEq, Repr

/-- The start of the generic apertures (R130). -/
def apertures : Nat := 0x01FFFFFFFD000000

/-- A core-space offset, inside the store. -/
def coreTarget (off : Nat) : Option Target := if off < 0x100000 then some (.core off) else none
/-- A register-window offset, inside the store. -/
def registerTarget (off : Nat) : Option Target := if off < 0x100000 then some (.register off) else none
/-- A cluster-window offset, inside the eight stores. -/
def clusterTarget (off : Nat) : Option Target :=
  if off < 0x800000 then some (.cluster (off / 0x100000) (off % 0x100000)) else none

/-- R130: resolves an address in a space; none is the address fault. -/
def resolve (sp : Space) (g : Nat) : Option Target :=
  match sp with
  | .generic =>
    if 2 ^ 57 ≤ g then none
    else if apertures + 0x2000000 ≤ g then clusterTarget (g - (apertures + 0x2000000))
    else if apertures + 0x1000000 ≤ g then registerTarget (g - (apertures + 0x1000000))
    else if apertures ≤ g then coreTarget (g - apertures)
    else some (.global g)
  | .global => if apertures ≤ g then none else some (.global g)
  | .core => coreTarget g
  | .register => registerTarget g
  | .cluster => clusterTarget g

/-- The address of a lane: A + sext(OFS) modulo 2^64 (R130). -/
def Ctx.address (x : Ctx) (m : MForm) (l : Nat) : Nat := wrap 64 ((x.W.src64 x.w m.a l).toNat + m.ofs.toInt)

/-- The core at a place of the accessing warp's cluster. -/
def siteCore (core i : Nat) : Nat := core / 8 * 8 + i

/-- Where an access to a target goes. -/
def Target.loc (t : Target) (core : Nat) : Loc :=
  match t with
  | .global va => .global va
  | .core off => .store core off
  | .register off => .store core off
  | .cluster i off => .store (siteCore core i) off

/-- The place that follows by n bytes. -/
def Loc.plus (l : Loc) (n : Nat) : Loc :=
  match l with
  | .global va => .global (va + n)
  | .store c o => .store c (o + n)

/-! ### Checks at issue (R131) -/

/-- What the checks of R131 need to know of an access: its bytes, its alignment, whether it is one block at the lowest
active lane's address, whether the lanes that are not active are read too (R137), and the windows that its instruction admits. -/
structure Shape where
  size     : Nat
  align    : Nat
  block    : Bool := false
  global   : Bool := true
  core     : Bool := true
  cluster  : Bool := true
  register : Bool := true
  whole    : Bool := false
deriving DecidableEq, Repr

/-- The lanes whose addresses count. -/
def Shape.lanes (sh : Shape) (act : LaneSet) : List Nat := if sh.block then (lowest act).toList else lanesOf act

/-- Two targets lie in one window and, in the cluster window, on one core site (R131). -/
def Target.sameWindow (a b : Target) : Bool :=
  match a, b with
  | .global _, .global _ => true
  | .core _, .core _ => true
  | .register _, .register _ => true
  | .cluster i _, .cluster j _ => i = j
  | _, _ => false

/-- Bytes of a core's store meet a register area or uniform block of some group (R28). -/
def State.onRegisters (s : State) (core off n : Nat) : Bool :=
  s.comp.groups.any fun (g, x) => coreOfGroup g = core && x.meetsRegisters off n

/-- An instruction's space set admits a target (R131). -/
def State.admits (s : State) (sh : Shape) (core : Nat) (t : Target) : Bool :=
  match t with
  | .global _ => sh.global
  | .register _ => sh.register
  | .core off => sh.core && (sh.register || !s.onRegisters core off sh.size)
  | .cluster i off => sh.cluster && (sh.register || !s.onRegisters (siteCore core i) off sh.size)

/-- A target passes the protection check of R131 (R14, R28). -/
def State.allowed (s : State) (x : Ctx) (n : Nat) (t : Target) : Bool :=
  match t with
  | .global _ => true
  | .core off => x.g.holds off n
  | .register off => x.g.base ≤ off && off + n ≤ x.g.base + x.g.scratch
  | .cluster i off =>
    let c := siteCore (coreOf x.w) i
    s.coreUp c && s.comp.groups.any fun (g, y) =>
      coreOfGroup g = c && y.dispatch = x.g.dispatch && y.holds off n &&
        (g = groupOf x.w || !y.meetsRegisters off n)

/-- The first failing check of a list over lanes: its cause and the lanes that fail it. -/
def firstFailure (lanes : List Nat) (addr : Nat → Nat) : List (Nat × (Nat → Bool)) → Option Trouble
  | [] => none
  | (cause, bad) :: t =>
    match lanes.find? bad with
    | some l => some { cause := cause, addr := addr l, lanes := laneSet fun i => lanes.contains i && bad i }
    | none => firstFailure lanes addr t

/-- A condition on the target of a lane's address; true where there is none. -/
def onTarget (sp : Space) (g : Nat) (p : Target → Bool) : Bool :=
  match resolve sp g with
  | some t => p t
  | none => true

/-- The checks of R131 in their order: address, alignment, crossing, space, protection. -/
def State.accessFault (s : State) (x : Ctx) (m : MForm) (sh : Shape) : Option Trouble :=
  let a := x.address m
  firstFailure (sh.lanes x.act) a
    [ (0x0C, fun l => (resolve m.space (a l)).isNone),
      (0x0D, fun l => a l % sh.align ≠ 0),
      (0x0E, fun l => sh.block && !(onTarget m.space (a l) fun t =>
        match resolve m.space (a l + sh.size - 1) with
        | some u => t.sameWindow u
        | none => false)),
      (0x0F, fun l => !(onTarget m.space (a l) (s.admits sh (coreOf x.w)))),
      (0x0B, fun l => !(onTarget m.space (a l) (s.allowed x sh.size))) ]

/-! ### Issue of an access -/

/-- A class of accesses: counter, kind, shape, and the slot an atomic asks for (R26, R128). -/
structure Form where
  cls   : Nat
  kind  : OpKind
  shape : Shape
  slot  : Option (Option (Fin 8)) := none

/-- The accesses of the active lanes, of every lane for a block that is read whole (log entry 84): bytes to write and compare
values by lane. A block's lanes lie side by side. -/
def Ctx.accesses (x : Ctx) (m : MForm) (sh : Shape) (data : Nat → List Byte) (cmp : Nat → Nat) : List Access :=
  let at' (l : Nat) : Loc :=
    match resolve m.space (x.address m l) with
    | some t => t.loc (coreOf x.w)
    | none => .global 0
  let first := (lowest x.act).getD 0
  (lanesOf (if sh.whole then allLanes else x.act)).map fun l =>
    { lane := l, dest := 0, loc := if sh.block then (at' first).plus (l * (sh.size / 32)) else at' l,
      size := if sh.block then sh.size / 32 else sh.size, data := data l, cmp := cmp l, done := false }

/-- The outstanding operation of a memory form. -/
def Ctx.memOp (x : Ctx) (m : MForm) (f : Form) (slot : Option Nat) (acc : List Access) : Op :=
  { x.op (some f.cls) f.kind with order := m.order, scope := m.scope, ty := m.ty, dst := m.d, slot := slot, acc := acc }

/-- Issues a memory instruction: the checks of R131, the stalls of R25 and R26, then the operation enters warp order with
its accesses. `after` is what the instruction does beside it at issue. -/
def memory (p : Spec) (m : MForm) (f : Form) (data : Ctx → Nat → List Byte) (cmp : Ctx → Nat → Nat)
    (after : Ctx → State → State) (s : State) : Result :=
  issue { p with port := 1, guard := m.g } (fun x s =>
    match s.accessFault x m f.shape with
    | some t => .fault t
    | none =>
      if x.W.saturated f.cls then .stall
      else
        let acc := x.accesses m f.shape (data x) (cmp x)
        match f.slot with
        | none => .done (after x (s.pushOp x.w (x.memOp m f none acc)))
        | some named =>
          match x.W.takeSlot named with
          | none => .stall
          | some n => .done (after x (s.pushOp x.w (x.memOp m f (some n) acc)))) s

/-- No operand value. -/
def noData : Ctx → Nat → List Byte := fun _ _ => []
/-- No compare value. -/
def noCmp : Ctx → Nat → Nat := fun _ _ => 0
/-- Nothing beside the operation. -/
def noMore : Ctx → State → State := fun _ s => s

/-- The bytes that a store or operand takes from a register or pair. -/
def regBytes (o : Opnd) (n : Nat) : Ctx → Nat → List Byte := fun x l => toBytes n (x.W.srcN x.w (n = 8) o l)

/-! ### The instructions -/

/-- R134: ld. -/
def execLd (m : MForm) (fresh : Bool) (s : State) : Result :=
  let n := m.ty.bytes
  memory { guard := m.g, uses := [wr m.d (n = 8), rd m.a true] } m
    { cls := 0, kind := .load fresh, shape := { size := n, align := n } } noData noCmp noMore s

/-- R134: st. -/
def execSt (m : MForm) (s : State) : Result :=
  let n := m.ty.bytes
  memory { guard := m.g, uses := [rd m.d (n = 8), rd m.a true] } m
    { cls := 1, kind := .store, shape := { size := n, align := n } } (regBytes m.d n) noCmp noMore s

/-- R137: ldb. The whole block is read; the active lanes take their elements. -/
def execLdb (m : MForm) (fresh : Bool) (s : State) : Result :=
  let n := m.ty.bytes
  memory { guard := m.g, uses := [wr m.d (n = 8), rd m.a true] } m
    { cls := 0, kind := .blockLoad fresh, shape := { size := 32 * n, align := 16, block := true, whole := true } } noData noCmp noMore s

/-- R137: stb. -/
def execStb (m : MForm) (s : State) : Result :=
  let n := m.ty.bytes
  memory { guard := m.g, uses := [rd m.d (n = 8), rd m.a true] } m
    { cls := 1, kind := .blockStore, shape := { size := 32 * n, align := 16, block := true } } (regBytes m.d n) noCmp noMore s

/-- The granules that accesses to a core's store touch (R139). -/
def granulesOf (acc : List Access) : List Nat :=
  (acc.flatMap fun a =>
    match a.loc with
    | .store _ o => (List.range ((o + a.size - 1) / 16 + 1 - o / 16)).map fun i => o / 16 + i
    | .global _ => []).eraseDups

/-- The absent windows that the granule set of an ldw touches (R139, R242). -/
def absentWindows (g : Group) (acc : List Access) : List (Nat × Window) :=
  g.windows.filter fun (_, w) =>
    w.state = .absent && (granulesOf acc).any fun n => overlaps (n * 16) 16 w.offset w.size

/-- R139: ldw. Its issue starts the copy of each absent window of its granule set; each raises the win counter. -/
def execLdw (m : MForm) (clr : Bool) (s : State) : Result :=
  let n := m.ty.bytes
  let sh : Shape := { size := n, align := n, global := false, cluster := false }
  issue { port := 1, guard := m.g, uses := [wr m.d (n = 8), rd m.a true] } (fun x s =>
    match s.accessFault x m sh with
    | some t => .fault t
    | none =>
      let acc := x.accesses m sh (fun _ => []) (fun _ => 0)
      let ws := absentWindows x.g acc
      if x.W.saturated 0 || 63 < x.W.counter 2 + ws.length then .stall
      else
        let o := x.memOp m { cls := 0, kind := .windowLoad clr, shape := sh } none acc
        let s := s.pushOp x.w o
        let s := s.onCore (coreOf x.w) fun c => { c with ldws := c.ldws ++ [(x.w, x.W.seq)] }
        .done (ws.foldl (fun s (id, w) => s.startCopy x.w o id w) s)) s

/-- Accesses of a warp to core stores older than an operation that are not made. -/
def Warp.coreBusy (W : Warp) (seq : Nat) : Bool :=
  W.ops.any fun o => o.seq < seq && o.isAccess && !o.made && o.acc.any fun a =>
    match a.loc with
    | .store .. => !a.done
    | .global _ => false

/-- Clears the full bits of each setempty of a warp whose earlier core-store accesses are made and that no earlier acquire, fence or lock
holds back, oldest first (R138, R141, R152, R220). -/
def State.drainEmpty (s : State) (w : Nat) : Nat → State
  | 0 => s
  | n + 1 =>
    match (s.warp w).ops.find? fun o => o.kind = .setempty with
    | none => s
    | some o =>
      if (s.warp w).coreBusy o.seq || (s.warp w).heldBack o.seq then s
      else
        let s := s.onWarp w fun W => { W with ops := W.ops.filter fun x => x.seq ≠ o.seq }
        (s.clearGranules (coreOf w) (granulesOf o.acc)).drainEmpty w n

/-- Issues the ldw instructions withdrawn from a warp again (R140, R209), at new places in warp order (log entry 77), while its counters
allow (R25); n bounds their number. -/
def State.reissueSome (s : State) (w : Nat) : Nat → State
  | 0 => s
  | n + 1 =>
    let W := s.warp w
    match W.withdrawn, s.group? (groupOf w) with
    | o :: t, some g =>
      let ws := absentWindows g o.acc
      if W.saturated 0 || 63 < W.counter 2 + ws.length then s
      else
        let o := { o with seq := W.seq }
        let s := (s.onWarp w fun W => { W with withdrawn := t }).pushOp w o
        let s := s.onCore (coreOf w) fun c => { c with ldws := c.ldws ++ [(w, o.seq)] }
        (ws.foldl (fun s (id, x) => s.startCopy w o id x) s).reissueSome w n
    | _, _ => s

/-- Issues the withdrawn ldw instructions of a warp again, as many as its counters allow. -/
def State.reissue (s : State) (w : Nat) : State := s.reissueSome w (s.warp w).withdrawn.length

/-- A warp can issue its withdrawn ldw instructions again: it stands between clauses on a core that works, and no save is asked for. -/
def State.mayReissue (s : State) (w : Nat) : Bool :=
  resident w && s.coreUp (coreOf w) && !(s.slot (s.ctxOfWarp w)).preq && !s.dying w &&
    match (s.warp w).phase with
    | .issuing | .ended | .gone => false
    | _ => true

/-- What follows once an operation of a warp has come further: fences inside the core, setempty, copies that were held back, withdrawn ldw
instructions, leaving a park, arrivals and barrier phases (R152, R141, R223, R140, R56, R94, R95). -/
def State.wake (s : State) (w : Nat) : State :=
  let s := s.narrowFences w (s.warp w).ops.length
  let s := (s.drainEmpty w (s.warp w).ops.length).beginHeldCopies w
  let s := if s.mayReissue w then s.reissue w else s
  let t := s.time.now
  let s := s.onWarp w fun W =>
    match W.phase with
    | .parked => { W.unpark with readyAt := t }.enterIfFaulted
    | _ => W
  (s.tryArrive w).checkBars w

/-- R141: setempty takes effect in program order with the warp's core-store accesses. -/
def execSetempty (m : MForm) (s : State) : Result :=
  let sh : Shape := { size := 16, align := 16, global := false, cluster := false }
  issue { port := 1, guard := m.g, uses := [rd m.a true] } (fun x s =>
    match s.accessFault x m sh with
    | some t => .fault t
    | none =>
      let acc := x.accesses m sh (fun _ => []) (fun _ => 0)
      let s := s.pushOp x.w { x.op none .setempty with acc := acc }
      .done (s.drainEmpty x.w (s.warp x.w).ops.length)) s

end Sys2Proof.Machine
end

