-- ==== Sys2Proof/Machine/Atomics.lean ====
section
/-! DEFINITION. Atomics, reductions, exact sums and nibble inserts: R143 to R148, R48 to R51, R232, R233. What each
computes is in Machine/Combine.lean; the event ATOMIC_PERFORM performs it. -/

namespace Sys2Proof.Machine

/-! ### Atomics at a core store -/

/-- Performs an atomic in the atomic unit of a core's store (R145): a 32-bit addition to a barrier's ARRIVED word is an
arrival, one to its LIMIT word saturates (R232, R233). The old bytes are the result; at a poisoned location nothing is
performed (R325). -/
def State.atomicStore (s : State) (core off : Nat) (i : Instr) (ty : Ty) (n x b : Nat) : State × List Byte × Bool :=
  let (old, bad) := s.coreRead core off n
  let inBarrier := match s.areaAt core off with
    | some (_, _, .barrier) => isAdd32 i ty
    | _ => false
  if bad then (s, old, bad)
  else if inBarrier && off % 16 = 4 then (s.arrive core (off - 4) x, old, bad)
  else if inBarrier && off % 16 = 12 then (s.putBarrier core (off - 12) 3 (limitCredit (ofBytes old) x), old, bad)
  else (s.coreWrite core ((atomicBytes i ty old x b).zipIdx.map fun (v, j) => (off + j, v)), old, bad)

/-! ### Issue -/

/-- D of an atomic or reduction may not be a uniform code, and that of an atomic may not be 248 (R128). -/
def badD (returns : Bool) : Opnd → List Use
  | .k _ => [rd (.bad 0)]
  | .zero => if returns then [rd (.bad 0)] else []
  | _ => []

/-- A matrix warp may issue this access to arrive at a barrier (R59). -/
def arrivesForm (m : MForm) : Bool := m.space = .core && (m.ty = .s32 || m.ty = .n32)

/-- The shape of an atomic's location. -/
def atomicShape (n : Nat) : Shape := { size := n, align := n, register := false }

/-- A returning atomic (R143, R145): it takes a slot and raises ld. -/
def atomicOp (i : Instr) (arrives : Bool) (m : MForm) (slot : Option (Fin 8)) (b : Option Opnd) (s : State) : Result :=
  let n := m.ty.bytes
  let uses := [wr m.d (n = 8), rd m.a true] ++ badD true m.d ++ (b.map fun o => rd o (n = 8)).toList
  memory { guard := m.g, arrival := arrives && arrivesForm m, uses := uses } m
    { cls := 0, kind := .atomic i, shape := atomicShape n, slot := some slot } (regBytes m.d n)
    (fun x l =>
      match b with
      | some o => x.W.srcN x.w (n = 8) o l
      | none => 0) noMore s

/-- A non-returning reduction (R143): it raises st. -/
def reduceOp (i : Instr) (arrives : Bool) (m : MForm) (s : State) : Result :=
  let n := m.ty.bytes
  memory { guard := m.g, arrival := arrives && arrivesForm m, uses := [rd m.d (n = 8), rd m.a true] ++ badD false m.d } m
    { cls := 1, kind := .reduce i, shape := atomicShape n } (regBytes m.d n) noCmp noMore s

/-- R143: atadd. -/
def execAtadd (m : MForm) (slot : Option (Fin 8)) (s : State) : Result := atomicOp (.atadd m slot) true m slot none s
/-- R143: atmin. -/
def execAtmin (m : MForm) (slot : Option (Fin 8)) (s : State) : Result := atomicOp (.atmin m slot) false m slot none s
/-- R143: atmax. -/
def execAtmax (m : MForm) (slot : Option (Fin 8)) (s : State) : Result := atomicOp (.atmax m slot) false m slot none s
/-- R143: atand. -/
def execAtand (m : MForm) (slot : Option (Fin 8)) (s : State) : Result := atomicOp (.atand m slot) false m slot none s
/-- R143: ator. -/
def execAtor (m : MForm) (slot : Option (Fin 8)) (s : State) : Result := atomicOp (.ator m slot) false m slot none s
/-- R143: atxor. -/
def execAtxor (m : MForm) (slot : Option (Fin 8)) (s : State) : Result := atomicOp (.atxor m slot) false m slot none s
/-- R143: atexch. -/
def execAtexch (m : MForm) (slot : Option (Fin 8)) (s : State) : Result := atomicOp (.atexch m slot) false m slot none s
/-- R143: atcas; B is the compare value. -/
def execAtcas (m : MForm) (slot : Option (Fin 8)) (b : Opnd) (s : State) : Result :=
  atomicOp (.atcas m slot b) false m slot (some b) s

/-- R143: redadd. -/
def execRedadd (m : MForm) (s : State) : Result := reduceOp (.redadd m) true m s
/-- R143: redmin. -/
def execRedmin (m : MForm) (s : State) : Result := reduceOp (.redmin m) false m s
/-- R143: redmax. -/
def execRedmax (m : MForm) (s : State) : Result := reduceOp (.redmax m) false m s
/-- R143: redand. -/
def execRedand (m : MForm) (s : State) : Result := reduceOp (.redand m) false m s
/-- R143: redor. -/
def execRedor (m : MForm) (s : State) : Result := reduceOp (.redor m) false m s
/-- R143: redxor. -/
def execRedxor (m : MForm) (s : State) : Result := reduceOp (.redxor m) false m s

/-- The lanes of an fxadd whose input is a NaN or infinite. -/
def Ctx.badSums (x : Ctx) (m : MForm) : LaneSet :=
  laneSet fun l => inSet x.act l && (sumInput m.ty (x.W.src x.w m.d l).toNat).isNone

/-- R146: fxadd. A NaN or infinite input sets NV at issue, and its lane adds nothing. -/
def execFxadd (m : MForm) (s : State) : Result :=
  memory { guard := m.g, uses := [rd m.d, rd m.a true] } m
    { cls := 1, kind := .reduce (.fxadd m), shape := { size := 32, align := 32, register := false } } (regBytes m.d 4)
    noCmp
    (fun x s =>
      let bad := x.badSums m
      if bad = 0 then s
      else
        let s := s.onWarp x.w fun W =>
          (W.flag { nv := true }).onOp x.W.seq fun o =>
            { o with acc := o.acc.map fun a => if inSet bad a.lane then { a with done := true } else a }
        if bad = x.act then s.retire x.w x.W.seq else s) s

/-- R147: fxrd. -/
def execFxrd (m : MForm) (rnd : Rnd) (s : State) : Result :=
  memory { guard := m.g, uses := [wr m.d m.ty.wide, rd m.a true] } m
    { cls := 0, kind := .sumRead rnd, shape := { size := 32, align := 32, register := false } } noData noCmp noMore s

/-- R148: nins. -/
def execNins (m : MForm) (b : Opnd) (s : State) : Result :=
  memory { guard := m.g, uses := [rd m.d, rd m.a true, rd b] } m
    { cls := 1, kind := .reduce (.nins m b), shape := { size := 1, align := 1, register := false } } (regBytes m.d 4)
    (fun x l => (x.W.src x.w b l).toNat) noMore s

end Sys2Proof.Machine
end

