-- ==== Sys2Proof/Machine/Sync.lean ====
section
/-! DEFINITION. Queue locks and fences: R149 to R153. Their requests reach the sync engine by the events of
Machine/MemEvents.lean. -/

namespace Sys2Proof.Machine

/-- A lock word: global, 8 bytes (R128, R131). -/
def lockShape : Shape := { size := 8, align := 8, core := false, cluster := false, register := false }

/-- Issues a lock or unlock: the warp's request is for the word at its lowest active lane's address (R149, R150). -/
def lockOp (kind : OpKind) (m : MForm) (s : State) : Result :=
  issue { port := 1, guard := m.g, uses := [rd m.a true] } (fun x s =>
    match s.accessFault x m lockShape with
    | some t => .fault t
    | none =>
      if x.W.saturated 5 then .stall
      else
        let acc := (x.accesses m lockShape (fun _ => []) (fun _ => 0)).take 1
        .done (s.pushOp x.w (x.memOp m { cls := 5, kind := kind, shape := lockShape } none acc))) s

/-- R149: lock. -/
def execLock (m : MForm) (s : State) : Result := lockOp .lock m s
/-- R150: unlock. -/
def execUnlock (m : MForm) (s : State) : Result := lockOp .unlock m s

/-- R152: fence. At .die and wider it raises syn; narrower ones complete inside the core. -/
def execFence (m : MForm) (s : State) : Result :=
  issue { port := 1, guard := m.g } (fun x s =>
    let wide := decide (4 ≤ m.scope.level)
    if wide && x.W.saturated 5 then .stall
    else
      let o : Op := { x.op (if wide then some 5 else none) .fence with order := m.order, scope := m.scope }
      let s := s.pushOp x.w o
      .done (s.narrowFences x.w (s.warp x.w).ops.length)) s

end Sys2Proof.Machine
end

