-- ==== Sys2Proof/Machine/EngineInstr.lean ====
section
/-! DEFINITION. Engine-port instructions as a warp issues them: R174 to R185 (spec/08_isa_engines_system.md). What an
engine does with a command it takes is in Machine/RootCommands.lean, Canopy.lean and Cambium.lean. -/

namespace Sys2Proof.Machine

/-! ### Operand checks (R176) -/

/-- An engine-operand fault. -/
def engineTrouble (sub addr : Nat) (lanes : LaneSet) : Trouble :=
  { cause := 0x10, sub := sub, addr := addr, lanes := lanes }

/-- An address that fails cause 1 of R176 at an alignment. -/
def badAddress (align a : Nat) : Bool := a % align ≠ 0 || 2 ^ 57 ≤ a

/-- The first of the checks of R176 that fails, in order of cause: sub-cause, address, condition. -/
def Ctx.engineFault (x : Ctx) (checks : List (Nat × Nat × Bool)) : Option Trouble :=
  (checks.find? fun c => c.2.2).map fun c => engineTrouble c.1 c.2.1 (oneLane ((lowest x.act).getD 0))

/-- Issues a command of a class to an engine: checks, the stall of R25, the outstanding operation, then the hand-over. -/
def engineOp (p : Spec) (cls : Option Nat) (kind : OpKind) (scope : Scope) (checks : Ctx → List (Nat × Nat × Bool))
    (send : Ctx → State → State) (s : State) : Result :=
  issue { p with port := 3 } (fun x s =>
    match x.engineFault (checks x) with
    | some t => .fault t
    | none =>
      if (cls.map x.W.saturated).getD false then .stall
      else .done (send x (s.pushOp x.w { x.op cls kind with scope := scope, order := .rel }))) s

/-! ### Root engines (R177, R178) -/

/-- A program before its start (R190). -/
def Prog.fresh (dispatch slot : Nat) (owner : Option (Nat × Nat)) (scope : Scope) (start : Nat) (arg : Double)
    (status : Nat) : Prog :=
  { dispatch := dispatch, slot := slot, owner := owner, scope := scope, start := start, arg := arg, status := status,
    regs := [], pc := start, ncmd := 0, caddr := 0, issued := 0, phase := .queued, writes := [], block := none, script := [],
    order := 0, accepted := 0, reds := [], holdsChunk := false }

/-- The die of a warp. -/
def dieOf (w : Nat) : Nat := dieOfCore (coreOf w)

/-- R177: rsub. The submission waits in front of the engine until it is accepted. -/
def execRsub (g : Guard) (scope : Scope) (d a b c : Opnd) (s : State) : Result :=
  engineOp { guard := g, uses := [rd d true, rd a true, rd b, rd c true] } (some 6) .submit scope
    (fun x =>
      [ (1, x.one64 a, badAddress 16 (x.one64 a)), (1, x.one64 c, badAddress 16 (x.one64 c)), (2, 0, 32 ≤ x.one b) ])
    (fun x s =>
      s.onRoot (dieOf x.w * 32 + x.one b) fun r =>
        { r with
          front := r.front ++ [Prog.fresh x.g.dispatch x.g.slot (some (x.w, x.W.seq)) scope (x.one64 a)
            (BitVec.ofNat 64 (x.one64 d)) (x.one64 c)] }) s

/-- R178: abort.root. It takes effect at the engine once the release of R175 is performed. -/
def execAbortRoot (g : Guard) (scope : Scope) (a : Opnd) (s : State) : Result :=
  engineOp { guard := g, uses := [rd a] } (some 6) .post scope
    (fun x => [(2, 0, 32 ≤ x.one a)])
    (fun x s =>
      s.onRoot (dieOf x.w * 32 + x.one a) fun r =>
        { r with
          aborts := r.aborts ++
            [{ warp := x.w, seq := x.W.seq, scope := scope, dispatch := x.g.dispatch, ctxs := none }] }) s

/-! ### Canopy engines (R178, R179) -/

/-- Puts a message in front of a canopy engine of the warp's die. -/
def State.toCanopy (s : State) (x : Ctx) (scope : Scope) (engine : Nat) (msg : CanopyMsg) : State :=
  s.onCanopy (dieOf x.w * 2 + engine) fun c =>
    { c with
      front := c.front ++ [{ warp := x.w, seq := x.W.seq, clause := x.c.h, index := x.c.index, scope := scope,
                             dispatch := x.g.dispatch, slot := x.g.slot, msg := msg }] }

/-- R179: cpost. -/
def execCpost (g : Guard) (scope : Scope) (a b : Opnd) (s : State) : Result :=
  engineOp { guard := g, uses := [rd a true, rd b] } (some 4) .post scope
    (fun x => [(1, x.one64 a, badAddress 128 (x.one64 a)), (2, 0, 2 ≤ x.one b)])
    (fun x s => s.toCanopy x scope (x.one b) (.post (x.one64 a))) s

/-- R179: ctok; 0x3FF names the warp's own die. Engine 0 carries it (log entry 24). -/
def execCtok (g : Guard) (scope : Scope) (a b : Opnd) (s : State) : Result :=
  engineOp { guard := g, uses := [rd a, rd b] } (some 4) .post scope
    (fun x => [(2, 0, 0x400 ≤ x.one b)])
    (fun x s => s.toCanopy x scope 0 (.token (x.one a) (if x.one b = 0x3FF then dieOf x.w else x.one b))) s

/-- R178: abort of a communicator's attempt. Engine 0 takes it (log entry 24). -/
def execAbort (g : Guard) (scope : Scope) (a b : Opnd) (s : State) : Result :=
  engineOp { guard := g, uses := [rd a, rd b] } (some 4) .post scope
    (fun x => [(2, 0, 256 ≤ x.one a), (3, 0, bits (x.one b) 31 16 ≠ 0)])
    (fun x s => s.toCanopy x scope 0 (.abort (x.one a) (bits (x.one b) 15 0))) s

/-! ### Multicast stores (R180) -/

/-- The destination bases of an mcst's list, or the first of its four checks that fails (R180). -/
def State.mcstList (s : State) (x : Ctx) (b : Opnd) : Except Trouble (List Nat) :=
  let off := x.one b
  let core := coreOf x.w
  let lane := oneLane ((lowest x.act).getD 0)
  let protection : Trouble := { cause := 0x0B, addr := off, lanes := lane }
  if off % 16 ≠ 0 then .error (engineTrouble 1 off lane)
  else if !x.g.holds off 8 then .error protection
  else
    let head := ofBytes (s.coreRead core off 8).1
    let n := head % 256
    if n = 0 || 32 < n then .error (engineTrouble 2 off lane)
    else if head / 256 ≠ 0 then .error (engineTrouble 3 off lane)
    else if !x.g.holds off (8 + 8 * n) then .error protection
    else .ok ((List.range n).map fun k => ofBytes (s.coreRead core (off + 8 + 8 * k) 8).1)

/-- The first failing check of R131 over the addresses of an mcst: by check, then lane, then destination. -/
def mcstFault (sh : Shape) (lanes : List Nat) (addrs : Nat → List Nat) : Option Trouble :=
  let bad (p : Nat → Bool) (cause : Nat) : Option Trouble :=
    match lanes.find? fun l => (addrs l).any p with
    | some l =>
      some { cause := cause, addr := ((addrs l).find? p).getD 0,
             lanes := laneSet fun i => lanes.contains i && (addrs i).any p }
    | none => none
  bad (fun a => apertures ≤ a) 0x0C <|> bad (fun a => a % sh.align ≠ 0) 0x0D <|>
    bad (fun a => sh.block && decide (apertures ≤ a + sh.size - 1)) 0x0E

/-- R180: mcst writes the same bytes at every destination of its list. -/
def execMcst (m : MForm) (blk : Bool) (b : Opnd) (s : State) : Result :=
  let n := m.ty.bytes
  let sh : Shape := if blk then { size := 32 * n, align := 16, block := true } else { size := n, align := n }
  issue { port := 3, guard := m.g, uses := [rd m.d (n = 8), rd m.a true, rd b] } (fun x s =>
    match s.mcstList x b with
    | .error t => .fault t
    | .ok bases =>
      let addr (base l : Nat) : Nat := (base + x.address m l) % 2 ^ 64
      match mcstFault sh (sh.lanes x.act) (fun l => bases.map fun base => addr base l) with
      | some t => .fault t
      | none =>
        if x.W.saturated 1 then .stall
        else
          let first := (lowest x.act).getD 0
          let acc := bases.zipIdx.flatMap fun (base, k) => (lanesOf x.act).map fun l =>
            ({ lane := l, dest := k, loc := .global (if blk then addr base first + n * l else addr base l), size := n,
               data := regBytes m.d n x l, cmp := 0, done := false } : Access)
          .done (s.pushOp x.w
            { x.op (some 1) .multicast with order := m.order, scope := m.scope, ty := m.ty, acc := acc })) s

/-! ### The record fence (R181) -/

/-- Enters a record fence. -/
def State.addFence (s : State) (f : RecordFence) : State := { s with eng := { s.eng with fences := s.eng.fences ++ [f] } }

/-- R181: rfence. With A = zero it acts on every record. It raises no counter, and stands until its invalidation is complete. -/
def execRfence (g : Guard) (scope : Scope) (a : Opnd) (s : State) : Result :=
  issue { port := 3, guard := g, uses := if a = .zero then [] else [rd a true] } (fun x s =>
    let addr := x.one64 a
    match x.engineFault [(1, addr, a ≠ .zero && badAddress 64 addr)] with
    | some t => .fault t
    | none =>
      let s := s.onWarp x.w fun W => { W with seq := W.seq + 1 }
      .done (s.addFence { warp := x.w, seq := x.W.seq, die := dieOf x.w, scope := scope, slot := x.g.slot,
                          record := if a = .zero then none else some addr })) s

/-! ### Cambium instructions (R182 to R185) -/

/-- The dispatch of a warp is a cambium dispatch (R249). -/
def State.cambial (s : State) (x : Ctx) : Bool :=
  match s.dispatch? x.g.dispatch with
  | some d => bitOf d.header.toNat 64
  | none => false

/-- A slot that a cdecl of the dispatch has named (R182). -/
def State.slotNamed (s : State) (x : Ctx) (slot : Nat) : Bool :=
  match s.dispatch? x.g.dispatch with
  | some d => d.named.contains slot
  | none => false

/-- The core on which a group stands, or stood when it was saved. -/
def State.standingCore (s : State) (g : Nat) : Nat :=
  match (s.ctl.saves.flatMap Prod.snd).find? fun v => v.group = g with
  | some v => coreOfGroup v.left
  | none => coreOfGroup g

/-- The cluster sites where a dispatch has groups now, in order of die and site (R255; log entry 80). -/
def State.sitesOf (s : State) (dispatch : Nat) : List Nat :=
  sortNat ((s.groupsOf dispatch).map fun (g, _) => siteOf (s.standingCore g)).eraseDups

/-- Puts a command in front of a cambium engine. -/
def State.toCambium (s : State) (x : Ctx) (scope : Scope) (site : Nat) (msg : CamMsg) : State :=
  s.onCambium site fun c =>
    { c with
      front := c.front ++ [{ warp := x.w, seq := x.W.seq, clause := x.c.h, index := x.c.index, scope := scope,
                             dispatch := x.g.dispatch, msg := msg }] }

/-- R182: cdecl reaches the engine of every cluster site where the dispatch has groups as it issues (log entry 80); the dispatch records
the slot as named. -/
def execCdecl (g : Guard) (scope : Scope) (a b : Opnd) (s : State) : Result :=
  engineOp { guard := g, uses := [rd a true, rd b] } (some 7) (.cambium 0) scope
    (fun x =>
      [ (1, x.one64 a, badAddress 64 (x.one64 a)), (2, 0, 4 ≤ x.one b), (4, 0, !s.cambial x) ])
    (fun x s =>
      let slot := x.one b
      let s := s.onDispatch x.g.dispatch fun d => { d with named := if d.named.contains slot then d.named else slot :: d.named }
      let sites := s.sitesOf x.g.dispatch
      let s := s.onWarp x.w fun W => W.onOp x.W.seq fun o => { o with kind := .cambium sites.length }
      sites.foldl (fun s site => s.toCambium x scope site (.declare slot (x.one64 a) scope)) s) s

/-- R182: sweep goes to the engine of the warp's cluster site, which starts it on every engine of the dispatch. -/
def execSweep (g : Guard) (scope : Scope) (d a b c : Opnd) (s : State) : Result :=
  engineOp { guard := g, uses := [rd d true, rd a, rd b, rd c] } (some 7) (.cambium 1) scope
    (fun x =>
      let stop := x.one64 d
      let bar := x.one c
      [ (1, stop, d ≠ .zero && badAddress 8 stop), (1, bar, bar ≠ 0xFFFFFFFF && bar % 16 ≠ 0), (2, 0, 4 ≤ x.one a),
        (3, 0, bits (x.one b) 31 16 ≠ 0), (4, 0, !s.cambial x || !s.slotNamed x (x.one a)) ])
    (fun x s =>
      s.toCambium x scope (siteOf (coreOf x.w))
        (.sweep (x.one a) (bits (x.one b) 15 0) (if d = .zero then none else some (x.one64 d))
          (if x.one c = 0xFFFFFFFF then none else some (x.one c)))) s

/-- The first failing check of R176 over active lanes, in order of cause: sub-cause and the lanes that fail it. -/
def laneFault (act : LaneSet) : List (Nat × (Nat → Bool)) → Option Trouble
  | [] => none
  | (sub, bad) :: t =>
    if (lanesOf act).any bad then some (engineTrouble sub 0 (laneSet fun l => inSet act l && bad l)) else laneFault act t

/-- Entries of the dispatch's bud clause table (R72). -/
def State.nbud (s : State) (x : Ctx) : Nat :=
  match s.dispatch? x.g.dispatch with
  | some d => bits d.header.toNat 159 144
  | none => 0

/-- R183: byield ends the run of each active lane's bud; the engine takes it after the release. The threads exit, in a handler for
good (R313). -/
def execByield (g : Guard) (scope : Scope) (retire : Bool) (a b c : Opnd) (s : State) : Result :=
  issue { port := 3, ends := true, guard := g, uses := [rd a, rd b, rd c true] } (fun x s =>
    let v (l : Nat) : Nat := (x.W.src x.w a l).toNat
    match laneFault x.act
      [ (3, fun l => bits (v l) 31 24 ≠ 0), (4, fun l => (tfind x.W.buds l).isNone),
        (5, fun l => s.nbud x ≤ bits (v l) 15 0 || 3 ≤ bits (v l) 23 16) ] with
    | some t => .fault t
    | none =>
      let s := s.onWarp x.w fun W =>
        (lanesOf x.act).foldl (fun V l => (V.setStatus l .exited).leaveSets l)
          { W with seq := W.seq + 1, exits := if W.handler then W.exits ||| x.act else W.exits }
      .done ((lanesOf x.act).foldl (fun s l =>
        match tfind x.W.buds l with
        | none => s
        | some (slot, element) =>
          s.onCambium (siteOf (coreOf x.w)) fun e =>
            { e with
              ends := e.ends ++
                [{ warp := x.w, seq := x.W.seq, dispatch := x.g.dispatch, slot := slot, element := element,
                   yielded := some (retire, bits (v l) 15 0, bits (v l) 23 16, (x.W.src x.w b l).toNat,
                     x.W.src64 x.w c l),
                   clause := x.c.h, index := x.c.index, scope := scope }] }) s)) s

/-- The checks of bwake and bstate over active lanes: slot range, cambium warp and named slot (R176). -/
def State.slotFault (s : State) (x : Ctx) (b : Opnd) : Option Trouble :=
  let slot (l : Nat) : Nat := (x.W.src x.w b l).toNat
  laneFault x.act [(2, fun l => 4 ≤ slot l), (4, fun l => !s.cambial x || !s.slotNamed x (slot l))]

/-- R184: each active lane wakes the element that it names. -/
def wakeOp (g : Guard) (scope : Scope) (next : Bool) (a b : Opnd) (s : State) : Result :=
  issue { port := 3, guard := g, uses := [rd a, rd b] } (fun x s =>
    match s.slotFault x b with
    | some t => .fault t
    | none =>
      if x.W.saturated 7 then .stall
      else
        let s := s.pushOp x.w
          { x.op (some 7) (.cambium (lanesOf x.act).length) with scope := scope, order := .rel }
        .done ((lanesOf x.act).foldl (fun s l =>
          s.toCambium x scope (siteOf (coreOf x.w))
            (.wake (x.W.src x.w b l).toNat (x.W.src x.w a l).toNat next)) s)) s

/-- R184: bwake.now. -/
def execBwakeNow (g : Guard) (scope : Scope) (a b : Opnd) (s : State) : Result := wakeOp g scope false a b s
/-- R184: bwake.next. -/
def execBwakeNext (g : Guard) (scope : Scope) (a b : Opnd) (s : State) : Result := wakeOp g scope true a b s

/-- R185: bstate asks about one element per lane; the answer is a long-latency result. -/
def execBstate (g : Guard) (d a b : Opnd) (s : State) : Result :=
  issue { port := 3, guard := g, uses := [wr d, rd a, rd b] } (fun x s =>
    match s.slotFault x b with
    | some t => .fault t
    | none =>
      if x.W.saturated 0 then .stall
      else
        let acc := (lanesOf x.act).map fun l =>
          ({ lane := l, dest := (x.W.src x.w b l).toNat, loc := .global 0, size := 0, data := [],
             cmp := (x.W.src x.w a l).toNat, done := false } : Access)
        .done (s.pushOp x.w { x.op (some 0) .bud with dst := d, acc := acc })) s

end Sys2Proof.Machine
end

