-- ==== Sys2Proof/Machine/Engines.lean ====
section
/-! DEFINITION. Engine programs: their contexts, memory accesses, ends and status records, R177, R178, R190 to R193, R246 to
R248 (spec/08_isa_engines_system.md, spec/11_root_engines_windows.md). -/

namespace Sys2Proof.Machine

/-! ### Contexts -/

/-- The die of an engine context. -/
def engDie : EngRef → Nat
  | .root d _ _ => d
  | .canopy d _ _ => d

/-- A number for an engine of a die in the ring record: 0 to 31 root, 32 and 33 canopy (log entry 10). -/
def engUnit : EngRef → Nat
  | .root _ n _ => n
  | .canopy _ n _ => 32 + n

/-- A canopy engine (R272). -/
def isCanopy : EngRef → Bool
  | .root .. => false
  | .canopy .. => true

/-- The program in an engine context. -/
def State.prog? (s : State) (e : EngRef) : Option Prog :=
  match e with
  | .root d n c => tfind (s.root (d * 32 + n)).ctxs c
  | .canopy d n c => tfind (s.canopy (d * 2 + n)).ctxs c

/-- Changes the program in an engine context. -/
def State.onProg (s : State) (e : EngRef) (f : Prog → Prog) : State :=
  match e with
  | .root d n c => s.onRoot (d * 32 + n) fun r => { r with ctxs := tmap f r.ctxs c }
  | .canopy d n c => s.onCanopy (d * 2 + n) fun r => { r with ctxs := tmap f r.ctxs c }

/-- Frees an engine context. -/
def State.dropProg (s : State) (e : EngRef) : State :=
  match e with
  | .root d n c => s.onRoot (d * 32 + n) fun r => { r with ctxs := tdel r.ctxs c }
  | .canopy d n c => s.onCanopy (d * 2 + n) fun r => { r with ctxs := tdel r.ctxs c }

/-- Every engine context that holds a program. -/
def State.contexts (s : State) : List EngRef :=
  (s.eng.roots.flatMap fun (r, x) => (tkeys x.ctxs).map fun c => EngRef.root (r / 32) (r % 32) c) ++
    s.eng.canopies.flatMap fun (r, x) => (tkeys x.ctxs).map fun c => EngRef.canopy (r / 2) (r % 2) c

/-- An engine register; g0 reads zero (R190). -/
def Prog.g (p : Prog) (n : Fin 16) : Nat := if n.val = 0 then 0 else (tget 0 p.regs n.val).toNat

/-- Writes an engine register; a write to g0 is discarded (R190). -/
def Prog.setG (p : Prog) (n : Fin 16) (v : Nat) : Prog :=
  if n.val = 0 then p else { p with regs := tset 0 p.regs n.val (BitVec.ofNat 64 v) }

/-- OP of a canopy block (R269). -/
def blockOp (b : Nat) : Nat := bits b 407 404
/-- COMM of a canopy block (R269). -/
def blockComm (b : Nat) : Nat := bits b 437 430

/-- A built-in expansion, whose commands have no memory address (R272). -/
def Prog.internal (p : Prog) : Bool :=
  match p.block with
  | some b => blockOp b.toNat ≠ 7
  | none => false

/-- The transfers that an engine context's pushes have in flight. -/
def State.pushesOf (s : State) (e : EngRef) : List Nat := tkeys (s.comp.transfers.filter fun (_, t) => t.source = .push e)

/-- Every earlier write of a program is performed: what its releasing commands wait for (R192). -/
def State.progReleased (s : State) (e : EngRef) : Bool :=
  match s.prog? e with
  | some p => p.writes.isEmpty && p.reds.isEmpty && (s.pushesOf e).isEmpty
  | none => true

/-! ### Memory accesses of a program -/

/-- A range of addresses cut at 64 KiB pages: first address and length of each part. -/
def pieces (va n : Nat) : List (Nat × Nat) :=
  ((List.range (n / 65536 + 2)).map fun i =>
    let lo := max va ((va / 65536 + i) * 65536)
    let hi := min (va + n) ((va / 65536 + i + 1) * 65536)
    (lo, hi - lo)).filter fun e => e.2 ≠ 0

/-- Reads memory for a program: fresh, at the homes (R190, R191). The code of R193 where it cannot. -/
def State.engRead (s : State) (die slot va n : Nat) : Except Nat (List Byte) :=
  (pieces va n).foldl (fun acc e =>
    match acc with
    | .error c => .error c
    | .ok l =>
      match (s.virtRead die none slot e.1 e.2).2 with
      | .error (.translation _) => .error 2
      | .error .data => .error 3
      | .ok b => .ok (l ++ b)) (.ok [])

/-- An engine's access to a range of addresses waits for the routes to its homes (R331, R332). -/
def State.rangeWaits (s : State) (die slot va n : Nat) : Bool :=
  (pieces va n).any fun e =>
    match s.translate die slot e.1 .read with
    | .ok p => s.tripWaits fabricUnit die (homeDie p.pa)
    | .error _ => false

/-- The code of R193 that a write of a program meets. -/
def State.engWriteFault (s : State) (die slot va n : Nat) : Option Nat :=
  if (pieces va n).all fun e =>
      match s.translate die slot e.1 .write with
      | .ok _ => true
      | .error _ => false
  then none else some 2

/-- What the translations of a range leave in a die's walk cache (R308, R346). -/
def State.keepWalks (s : State) (die slot va n : Nat) (need : Need) : State :=
  (pieces va n).foldl (fun s e => s.keepWalk die slot e.1 need) s

/-- What reading some ranges leaves: the walks, and a mark on each line whose MAC fails (R308, R346). -/
def State.engMark (s : State) (die slot : Nat) (rs : List (Nat × Nat)) : State :=
  (rs.flatMap fun r => pieces r.1 r.2).foldl (fun s e =>
    let s := s.keepWalk die slot e.1 .read
    match s.translate die slot e.1 .read with
    | .error _ => s
    | .ok p => s.checkMac (s.slot slot).world p.pa e.2) s

/-- The physical address of the first byte of some ranges that holds an uncorrectable error (R336). -/
def State.badPlace (s : State) (die slot : Nat) (rs : List (Nat × Nat)) : Nat :=
  ((rs.flatMap fun r => pieces r.1 r.2).findSome? fun e =>
    match s.translate die slot e.1 .read with
    | .error _ => none
    | .ok p => ((List.range e.2).find? fun i => s.poisoned (s.slot slot).world (p.pa + i)).map (p.pa + ·)).getD 0

/-- Performs a write of an engine at its homes (R216), after the page copies of R300. Bytes that no longer translate are
not written. -/
def State.engWrite (s : State) (die dispatch slot va : Nat) (bytes : List Byte) : State :=
  (pieces va bytes.length).foldl (fun s e =>
    let s := s.keepWalk die slot e.1 .write
    match s.translate die slot e.1 .write with
    | .error _ => s
    | .ok p =>
      s.applyWrite dispatch (s.slot slot).world
        (((bytes.drop (e.1 - va)).take e.2).zipIdx.map fun (b, i) => (p.pa + i, b))) s

/-! ### Ends and status records (R193) -/

/-- The 16 bytes of a status record. -/
def statusBytes (state code ncmd caddr : Nat) : List Byte :=
  toBytes 16 (caddr % 2 ^ 64 * 2 ^ 64 + ncmd % 2 ^ 32 * 2 ^ 32 + code % 256 * 256 + state % 256)

/-- Writes a program's status record, or records in the ring that it cannot be written. -/
def State.statusRecord (s : State) (e : EngRef) (p : Prog) (state code : Nat) : State :=
  if p.status = 0 then s
  else
    let lost (s : State) : State := s.ring (engDie e) 0x17 (s.ident p.slot) [1, p.status, engUnit e]
    if p.status % 16 ≠ 0 then lost s
    else
      let s := s.keepWalk (engDie e) p.slot p.status .write
      match s.translate (engDie e) p.slot p.status .write with
      | .error _ => lost s
      | .ok t =>
        let s := s.checkMac (s.slot p.slot).world t.pa 16
        if s.poisoned (s.slot p.slot).world t.pa then lost s
        else s.engWrite (engDie e) p.dispatch p.slot p.status (statusBytes state code p.ncmd p.caddr)

/-- Tells the abort.root instructions of an engine that a program has written its status record (R178). -/
def State.abortsServed (s : State) (r c : Nat) : State :=
  let served := (s.root r).aborts.filter fun a => a.ctxs = some [c] 
  let s := s.onRoot r fun x =>
    { x with
      aborts := (x.aborts.filter fun a => a.ctxs ≠ some [c]).map fun a =>
        { a with ctxs := a.ctxs.map fun l => l.filter (· ≠ c) } }
  served.foldl (fun s a => (s.finishOp a.warp a.seq).wake a.warp) s

/-- Ends a program whose started commands are complete: its status record is written and its context freed (R193). -/
def State.tryFinish (s : State) (e : EngRef) : State :=
  match s.prog? e with
  | none => s
  | some p =>
    match p.phase with
    | .finishing state code =>
      if s.progReleased e && !s.rangeWaits (engDie e) p.slot p.status 16 then
        let s := (s.statusRecord e p state code).dropProg e
        match e with
        | .root d n c => s.abortsServed (d * 32 + n) c
        | .canopy .. => s
      else s
    | _ => s

/-! ### Charging pushes (R246 to R248) -/

/-- A charged push claims the absent window whose range is its own (R242, R247). -/
def State.claim (s : State) (n : Nat) : State :=
  match tfind s.comp.transfers n with
  | none => s
  | some t =>
    match s.group? t.group with
    | none => s
    | some g =>
      match g.windows.find? fun (_, w) => w.offset = t.offset && w.size = t.size && w.state = .absent with
      | none => s
      | some (id, _) =>
        ((s.unclaim t.group id).onWindow t.group id fun w => { w with state := .filling n }).onTransfer n fun t =>
          { t with claims := some id }

/-- Brings a push's transfers to their barriers one at a time in list order, each once the one before is charged (R248). -/
def State.chargeInOrder (s : State) : List Nat → State
  | [] => s
  | n :: t =>
    let held := match tfind s.comp.transfers n with
      | some x => x.charged || (s.core (coreOfGroup x.barGroup)).held.any fun h => h.transfer = n
      | none => true
    let s := if held then s else s.toBarrier n
    let charged := match tfind s.comp.transfers n with
      | some x => x.charged
      | none => true
    if charged then s.chargeInOrder t else s

/-- Every transfer of a list is charged. -/
def State.allCharged (s : State) (l : List Nat) : Bool :=
  l.all fun n =>
    match tfind s.comp.transfers n with
    | some t => t.charged
    | none => true

/-- A push that is charged everywhere claims its windows, and its program runs on (R192, R248). -/
def State.pushCharged (s : State) (e : EngRef) (l : List Nat) : State :=
  (l.foldl State.claim s).onProg e fun p => { p with phase := .running }

/-- Charges a push further; until it is charged everywhere it waits (R192, R248). -/
def State.pushOn (s : State) (e : EngRef) (l : List Nat) : State :=
  let s := s.chargeInOrder l
  if s.allCharged l then s.pushCharged e l
  else s.onProg e fun p => { p with phase := .charging l, holdsChunk := false }

/-- The transfers of a push that waits for its charges. -/
def State.charging (s : State) (e : EngRef) : Option (List Nat) :=
  match s.prog? e with
  | some p =>
    match p.phase with
    | .charging l => some l
    | _ => none
  | none => none

/-- Charges the pushes that wait further where a limit has allowed it (R233, R248). -/
def State.pushesOn (s : State) : State :=
  s.contexts.foldl (fun s e =>
    match s.charging e with
    | some l => s.pushOn e l
    | none => s) s

/-! ### Faults and aborts (R193) -/

/-- Enters a program's fault or abort in the ring record (R176, R193). -/
def State.ringEngine (s : State) (e : EngRef) (p : Prog) (code : Nat) : State :=
  s.ring (engDie e) 0x13 (s.ident p.slot) [engUnit e, code, p.caddr]

/-- A transfer is held at its barrier no longer, on its core or in a saved group (R233, R245). -/
def State.dropHold (s : State) (n core : Nat) : State :=
  let keep (l : List Held) : List Held := l.filter fun h => h.transfer ≠ n
  let s := s.onCore core fun c => { c with held := keep c.held }
  { s with
    ctl := { s.ctl with saves := s.ctl.saves.map fun (k, l) => (k, l.map fun v => { v with held := keep v.held }) } }

/-- Drops a transfer that is not landing: its charge goes back, and it is no longer held (R193, R244). -/
def State.cancelTransfer (s : State) (n : Nat) : State :=
  match tfind s.comp.transfers n with
  | none => s
  | some t =>
    let core := coreOfGroup t.barGroup
    let s := ((s.dropHold n core).dropTransfer n).creditBack t
    match t.bar with
    | some o => if core < 2 ^ 18 then s.chargeHeld core o ((s.core core).held.length) else s
    | none => s

/-- A part of a collective that no tree reduces waits for the engine before it, and ends at once with its program (R193; log entry
62). -/
def Prog.stopParts (p : Prog) : Prog := { p with reds := p.reds.filter fun (_, w) => w.block.isNone }

/-- A waiting push of a program that stops ends at once: it lands no byte, and what it was charged goes back. One that is charged
everywhere waits no longer and lands (R193, R246). -/
def State.stopPush (s : State) (e : EngRef) : State :=
  match s.charging e with
  | none => s
  | some l => if s.allCharged l then s.pushCharged e l else l.foldl State.cancelTransfer s

/-- A running program faults (R193). -/
def State.progFault (s : State) (e : EngRef) (code : Nat) : State :=
  match s.prog? e with
  | none => s
  | some p =>
    match p.phase with
    | .finishing .. => s
    | _ =>
      let s := (s.stopPush e).onProg e fun p => { p.stopParts with phase := .finishing 2 code, holdsChunk := false }
      (s.ringEngine e p code).tryFinish e

/-- A program faults on data that could not be corrected: the dispatch consumes the error at its physical address or core-store offset
(R325, R336). -/
def State.progBadData (s : State) (e : EngRef) (place : Nat) : State :=
  match s.prog? e with
  | none => s
  | some p => (s.progFault e 3).consume p.dispatch (engDie e) 5 place

/-- A command's failing access of some ranges ends its program (R193, R325, R346). -/
def State.progError (s : State) (e : EngRef) (code : Nat) (rs : List (Nat × Nat)) : State :=
  match s.prog? e with
  | none => s
  | some p =>
    let s := s.engMark (engDie e) p.slot rs
    if code = 3 then s.progBadData e (s.badPlace (engDie e) p.slot rs) else s.progFault e code

/-- Aborts the program of a context: a waiting command ends at once and a started one completes (R178, R193). -/
def State.abortProg (s : State) (e : EngRef) (code : Nat) : State :=
  match s.prog? e with
  | none => s
  | some p =>
    match p.phase with
    | .finishing .. => s
    | _ =>
      let s := (s.stopPush e).onProg e fun p => { p.stopParts with phase := .finishing 3 code, holdsChunk := false }
      (s.ringEngine e p code).tryFinish e

/-- Ends a program that has not started: its status record shows no command (R178, R193). -/
def State.abortQueued (s : State) (e : EngRef) (p : Prog) (state code : Nat) : State :=
  (s.ringEngine e p code).statusRecord e { p with ncmd := 0, caddr := 0 } state code

/-- Makes the release of the instruction that handed a program or block over, and completes its count (R25, R175, R177, R179). -/
def State.accepted (s : State) (p : Prog) : State :=
  match p.owner with
  | some (w, seq) => ((s.markRelease w seq p.scope).finishOp w seq).wake w
  | none => s

/-- The release of R175 that precedes a hand-over is done, and with it no earlier record fence is open (R181). -/
def State.handed (s : State) (w seq : Nat) (scope : Scope) : Bool := s.released w seq scope

/-! ### Core-store descriptors (R191, R192) -/

/-- Fields of a core-store descriptor. -/
structure Desc where
  offset : Nat
  core   : Nat
  bar    : Option Nat
deriving DecidableEq, Repr

/-- The group of a dispatch in whose barrier space a barrier of a core lies. -/
def State.barrierGroup (s : State) (dispatch core o : Nat) : Option Nat :=
  (s.comp.groups.find? fun (g, x) => coreOfGroup g = core && x.dispatch = dispatch && x.inBarriers o 16).map Prod.fst

/-- A descriptor's fields. -/
def descOf (d : Nat) : Desc :=
  { offset := bits d 19 0, core := bits d 37 28 * 256 + bits d 27 20,
    bar := if bits d 57 38 = 0xFFFFF then none else some (bits d 57 38) }

/-- The code of R193 that a descriptor's barrier fails with (R192). -/
def State.barFault (s : State) (die dispatch : Nat) (x : Desc) : Option Nat :=
  match x.bar with
  | none => none
  | some o =>
    if o % 16 ≠ 0 then some 8
    else if !(s.reachable die (dieOfCore x.core) && s.coreUp x.core && (s.barrierGroup dispatch x.core o).isSome) then some 4
    else none

/-- The code of R193 that a push's descriptor fails with, or its group (R192, R246). -/
def State.descFault (s : State) (die dispatch d n : Nat) : Except Nat (Desc × Nat) :=
  let x := descOf d
  if bits d 63 58 ≠ 0 then .error 4
  else if x.offset % 16 ≠ 0 then .error 8
  else
    match s.comp.groups.find? fun (g, y) => coreOfGroup g = x.core && y.dispatch = dispatch && y.holds x.offset n with
    | none => .error 4
    | some (g, y) =>
      if !(s.reachable die (dieOfCore x.core) && s.coreUp x.core) || y.meetsRegisters x.offset n ||
          decide (y.base + y.barriers + y.barb < x.offset + n) then .error 4
      else
        match s.barFault die dispatch x with
        | some c => .error c
        | none => .ok (x, g)

/-! ### Pushes (R246 to R248) -/

/-- The record that a push or step uses, with the coordinates, or a code of R193 (R235, R246). -/
def State.pushRecord (s : State) (e : EngRef) (slot addr coords : Nat) : State × Except Nat (BitVec 512) :=
  if addr % 64 ≠ 0 then (s, .error 8)
  else
    match s.readRecord (engDie e) none slot addr with
    | (s, .error (.translation _)) => (s, .error 2)
    | (s, .error .data) => (s, .error 3)
    | (s, .ok r) => if recOk r.toNat && coordsOk r.toNat coords then (s, .ok r) else (s, .error 1)

/-- Enters the transfers of a push and charges them (R246, R248). -/
def State.startPush (s : State) (e : EngRef) (p : Prog) (r : BitVec 512) (coords : Nat) (many : Bool)
    (dests : List (Desc × Nat)) : State :=
  let batch := tnext s.comp.transfers
  let (s, l) := dests.foldl (fun (s, l) (d, g) =>
    let n := tnext s.comp.transfers
    let t : Transfer :=
      { source := .push e, place := p.issued + 1, slot := p.slot, group := g, record := r, coords := BitVec.ofNat 64 coords, core := d.core,
        offset := d.offset, size := recSize r.toNat, bar := d.bar,
        barGroup := (d.bar.bind (s.barrierGroup p.dispatch d.core)).getD g, started := true, trouble := none,
        charged := false, paid := false,
        claims := none, left := List.range (recSize r.toNat / 16), batch := batch, many := many, image := [] }
    ({ s with comp := { s.comp with transfers := tput s.comp.transfers n t } }, l ++ [n])) (s, ([] : List Nat))
  s.pushOn e l

end Sys2Proof.Machine
end

