-- ==== Sys2Proof/Machine/Buds.lean ====
section
/-! DEFINITION. Descriptors, buds and maps of context tensors, and a cambium engine's accesses to them: R250 to R255, R185
(spec/12_cambium_sweeps.md). -/

namespace Sys2Proof.Machine

/-! ### The descriptor (R250, R251) -/

/-- BASE. -/
def camBase (d : Nat) : Nat := bits d 63 0
/-- COUNT. -/
def camCount (d : Nat) : Nat := bits d 95 64
/-- DSIZE. -/
def camData (d : Nat) : Nat := bits d 119 96
/-- WMAX; 0 means 32. -/
def camWidth (d : Nat) : Nat := if bits d 124 120 = 0 then 32 else bits d 124 120
/-- MAP. -/
def camMap (d : Nat) : Nat := bits d 191 128
/-- LEVEL. -/
def camLevel (d : Nat) : Nat := bits d 255 192
/-- NBR. -/
def camNbr (d : Nat) : Nat := bits d 319 256
/-- NEXTM. -/
def camNextm (d : Nat) : Nat := bits d 383 320

/-- The descriptor passes the checks of R251; DONE is not read. -/
def camOk (d : Nat) : Bool :=
  bits d 479 384 = 0 && bits d 127 125 = 0 && camCount d ≠ 0 && camCount d ≠ 0xFFFFFFFF && camData d % 16 = 0 &&
    !badAddress 16 (camBase d) && !badAddress 8 (camMap d) && !badAddress 8 (camNextm d) &&
    !badAddress 4 (camLevel d) && !badAddress 32 (camNbr d) && (camLevel d = 0) == (camNbr d = 0)

/-- Address of element i (R252). -/
def elemAddr (d i : Nat) : Nat := camBase d + i * (camData d + 16)

/-- Address of the bud of element i (R252). -/
def budAddr (d i : Nat) : Nat := elemAddr d i + camData d

/-! ### Engines of a dispatch (R255) -/

/-- The slot's record on an engine, by dispatch and slot number. -/
def camKey (dispatch slot : Nat) : Nat := dispatch * 4 + slot

/-- The declaration in a slot of a cluster site's engine. -/
def State.camSlot? (s : State) (site dispatch slot : Nat) : Option CamSlot :=
  tfind (s.cambium site).slots (camKey dispatch slot)

/-- Changes the declaration in a slot of a cluster site's engine. -/
def State.onCamSlot (s : State) (site dispatch slot : Nat) (f : CamSlot → CamSlot) : State :=
  s.onCambium site fun c => { c with slots := tmap f c.slots (camKey dispatch slot) }

/-- Elements of each engine's range (R255). -/
def camShare (count engines : Nat) : Nat := (count + engines - 1) / max 1 engines

/-- The range of elements that an engine owns, first and last plus one (R255). -/
def State.camRange (s : State) (site dispatch count : Nat) : Nat × Nat :=
  let sites := s.sitesOf dispatch
  let q := camShare count sites.length
  let c := sites.idxOf site
  (min count (c * q), min count ((c + 1) * q))

/-- The site of the engine that owns an element (R255). -/
def State.camOwner (s : State) (dispatch count i : Nat) : Nat :=
  let sites := s.sitesOf dispatch
  nth 0 sites (i / max 1 (camShare count sites.length))

/-! ### Accesses -/

/-- Reads memory for a cambium engine, fresh at its home; none on an error. -/
def State.camRead (s : State) (site slot va n : Nat) : Option (List Byte) :=
  match (s.virtRead (dieOfSite site) (some site) slot va n).2 with
  | .ok b => some b
  | .error _ => none

/-- The error of a failed read is an uncorrectable one at this physical address (R325). -/
def State.camBad (s : State) (site slot va : Nat) : Option Nat :=
  match s.translate (dieOfSite site) slot va .read with
  | .error _ => none
  | .ok p => if s.poisoned (s.slot slot).world p.pa then some p.pa else none

/-- Writes memory for a cambium engine; none on an error. -/
def State.camWrite (s : State) (site dispatch slot va : Nat) (bytes : List Byte) : Option State :=
  match s.translate (dieOfSite site) slot va .write with
  | .error _ => none
  | .ok p =>
    let s := s.keepWalk (dieOfSite site) slot va .write
    let w := (s.slot slot).world
    if s.poisoned w p.pa && bytes.length % 32 ≠ 0 then none
    else
      some ((s.flushPath (pathKey site p.pa)).applyWrite dispatch w (bytes.zipIdx.map fun (b, i) => (p.pa + i, b)))

/-- What accesses of a cambium engine leave in order, up to the first that fails: a line that fails its MAC there is marked, and the
die's walk cache gives up a leaf that refused a write (R308, R346). An access is an address, a length, and whether it writes. -/
def State.camMark (s : State) (site slot : Nat) : List (Nat × Nat × Bool) → State
  | [] => s
  | (va, n, w) :: t =>
    if (s.camRead site slot va n).isNone then (s.virtRead (dieOfSite site) (some site) slot va n).1
    else if w && (s.camWrite site 0 slot va []).isNone then s.keepWalk (dieOfSite site) slot va .write
    else s.camMark site slot t

/-- The double of a map that holds bit i (R254). -/
def mapDouble (map i : Nat) : Nat := map + 8 * (i / 64)

/-- Bit i of a map (R254). -/
def State.mapBit (s : State) (site slot map i : Nat) : Option Bool :=
  (s.camRead site slot (mapDouble map i) 8).map fun b => bitOf (ofBytes b) (i % 64)

/-- Sets or clears bit i of a map by one atomic at its double's home (R254). -/
def State.setMapBit (s : State) (site dispatch slot map i : Nat) (v : Bool) : Option State :=
  match s.camRead site slot (mapDouble map i) 8 with
  | none => none
  | some b =>
    let m := ofBytes b
    let m := if bitOf m (i % 64) = v then m else if v then m + 2 ^ (i % 64) else m - 2 ^ (i % 64)
    s.camWrite site dispatch slot (mapDouble map i) (toBytes 8 m)

/-- A bud (R252). -/
structure Bud where
  locals : Nat
  wopnd  : Nat
  wkind  : Nat
  state  : Nat
  clause : Nat
deriving DecidableEq, Repr

/-- A bud of its 16 bytes. STATE codes from 4 up read as retired (R252). -/
def Bud.ofNat (v : Nat) : Bud :=
  { locals := bits v 127 64, wopnd := bits v 63 32, wkind := bits v 31 24, state := min 3 (bits v 23 16),
    clause := bits v 15 0 }

/-- The 16 bytes of a bud. -/
def Bud.bytes (b : Bud) : List Byte :=
  toBytes 16 (b.locals * 2 ^ 64 + b.wopnd % 2 ^ 32 * 2 ^ 32 + b.wkind % 256 * 2 ^ 24 + b.state % 256 * 2 ^ 16 +
    b.clause % 2 ^ 16)

/-- Reads the bud of element i. -/
def State.readBud (s : State) (site slot d i : Nat) : Option Bud :=
  (s.camRead site slot (budAddr d i) 16).map fun b => Bud.ofNat (ofBytes b)

/-- Writes the bud of element i. -/
def State.writeBud (s : State) (site dispatch slot d i : Nat) (b : Bud) : Option State :=
  s.camWrite site dispatch slot (budAddr d i) b.bytes

/-! ### Faults of an engine -/

/-- A deferred engine fault: the ring record of the engine's die, and the warp that issued the command if it still runs
(R176). -/
def State.camFault (s : State) (site dispatch w seq clause index : Nat) : State :=
  let slot := match s.dispatch? dispatch with
    | some d => d.slot
    | none => 0
  let s := s.ring (dieOfSite site) 0x13 (s.ident slot) [64 + site % 32, 0, clause]
  s.deferFault w seq clause index { cause := 0x22 }

/-- A cambium command that a warp's counted operation waits on is taken; the count completes with the last (R25). -/
def State.camTaken (s : State) (w seq : Nat) : State :=
  match (s.warp w).op? seq with
  | none => s
  | some o =>
    match o.kind with
    | .cambium n =>
      if n ≤ 1 then (s.finishOp w seq).wake w
      else s.onWarp w fun W => W.onOp seq fun o => { o with kind := .cambium (n - 1) }
    | _ => s

/-! ### The order of commands (R175, R182) -/

/-- No engine has an earlier command of a warp of a dispatch to take: the commands of one warp are taken in issue order (R175). -/
def State.camFirst (s : State) (dispatch w seq : Nat) : Bool :=
  s.eng.cambiums.all fun (_, c) =>
    (c.front.all fun m => m.dispatch ≠ dispatch || m.warp ≠ w || seq ≤ m.seq) &&
      c.ends.all fun e => e.dispatch ≠ dispatch || e.warp ≠ w || seq ≤ e.seq

/-- A declaration of a slot. -/
def CamMsg.declares (slot : Nat) : CamMsg → Bool
  | .declare n .. => n = slot
  | _ => false

/-- The declarations of a slot of a dispatch that a site's engine has still to accept and that a command of a warp may wait for: its own
later ones follow it. -/
def State.declComing (s : State) (site dispatch slot w seq : Nat) : List CamFront :=
  (s.cambium site).front.filter fun m =>
    m.dispatch = dispatch && m.msg.declares slot && (m.warp ≠ w || decide (m.seq < seq))

/-- A command of a warp for a slot can be taken and is not held (R182): every engine of the dispatch has accepted a declaration of it or
has none to accept, and none is accepted by some engines only. -/
def State.slotSettled (s : State) (dispatch slot w seq : Nat) : Bool :=
  let sites := s.sitesOf dispatch
  let coming (e : Nat) : List CamFront := s.declComing e dispatch slot w seq
  (sites.all fun e => (s.camSlot? e dispatch slot).isSome || (coming e).isEmpty) &&
    sites.all fun e => (coming e).all fun m => sites.all fun f => (coming f).contains m

/-- A command stands in front of an engine that holds it until a declaration comes (R182). -/
def State.camHeld (s : State) (m : CamFront) : Bool :=
  match m.msg with
  | .declare .. => false
  | .sweep slot .. | .wake slot .. => !s.slotSettled m.dispatch slot m.warp m.seq

/-- A declaration can be accepted: the commands of its warp before it are taken, or their engine has them and holds them (R175, R182;
log entry 81). -/
def State.declFirst (s : State) (dispatch w seq : Nat) : Bool :=
  s.eng.cambiums.all fun (_, c) =>
    (c.front.all fun m => m.dispatch ≠ dispatch || m.warp ≠ w || decide (seq ≤ m.seq) || s.camHeld m) &&
      c.ends.all fun e => e.dispatch ≠ dispatch || e.warp ≠ w || decide (seq ≤ e.seq)

/-! ### bstate (R185) -/

/-- What bstate gives for an element. -/
def State.bstateValue (s : State) (site dispatch slot i : Nat) : Option Nat :=
  match s.camSlot? site dispatch slot with
  | none => none
  | some c =>
    let d := c.desc.toNat
    if camCount d ≤ i then some 0xFFFFFFFF
    else
      match s.readBud site c.ctx d i, s.mapBit site c.ctx (camMap d) i with
      | some b, some dorm =>
        some (b.wkind * 2 ^ 24 + b2n (c.pending.contains i) * 2 ^ 19 + b2n dorm * 2 ^ 18 + b.state * 2 ^ 16 + b.clause)
      | _, _ => none

end Sys2Proof.Machine
end

