-- ==== Sys2Proof/Machine/Matrix.lean ====
section
/-! DEFINITION. The matrix unit: R43 to R47 (spec/02_number_formats.md) and R154 to R173 (spec/07_isa_matrix.md). The
instructions check and queue; the event MATRIX_OP_PERFORM performs the operation at the front of the queue. -/

namespace Sys2Proof.Machine

/-! ### The dot-product rule (R43) -/

/-- A term cut toward zero at weight 2^q, as a multiple of it (R43 step 3). -/
def truncTerm (q : Int) : Fl → Int
  | .num neg m e =>
    let r := if q ≤ e then m * 2 ^ (e - q).toNat else m / 2 ^ (q - e).toNat
    if neg then -(r : Int) else r
  | _ => 0

/-- The exponent of a nonzero term (R43 step 2). -/
def termExp : Fl → Option Int
  | .num _ m e => if m = 0 then none else some (Nat.log2 m + e)
  | _ => none

/-- R43: terms and C to one f32, never −0; none stands for a product ∞ × 0. -/
def dotRule (terms : List (Option Fl)) : Nat :=
  let ts := terms.filterMap id
  if ts.length ≠ terms.length || ts.any Fl.isNan then f32Fmt.nan
  else
    let up := ts.any (· = .inf false)
    let down := ts.any (· = .inf true)
    if up && down then f32Fmt.nan
    else if up then f32Fmt.infCode
    else if down then f32Fmt.signed true f32Fmt.infCode
    else
      match ts.filterMap termExp with
      | [] => 0
      | e :: es =>
        let q := es.foldl max e - 50
        let sum := (ts.map (truncTerm q)).foldl (· + ·) 0
        let r := (roundNum f32Fmt .rn false (sum < 0) sum.natAbs q).1
        if sum = 0 || r % f32Fmt.signBit = 0 then 0 else r

/-- The products of two rows. -/
def products (a b : List Fl) : List (Option Fl) := List.zipWith mulFl a b

/-- An f32 as a value. -/
def f32Val (w : Nat) : Fl := Fl.decode f32Fmt w

/-- A scale as an f32 code: lane value or e8m0 byte (R171). -/
def scaleAsF32 (ty : Ty) (w : Nat) : Nat :=
  match ty with
  | .e8m0 => (roundFl f32Fmt .rn false (valueOf .e8m0 w)).1
  | _ => w

/-- R47: one element of a scaled product, block by block: rows by block with the scales of each. The steps rne32 are IEEE operations
and may give −0 (log entry 73). -/
def scaledElement (c : Nat) (blocks : List (List Fl × List Fl × Nat × Nat)) : Nat :=
  blocks.foldl (fun acc (a, b, sa, sb) =>
    let p := dotRule (products a b ++ [some (.num false 0 0)])
    let p := (mulRound f32Fmt .rn (f32Val p) (f32Val sa)).1
    let p := (mulRound f32Fmt .rn (f32Val p) (f32Val sb)).1
    (addFl f32Fmt .rn (f32Val acc) (f32Val p)).1) c

/-! ### Shapes (R165) -/

/-- Shape of a product: element types, K, row sizes in bytes, elements of a scale block and the scale's type. -/
structure ProdShape where
  tyA : Ty
  tyB : Ty
  k   : Nat
  wA  : Nat
  wB  : Nat
  blk : Nat := 0
  sty : Ty := .f32

/-- The shape of a product instruction (R165, R171). -/
def prodShape : Instr → ProdShape
  | .mma x | .mmag x _ =>
    if x.ty = .f32 then { tyA := x.ty, tyB := x.ty, k := 8, wA := 32, wB := 32 }
    else if x.ty.bits = 16 then { tyA := x.ty, tyB := x.ty, k := 32, wA := 64, wB := 64 }
    else { tyA := x.ty, tyB := x.ty, k := 64, wA := 64, wB := 64 }
  | .mmx x u => { tyA := if u then .n8 else .s8, tyB := x.ty, k := 32, wA := 32, wB := 64 }
  | .mmas x =>
    if x.ty = .e4m3 then { tyA := x.ty, tyB := x.ty, k := 128, wA := 128, wB := 128, blk := 128 }
    else { tyA := x.ty, tyB := x.ty, k := 128, wA := 64, wB := 64, blk := 32, sty := .e8m0 }
  | _ => { tyA := .f32, tyB := .f32, k := 0, wA := 0, wB := 0 }

/-! ### Checks (R156, R158) -/

/-- R156: the convergence check. -/
def Ctx.cvFault (x : Ctx) (cv : Option (Fin 8)) : Option Trouble :=
  match cv with
  | none => none
  | some n => if x.W.cvComplete n.val then none else some { cause := 8, lanes := x.act }

/-- R156: the check clears the signs and keeps the declared set. -/
def Warp.clearSigns (W : Warp) (cv : Option (Fin 8)) : Warp :=
  match cv with
  | none => W
  | some n => W.putCv n.val (W.cv n.val &&& 0xFFFFFFFF)

/-- A core-store operand: offset, bytes, alignment and the lanes that name it. -/
structure StoreOperand where
  off   : Nat
  size  : Nat
  align : Nat
  lanes : LaneSet
deriving DecidableEq, Repr

/-- The first of a list of operands that fails a check, with the lanes of all that fail it. -/
def operandTrouble (cause : Nat) (bad : StoreOperand → Bool) (ops : List StoreOperand) : Option Trouble :=
  match ops.find? bad with
  | some o =>
    some { cause := cause, addr := o.off, lanes := (ops.filter bad).foldl (fun m p => m ||| p.lanes) 0 }
  | none => none

/-- R158 step 3: alignment of every operand, then its place in the scratchpad. Gathered rows follow the operands. Which operand is
named first when several fail is the model's choice (log entry 54). -/
def Ctx.storeFault (x : Ctx) (ops rows : List StoreOperand) : Option Trouble :=
  let skew (o : StoreOperand) : Bool := o.off % o.align ≠ 0
  let out (o : StoreOperand) : Bool := o.size ≠ 0 && !x.g.inScratch o.off o.size
  operandTrouble 0x0D skew ops <|> operandTrouble 0x0D skew rows <|>
    operandTrouble 0x0B out ops <|> operandTrouble 0x0B out rows

/-- The lane that supplies the warp's scalar operands (R157). -/
def Ctx.first (x : Ctx) : LaneSet := oneLane ((lowest x.act).getD 0)

/-- A 128-byte aligned operand named by a code. -/
def Ctx.operand (x : Ctx) (o : Opnd) (size : Nat) : StoreOperand :=
  { off := x.one o, size := size, align := 128, lanes := x.first }

/-- The banks of a mask in increasing order. -/
def banksOf (mask : Word) : List Nat := (List.range 32).filter fun b => mask.toNat.testBit b

/-- The first bank of a list that is not the group's (cause 1) or whose token is not where it must be (cause 2). -/
def State.bankFault (s : State) (x : Ctx) (token : Bank → Bool) : List Nat → Option Trouble
  | [] => none
  | b :: t =>
    match tfind (s.core (coreOf x.w)).banks b with
    | none => some { cause := 0x11, sub := 1, lanes := x.act }
    | some k =>
      if k.owner ≠ groupOf x.w then some { cause := 0x11, sub := 1, lanes := x.act }
      else if token k then s.bankFault x token t
      else some { cause := 0x11, sub := 2, lanes := x.act }

/-- A bank's token is at the unit. -/
def Bank.atUnit (k : Bank) : Bool := k.set.isNone

/-- A warp of the group is among a bank's holders. -/
def Bank.holds (w : Nat) (k : Bank) : Bool := k.set.isSome && k.holders.toNat.testBit (w % 64)

/-- The rows of a warp's band: first row and the row after its last (R163). -/
def Bank.band (w : Nat) (k : Bank) : Nat × Nat :=
  let set := (k.set.getD 0).toNat
  let n := popCount 64 set
  let q := popCount (w % 64) set
  (32 * q / n, 32 * (q + 1) / n)

/-! ### The queue (R154, R155) -/

/-- The core-store bytes that a queued operation reads: ranges of offset and length. -/
def Queued.reads (q : Queued) : List (Nat × Nat) :=
  match q.op with
  | .product (.mmag x c) _ _ =>
    let sh := prodShape (.mmag x c)
    (q.bOff, q.bLen) :: (q.vector.filter (· ≠ 0xFFFFFFFF)).map fun v => (q.aOff + v.toNat * sh.wA, sh.wA)
  | .product .. => [(q.aOff, q.aLen), (q.bOff, q.bLen)]
  | .tensor (.tcon8 _ _ _ _ _ _ acc _) u m o => [(u, 2048), (m, 256)] ++ if acc then [(o, 2048)] else []
  | .fromCore _ _ n off => [(off, 128 * n)]
  | _ => []

/-- The core-store bytes that a queued operation writes. -/
def Queued.writes (q : Queued) : List (Nat × Nat) :=
  match q.op with
  | .tensor _ _ _ o => [(o, 2048)]
  | .toCore _ _ n off => [(off, 128 * n)]
  | _ => []

/-- The granules of ranges. -/
def granulesIn (rs : List (Nat × Nat)) : List Nat :=
  (rs.flatMap fun (o, n) => (List.range (n / 16)).map fun i => o / 16 + i).eraseDups

/-- A write of a warp to its core's store older than an operation and not made touches a granule (R155). -/
def Warp.dirty (W : Warp) (core seq granule : Nat) : Bool :=
  W.ops.any fun o => o.seq < seq && (o.kind.isWrite || o.kind = .matrix) && !o.made && o.acc.any fun a =>
    match a.loc with
    | .store c off => c = core && !a.done && overlaps off (max 1 a.size) (granule * 16) 16
    | .global _ => false

/-- A queued operation has read its core-store operands whole. -/
def Queued.read (q : Queued) : Bool := (granulesIn q.reads).all fun g => (tfind q.image g).isSome

/-- A queued operation may read a granule now: every operation ahead of it has read its operands, none of them writes the granule, and
no earlier write of its warp to it is outstanding (R154, R155). -/
def State.readableNow (s : State) (core : Nat) (ahead : List Queued) (q : Queued) (granule : Nat) : Bool :=
  ahead.all (fun p => p.read && !p.writes.any fun (o, n) => overlaps o n (granule * 16) 16) &&
    match q.seq with
    | some n => !(s.warp q.warp).dirty core n granule
    | none => true

/-- Reads granules of a queued operation as they stand, with the poison mark in bit 128. -/
def State.readGranules (s : State) (core : Nat) (ahead : List Queued) (q : Queued) (granules : List Nat) : Queued :=
  { q with
    image := (granules.filter (s.readableNow core ahead q)).foldl (fun t g =>
      let (b, bad) := s.coreRead core (16 * g) 16
      tput t g (ofBytes b + b2n bad * 2 ^ 128)) q.image }

/-- A queued operation that has not begun to read. -/
def Queued.unread (q : Queued) : Queued := { q with image := [] }

/-- MATRIX_READ, a move of the matrix unit: the operation at a place of the queue reads some of its operand granules (R155). Those
behind it have not started (R154). -/
def State.matrixRead (s : State) (core place : Nat) (granules : List Nat) : State :=
  let queue := (s.core core).queue
  match queue[place]? with
  | none => s
  | some q =>
    let mine := (granulesIn q.reads).filter granules.contains
    let q := s.readGranules core (queue.take place) q mine
    s.onCore core fun c => { c with queue := c.queue.take place ++ q :: (c.queue.drop (place + 1)).map Queued.unread }

/-- Clears banks of accumulator memory. -/
def Core.zeroBanks (c : Core) (mask : Word) : Core :=
  { c with
    acc := c.acc.filter fun (k, _) => !(mask.toNat.testBit (k / 2048))
    accPoison := c.accPoison.filter fun (k, _) => !(mask.toNat.testBit (k / 512)) }

/-- Performs the grants and discards at the front of a core's queue (R160 to R162). -/
def Core.drainQueue (c : Core) : Nat → Core
  | 0 => c
  | n + 1 =>
    match c.queue with
    | { op := .zero mask, .. } :: t | { op := .drop mask, .. } :: t =>
      ({ c with queue := t }.zeroBanks mask).drainQueue n
    | _ => c

/-- Enters an operation in the queue of a core; when those ahead of it have read theirs, its operands are read as they stand (R154,
R155). -/
def State.enqueue (s : State) (core : Nat) (q : Queued) : State :=
  let queue := (s.core core).queue
  let q := s.readGranules core queue q (granulesIn q.reads)
  s.onCore core fun c => { c with queue := c.queue ++ [q] }.drainQueue (queue.length + 1)

/-- A queue entry of the issuing warp. -/
def Ctx.queued (x : Ctx) (seq : Option Nat) (op : MatOp) : Queued :=
  { warp := x.w, seq := seq, op := op, aOff := 0, bOff := 0, aLen := 0, bLen := 0, vector := [], scales := [],
    image := [] }

/-- Queues an operation that raises mma: its outstanding operation, the convergence register, the queue (R25, R156). A
core-store result is recorded as the operation's access. -/
def State.queueOp (s : State) (x : Ctx) (cv : Option (Fin 8)) (d : Opnd) (q : Queued) : State :=
  let acc : List Access := q.writes.map fun (o, n) =>
    { lane := 0, dest := 0, loc := .store (coreOf x.w) o, size := n, data := [], cmp := 0, done := false }
  let s := s.onWarp x.w fun W => W.clearSigns cv
  let s := s.pushOp x.w { x.op (some 3) .matrix with dst := d, acc := acc }
  s.enqueue (coreOf x.w) q

/-! ### Issue -/

/-- The scale entries at the front of a FIFO suit an mmas (R170): words by kind, then type, then 32 lanes. -/
def Warp.scalesOk (W : Warp) (sty : Ty) : Bool :=
  let tag := if sty = .e8m0 then 2 else 0
  W.scales.length ≥ 66 && nth 0 W.scales 0 = BitVec.ofNat 32 tag && nth 0 W.scales 33 = BitVec.ofNat 32 (tag + 1)

/-- A code that must be a vector code (R157). -/
def vectorUse (o : Opnd) (write : Bool := false) : List Use :=
  if o.isVector then [{ o := o, wide := false, write := write }] else [rd (.bad 0)]

/-- The issue of a product (R156 to R158, R165 to R171). -/
def product (i : Instr) (p : Prod) (gather : Option Opnd) (s : State) : Result :=
  let sh := prodShape i
  let extra := match gather with
    | some c => vectorUse c
    | none => []
  issue { port := 2, guard := p.g, uses := [rd p.a, rd p.b] ++ extra } (fun x s =>
    let idx : List Word := match gather with
      | some c => (List.range 32).map fun l => x.W.src x.w c l
      | none => []
    let a := x.operand p.a (if gather.isSome then 0 else 32 * sh.wA)
    let b := x.operand p.b (32 * sh.wB)
    let rows := (idx.zipIdx.filter fun (v, _) => v ≠ 0xFFFFFFFF).map fun (v, l) =>
      ({ off := a.off + v.toNat * sh.wA, size := sh.wA, align := sh.wA, lanes := oneLane l } : StoreOperand)
    let scaled := decide (sh.blk ≠ 0)
    match x.cvFault p.cv with
    | some t => .fault t
    | none =>
      if scaled && !x.W.scalesOk sh.sty then .fault { cause := 0x12, lanes := x.act }
      else
        match x.storeFault [a, b] rows <|> s.bankFault x Bank.atUnit [p.tile.val / 2] with
        | some t => .fault t
        | none =>
          if x.W.saturated 3 then .stall
          else
            let q : Queued :=
              { x.queued (some x.W.seq) (.product i p.tile.val p.zc) with
                aOff := a.off, bOff := b.off, aLen := 32 * sh.wA, bLen := 32 * sh.wB, vector := idx,
                scales := if scaled then x.W.scales.take 66 else [] }
            let s := if scaled then s.onWarp x.w fun W => { W with scales := W.scales.drop 66 } else s
            .done (s.queueOp x p.cv .zero q)) s

/-- R167: mma. -/
def execMma (p : Prod) (s : State) : Result := product (.mma p) p none s
/-- R168: mmag. -/
def execMmag (p : Prod) (c : Opnd) (s : State) : Result := product (.mmag p c) p (some c) s
/-- R170, R171: mmas. -/
def execMmas (p : Prod) (s : State) : Result := product (.mmas p) p none s
/-- R169: mmx. -/
def execMmx (p : Prod) (unsignedA : Bool) (s : State) : Result := product (.mmx p unsignedA) p none s

/-- R170: sfpush appends an entry of kind, type and 32 words; 8 entries fill the FIFO. -/
def execSfpush (g : Guard) (ty : Ty) (a : Opnd) (kindB : Bool) (cv : Option (Fin 8)) (s : State) : Result :=
  issue { port := 2, guard := g, uses := vectorUse a } (fun x s =>
    match x.cvFault cv with
    | some t => .fault t
    | none =>
      if 8 * 33 ≤ x.W.scales.length then .fault { cause := 0x12, lanes := x.act }
      else
        let tag : Word := BitVec.ofNat 32 ((if ty = .e8m0 then 2 else 0) + b2n kindB)
        .done (s.onWarp x.w fun W =>
          { W.clearSigns cv with scales := W.scales ++ tag :: (List.range 32).map fun l => W.src x.w a l })) s

/-- R170: sfpush.flush empties the FIFO. -/
def execSfpushFlush (g : Guard) (s : State) : Result :=
  issue { port := 2, guard := g } (fun x s => .done (s.onWarp x.w fun W => { W with scales := [] })) s

/-- R161: aalloc. -/
def execAalloc (g : Guard) (d : Opnd) (mask : Word) (s : State) : Result :=
  issue { port := 2, guard := g, uses := [wr d] } (fun x s =>
    if mask &&& ~~~x.g.accMask ≠ 0 then .fault { cause := 0x11, sub := 4, lanes := x.act }
    else
      let c := coreOf x.w
      let banks := (s.core c).banks
      let grant := (banksOf mask).all fun b =>
        match tfind banks b with
        | none => true
        | some k => k.owner = groupOf x.w
      if grant then
        let fresh := (banksOf mask).filter fun b => (tfind banks b).isNone
        let s := s.onCore c fun y =>
          { y with banks := fresh.foldl (fun t b => tput t b { owner := groupOf x.w, set := none, holders := 0 }) y.banks }
        let zeroed : Word := BitVec.ofNat 32 (fresh.foldl (fun n b => n + 2 ^ b) 0)
        let s := if fresh.isEmpty then s else s.enqueue c (x.queued none (.zero zeroed))
        .done (s.onWarp x.w fun W => W.dst d x.act fun _ => mask)
      else .done (s.onWarp x.w fun W => W.dst d x.act fun _ => 0)) s

/-- R162: afree. -/
def execAfree (g : Guard) (mask : Word) (s : State) : Result :=
  issue { port := 2, guard := g } (fun x s =>
    match s.bankFault x Bank.atUnit (banksOf mask) with
    | some t => .fault t
    | none =>
      let c := coreOf x.w
      let s := s.onCore c fun y => { y with banks := (banksOf mask).foldl tdel y.banks }
      .done (if mask = 0 then s else s.enqueue c (x.queued none (.drop mask)))) s

/-- The warp set of acqa is allowed (R163). -/
def State.setAllowed (s : State) (x : Ctx) (set : Nat) : Bool :=
  [1, 2, 4, 8, 16, 32].contains (popCount 64 set) &&
    (List.range 64).all fun i => !(bitOf set i) ||
      (i < x.g.wpg &&
        match s.warp? (groupOf x.w * 64 + i) with
        | some V => V.phase ≠ .gone
        | none => false)

/-- R163: acqa passes the token of every bank of the mask to a set of warps. -/
def execAcqa (g : Guard) (a : Opnd) (mask : Word) (s : State) : Result :=
  issue { port := 2, guard := g, uses := [rd a true] } (fun x s =>
    let set := x.one64 a
    match s.bankFault x Bank.atUnit (banksOf mask) with
    | some t => .fault t
    | none =>
      if s.setAllowed x set then
        .done (s.onCore (coreOf x.w) fun y =>
          { y with
            banks := (banksOf mask).foldl (fun t b =>
              tput t b { owner := groupOf x.w, set := some (BitVec.ofNat 64 set), holders := BitVec.ofNat 64 set })
              y.banks })
      else .fault { cause := 0x11, sub := 6, lanes := x.act }) s

/-- A warp leaves the holders of a bank; the last one returns the token to the unit (R160). -/
def Bank.leave (w : Nat) (k : Bank) : Bank :=
  let h := k.holders &&& ~~~(BitVec.ofNat 64 (2 ^ (w % 64)))
  if k.set.isNone then k else if h = 0 then { k with set := none, holders := 0 } else { k with holders := h }

/-- R164: rela. -/
def execRela (g : Guard) (mask : Word) (s : State) : Result :=
  issue { port := 2, guard := g } (fun x s =>
    match s.bankFault x (Bank.holds x.w) (banksOf mask) with
    | some t => .fault t
    | none =>
      .done (s.onCore (coreOf x.w) fun y =>
        { y with banks := (banksOf mask).foldl (fun t b => tmap (Bank.leave x.w) t b) y.banks })) s

/-- The operand of an amv: the register range of its mode below NREG, or its core-store operand (R172). -/
def Ctx.amvFault (x : Ctx) (mode : AmvMode) (n : Nat) : Option Trouble :=
  let range (o : Opnd) : Option Trouble :=
    match o with
    | .v r => if r.val + n ≤ x.g.nreg then none else some { cause := 3, lanes := x.act }
    | _ => none
  match mode with
  | .a2v d => range d
  | .v2a a => range a
  | .a2c a | .c2a a => x.storeFault [x.operand a (128 * n)] []

/-- R172: amv moves rows of a tile. -/
def execAmv (g : Guard) (mode : AmvMode) (spec : Opnd) (tile : Fin 64) (cv : Option (Fin 8)) (s : State) : Result :=
  let uses := match mode with
    | .a2v d => vectorUse d true
    | .v2a a => vectorUse a
    | .a2c a | .c2a a => [rd a]
  issue { port := 2, guard := g, uses := uses ++ [rd spec] } (fun x s =>
    let v := x.one spec
    let start := bits v 4 0
    let n := bits v 12 8 + 1
    match x.cvFault cv <|> s.bankFault x (Bank.holds x.w) [tile.val / 2] with
    | some t => .fault t
    | none =>
      let bank := tget { owner := 0, set := none, holders := 0 } (s.core (coreOf x.w)).banks (tile.val / 2)
      if bits v 7 5 ≠ 0 || bits v 31 13 ≠ 0 || 32 < start + n then .fault { cause := 0x11, sub := 5, lanes := x.act }
      else if start < (bank.band x.w).1 || (bank.band x.w).2 < start + n then
        .fault { cause := 0x11, sub := 3, lanes := x.act }
      else
        match x.amvFault mode n with
        | some t => .fault t
        | none =>
          if x.W.saturated 3 then .stall
          else
            let op : MatOp := match mode with
              | .a2v (.v r) => .toRegs tile.val start n r.val
              | .v2a (.v r) => .fromRegs tile.val start n ((List.range n).flatMap fun m =>
                  (List.range 32).map fun l => tget 0 x.W.v (32 * (r.val + m) + l))
              | .a2c a => .toCore tile.val start n (x.one a)
              | .c2a a => .fromCore tile.val start n (x.one a)
              | .a2v _ | .v2a _ => .toRegs tile.val start 0 0
            .done (s.queueOp x cv .zero (x.queued (some x.W.seq) op))) s

/-- R173: tcon8. -/
def execTcon8 (g : Guard) (u m o : Opnd) (axis : Axis) (tr acc : Bool) (cv : Option (Fin 8)) (s : State) : Result :=
  issue { port := 2, guard := g, uses := [rd u, rd m, rd o] } (fun x s =>
    match x.cvFault cv <|> x.storeFault [x.operand u 2048, x.operand m 256, x.operand o 2048] [] with
    | some t => .fault t
    | none =>
      if x.W.saturated 3 then .stall
      else
        .done (s.queueOp x cv .zero
          (x.queued (some x.W.seq) (.tensor (.tcon8 g u m o axis tr acc cv) (x.one u) (x.one m) (x.one o))))) s

/-! ### What the unit computes (R43 to R47, R165 to R173) -/

/-- How an operation reads n bytes of the core store: offset and length to bytes and poison. -/
abbrev StoreReader := Nat → Nat → List Byte × Bool

/-- The reader of a queued operation: the granules it read early, and the store as it stands for the rest. -/
def State.reader (s : State) (core : Nat) (q : Queued) (early : List Nat) : StoreReader := fun off n =>
  let gs := granulesIn [(off / 16 * 16, roundUp (off + n) 16 - off / 16 * 16)]
  let parts := gs.map fun g =>
    match tfind q.image g, early.contains g with
    | some v, true => (toBytes 16 (v % 2 ^ 128), bitOf v 128)
    | _, _ => s.coreRead core (16 * g) 16
  (((parts.flatMap Prod.fst).drop (off % 16)).take n, parts.any Prod.snd)

/-- The elements of a row of bytes (R35). -/
def rowValues (ty : Ty) (k : Nat) (b : List Byte) : List Fl :=
  let v := ofBytes b
  (List.range k).map fun i => valueOf ty (v / 2 ^ (i * ty.bits) % 2 ^ ty.bits)

/-- The integer of an s8 or n8 element list, for exact integer products (R46). -/
def exactInt : Fl → Int
  | .num neg m _ => if neg then -(m : Int) else m
  | _ => 0

/-- Element j of a list cut in blocks of n, block i. -/
def block {β : Type} (l : List β) (n i : Nat) : List β := (l.drop (n * i)).take n

/-- One element of a product (R167, R171). -/
def prodElement (sh : ProdShape) (zc : Bool) (c : Nat) (a b : List Fl) (sa sb : Nat) : Nat :=
  let c := if zc then 0 else c
  if sh.blk = 0 then
    if sh.tyA = .s8 && sh.tyB = .s8 then
      wrap 32 ((c : Int) + ((a.zip b).map fun (x, y) => exactInt x * exactInt y).foldl (· + ·) 0)
    else dotRule (products a b ++ [some (f32Val c)])
  else
    scaledElement c ((List.range (sh.k / sh.blk)).map fun i =>
      let scale (w : Nat) : Nat := if sh.sty = .e8m0 then scaleAsF32 .e8m0 (w / 256 ^ i % 256) else w
      (block a sh.blk i, block b sh.blk i, scale sa, scale sb))

/-- An element of a tile. -/
def Core.elem (c : Core) (tile i j : Nat) : Word := tget 0 c.acc (tile * 1024 + 32 * i + j)

/-- A row of a tile has a poisoned granule. -/
def Core.rowBad (c : Core) (tile i : Nat) : Bool :=
  (List.range 8).any fun g => tget false c.accPoison (tile * 256 + 8 * i + g)

/-- Writes a row of a tile where a lane set names its elements; a granule written whole loses its poison mark. -/
def Core.putRow (c : Core) (tile i : Nat) (lanes : LaneSet) (row : Nat → Word) (bad : Bool) : Core :=
  let c := (lanesOf lanes).foldl (fun c j => { c with acc := tset 0 c.acc (tile * 1024 + 32 * i + j) (row j) }) c
  (List.range 8).foldl (fun c g =>
    let key := tile * 256 + 8 * i + g
    let whole := (List.range 4).all fun j => inSet lanes (4 * g + j)
    if bad && (List.range 4).any (fun j => inSet lanes (4 * g + j)) then { c with accPoison := tset false c.accPoison key true }
    else if whole then { c with accPoison := tset false c.accPoison key false }
    else c) c

/-- The tile that a product leaves (R167 to R171), and whether an operand was poisoned. A zero row of a gather has no products: it adds
no term but zeros, whatever B holds (R168; log entry 74). -/
def productResult (c : Core) (r : StoreReader) (q : Queued) (i : Instr) (tile : Nat) (zc : Bool) :
    (Nat → Nat → Word) × Bool :=
  let sh := prodShape i
  let rowA (n : Nat) : List Fl × Bool :=
    match q.vector with
    | [] =>
      let (b, bad) := r (q.aOff + n * sh.wA) sh.wA
      (rowValues sh.tyA sh.k b, bad)
    | v =>
      if nth 0 v n = 0xFFFFFFFF then ([], false)
      else
        let (b, bad) := r (q.aOff + (nth 0 v n).toNat * sh.wA) sh.wA
        (rowValues sh.tyA sh.k b, bad)
  let rowsA := (List.range 32).map rowA
  let rowsB := (List.range 32).map fun n =>
    let (b, bad) := r (q.bOff + n * sh.wB) sh.wB
    (rowValues sh.tyB sh.k b, bad)
  let bad := rowsA.any Prod.snd || rowsB.any Prod.snd || (!zc && (List.range 32).any (c.rowBad tile))
  (fun m j =>
    BitVec.ofNat 32 (prodElement sh zc (c.elem tile m j).toNat (nth ([], false) rowsA m).1 (nth ([], false) rowsB j).1
      (nth 0 q.scales (1 + m)).toNat (nth 0 q.scales (34 + j)).toNat), bad)

/-- The position of an element of the 8 × 8 × 8 cube with its coordinate on an axis replaced (R173). -/
def cubeIndex (axis : Axis) (x y z j : Nat) : Nat :=
  match axis with
  | .x => j + 8 * y + 64 * z
  | .y => x + 8 * j + 64 * z
  | .z => x + 8 * y + 64 * j

/-- The 512 elements that tcon8 writes (R173), and whether an operand was poisoned. -/
def tensorResult (r : StoreReader) (axis : Axis) (tr acc : Bool) (u m o : Nat) : List Word × Bool :=
  let (ub, x) := r u 2048
  let (mb, y) := r m 256
  let (ob, z) := if acc then r o 2048 else ([], false)
  let uv := rowValues .f32 512 ub
  let mv := rowValues .f32 64 mb
  let ov := if acc then rowValues .f32 512 ob else []
  let zero : Fl := .num false 0 0
  ((List.range 512).map fun n =>
    let cx := n % 8
    let cy := n / 8 % 8
    let cz := n / 64
    let i := match axis with
      | .x => cx
      | .y => cy
      | .z => cz
    let terms := (List.range 8).map fun j =>
      mulFl (nth zero mv (if tr then 8 * j + i else 8 * i + j)) (nth zero uv (cubeIndex axis cx cy cz j))
    BitVec.ofNat 32 (dotRule (terms ++ [some (nth zero ov n)])), x || y || z)

/-- Words as bytes of the core store from an offset on. -/
def storeWords (off : Nat) (ws : List Word) : List (Nat × Byte) :=
  (ws.flatMap fun w => toBytes 4 w.toNat).zipIdx.map fun (b, i) => (off + i, b)

/-- Writes words to the core store with their poison. -/
def State.putWords (s : State) (core off : Nat) (ws : List Word) (bad : Bool) : State :=
  let s := s.coreWrite core (storeWords off ws)
  if bad then
    s.onCore core fun c =>
      { c with poison := (granulesIn [(off, 4 * ws.length)]).foldl (fun t g => tset false t g true) c.poison }
  else s

/-- Performs one operation at the matrix unit: its results, and whether it consumed poison (R325). -/
def State.perform (s : State) (core : Nat) (q : Queued) (early : List Nat) : State × Bool :=
  let r := s.reader core q early
  let c := s.core core
  let lanes := match q.seq.bind (s.warp q.warp).op? with
    | some o => o.lanes
    | none => 0
  match q.op with
  | .product i tile zc =>
    let (f, bad) := productResult c r q i tile zc
    let rows := (List.range 32).map fun i => (List.range 32).map fun j => f i j
    (s.onCore core fun c =>
      rows.zipIdx.foldl (fun c (row, i) => c.putRow tile i allLanes (fun j => nth 0 row j) bad) c, bad)
  | .tensor (.tcon8 _ _ _ _ axis tr acc _) u m o =>
    let (ws, bad) := tensorResult r axis tr acc u m o
    (s.putWords core o ws bad, bad)
  | .tensor .. => (s, false)
  | .toRegs tile row n d =>
    let bad := (List.range n).any fun m => c.rowBad tile (row + m)
    let ps := (List.range n).flatMap fun m => (lanesOf lanes).map fun l =>
      ({ uniform := false, key := 32 * (d + m) + l, mask := 0xFFFFFFFF,
         value := if bad then BitVec.ofNat 32 poisonWord else c.elem tile (row + m) l } : Pending)
    (s.onWarp q.warp fun W => W.deliver ps, bad)
  | .fromRegs tile row n rows =>
    (s.onCore core fun c => (List.range n).foldl (fun c m =>
      c.putRow tile (row + m) lanes (fun j => nth 0 rows (32 * m + j)) false) c, false)
  | .toCore tile row n off =>
    let bad := (List.range n).any fun m => c.rowBad tile (row + m)
    (s.putWords core off ((List.range n).flatMap fun m => (List.range 32).map fun j => c.elem tile (row + m) j) bad, bad)
  | .fromCore tile row n off =>
    let parts := (List.range n).map fun m => r (off + 128 * m) 128
    let bad := parts.any Prod.snd
    (s.onCore core fun c => parts.zipIdx.foldl (fun c (p, m) =>
      c.putRow tile (row + m) allLanes (fun j => BitVec.ofNat 32 (ofBytes ((p.1.drop (4 * j)).take 4))) bad) c, bad)
  | .zero mask | .drop mask => (s.onCore core fun c => c.zeroBanks mask, false)

/-- The rows of accumulator memory that a queued operation reads: a tile's number and its rows. -/
def Queued.rows (q : Queued) : List (Nat × Nat) :=
  match q.op with
  | .product _ tile false => (List.range 32).map fun i => (tile, i)
  | .toRegs tile row n _ | .toCore tile row n _ => (List.range n).map fun i => (tile, row + i)
  | _ => []

/-- Where a queued operation meets an uncorrectable error first (R336): the offset of a granule of its core-store operands, or the byte
of accumulator memory where a granule of its rows begins. -/
def State.poisonPlace (s : State) (core : Nat) (q : Queued) (early : List Nat) : Nat :=
  match (granulesIn q.reads).find? fun g => (s.reader core q early (16 * g) 16).2 with
  | some g => 16 * g
  | none =>
    let granules := q.rows.flatMap fun (tile, i) => (List.range 8).map fun g => tile * 256 + 8 * i + g
    16 * (granules.find? fun k => tget false (s.core core).accPoison k).getD 0

/-- The core-store writes of a queued operation wait for its warp's earlier setempty and for the acquires, fences and locks before it
(R138, R141, R152, R220). -/
def Warp.matrixHeld (W : Warp) (q : Queued) : Bool :=
  match q.seq with
  | none => false
  | some n => !q.writes.isEmpty && (W.heldBack n || W.ops.any fun o => o.seq < n && o.kind = OpKind.setempty)

/-- R154: the operation at the front of a core's queue is performed; granules of `early` are as it read them before, the
others as they stand. It is due once the issuing warp's earlier writes to its operands are made (R155); where it has not finished
reading before, the operations behind it have not started. -/
def execMatrixOpPerform (core : Nat) (early : List Nat) (s : State) : Result :=
  match (s.core core).queue with
  | [] => .next s
  | q :: t =>
    if !(s.warp q.warp).matrixHeld q &&
        (granulesIn q.reads).all (fun g => early.contains g && (tfind q.image g).isSome || s.readableNow core [] q g) then
      let place := s.poisonPlace core q early
      let (s', bad) := s.perform core q early
      let done := (granulesIn q.reads).all fun g => early.contains g && (tfind q.image g).isSome
      let t := if done then t else t.map Queued.unread
      let s := s'.onCore core fun c => { c with queue := t }.drainQueue t.length
      let s := if bad then s.consume (s.dispatchOfWarp q.warp) (dieOfCore core) 3 place else s
      match q.seq with
      | none => .next s
      | some n =>
        .next ((s.finishOp q.warp n).wake q.warp)
    else .next s

end Sys2Proof.Machine
end

