-- ==== Sys2Proof/Machine/System.lean ====
section
/-! DEFINITION. System instructions: R186 to R189, R313 (spec/08_isa_engines_system.md), and the registers they reach
(R16, R24, R109, R312, R335). -/

namespace Sys2Proof.Machine

/-! ### Register values -/

/-- Bytes of a core's store that resident groups have reserved. -/
def State.reserved (s : State) (core : Nat) : Nat :=
  ((s.comp.groups.filter fun (g, _) => coreOfGroup g = core).map fun (_, x) => x.size).foldl (· + ·) 0

/-- CSCFG of a core (R16). -/
def State.cscfg (s : State) (core : Nat) : Nat :=
  let c := s.core core
  let free := (2 ^ 20 - c.l1sz.toNat * 65536 - s.reserved core) / 16384
  c.pl1sz.toNat * 2 ^ 24 + c.l1sz.toNat * 2 ^ 16 + free % 256 * 2 ^ 8

/-- Enabled cores of a die (R335). -/
def Die.coreCount (d : Die) : Nat := popCount 144 d.cores.toNat

/-- Cluster sites of a die with an enabled core (R335). -/
def Die.siteMask (d : Die) : Nat :=
  (List.range 18).foldl (fun m i => m + b2n (bits d.cores.toNat (8 * i + 7) (8 * i) ≠ 0) * 2 ^ i) 0

/-- Links in use, by R335's field map. -/
def Die.linkMask (d : Die) : Nat :=
  (List.range 7).foldl (fun m i =>
    m + b2n (match tfind d.links i with
      | some l => l.inUse && !l.failed
      | none => false) * 2 ^ i) 0

/-- A configuration count (R335). -/
def State.configCount (s : State) (die n : Nat) : Nat :=
  let d := s.die die
  match n with
  | 0x0 => d.coreCount
  | 0x1 => d.siteMask
  | 0x2 => (s.dies.filter fun (k, x) => k / 32 = die / 32 && x.enabled).length
  | 0x3 => popCount 2 d.hbmStacks.toNat
  | 0x4 => s.hbmSize die / 65536 - d.scrub.retired.length
  | 0x5 => d.linkMask
  | 0x6 => d.slices.toNat
  | 0x7 => d.clock.fmhz
  | 0x8 => d.counts.routeGen.toNat
  | 0x9 => d.counts.retired.toNat
  | 0xA => d.counts.corrected.toNat
  | 0xB => d.counts.late.toNat
  | 0xC => d.counts.dropped.toNat
  | 0xD => d.counts.replays.toNat
  | 0xE => d.counts.retCores.toNat
  | _ => 0

/-- A trap register by its number less 0x100; numbers that R312 does not name read 0. -/
def TrapRegs.read (t : TrapRegs) (n : Nat) : Double :=
  match n with
  | 0 => t.cause
  | 1 => t.clause
  | 2 => t.index
  | 3 => t.addr
  | 4 => t.lanes
  | 5 => t.code
  | 6 => t.stat
  | 7 => t.raddr
  | 8 => t.ridx
  | n => if 0x20 ≤ n ∧ n < 0x40 then tget 0 t.pcs (n - 0x20) else 0

/-- Writes a trap register; reserved bits stay zero (R7), a resume index above 16 is ignored (R312). -/
def TrapRegs.write (t : TrapRegs) (n : Nat) (x : Double) : TrapRegs :=
  match n with
  | 0 => { t with cause := x &&& 0xFFFFFF }
  | 1 => { t with clause := trapAddress x.toNat }
  | 2 => { t with index := x &&& 0x11F }
  | 3 => { t with addr := x }
  | 4 => { t with lanes := x &&& 0xFFFFFFFF }
  | 5 => { t with code := x }
  | 6 => { t with stat := x }
  | 7 => { t with raddr := trapAddress x.toNat }
  | 8 => if 17 ≤ x.toNat then t else { t with ridx := x }
  | n => if 0x20 ≤ n ∧ n < 0x40 then { t with pcs := tset 0 t.pcs (n - 0x20) (trapAddress x.toNat) } else t

/-- The value of a system register for the issuing warp (R186). -/
def State.sysRead (s : State) (x : Ctx) (n : Nat) : Nat :=
  if n = 1 then (x.g.descriptor (groupOf x.w) (x.w % 64)).toNat
  else if n = 2 then s.cscfg (coreOf x.w)
  else if n < 0x20 then (x.W.cv (n - 0x10)).toNat
  else if n = 0x21 then x.W.fpst.toNat
  else if n = 0x30 then b2n (s.slot x.g.slot).preq
  else if n < 0x200 then (x.W.trap.read (n - 0x100)).toNat
  else s.configCount (dieOfCore (coreOf x.w)) (n - 0x200)

/-- A system register's sget is privileged (R186). -/
def sysReadPriv (n : Nat) : Bool := 0x100 ≤ n && n < 0x200

/-- A system register's sset is privileged (R186). -/
def sysWritePriv (n : Nat) : Bool := n = 2 || (0x10 ≤ n && n < 0x20) || sysReadPriv n

/-! ### The instructions -/

/-- R186: sget. -/
def execSget (g : Guard) (ty : Ty) (d : Opnd) (n : BitVec 16) (s : State) : Result :=
  issue { guard := g, priv := sysReadPriv n.toNat, uses := [wr d ty.wide] } (fun x s =>
    let v := s.sysRead x n.toNat
    .done (s.onWarp x.w fun W => W.dstN ty.wide d x.act fun _ => v)) s

/-- R186: sset, with the value of the lowest-numbered active lane. A write to WDESC is a privilege fault (R24). -/
def execSset (g : Guard) (ty : Ty) (a : Opnd) (n : BitVec 16) (s : State) : Result :=
  let n := n.toNat
  issue { guard := g, priv := sysWritePriv n, denied := n = 1, uses := [rd a ty.wide] } (fun x s =>
    let v := if ty.wide then x.one64 a else x.one a
    if n = 2 then
      let size := bits v 31 24
      .done (if 1 ≤ size ∧ size ≤ 8 then
        s.onCore (coreOf x.w) fun c => { c with pl1sz := BitVec.ofNat 8 size }
      else s)
    else
      .done (s.onWarp x.w fun W =>
        if 0x10 ≤ n ∧ n < 0x20 then W.putCv (n - 0x10) (BitVec.ofNat 64 v)
        else if n = 0x21 then W.setFpst (BitVec.ofNat 32 v)
        else { W with trap := W.trap.write (n - 0x100) (BitVec.ofNat 64 v) })) s

/-- R187, R313: tret is privileged; the boundary restores the warp. -/
def execTret (g : Guard) (s : State) : Result :=
  issue { guard := g, ends := true, priv := true } (fun x s => .done (s.endWith x.q .tret)) s

/-- R188: clkrd. -/
def execClkrd (g : Guard) (ty : Ty) (d : Opnd) (rt : Bool) (s : State) : Result :=
  issue { guard := g, uses := [wr d ty.wide] } (fun x s =>
    let v := if rt then s.rt else s.clk (dieOfCore (coreOf x.w))
    .done (s.onWarp x.w fun W => W.dstN ty.wide d x.act fun _ => v)) s

/-- R189: preempt names a pre-emption point; the boundary decides what D receives. -/
def execPreempt (g : Guard) (d : Opnd) (s : State) : Result :=
  issue { guard := g, ends := true, uses := [wr d] } (fun x s => .done (s.endWith x.q (.preempt d x.act))) s

/-- An instruction word that fails step 1 or 2 of R61 (R67, R71). -/
def State.illegal (s : State) : State :=
  match s.issuing with
  | none => s
  | some (q, c, _, _) => s.precise q c { cause := 1, lanes := c.lanes }

/-- R71: an unassigned opcode raises the illegal-encoding fault. -/
def execUnassignedOpcode (_op : BitVec 8) (s : State) : Result := .next s.illegal

end Sys2Proof.Machine
end

