-- ==== Sys2Proof/Machine/ClauseEvents.lean ====
section
/-! DEFINITION. Arbitration, the clause boundary, the end of waits, warps and groups, the watchdog and trap entry: R53 to
R64, R83, R87, R92, R205 to R209, R311. -/

namespace Sys2Proof.Machine

/-! ### Arbitration (R205, R206) -/

/-- Priority of a warp. -/
def State.prio (s : State) (w : Nat) : Nat :=
  match s.group? (groupOf w) with
  | some g => g.prio
  | none => 0

/-- The ready warps of a quarter, lowest group slot and warp index first. -/
def State.readyWarps (s : State) (q : Nat) : List Nat :=
  (tkeys s.comp.warps).filter fun w => quarterOf w = q && (s.group? (groupOf w)).isSome && s.ready w

/-- The first element of a list with the least measure. -/
def leastBy (f : Nat → Nat) : List Nat → Option Nat
  | [] => none
  | a :: t =>
    match leastBy f t with
    | none => some a
    | some b => if f b < f a then some b else some a

/-- Elements that satisfy a condition, or all of them when none does. -/
def preferring (p : Nat → Bool) (l : List Nat) : List Nat := if l.any p then l.filter p else l

/-- R206 with R88: a warp that yielded goes after every other one; then the age cap, priority, yield hint, ready time and
number decide. -/
def State.pick (s : State) (l : List Nat) : Option Nat :=
  let l := preferring (fun w => !(s.warp w).yielded) l
  let old := l.filter fun w => 64 ≤ (s.warp w).passed
  if old.isEmpty then
    let top := l.foldl (fun m w => max m (s.prio w)) 0
    let l := preferring (fun w => !(s.warp w).yhint) (l.filter fun w => s.prio w = top)
    leastBy (fun w => (s.warp w).readyAt) l
  else leastBy (fun w => (s.warp w).readyAt) old

/-- The threads that take part in the clause at an address (R79). -/
def Warp.takers (W : Warp) (h : Nat) : LaneSet := laneSet fun l => W.statusOf l = .running && W.pcOf l = h

/-- Starts the clause of a picked warp, or raises its header fault (R60, R61). A warp that resumes inside a clause starts
at its resume index (R313), which stands until that clause runs. -/
def State.startClause (s : State) (q w : Nat) : State :=
  let h := (s.warp w).issuePc
  match s.fetchClause w h with
  | (s, .error e) =>
    let s := s.onWarp w fun W =>
      { W.addFault W.seq h 16 false { cause := e.cause, sub := e.sub, addr := e.addr, lanes := W.takers h } with
        seq := W.seq + 1, resume := none, phase := .entering }
    if e.eaten then s.consume (s.dispatchOfWarp w) (dieOfCore (coreOf w)) 1 e.addr else s
  | (s, .ok (hd, ws)) =>
    let W := s.warp w
    let first := match W.resume with
      | some (a, i) => if a = h then i else 0
      | none => 0
    let c : Clause :=
      { warp := w, h := h, header := hd, words := ws, index := first, lanes := W.takers h, targets := [], signed := [],
        stalled := false, ending := if hd.count.val < first then some .done else none, v := W.v, k := W.k }
    let s := s.onWarp w fun W =>
      { W with
        phase := .issuing, yhint := hd.yhint, parks := hd.park
        resume := if W.resume.all fun (a, _) => a = h then none else W.resume }
    { s with comp := { s.comp with clauses := tput s.comp.clauses q c } }

/-- R206: a quarter with no running clause picks a ready warp; the others are passed over, and a yield counts no longer
(R88; log entry 21). -/
def execArbitrate (q : Nat) (s : State) : Result :=
  if (tfind s.comp.clauses q).isSome || !s.coreUp (coreOfQuarter q) ||
      (s.die (dieOfCore (coreOfQuarter q))).clock.stepping.isSome then .next s
  else
    let l := s.readyWarps q
    match s.pick l with
    | none => .next s
    | some w =>
      let s := l.foldl (fun s v => s.onWarp v fun V => { V with passed := if v = w then 0 else V.passed + 1 }) s
      let s := ((tkeys s.comp.warps).filter fun v => quarterOf v = q).foldl (fun s v =>
        s.onWarp v fun V => { V with yielded := false }) s
      .next ((s.progress (coreOfQuarter q) (s.ctxOfWarp w)).startClause q w)

/-! ### The clause boundary (R83) -/

/-- A warp whose arrival outlived a fault or a save waits for its phase again, if the phase is not complete (R209). -/
def State.rejoinBar (s : State) (w : Nat) : State :=
  match (s.warp w).rejoin with
  | none => s
  | some (cluster, id, n) =>
    let s := s.onWarp w fun W => { W with rejoin := none }
    if (s.barPhase w cluster id).complete ≤ n ∧ (s.warp w).phase = Phase.between then
      s.onWarp w fun W => { W with phase := .barrier cluster id n }
    else s.acquire w (if cluster then .cls else .grp)

/-- What follows a return from the handler (R209): the ldw instructions that a deadlock fault withdrew are issued again, and a warp whose
arrival stands waits for its phase. -/
def State.handlerLeft (s : State) (w : Nat) : State :=
  match (s.warp w).phase with
  | .between =>
    ((s.onWarp w fun W => { W with withdrawn := W.withdrawn ++ W.onReturn, onReturn := [] }).reissue w).rejoinBar w
  | .parked => s.onWarp w fun W => { W with withdrawn := W.withdrawn ++ W.onReturn, onReturn := [] }
  | .ended => s.onWarp w fun W => { W with onReturn := [] }
  | _ => s

/-- A warp whose clause was cut short inside goes on there (R60, R313), whatever other threads wait for. -/
def Warp.resumeInside (W : Warp) : Warp :=
  match W.resume with
  | some (a, _) =>
    if W.phase = Phase.between && (lanesOf W.running).any (fun l => W.pcOf l = a) then { W with issuePc := a } else W
  | none => W

/-- CLAUSE_BOUNDARY (R83): pending writes are applied, then the clause's end takes effect. -/
def execClauseBoundary (q : Nat) (s : State) : Result :=
  match tfind s.comp.clauses q with
  | none => .next s
  | some c =>
    match c.ending with
    | none => .next s
    | some e =>
      let w := c.warp
      let preq := (s.slot (s.ctxOfWarp w)).preq
      let s := { s with comp := { s.comp with clauses := tdel s.comp.clauses q } }
      let s := s.onWarp w fun W =>
        let W := match e with
          | .preempt d lanes => if preq then { W with resumed := some (d, lanes) }
            else W.deliver (resultWrites d false lanes fun _ => some 0)
          | _ => W
        { W.applyAll with phase := .between }
      let steps (W : Warp) : Warp := W.boundarySteps c.lanes c.next c.targets c.signed
      let s := match e with
        | .wait x => s.onWarp w fun W => { W with phase := .waiting x }
        | .barrier x => s.onWarp w fun W => { W with phase := .arriving x }
        | .fault | .withdrawn => s.onWarp w fun W => (W.judgeSigns c.signed).settle.resumeInside
        | .tret => s.onWarp w Warp.trapReturn
        | .yield => s.onWarp w fun W => { steps W with yielded := true }
        | _ => s.onWarp w steps
      let s := (s.afterBoundary w).tryArrive w
      let s := match e with
        | .tret => s.handlerLeft w
        | _ => s
      .next ((s.progress (coreOfQuarter q) (s.ctxOfWarp w)).wake w)

/-! ### The end of a wait (R90, R92) -/

/-- Ends a wait: D is written, with bit 4 when its time has passed, then the boundary takes its steps. An error in a barrier that it
judges is consumed (R325). -/
def State.endWait (s : State) (w : Nat) (x : Waiting) : State :=
  let ps := s.waitResult w x (s.expired x)
  let s := (s.waitConsumes w x).onWarp w fun W =>
    (ps.foldl Warp.applyPending { W with phase := .between }).boundarySteps x.took x.next [] x.signed
  ((s.afterBoundary w).progress (coreOf w) (s.ctxOfWarp w)).wake w

/-- WAIT_MET: the wait's conditions hold (R92), or judging them consumes an error (R325). -/
def execWaitMet (w : Nat) (s : State) : Result :=
  match (s.warp w).phase with
  | .waiting x => .next (if resident w && (s.waitMet w x || (s.waitPoison w x).isSome) then s.endWait w x else s)
  | _ => .next s

/-- WAIT_TIMEOUT: TMO rt have passed since issue (R92). -/
def execWaitTimeout (w : Nat) (s : State) : Result :=
  match (s.warp w).phase with
  | .waiting x => .next (if resident w && s.expired x then s.endWait w x else s)
  | _ => .next s

/-- WAIT_MEMORY_POLL: the memory words are read again and judged (R92). -/
def execWaitMemoryPoll (w : Nat) (s : State) : Result :=
  match (s.warp w).phase with
  | .waiting x =>
    if !resident w then .next s
    else
      let (s, conds) := s.readConds w x.clause x.index (oneLane ((lowest x.lanes).getD 0)) x.conds
      let x := { x with conds := conds }
      let s := s.onWarp w fun W => { W with phase := .waiting x }
      .next (if s.waitMet w x then s.endWait w x else s)
  | _ => .next s

/-! ### The end of warps and groups (R87) -/

/-- The sync engine writes a lock word (R149): 0 while free, 1 + the queued requests while held. -/
def State.writeLock (s : State) (pa : Nat) (l : Lock) : State :=
  let v := if l.holder.isSome then 1 + l.queue.length else 0
  let s := { s with eng := { s.eng with locks := tput s.eng.locks pa l } }
  s.applyWrite l.dispatch l.world ((toBytes 8 v).zipIdx.map fun (b, i) => (pa + i, b))

/-- Removes a warp's lock requests, with its syn count (R151, R209): a request that is queued or on its way, and its fences. An
unlock on its way still frees its lock and is counted no longer. -/
def State.dropRequests (s : State) (w : Nat) : State :=
  let s := s.eng.locks.foldl (fun s (a, l) =>
    if l.queue.any fun e => e.1 = w then s.writeLock a { l with queue := l.queue.filter fun e => e.1 ≠ w } else s) s
  s.onWarp w fun W =>
    { W with
      ops := (W.ops.filter fun o => !(o.kind = OpKind.lock || o.kind = OpKind.fence)).map fun o =>
        if o.kind = OpKind.unlock then { o with cls := none } else o }

/-- L1SZ_COPY (R16): with no group resident, the requested level-1 size comes into force. A smaller region keeps no more lines
than it holds (R14), and no more of home code 2 than half of them (R213). -/
def State.copySize (s : State) (core : Nat) : State :=
  if s.comp.groups.any fun (g, _) => coreOfGroup g = core then s
  else
    s.onCore core fun c =>
      { c with
        l1sz := c.pl1sz
        level1 := if c.l1sz.toNat ≤ c.pl1sz.toNat then c.level1 else (c.level1.filter fun (_, l) => !l.pinned).take (c.pl1sz.toNat * 512) }

/-- A transfer whose barrier ends with its group arrives nowhere: its charge is dropped (R245). -/
def Transfer.loseBar (g : Nat) (t : Transfer) : Transfer :=
  if t.barGroup = g then { t with bar := none, barGroup := t.group, charged := true } else t

/-- The accumulator banks that queued discards and zeroings of a group clear (R160, R162, R169) are cleared when the group ends with them
still queued. -/
def Core.settleDrops (c : Core) (g : Nat) : Core :=
  c.queue.foldl (fun c q =>
    if groupOf q.warp = g then
      match q.op with
      | .drop banks | .zero banks => c.zeroBanks banks
      | _ => c
    else c) c

/-- Frees what a group holds on its core (R87, R160, R197, R242, R245): its banks, queue entries, windows, charges held,
warps, and the group itself. -/
def State.freeGroup (s : State) (g : Nat) : State :=
  let core := coreOfGroup g
  let gone := tkeys (s.comp.transfers.filter fun (_, t) => t.group = g || t.barGroup = g)
  let s := s.onCore core fun c =>
    let mine := c.banks.filter fun (_, b) => b.owner = g
    { (c.settleDrops g).zeroBanks (BitVec.ofNat 32 ((tkeys mine).foldl (fun n b => n + 2 ^ b) 0)) with
      banks := c.banks.filter fun (_, b) => b.owner ≠ g
      queue := c.queue.filter fun q => groupOf q.warp ≠ g
      held := c.held.filter fun h => !gone.contains h.transfer
      ldws := c.ldws.filter fun (w, _) => groupOf w ≠ g }
  let transfers : Table Transfer := (s.comp.transfers.filter fun (_, t) => t.group ≠ g).map fun (n, t) => (n, t.loseBar g)
  let s :=
    { s with
      comp :=
        { s.comp with
          groups := tdel s.comp.groups g
          warps := s.comp.warps.filter fun (w, _) => groupOf w ≠ g
          clauses := s.comp.clauses.filter fun (_, c) => groupOf c.warp ≠ g
          transfers := transfers } }
  s.copySize core

/-- GROUP_END (R87): a group whose warps have all ended frees its resources. Groups of a cambium dispatch end with it
(R249). -/
def State.endGroup (s : State) (g : Nat) : State :=
  match s.group? g with
  | none => s
  | some x =>
    let cambial := match s.dispatch? x.dispatch with
      | some d => bitOf d.header.toNat 64
      | none => false
    let ended := (s.comp.warps.filter fun (w, _) => groupOf w = g).all fun (_, W) => W.phase = .gone
    if ended && !cambial then
      (s.freeGroup g).onDispatch x.dispatch fun d => { d with live := d.live - 1 }
    else s

/-! ### The end of a cambium dispatch (R194, R195, R249) -/

/-- Bits of a dispatch record (R296). -/
def recBits (r : BitVec 2048) (hi lo : Nat) : Nat := bits r.toNat hi lo

/-- A die, chip or module level of a dispatch: its extent and how a die identifier names the domain (R194). -/
def levels (r : BitVec 2048) : List (Nat × Nat) :=
  [(recBits r 335 320, 32), (recBits r 319 304, 2), (recBits r 303 288, 1)]

/-- NGRP (R194). -/
def recGroups (r : BitVec 2048) : Nat := recBits r 271 256
/-- NCLS (R194). -/
def recClusters (r : BitVec 2048) : Nat := recBits r 287 272

/-- Groups of a dispatch: NGRP times the nonzero extents (R195). -/
def totalGroups (r : BitVec 2048) : Nat :=
  recGroups r * max 1 (recClusters r) * ((levels r).map fun l => max 1 l.1).foldl (· * ·) 1

/-- A slot of a dispatch is sweeping. -/
def State.sweeping (s : State) (d : Nat) : Bool :=
  s.eng.cambiums.any fun (_, c) => c.slots.any fun (_, x) => x.dispatch = d && x.sweep.isSome

/-- Saved groups that have ended leave the save area. -/
def State.pruneSaves (s : State) : State :=
  { s with ctl := { s.ctl with saves := s.ctl.saves.map fun (n, l) => (n, l.filter fun g => (s.group? g.group).isSome) } }

/-- Discards the cambium state of a dispatch (R262). -/
def State.dropCambium (s : State) (d : Nat) : State :=
  { s with
    eng :=
      { s.eng with
        cambiums := s.eng.cambiums.map fun (n, c) =>
          (n, { front := c.front.filter fun m => m.dispatch ≠ d, ends := c.ends.filter fun e => e.dispatch ≠ d,
                slots := c.slots.filter fun (_, x) => x.dispatch ≠ d }) } }

/-- The groups of a cambium dispatch end together once its start warp has ended, no slot sweeps, and no bud warp remains; what its engines
hold of it goes with them (R249, R262). -/
def State.endCambium (s : State) (d : Nat) : State :=
  match s.dispatch? d with
  | none => s
  | some x =>
    if x.phase = .accepted && bitOf x.header.toNat 64 && x.startEnded && !s.sweeping d &&
        (s.warpsOf d).all fun (_, W) => W.phase = .gone then
      let s := (((s.groupsOf d).foldl (fun s (g, _) => s.freeGroup g) s).pruneSaves).dropCambium d
      s.onDispatch d fun y => { y with live := 0, nextRank := totalGroups y.record }
    else s

/-- WARP_END (R87): a warp whose threads have exited ends once its ld, st, mma and syn counters are zero. A bud warp's
byields and exits have been taken by then (R259), and its slot becomes empty. -/
def execWarpEnd (w : Nat) (s : State) : Result :=
  let W := s.warp w
  let core := coreOf w
  let taken := !((s.cambium (siteOf core)).ends.any fun e => e.warp = w)
  if resident w ∧ W.phase = .ended ∧ [0, 1, 3, 5].all (fun c => W.counter c = 0) ∧ taken then
    let s := s.onCore core fun c => { c with banks := c.banks.map fun (b, k) =>
      (b, if k.owner = groupOf w then Bank.leave w k else k) }
    let bud := !W.buds.isEmpty
    let start := match s.group? (groupOf w) with
      | some g => g.rank = 0 && w % 64 = 0
      | none => false
    let s := if bud then { s with comp := { s.comp with warps := tdel s.comp.warps w } }
      else s.onWarp w fun W => { W with phase := .gone }
    let s := if start && !bud then s.onDispatch (s.dispatchOfWarp w) fun d => { d with startEnded := true } else s
    let s := (s.checkBars w).progress core (s.ctxOfWarp w)
    let d := s.dispatchOfWarp w
    .next ((s.endGroup (groupOf w)).endCambium d)
  else .next s

/-! ### The deadlock watchdog (R208 to R210) -/

/-- The ldw instructions of a warp that wait. -/
def Warp.waitingLdws (W : Warp) : List Op :=
  W.ops.filter fun o =>
    match o.kind with
    | .windowLoad _ => !o.landed && !o.done
    | _ => false

/-- Withdraws the waiting ldw instructions of a warp: they consume nothing and their counts return (R140), which is progress (R208). -/
def State.withdrawLdws (s : State) (w : Nat) : State :=
  let ops := (s.warp w).waitingLdws
  if ops.isEmpty then s
  else
    let s := s.onWarp w fun W =>
      { W with withdrawn := W.withdrawn ++ ops, ops := countDown [] (W.ops.filter fun o => !ops.contains o) }
    let s := s.onCore (coreOf w) fun c => { c with ldws := c.ldws.filter fun (v, n) => !(v = w && ops.any fun o => o.seq = n) }
    s.progress (coreOf w) (s.ctxOfWarp w)

/-- A deadlock fault withdraws the waiting ldw instructions of a warp until its handler returns (R209). -/
def State.setLdwsAside (s : State) (w : Nat) : State :=
  (s.withdrawLdws w).onWarp w fun W => { W with onReturn := W.onReturn ++ W.withdrawn, withdrawn := [] }

/-- The running clause of a warp, with its quarter. -/
def State.clauseOf (s : State) (w : Nat) : Option (Nat × Clause) := s.comp.clauses.find? fun (_, c) => c.warp = w

/-- A warp waits on an internal condition (R208), with the sub-cause of R209 that says which. A bud warp that has ended with its counters
at zero waits for its engine, not for a counter. -/
def State.stuck (s : State) (w : Nat) : Option Nat :=
  let W := s.warp w
  match W.phase with
  | .parked => some 1
  | .waiting x => if x.conds.any fun c => bitOf c.entry.toNat 61 then none else some 2
  | .arriving _ | .barrier .. => some 3
  | .ended => if [0, 1, 3, 5].all fun c => W.counter c = 0 then none else some 7
  | .issuing =>
    match s.clauseOf w with
    | some (_, c) => if c.stalled then some 5 else none
    | none => none
  | .between =>
    if (W.withdrawn.isEmpty && s.nextEligible w) || W.running = 0 then none
    else if W.waitingLdws.isEmpty then some 6 else some 4
  | .entering | .gone => none

/-- TCODE of a deadlock fault: the lowest class and the lowest slot that keep the warp (R209). -/
def deadlockCode (classes slots : List Nat) : Nat :=
  (match classes.head? with
    | some c => 0x80 + c
    | none => 0) +
  (match slots.head? with
    | some n => (0x80 + n) * 256
    | none => 0)

/-- The counter class that an instruction raises, for a stall at issue (R25). -/
def classOfInstr : Instr → Option Nat
  | .ld .. | .ldb .. | .ldw .. | .fxrd .. | .bstate .. | .atadd .. | .atmin .. | .atmax .. | .atand .. | .ator ..
  | .atxor .. | .atexch .. | .atcas .. => some 0
  | .st .. | .stb .. | .redadd .. | .redmin .. | .redmax .. | .redand .. | .redor .. | .redxor .. | .fxadd .. | .nins ..
  | .mcst .. => some 1
  | .mma .. | .mmag .. | .mmas .. | .mmx .. | .amv .. | .tcon8 .. => some 3
  | .cpost .. | .ctok .. | .abort .. => some 4
  | .lock .. | .unlock .. | .fence .. => some 5
  | .rsub .. | .abortRoot .. => some 6
  | .cdecl .. | .sweep .. | .bwakeNow .. | .bwakeNext .. => some 7
  | _ => none

/-- The slot that a stalled atomic names; with none named, every slot is busy and the lowest is 0. -/
def slotOfInstr : Instr → Option Nat
  | .atadd _ n | .atmin _ n | .atmax _ n | .atand _ n | .ator _ n | .atxor _ n | .atexch _ n | .atcas _ n _ =>
    some ((n.map Fin.val).getD 0)
  | _ => none

/-- What keeps a stalled instruction: classes and slots (R209). -/
def State.stallKeeps (s : State) (c : Clause) : List Nat × List Nat :=
  let W := s.warp c.warp
  match decodeInstr (nth 0 c.words c.index) with
  | .error _ => ([], [])
  | .ok i =>
    let ks := (classOfInstr i).toList ++ (match i with
      | .ldw .. => [2]
      | _ => [])
    (ks.filter fun k => W.saturated k || (k = 2 && !W.saturated 0),
      (slotOfInstr i).toList.filter fun n => W.busy n || !(List.range 8).any fun m => !W.busy m)

/-- What keeps a warp whose next clause is not eligible: classes and slots. -/
def State.headerKeeps (s : State) (w : Nat) : List Nat × List Nat :=
  let W := s.warp w
  match (s.fetchClause w W.issuePc).2 with
  | .error _ => ([], [])
  | .ok (h, _) =>
    ((List.range 8).filter fun c =>
        (h.w0cls.val = c && h.w0thr < W.counter c) || (h.w1cls.val = c && h.w1thr < W.counter c),
      (List.range 8).filter fun n => h.sbmask.toNat.testBit n && W.busy n)

/-- Gives a warp a precise deadlock fault at a resume point (R209). -/
def State.deadlockFault (s : State) (w h index sub code : Nat) : State :=
  s.onWarp w fun W =>
    { W.addFault W.seq h index false { cause := 0x13, sub := sub, lanes := W.unexited, code := code } with
      seq := W.seq + 1 }

/-- The deadlock fault of one warp by its state (R209), and the clause its record names. -/
def State.deadlock (s : State) (w sub : Nat) : State × Nat :=
  let W := s.warp w
  let busy := (List.range 8).filter W.busy
  let enter (s : State) : State := (s.onWarp w fun W => { W with phase := .entering }).setLdwsAside w
  match W.phase with
  | .issuing =>
    match s.clauseOf w with
    | none => (s, 0)
    | some (q, c) =>
      let (ks, ns) := s.stallKeeps c
      let s := (s.deadlockFault w c.h c.index sub (deadlockCode ks ns)).onWarp w fun W =>
        { W with resume := some (c.h, c.index) }
      ((s.onClause q fun c => { c with ending := some .withdrawn, stalled := false }).setLdwsAside w, c.h)
  | .waiting x =>
    let s := (s.deadlockFault w x.clause x.index sub 0).onWarp w fun W =>
      { W with resume := some (x.clause, x.index) }.judgeSigns x.signed
    (enter s, x.clause)
  | .arriving x =>
    let s := (s.deadlockFault w x.clause x.index sub 0).onWarp w fun W =>
      { W with resume := some (x.clause, x.index) }.judgeSigns x.signed
    (enter s, x.clause)
  | .barrier cluster id n =>
    let s := (s.deadlockFault w W.issuePc 16 sub 0).onWarp w fun W => { W with rejoin := some (cluster, id, n) }
    (enter s, W.issuePc)
  | .parked =>
    (enter (s.deadlockFault w W.issuePc 16 sub (deadlockCode ([0, 3].filter fun c => W.counter c ≠ 0) busy)), W.issuePc)
  | .ended =>
    let s := if W.byFault then s
      else s.onDispatch (s.dispatchOfWarp w) fun d =>
        { d with nfault := min 0xFFFF (d.nfault + 1), faddr := if d.nfault = 0 then W.issuePc else d.faddr }
    ((s.onWarp w fun W => { W with byFault := true }).dropRequests w, W.issuePc)
  | _ =>
    let (ks, ns) := s.headerKeeps w
    let code := deadlockCode (if sub = 4 then 0 :: ks else ks) ns
    (enter (s.deadlockFault w W.issuePc 16 sub code), W.issuePc)

/-- WATCHDOG_FIRE (R208, R209): every resident warp of a context on a core has waited on internal conditions for 2^20
core clk without progress. -/
def execWatchdogFire (core slot : Nat) (s : State) : Result :=
  let ws := (s.warpsOn core slot).filter fun (_, W) => W.phase ≠ .gone
  let now := s.clk (dieOfCore core)
  let since := tget now (s.core core).watch slot
  let stuck := ws.map fun (w, _) => (w, s.stuck w)
  if ws ≠ [] ∧ stuck.all (fun e => e.2.isSome) ∧ since + 2 ^ 20 ≤ now ∧ (s.die (dieOfCore core)).pause.isNone then
    let (s, hs) := stuck.foldl (fun (s, hs) (w, sub) =>
      let (s, h) := s.deadlock w (sub.getD 0)
      (s, hs ++ [h])) (s, ([] : List Nat))
    let lowest := hs.foldl min (hs.headD 0)
    let s := s.ring (dieOfCore core) 0x10 (s.ident slot) [core, ws.length, lowest]
    .next (s.progress core slot)
  else .next s

/-! ### Trap entry (R311) -/

/-- TRAP_ENTRY: a warp with a known fault enters its handler once the awaited operations are done. -/
def execTrapEntry (w : Nat) (s : State) : Result :=
  if resident w ∧ (s.warp w).phase = .entering then
    if s.dying w then .next (((s.onWarp w Warp.exitAll).progress (coreOf w) (s.ctxOfWarp w)).wake w)
    else if s.entryMet w then
      .next (((s.takeTrap w).progress (coreOf w) (s.ctxOfWarp w)).wake w)
    else .next s
  else .next s

end Sys2Proof.Machine
end

