-- ==== Sys2Proof/Machine/MemEvents.lean ====
section
/-! DEFINITION. How accesses are performed: loads, writes, atomics, locks, fences, ldw, copies and pushes as they reach
their homes, R64, R131 to R152, R181, R215 to R228, R232, R233, R242 to R248, R325. -/

namespace Sys2Proof.Machine

/-! ### Order within a warp -/

/-- An access must wait for an older one of the same thread that shares a location with it, and before a write for every earlier
read of the thread (R219). A read waits for an older write of its warp to its bytes, whatever lane makes it (R216). -/
def State.threadBusy (s : State) (w seq : Nat) (a : Access) (write : Bool) : Bool :=
  (s.warp w).ops.any fun o =>
    o.seq < seq && !o.done && o.kind.isAccess && o.acc.any fun b =>
      !b.done &&
        ((write && b.lane = a.lane && o.kind.isRead) ||
          ((b.lane = a.lane || (!write && o.kind.isWrite)) && s.sameBytes w a.loc a.size b.loc b.size))

/-- An access to a core store waits for an older setempty of its warp (R141). -/
def Warp.emptyBusy (W : Warp) (seq : Nat) (a : Access) : Bool :=
  match a.loc with
  | .store .. => W.ops.any fun o => o.seq < seq && o.kind = .setempty
  | .global _ => false

/-- The routes between a core and the home of an access of a warp hold it: a reroute, or a link that retrains (R331, R332). -/
def State.reroutedFrom (s : State) (core w : Nat) (a : Access) : Bool :=
  match a.loc with
  | .store .. => false
  | .global va =>
    match (s.coreTranslate core (s.ctxOfWarp w) va .read).2 with
    | .error _ => false
    | .ok p => s.tripWaits (siteOf core % 32) (dieOfCore core) (homeDie p.pa)

/-- The routes between a warp and the home of an access hold it. -/
def State.rerouted (s : State) (w : Nat) (a : Access) : Bool := s.reroutedFrom (coreOf w) w a

/-- An access of an operation may be performed now: nothing older of its thread or warp holds it back, no reroute holds it, a
release that it carries is performed, and no record fence holds back a multicast store (R138, R141, R152, R181, R219, R332). -/
def State.mayPerform (s : State) (w : Nat) (o : Op) (a : Access) : Bool :=
  let W := s.warp w
  !a.done && !W.heldBack o.seq && !s.threadBusy w o.seq a o.kind.isWrite && !W.emptyBusy o.seq a &&
    !s.rerouted w a && !(o.kind = .multicast && s.recordFenced w o.seq) &&
    (match o.order with
      | .rel | .ar => s.released w o.seq o.scope
      | _ => true)

/-- Marks the accesses of an operation that satisfy a condition as performed. -/
def State.markDone (s : State) (w seq : Nat) (p : Access → Bool) : State :=
  s.onWarp w fun W => W.onOp seq fun o => { o with acc := o.acc.map fun a => if p a then { a with done := true } else a }

/-- Two accesses of an operation are performed as one: the lanes of a store that name a byte in common (R133), the lanes of a
16-byte granule of a block (R137), all bytes of an mcst at one destination (R228). -/
def State.together (s : State) (w : Nat) (o : Op) (a b : Access) : Bool :=
  a.dest = b.dest &&
    match o.kind with
    | .multicast => true
    | .blockLoad _ | .blockStore => a.loc.address / 16 = b.loc.address / 16
    | .store => s.sameBytes w a.loc a.size b.loc b.size
    | _ => a.lane = b.lane

/-- The accesses of an operation that an event for some lanes performs, in increasing lane order: each is performed together with one
of those lanes, and everything that is performed together with it may be performed now. -/
def State.readyUnits (s : State) (w : Nat) (o : Op) (lanes : LaneSet) (p : Access → Bool) : List Access :=
  o.acc.filter fun a =>
    !a.done && p a && (o.acc.any fun b => inSet lanes b.lane && s.together w o a b) &&
      o.acc.all fun b => !s.together w o a b || b.done || s.mayPerform w o b

/-- Records a lane's result and the conditions that it met. -/
def State.setResult (s : State) (w seq lane value : Nat) (flags : Word := 0) : State :=
  s.onWarp w fun W => W.onOp seq fun o => { o with results := tput o.results lane value, flags := o.flags ||| flags }

/-- Poison for a destination, single or pair (R311). -/
def poisonPair : Nat := poisonWord * 2 ^ 32 + poisonWord

/-- The destination of an operation is a pair. -/
def Op.wide (o : Op) : Bool :=
  match o.kind with
  | .bud => false
  | _ => o.ty.bits = 64

/-- The pending writes of an operation's results. -/
def Op.writes (o : Op) : List Pending := resultWrites o.dst o.wide o.lanes fun l => tfind o.results l

/-- A read's value of an element type: extended to 32 bits for narrow types (R134). -/
def extendTo (ty : Ty) (v : Nat) : Nat :=
  match ty with
  | .s8 => wrap 32 (toSigned 8 v)
  | .s16 => wrap 32 (toSigned 16 v)
  | _ => v

/-- A deferred memory fault of one lane's access (R132, R307). -/
def State.accessError (s : State) (w : Nat) (o : Op) (a : Access) (sub : Nat) : State :=
  s.deferOp w o { cause := 0x20, sub := sub, addr := a.loc.address, lanes := oneLane a.lane }

/-! ### Loads (R64, R134 to R138, R147) -/

/-- Lines that a core's level-1 region holds (R14, R16). -/
def State.level1Room (s : State) (core : Nat) : Nat := (s.core core).l1sz.toNat * 512

/-- Fills a line of a core's level-1 region from its home (R135, R213); a full region drops its lowest line first. Lines
of home code 2 are kept up to half the region, and a line that is kept stays as it is. -/
def State.fillLine (s : State) (core world pa home : Nat) : State :=
  let (b, bad) := s.hbmRead world (pa / 128 * 128) 128
  if bad then s
  else
    s.onCore core fun c =>
      let room := c.l1sz.toNat * 512
      if (tfind c.level1 (pa / 128)).any Line.pinned then c
      else
        let t := tdel c.level1 (pa / 128)
        let pins := (t.filter fun (_, l) => l.pinned).length
        let t := if t.length < room then t
          else match t.find? fun (_, l) => !l.pinned with
            | some (k, _) => tdel t k
            | none => t
        if room ≤ t.length then { c with level1 := t }
        else { c with level1 := tput t (pa / 128) { bytes := b, world := world, pinned := home = 2 && 2 * pins < room, bad := [] } }

/-- What a read finds: its bytes, whether some of them are poisoned, and where it found them. -/
structure Found where
  bytes : List Byte
  bad   : Bool
  place : Nat
deriving DecidableEq, Repr

/-- Reads a global address for a load (R135): from the level-1 region where `level1` asks for it, the load is plain and
the line is there; fresh from the home otherwise, which fills the region for a plain load. A granule of a line that an error has
marked reads as poison (R322), and a line that was filled under another world's key reads scrambled (R344). -/
def State.loadGlobal (s : State) (w : Nat) (o : Op) (fresh level1 : Bool) (va n : Nat) : State × Except Nat Found :=
  let core := coreOf w
  let slot := s.ctxOfWarp w
  let world := (s.slot slot).world
  match s.coreTranslate core slot va .read with
  | (s, .error c) => (s, .error c)
  | (s, .ok p) =>
    let plain := !fresh && o.order = .plain && p.home ≠ 3
    match plain && level1 && !s.badLine world p.pa, tfind (s.core core).level1 (p.pa / 128) with
    | true, some l =>
      let seen := l.bytes.zipIdx.map fun (b, i) => reseen l.world world core (2 ^ 20 + p.pa / 128 * 128 + i) b
      (s, .ok { bytes := (seen.drop (p.pa % 128)).take n, bad := l.bad.any fun g => overlaps (16 * g) 16 (p.pa % 128) n, place := p.pa })
    | _, _ =>
      let s := s.dropLine core p.pa
      let (s, b, bad) := s.homeRead (siteOf core) world p.pa n
      (if plain then s.fillLine core world p.pa p.home else s, .ok { bytes := b, bad := bad, place := p.pa })

/-- Reads the bytes of a lane's access. -/
def State.loadAccess (s : State) (w : Nat) (o : Op) (fresh level1 : Bool) (a : Access) : State × Except Nat Found :=
  match a.loc with
  | .store c off =>
    let (b, bad) := s.coreRead c off a.size
    (s, .ok { bytes := b, bad := bad, place := off })
  | .global va => s.loadGlobal w o fresh level1 va a.size

/-- Performs the read of one lane: its value, or poison with a fault or a consumed error. -/
def State.performLoad (s : State) (w : Nat) (o : Op) (fresh level1 : Bool) (value : List Byte → Nat × Flags) (a : Access) :
    State :=
  let seq := o.seq
  match s.loadAccess w o fresh level1 a with
  | (s, .error c) =>
    ((s.accessError w o a c).setResult w seq a.lane poisonPair).markDone w seq fun b => b.lane = a.lane
  | (s, .ok r) =>
    let s := if r.bad then (s.warpConsumes w 0 r.place).setResult w seq a.lane poisonPair
      else s.setResult w seq a.lane (value r.bytes).1 (value r.bytes).2.word
    s.markDone w seq fun b => b.lane = a.lane

/-- Performs the reads of some lanes, with those read as one with them (R137). -/
def State.performLoads (s : State) (w : Nat) (o : Op) (lanes : LaneSet) (fresh level1 : Bool) (value : List Byte → Nat × Flags) :
    State :=
  (s.readyUnits w o lanes fun _ => true).foldl (fun s a => s.performLoad w o fresh level1 value a) s

/-- Writes an operation's results and the conditions that their conversions met once every lane has its value: into the pending
writes, or at once between clauses (R27, R64, R147); an acquire that the load carries follows (R138). -/
def State.deliverOp (s : State) (w seq : Nat) : State :=
  match (s.warp w).op? seq with
  | none => s
  | some o =>
    if o.acc.all fun a => a.done then
      let s := s.onWarp w fun W =>
        let W := W.deliver o.writes
        match W.phase with
        | .issuing => { W with pendFlags := W.pendFlags ||| o.flags }
        | _ => { W with fpst := W.fpst ||| o.flags }
      let s := match o.order with
        | .acq | .ar => s.acquire w o.scope
        | _ => s
      (s.finishOp w seq).wake w
    else s.wake w

/-- One lane of a bstate is answered by the element's engine (R185): an index beyond the count, or a slot whose declaration was
dropped, gives 0xFFFFFFFF with a deferred fault. -/
def State.answerBud (s : State) (w seq : Nat) (o : Op) (a : Access) : State :=
  let dispatch := s.dispatchOfWarp w
  let own := siteOf (coreOf w)
  let i := a.cmp
  let finish (s : State) (v : Nat) : State := (s.setResult w seq a.lane v).markDone w seq fun b => b.lane = a.lane
  let fault (s : State) : State := s.camFault own dispatch w seq o.clause o.index
  match s.camSlot? own dispatch a.dest with
  | none => finish (fault s) 0xFFFFFFFF
  | some c =>
    let d := c.desc.toNat
    if camCount d ≤ i then finish (fault s) 0xFFFFFFFF
    else
      let site := s.camOwner dispatch (camCount d) i
      match s.camSlot? site dispatch a.dest with
      | none => finish (fault s) 0xFFFFFFFF
      | some x =>
        match s.bstateValue site dispatch a.dest i with
        | some v => finish s v
        | none =>
          let bud := budAddr x.desc.toNat i
          let map := mapDouble (camMap x.desc.toNat) i
          let s := s.camMark site x.ctx [(bud, 16, false), (map, 8, false)]
          match (s.camBad site x.ctx bud).orElse fun _ => s.camBad site x.ctx map with
          | some pa => finish (s.warpConsumes w 0 pa) poisonPair
          | none => finish (fault s) poisonPair

/-- A lane of a bstate can be answered: the warp's earlier commands are taken and its record fences complete, and the slot's
declaration is settled (R175, R181, R182). -/
def State.budReady (s : State) (w seq : Nat) (a : Access) : Bool :=
  let d := s.dispatchOfWarp w
  !a.done && resident w && !s.recordFenced w seq && s.camFirst d w seq && s.slotSettled d a.dest w seq

/-- LONG_LATENCY_RESULT (R64): lanes of a load, block load, exact-sum read or bstate get their values. -/
def execLongLatencyResult (w seq : Nat) (lanes : LaneSet) (level1 : Bool) (s : State) : Result :=
  match (s.warp w).op? seq with
  | none => .next s
  | some o =>
    if o.done then .next s
    else
      match o.kind with
      | .load fresh | .blockLoad fresh =>
        .next ((s.performLoads w o lanes fresh level1 fun b => (extendTo o.ty (ofBytes b), {})).deliverOp w seq)
      | .sumRead rnd => .next ((s.performLoads w o lanes true false fun b => cellRead o.ty rnd (ofBytes b)).deliverOp w seq)
      | .bud =>
        .next (((o.acc.filter fun a => inSet lanes a.lane &&
          s.budReady w seq a).foldl (fun s a => s.answerBud w seq o a) s).deliverOp w seq)
      | _ => .next s

/-! ### Stores and multicast stores (R133 to R138, R180, R216) -/

/-- An access falls on register areas or uniform blocks (R28). -/
def State.onWindowBytes (s : State) (a : Access) : Bool :=
  match a.loc with
  | .store c off => s.onRegisters c off a.size
  | .global _ => false

/-- The bytes that accesses write at one core's store, in lane order: of two lanes that name a byte the higher supplies it (R133). -/
def storeBytes (core : Nat) (acc : List Access) : List (Nat × Byte) :=
  acc.flatMap fun a =>
    match a.loc with
    | .store c off => if c = core then a.data.zipIdx.map fun (b, i) => (off + i, b) else []
    | .global _ => []

/-- The cores whose stores accesses name. -/
def storeCores (acc : List Access) : List Nat :=
  (acc.filterMap fun a =>
    match a.loc with
    | .store c _ => some c
    | .global _ => none).eraseDups

/-- Translates the global writes of accesses: their bytes by physical address, in lane order. The matching level-1 line is dropped
first (R135); an access that cannot be translated writes nothing and raises its fault. -/
def State.placeWrites (s : State) (w : Nat) (o : Op) : List Access → State × List (Nat × Byte)
  | [] => (s, [])
  | a :: t =>
    match a.loc with
    | .store .. => s.placeWrites w o t
    | .global va =>
      match s.coreTranslate (coreOf w) (s.ctxOfWarp w) va .write with
      | (s, .error c) => (s.accessError w o a c).placeWrites w o t
      | (s, .ok p) =>
        let (s, l) := (s.dropLine (coreOf w) p.pa).placeWrites w o t
        (s, (a.data.zipIdx.map fun (b, i) => (p.pa + i, b)) ++ l)

/-- A write of an operation as it enters a path (R215, R216), for the access that names its address. -/
def State.pathWrite (s : State) (w : Nat) (o : Op) (va : Nat) (bytes : List (Nat × Byte)) (combine : Option Combine) : PathWrite :=
  { warp := w, seq := o.seq, clause := o.clause, index := o.index, lanes := o.lanes, va := va, dispatch := s.dispatchOfWarp w,
    world := (s.slot (s.ctxOfWarp w)).world, after := [], rels := [], cls := false, bytes := bytes, combine := combine }

/-- Enters a write in a path, behind those that are there (R215). -/
def State.addToPath (s : State) (key : Nat) (p : PathWrite) : State :=
  { s with mem := { s.mem with paths := tput s.mem.paths key (tget [] s.mem.paths key ++ [p]) } }

/-- Enters bytes of an operation in a path of its cluster, as one write (R215, R216). -/
def State.enterPath (s : State) (w : Nat) (o : Op) (bytes : List (Nat × Byte)) (key : Nat) : State :=
  let va := ((o.acc.map fun (a : Access) => a.loc.address).head?).getD 0
  s.addToPath key (s.pathWrite w o va (bytes.filter fun e => pathKey (siteOf (coreOf w)) e.1 = key) none)

/-- A release that an access of an operation carries is made with it (R138, R220). -/
def State.releaseOf (s : State) (w : Nat) (o : Op) : State :=
  match o.order with
  | .rel | .ar => s.markRelease w o.seq o.scope
  | _ => s

/-- Performs the writes of accesses: what one event writes at a core store or at a home is one write there. A release that they carry is
made before them. -/
def State.writeAll (s : State) (w : Nat) (o : Op) (acc : List Access) : State :=
  let s := if acc.isEmpty then s else s.releaseOf w o
  let s := (storeCores acc).foldl (fun s c => s.coreWrite c (storeBytes c acc)) s
  let (s, l) := s.placeWrites w o acc
  let s := ((l.map fun e => pathKey (siteOf (coreOf w)) e.1).eraseDups).foldl (fun s k => s.enterPath w o l k) s
  s.markDone w o.seq fun b => acc.any fun a => a.lane = b.lane && a.dest = b.dest

/-- Performs the writes of some lanes of a store at one destination, and completes its count when the last is performed at its
scope (R25, R133). -/
def State.performStores (s : State) (w seq : Nat) (lanes : LaneSet) (dest : Nat) (register : Bool) : State :=
  match (s.warp w).op? seq with
  | none => s
  | some o =>
    match o.kind with
    | .store | .blockStore | .multicast =>
      ((s.writeAll w o (s.readyUnits w o lanes fun a => a.dest = dest && s.onWindowBytes a = register)).retire w seq).wake w
    | _ => s

/-- REGISTER_WINDOW_WRITE_ARRIVE (R136): a register-window store enters the target warp's pending writes. -/
def execRegisterWindowWriteArrive (w seq : Nat) (lanes : LaneSet) (s : State) : Result :=
  .next (s.performStores w seq lanes 0 true)

/-- The oldest write of a path reaches its home, once the route lets it through (R215, R216, R331). -/
def State.pathArrive (s : State) (key : Nat) : State :=
  match tget [] s.mem.paths key with
  | [] => s
  | p :: _ =>
    if s.routeWaits (dieOfSite (key / 32768)) (key / 32 % 1024) then s
    else ((s.applyPath key).retire p.warp p.seq).wake p.warp

/-- A write of an engine program is performed at its home (R192, R216). -/
def State.engineWrite (s : State) (e : EngRef) (i : Nat) : State :=
  match s.prog? e with
  | none => s
  | some p =>
    match p.writes[i]? with
    | none => s
    | some x =>
      if s.rangeWaits (engDie e) p.slot x.va x.bytes.length then s
      else
      let s := s.onProg e fun p => { p with writes := p.writes.eraseIdx i }
      match s.engWriteFault (engDie e) p.slot x.va x.bytes.length with
      | some c => ((s.keepWalks (engDie e) p.slot x.va x.bytes.length .write).progFault e c).tryFinish e
      | none => (s.engWrite (engDie e) p.dispatch p.slot x.va x.bytes).tryFinish e

/-- WRITE_PERFORMED (R216). -/
def execWritePerformed (r : WriteRef) (s : State) : Result :=
  match r with
  | .issued w seq lanes dest => .next (s.performStores w seq lanes dest false)
  | .home key => .next (s.pathArrive key)
  | .engine e i => .next (s.engineWrite e i)

/-! ### Atomics (R143 to R148) -/

/-- Performs one lane of an atomic or reduction at its place (R145). A reduction of global memory enters its path first, like any write
(R216); an atomic that returns has its value only once its home has applied it, so that it is applied there at once. -/
def State.performAtomic (s : State) (w : Nat) (o : Op) (i : Instr) (returns : Bool) (a : Access) : State :=
  let x := ofBytes a.data
  let s := s.releaseOf w o
  let (s, r) : State × Except Nat Found :=
    match a.loc with
    | .store c off =>
      let (s, old, bad) := s.atomicStore c off i o.ty a.size x a.cmp
      (s, .ok { bytes := old, bad := bad, place := off })
    | .global va =>
      let slot := s.ctxOfWarp w
      match s.coreTranslate (coreOf w) slot va .write with
      | (s, .error c) => (s, .error c)
      | (s, .ok p) =>
        let s := s.dropLine (coreOf w) p.pa
        let key := pathKey (siteOf (coreOf w)) p.pa
        if returns then
          let (s, old, bad) := (s.flushPath key).atomicHome (s.dispatchOfWarp w) (s.slot slot).world p.pa i o.ty a.size x a.cmp
          (s, .ok { bytes := old, bad := bad, place := p.pa })
        else
          let c : Combine := { instr := i, ty := o.ty, pa := p.pa, size := a.size, operand := x, cmp := a.cmp }
          (s.addToPath key { s.pathWrite w o va [] (some c) with lanes := oneLane a.lane },
            .ok { bytes := [], bad := false, place := p.pa })
  let (s, v) := match r with
    | .error c => (s.accessError w o a c, poisonPair)
    | .ok f => if f.bad then (s.warpConsumes w 2 f.place, poisonPair) else (s, ofBytes f.bytes)
  let s := if returns then s.setResult w o.seq a.lane v else s
  s.markDone w o.seq fun b => b.lane = a.lane

/-- ATOMIC_PERFORM (R145): the next lane of an atomic, reduction, fxadd or nins, in increasing lane order. -/
def execAtomicPerform (w seq : Nat) (s : State) : Result :=
  match (s.warp w).op? seq with
  | none => .next s
  | some o =>
    match o.acc.find? fun a => !a.done with
    | none => .next s
    | some a =>
      if !s.mayPerform w o a then .next s
      else
        match o.kind with
        | .atomic i =>
          let s := s.performAtomic w o i true a
          let last := (o.acc.filter fun b => !b.done).length = 1
          let s := match o.order with
            | .acq | .ar => if last then s.acquire w o.scope else s
            | _ => s
          .next (s.wake w)
        | .reduce i => .next (((s.performAtomic w o i false a).retire w seq).wake w)
        | _ => .next s

/-- ATOMIC_RETURN (R25, R26, R145): the old values enter the pending writes, and the ld count completes; the slot frees when they
are written (log entry 50). -/
def execAtomicReturn (w seq : Nat) (s : State) : Result :=
  match (s.warp w).op? seq with
  | none => .next s
  | some o =>
    match o.kind with
    | .atomic _ =>
      if !o.landed && !o.done && o.acc.all fun a => a.done then
        .next ((s.finish w fun W =>
          (W.deliver o.writes).onOp seq fun o => { o with landed := true, done := W.phase ≠ .issuing }).wake w)
      else .next s
    | _ => .next s

/-- CREDIT_CHARGE (R233): the transfers held at a barrier are charged while its limit allows. -/
def execCreditCharge (core offset : Nat) (s : State) : Result :=
  .next (s.chargeHeld core offset ((s.core core).held.length)).pushesOn

/-! ### Locks (R149 to R151) -/

/-- The core that a warp's lock requests left from: its own, or the one that its group was saved from (R149). -/
def State.lockCore (s : State) (w : Nat) : Nat :=
  if resident w then coreOf w
  else
    match (s.ctl.saves.flatMap Prod.snd).find? fun v => v.group = groupOf w with
    | some v => coreOfGroup v.left
    | none => coreOf w

/-- The routes between a warp's core and a lock word hold its request (R331, R332). -/
def State.lockWaits (s : State) (w : Nat) (o : Op) : Bool := o.acc.any fun a => s.reroutedFrom (s.lockCore w) w a

/-- The physical address of a lock word, or why it cannot be reached: a translation sub-cause, or an uncorrectable
error at an address. -/
def State.lockWord (s : State) (w : Nat) (o : Op) : State × Except (Nat ⊕ Nat) Nat :=
  match (o.acc.map Access.loc).head? with
  | some (.global va) =>
    match s.coreTranslate (s.lockCore w) (s.ctxOfWarp w) va .write with
    | (s, .error c) => (s, .error (.inl c))
    | (s, .ok p) =>
      let s := s.checkMac (s.slot (s.ctxOfWarp w)).world p.pa 8
      if s.poisoned (s.slot (s.ctxOfWarp w)).world p.pa then (s, .error (.inr p.pa)) else (s, .ok p.pa)
  | _ => (s, .error (.inl 1))

/-- A lock word that nobody has asked for. -/
def State.lockAt (s : State) (w pa : Nat) : Lock :=
  let l := tget { dispatch := 0, world := 0, holder := none, owner := 0, queue := [] } s.eng.locks pa
  { l with dispatch := s.dispatchOfWarp w, world := (s.slot (s.ctxOfWarp w)).world }

/-- A lock or unlock request that reaches no lock word: it has no effect, and its count completes (R149, R325). -/
def State.lockLost (s : State) (w : Nat) (o : Op) (c : Nat ⊕ Nat) : State :=
  let s := match c with
    | .inl c =>
      s.deferOp w o { cause := 0x20, sub := c, addr := ((o.acc.map fun (a : Access) => a.loc.address).head?).getD 0, lanes := o.lanes }
    | .inr pa => s.consume (s.dispatchOfWarp w) (dieOfCore (s.lockCore w)) 2 pa
  (s.finishOp w o.seq).wake w

/-- A request finds the lock word: what the cluster's path holds for its home goes first. -/
def State.reachLock (s : State) (w pa : Nat) : State :=
  (s.dropLine (s.lockCore w) pa).flushPath (pathKey (siteOf (s.lockCore w)) pa)

/-- One lock request arrives (R149): it is granted, queued, or refused when the warp already holds the lock. A request waits for
the acquires and fences before it (R220). -/
def State.lockArrive (s : State) (w seq : Nat) : State :=
  match (s.warp w).op? seq with
  | none => s
  | some o =>
    if o.kind ≠ OpKind.lock ∨ o.done ∨ (s.warp w).heldBack seq ∨ s.lockWaits w o ∨
        s.eng.locks.any (fun (_, l) => l.queue.contains (w, seq)) then s
    else
      match s.lockWord w o with
      | (s, .error c) => s.lockLost w o c
      | (s, .ok pa) =>
        let s := s.reachLock w pa
        let l := s.lockAt w pa
        match l.holder with
        | none =>
          (((s.writeLock pa { l with holder := some (w, seq), owner := s.dispatchOfWarp w }).acquire w o.scope).finishOp w seq).wake w
        | some (v, n) =>
          if v = w ∧ sameRun n seq then ((s.deferOp w o { cause := 0x21, sub := 2, lanes := o.lanes }).finishOp w seq).wake w
          else s.writeLock pa { l with queue := l.queue ++ [(w, seq)] }

/-- The lock requests that the agenda brings in the same cycle. -/
def sameCycleLocks : List (Nat × Move) → List (Nat × Nat)
  | (0, .event (.lockRequestArrive w seq)) :: t => (w, seq) :: sameCycleLocks t
  | (0, _) :: t => sameCycleLocks t
  | _ => []

/-- Inserts a request among others by die, core, group slot and warp index (R149), which a warp's number gives in this order. -/
def insertRequest (e : Nat × Nat) : List (Nat × Nat) → List (Nat × Nat)
  | [] => [e]
  | f :: t => if f.1 < e.1 then f :: insertRequest e t else e :: f :: t

/-- LOCK_REQUEST_ARRIVE (R149): the request and those that arrive in the same cycle, in the order of their requesters. -/
def execLockRequestArrive (w seq : Nat) (s : State) : Result :=
  .next ((((w, seq) :: sameCycleLocks s.sched.agenda).foldr insertRequest []).foldl (fun s e => s.lockArrive e.1 e.2) s)

/-- Frees a lock and grants the next request (R149, R150). -/
def State.freeLock (s : State) (pa : Nat) (l : Lock) : State :=
  match l.queue with
  | [] => s.writeLock pa { l with holder := none }
  | (v, n) :: t =>
    let s := s.writeLock pa { l with holder := some (v, n), owner := s.dispatchOfWarp v, queue := t }
    let scope := match (s.warp v).op? n with
      | some o => o.scope
      | none => .thr
    ((s.acquire v scope).finishOp v n).wake v

/-- UNLOCK_ARRIVE (R150): after its release, the holder's unlock frees the lock. -/
def execUnlockArrive (w seq : Nat) (s : State) : Result :=
  match (s.warp w).op? seq with
  | none => .next s
  | some o =>
    if o.kind ≠ OpKind.unlock ∨ o.done ∨ (s.warp w).heldBack seq ∨ !s.released w seq o.scope ∨ s.lockWaits w o then .next s
    else
      match (s.markRelease w seq o.scope).lockWord w o with
      | (s, .error c) => .next (s.lockLost w o c)
      | (s, .ok pa) =>
        let s := s.reachLock w pa
        let l := s.lockAt w pa
        if l.holder.any fun (v, n) => v = w && sameRun n seq then .next (((s.freeLock pa l).finishOp w seq).wake w)
        else .next (((s.deferOp w o { cause := 0x21, sub := 1, lanes := o.lanes }).finishOp w seq).wake w)

/-- FENCE_ACKNOWLEDGE (R152): a fence at .die or wider completes once its condition holds. -/
def execFenceAcknowledge (w seq : Nat) (s : State) : Result :=
  match (s.warp w).op? seq with
  | none => .next s
  | some o =>
    if o.kind = OpKind.fence ∧ !o.done ∧ 4 ≤ o.scope.level ∧ s.fenceMet w o then
      .next (((s.makeFence w o).finishOp w seq).wake w)
    else .next s

/-! ### Window loads (R139, R140) -/

/-- Every granule of an ldw is full, and nothing older of its warp holds it back. -/
def State.ldwReady (s : State) (w : Nat) (o : Op) : Bool :=
  s.allFull (coreOf w) (granulesOf o.acc) && o.acc.all fun a => s.mayPerform w o a

/-- An ldw issued earlier at this core's store comes first: it waits for some of the same granules and is ready (R140). -/
def State.ldwOlder (s : State) (w seq : Nat) (o : Op) : Bool :=
  ((s.core (coreOf w)).ldws.takeWhile fun e => e ≠ (w, seq)).any fun (v, n) =>
    match (s.warp v).op? n with
    | some x => (granulesOf x.acc).any (granulesOf o.acc).contains && s.ldwReady v x
    | none => false

/-- Takes an ldw from those that wait and delivers its results. -/
def State.ldwFinish (s : State) (w seq : Nat) (f : Op → Op) : State :=
  let s := s.onWarp w fun W => W.onOp seq fun o => let o := f o; { o with acc := o.acc.map fun a => { a with done := true } }
  let s := s.onCore (coreOf w) fun c => { c with ldws := c.ldws.filter fun e => e ≠ (w, seq) }
  s.deliverOp w seq

/-- LDW_ACTION (R139): one action reads every lane and with .clr clears the granules. -/
def execLdwAction (w seq : Nat) (s : State) : Result :=
  match (s.warp w).op? seq with
  | none => .next s
  | some o =>
    match o.kind with
    | .windowLoad clr =>
      let core := coreOf w
      if (s.core core).ldws.contains (w, seq) && s.ldwReady w o && !s.ldwOlder w seq o then
        let reads := o.acc.map fun a =>
          match a.loc with
          | .store c off => (a.lane, s.coreRead c off a.size)
          | .global _ => (a.lane, [], false)
        let s := match (reads.zip o.acc).find? fun e => e.1.2.2 with
          | some e => s.warpConsumes w 0 e.2.loc.address
          | none => s
        let results := reads.foldl (fun t e => tput t e.1 (if e.2.2 then poisonPair else ofBytes e.2.1)) o.results
        let s := if clr then s.clearGranules core (granulesOf o.acc) else s
        .next (s.ldwFinish w seq fun o => { o with results := results })
      else .next s
    | _ => .next s

/-! ### Window copies (R243, R244) and pushes (R246 to R248) -/

/-- A transfer whose last granule has landed ends: its window is full, and its warp's count or its program goes on. -/
def State.endTransfer (s : State) (n : Nat) (t : Transfer) : State :=
  let s := (s.closeWindow n t).dropTransfer n
  match t.source with
  | .copy w seq _ => (s.finishOp w seq).wake w
  | .push e => s.tryFinish e

/-- A push whose window was saved and has stayed absent claims it again as its bytes land (R245). -/
def State.reclaim (s : State) (n : Nat) : State :=
  match tfind s.comp.transfers n with
  | none => s
  | some t =>
    match t.claims with
    | none => s
    | some id => s.onWindow t.group id fun w => if w.state = .absent then { w with state := .filling n } else w

/-- Lands one granule of a transfer. -/
def State.landNext (s : State) (n : Nat) (t : Transfer) (g : Nat) (b : List Byte) : State :=
  let s := s.landGranule t g b false
  let s := s.reclaim n
  let left := t.left.filter (· ≠ g)
  let s := s.onTransfer n fun t => { t with left := left }
  if left.isEmpty then s.endTransfer n t else s

/-- The dispatch of a transfer's group. -/
def State.transferDispatch (s : State) (t : Transfer) : Nat :=
  match s.group? t.group with
  | some g => g.dispatch
  | none => 0

/-- The virtual addresses that granule g of a transfer's tile is made from (R236). -/
def Transfer.sources (t : Transfer) (g : Nat) : List Nat :=
  (List.range 16).flatMap fun i =>
    let p := sourceParts t.record.toNat t.coords.toNat (16 * g + i)
    p.1.toList ++ p.2.toList

/-- The routes to the sources of a granule, for a copy or push of a die, hold it, or that to a core where it lands (R331, R332). -/
def State.sourceWaits (s : State) (unit die : Nat) (t : Transfer) (g : Nat) : Bool :=
  s.pairWaits unit die (dieOfCore t.core) || (t.sources g).any fun va =>
    match s.translate die t.slot va .read with
    | .ok p => s.tripWaits unit die (homeDie p.pa)
    | .error _ => false

/-- A copy may read the source of a granule now: it reads as the warp that issued the ldw, at the place of the ldw in warp order, so
older acquires, fences and locks of the warp and its own older writes of these bytes come first (R223, R227). -/
def State.copyMayRead (s : State) (w : Nat) (t : Transfer) (g : Nat) : Bool :=
  !(s.warp w).heldBack t.place && (t.sources g).all fun va => !s.ownWrite w t.place (.global va) 1

/-- An ldw that waits on an empty granule of a faulted window completes with poison (R244). -/
def State.poisonLdws (s : State) (t : Transfer) : State :=
  (s.core t.core).ldws.foldl (fun s (w, seq) =>
    match (s.warp w).op? seq with
    | none => s
    | some o =>
      if (granulesOf o.acc).any fun g =>
          overlaps (g * 16) 16 t.offset t.size && tget false (s.core t.core).empty g then
        s.ldwFinish w seq fun o =>
          { o with results := (lanesOf o.lanes).foldl (fun r l => tput r l poisonPair) o.results }
      else s) s

/-- A copy faults with a sub-cause: it lands no further byte, its credit goes back, its entry becomes absent, ldw instructions that
wait on its empty granules complete with poison, its count completes and its warp takes a deferred fault (R244). An uncorrectable
error is consumed (R325). -/
def State.copyFails (s : State) (n : Nat) (t : Transfer) (c : Nat) : State :=
  match t.source with
  | .push _ => s
  | .copy w seq id =>
    let op := (s.warp w).op? seq
    let s := s.cancelTransfer n
    let s := s.onWindow t.group id fun x => { x with state := .absent }
    let s := s.poisonLdws t
    let s := match op with
      | some o => s.deferOp w o { cause := 0x20, sub := c, lanes := o.lanes, code := id }
      | none => s
    let s := if c = 7 then s.consume (s.transferDispatch t) (dieOfCore t.core) 4 t.offset else s
    (s.finishOp w seq).wake w

/-- WINDOW_COPY_FAULT (R244): a copy whose record, coordinates or size are bad, or whose record cannot be read, faults before any
byte of it moves. -/
def execWindowCopyFault (n : Nat) (s : State) : Result :=
  match tfind s.comp.transfers n with
  | none => .next s
  | some t =>
    match t.trouble with
    | some c => .next (s.copyFails n t c)
    | none => .next s

/-- COPY_GRANULE_LAND (R243): a granule is read at its source and lands. A granule that cannot be translated lands nothing, and an
uncorrectable one lands marked as poisoned (R325); with either the copy faults, and nothing further lands (R244; log entry 29). -/
def execCopyGranuleLand (n g : Nat) (s : State) : Result :=
  match tfind s.comp.transfers n with
  | none => .next s
  | some t =>
    match t.source with
    | .push _ => .next s
    | .copy w _ _ =>
      if t.started && t.trouble.isNone && t.charged && t.left.contains g && s.copyMayRead w t g &&
          !s.sourceWaits (siteOf t.core % 32) (dieOfCore t.core) t g then
        match s.granuleBytes (dieOfCore t.core) (some (siteOf t.core)) t g with
        | (s, .error c) => .next (s.copyFails n t c)
        | (s, .ok (b, true)) => .next ((s.landGranule t g b true).copyFails n t 7)
        | (s, .ok (b, false)) => .next (s.landNext n t g b)
      else .next s

/-- A granule of a push's source, with its poison mark: read once for all destinations of the push (R246, R248). -/
def State.pushGranule (s : State) (e : EngRef) (t : Transfer) (n : Nat) : State × Except Nat (List Byte × Bool) :=
  match tfind t.image n with
  | some v => (s, .ok (toBytes 16 (v % 2 ^ 128), bitOf v 128))
  | none =>
    match s.granuleBytes (engDie e) none t n with
    | (s, .error c) => (s, .error c)
    | (s, .ok (b, bad)) =>
      let v := ofBytes b + b2n bad * 2 ^ 128
      let keep (x : Transfer) : Transfer :=
        if x.source = t.source && x.batch = t.batch then { x with image := tput x.image n v } else x
      ({ s with comp := { s.comp with transfers := s.comp.transfers.map fun (k, x) => (k, keep x) } }, .ok (b, bad))

/-- A push's source fails: what has not landed of its tile is dropped at every destination, and the windows that it had claimed
become absent again. -/
def State.dropPush (s : State) (t : Transfer) : State :=
  s.comp.transfers.foldl (fun s (n, x) =>
    if x.source = t.source && x.batch = t.batch then
      let s := match x.claims with
        | some id => s.onWindow x.group id fun w => if w.state = WinState.filling n then { w with state := WinState.absent } else w
        | none => s
      s.dropTransfer n
    else s) s

/-- The code of a translation error at a push's source: 2, or 3 for a PUSHMC some of whose bytes have landed (R246, R248). -/
def Transfer.sourceCode (t : Transfer) : Nat := if t.many && !t.image.isEmpty then 3 else 2

/-- A transfer can land: its group and that of its barrier are on their cores (R245). -/
def Transfer.lands (t : Transfer) : Bool := t.core < 2 ^ 18 && coreOfGroup t.barGroup < 2 ^ 18

/-- The first source address of a granule of a push that holds an uncorrectable error (R336). -/
def State.badSource (s : State) (e : EngRef) (t : Transfer) (g : Nat) : Nat :=
  let bad (va : Nat) : Bool :=
    match s.translate (engDie e) t.slot va .read with
    | .ok p => s.poisoned (s.slot t.slot).world p.pa
    | .error _ => false
  ((t.sources g).find? bad).getD ((t.sources g).headD 0)

/-- PUSH_GRANULE_LAND (R246): a granule of a push that is charged everywhere lands and arrives. An error at the source ends the
program; an uncorrectable granule lands marked as poisoned first (R325; log entry 29). -/
def execPushGranuleLand (n g : Nat) (s : State) : Result :=
  match tfind s.comp.transfers n with
  | none => .next s
  | some t =>
    match t.source with
    | .copy .. => .next s
    | .push e =>
      let waiting := match s.charging e with
        | some l => l.contains n
        | none => false
      if t.charged && !waiting && t.left.contains g && t.lands && !s.sourceWaits fabricUnit (engDie e) t g then
        match s.pushGranule e t g with
        | (s, .error _) => .next (((s.dropPush t).progFault e t.sourceCode).tryFinish e)
        | (s, .ok (b, true)) => .next ((((s.landGranule t g b true).dropPush t).progError e 3 [(s.badSource e t g, 1)]).tryFinish e)
        | (s, .ok (b, false)) => .next (s.landNext n t g b)
      else .next s

/-! ### Record fences (R181) -/

/-- Two dies lie in one instance of a scope (R2). A scope narrower than .die reaches its own die. -/
def sameInstance (scope : Scope) (a b : Nat) : Bool :=
  match scope with
  | .pod => true
  | .mod => a / 32 = b / 32
  | .chp => a / 2 = b / 2
  | _ => a = b

/-- The record fence of a warp at a place in warp order. -/
def State.fence? (s : State) (w seq : Nat) : Option RecordFence := s.eng.fences.find? fun f => f.warp = w && f.seq = seq

/-- The cached records that a record fence drops: those of its scope, of its own record when it names one (R181). -/
def State.dropRecords (s : State) (f : RecordFence) : State :=
  let keep (e : Nat × Nat × BitVec 512) : Bool :=
    match f.record with
    | some a => e.2.1 ≠ a || e.1 ≠ f.slot
    | none => false
  { s with
    dies := s.dies.map fun (d, x) =>
      (d, if sameInstance f.scope d f.die then { x with records := x.records.filter keep } else x) }

/-- RECORD_INVALIDATION_COMPLETE (R181): after the release, the cached copies go, and what the fence held back proceeds. -/
def execRecordInvalidationComplete (w seq : Nat) (s : State) : Result :=
  match s.fence? w seq with
  | none => .next s
  | some f =>
    if s.handed w seq f.scope then
      let s := s.dropRecords f
      .next (({ s with eng := { s.eng with fences := s.eng.fences.filter fun g => g ≠ f } } : State).wake w)
    else .next s

end Sys2Proof.Machine
end

