-- ==== Sys2Proof/Machine/Placement.lean ====
section
/-! DEFINITION. Mailbox entries, acceptance, binding, placement, completion, kill and replay of dispatches: R29, R30, R72,
R73, R194 to R201, R241, R283, R292 to R301 (spec/09_execution_and_scheduling.md, spec/16_queues_dispatch_groups.md). -/

namespace Sys2Proof.Machine

/-! ### Records -/

/-- The reserved bits of a dispatch record are zero (R296). -/
def recClean (r : BitVec 2048) : Bool :=
  recBits r 2047 704 = 0 && recBits r 511 480 = 0 && recBits r 415 405 = 0 && recBits r 31 20 = 0

/-- The placement set, dies that are not enabled included (R296). -/
def placementSet (r : BitVec 2048) : List Nat := (List.range (recBits r 404 394)).map (recBits r 393 384 + ·)

/-- The identifiers of a group by its rank: group, cluster, die, chip, module (R195). -/
def rankIds (r : BitVec 2048) (rank : Nat) : List Nat :=
  let digit (x e : Nat) : Nat × Nat := if e = 0 then (0, x) else (x % e, x / e)
  let (g, x) := digit rank (recGroups r)
  let (c, x) := digit x (recClusters r)
  let (d, x) := digit x (recBits r 303 288)
  let (h, x) := digit x (recBits r 319 304)
  let (m, _) := digit x (recBits r 335 320)
  [g, c, d, h, m]

/-- Bits of a kernel header (R72). -/
def hdrBits (h : BitVec 256) (hi lo : Nat) : Nat := bits h.toNat hi lo

/-- The checks that R72 makes of a kernel header. -/
def headerOk (h : BitVec 256) : Bool :=
  hdrBits h 31 0 = 0x58424B48 && hdrBits h 47 40 = 1 && hdrBits h 39 32 = 0 && hdrBits h 71 66 = 0 &&
    hdrBits h 79 72 % 8 = 0 && decide (8 ≤ hdrBits h 79 72) && decide (hdrBits h 79 72 ≤ 192) &&
    decide (1 ≤ hdrBits h 135 128) && decide (hdrBits h 135 128 ≤ 64) && decide (hdrBits h 143 136 ≤ 64) &&
    hdrBits h 191 160 % 8 = 0 && hdrBits h 223 192 % 8 = 0 && hdrBits h 255 224 % 8 = 0 &&
    hdrBits h 64 64 = hdrBits h 61 61 && (hdrBits h 64 64 = 0 || hdrBits h 159 144 ≠ 0) && hdrBits h 63 62 = 0

/-- One entry of a window list fits its group (R240, R241). -/
def windowOk (h : BitVec 256) (w : BitVec 256) : Bool :=
  let b := w.toNat
  bits b 127 108 = 0 && bits b 47 10 = 0 && bits b 7 6 = 0 && bits b 9 8 ≠ 3 && bits b 67 48 % 128 = 0 &&
    bits b 87 68 % 16 = 0 && decide (16 ≤ bits b 87 68) && decide (bits b 67 48 + bits b 87 68 ≤ hdrBits h 127 96) &&
    (bits b 107 88 = 0xFFFFF || (bits b 107 88 % 16 = 0 && decide (bits b 107 88 < hdrBits h 95 80)))

/-- Two entries of a window list share no ID and no byte (R241). -/
def windowsApart (a b : BitVec 256) : Bool :=
  bits a.toNat 5 0 ≠ bits b.toNat 5 0 &&
    !overlaps (bits a.toNat 67 48) (bits a.toNat 87 68) (bits b.toNat 67 48) (bits b.toNat 87 68)

/-- The window list passes R241. -/
def windowsOk (h : BitVec 256) : List (BitVec 256) → Bool
  | [] => true
  | w :: t => windowOk h w && t.all (windowsApart w) && windowsOk h t

/-- A value cut into n parts of k bytes. -/
def chunks (k : Nat) : Nat → List Byte → List (List Byte)
  | 0, _ => []
  | n + 1, l => l.take k :: chunks k n (l.drop k)

/-- Registers that each warp receives (R297). -/
def dispatchRegs (r : BitVec 2048) (h : BitVec 256) : Nat :=
  if recBits r 455 448 ≠ 0 then recBits r 455 448 else hdrBits h 79 72

/-- The store that a group needs (R197, R297). -/
def groupNeed (r : BitVec 2048) (h : BitVec 256) : Nat :=
  let wpg := hdrBits h 135 128
  roundUp (wpg * dispatchRegs r h * 128 + wpg * 256 + hdrBits h 127 96 + hdrBits h 95 80) 16384

/-- The store that a group reserves (R297). -/
def groupSize (r : BitVec 2048) (h : BitVec 256) : Nat :=
  if recBits r 471 456 ≠ 0 then recBits r 471 456 * 16384 else groupNeed r h

/-! ### Completion records (R298) -/

/-- A mailbox reads and writes by virtual addresses of its context (R292). -/
def Mailbox.local (x : Mailbox) : Bool := bitOf x.ctl.toNat 1

/-- An access of n bytes to host memory meets an uncorrectable error. -/
def State.hostFails (s : State) (a n : Nat) : Bool := (List.range n).any fun i => tget false s.mem.hostBad ((a + i) / 32)

/-- Writes bytes of host memory. -/
def State.hostWrite (s : State) (a : Nat) (b : List Byte) : State :=
  { s with mem := { s.mem with host := b.zipIdx.foldl (fun t (x, i) => tset 0 t (a + i) x) s.mem.host } }

/-- Sends a mailbox's interrupt when IEN is set (R298). -/
def State.mailboxInterrupt (s : State) (m : Nat) : State :=
  let x := s.mailbox m
  if bitOf x.ctl.toNat 2 then s.output (.msix (Config.mailboxOwner m).val (bits x.ctl.toNat 15 8)) else s

/-- The 32 bytes of a completion record (R298). -/
def completionBytes (tag tdone faddr nfault att code state : Nat) : List Byte :=
  toBytes 32 (tag % 2 ^ 64 * 2 ^ 192 + tdone % 2 ^ 64 * 2 ^ 128 + faddr % 2 ^ 64 * 2 ^ 64 + nfault % 2 ^ 16 * 2 ^ 48 +
    att % 256 * 2 ^ 40 + code % 256 * 256 + state % 256)

/-- Writes a completion record at an address of a mailbox and sends the interrupt; a record that cannot be written is lost
(R298). -/
def State.complete (s : State) (m slot addr : Nat) (bytes : List Byte) : State :=
  let s :=
    if (s.mailbox m).local then
      let t := s.translate 0 slot addr .write
      let s := s.keepWalk 0 slot addr .write
      match t with
      | .error _ => s.ring 0 0x17 (s.ident slot) [0, addr, m]
      | .ok p =>
        let s := s.checkMac (s.slot slot).world p.pa 32
        if s.badLine (s.slot slot).world p.pa then s.ring 0 0x17 (s.ident slot) [0, addr, m]
        else s.hbmWrite (s.slot slot).world (bytes.zipIdx.map fun (b, i) => (p.pa + i, b))
    else if s.hostFails addr 32 then s.ring 0 0x17 (s.ident slot) [0, addr, m]
    else s.hostWrite addr bytes
  s.mailboxInterrupt m

/-- A dispatch leaves the controller with its completion record. -/
def State.finishDispatch (s : State) (d : Nat) (state code att : Nat) : State :=
  match s.dispatch? d with
  | none => s
  | some x =>
    let s := s.complete x.mailbox x.slot (recBits x.record 575 512)
      (completionBytes (recBits x.record 703 640) s.rt x.faddr x.nfault att code state)
    let s := s.onMailbox x.mailbox fun y => { y with serial := if y.serial = some d then none else y.serial }
    { s with ctl := { s.ctl with dispatches := tdel s.ctl.dispatches d } }

/-! ### Taking entries (R293, R294) -/

/-- The valid context slot that holds an identifier (R292, R304). -/
def State.slotOf (s : State) (ident : Nat) : Option Nat :=
  (s.ctl.slots.find? fun (_, x) => x.valid && x.ident = ident).map Prod.fst

/-- Entries that a mailbox's ring holds (R292). -/
def Mailbox.size (x : Mailbox) : Nat := 2 ^ (bits x.ctl.toNat 19 16 + 4)

/-- Entries posted and not taken. -/
def Mailbox.waiting (x : Mailbox) : Nat := (x.tail - x.head).toNat

/-- SAVED of a context slot (R314). -/
def Slot.saved (x : Slot) : Bool := bitOf x.ctxctl.toNat 2

/-- The address of the entry at a mailbox's head (R293). -/
def Mailbox.entryAddress (x : Mailbox) : Nat := x.base.toNat / 4096 * 4096 + 256 * (x.head.toNat % x.size)

/-- Reads an entry whole: its bytes, or none on an error (R293). -/
def State.readEntry (s : State) (m slot : Nat) : Option Nat :=
  let x := s.mailbox m
  let a := x.entryAddress
  if x.local then
    match s.engRead 0 slot a 256 with
    | .ok b => some (ofBytes b)
    | .error _ => none
  else if s.hostFails a 256 then none
  else some (ofBytes ((List.range 256).map fun i => tget 0 s.mem.host (a + i)))

/-- Dispatches that the controller holds (R294). -/
def State.heldDispatches (s : State) : Nat := s.ctl.dispatches.length

/-- More entries are posted than a mailbox's ring holds (R293). -/
def Mailbox.overrun (x : Mailbox) : Bool := x.size < x.waiting

/-- A mailbox has an entry that the controller may take: the context slot (R292, R293, R294, R296, R314). -/
def State.takeable (s : State) (m : Nat) : Option Nat :=
  let x := s.mailbox m
  if bitOf x.ctl.toNat 0 && !bitOf x.ctl.toNat 4 && x.waiting ≠ 0 && x.serial.isNone && !s.mod.heldFailed then
    match s.slotOf x.ctx.toNat with
    | none => none
    | some slot =>
      let y := s.slot slot
      if y.preq || y.saved then none
      else if 1024 ≤ s.heldDispatches && (s.readEntry m slot).map (· % 256) = some 1 then none
      else some slot
  else none

/-- Mailboxes in the order in which the controller serves them, after the one served last (R294). -/
def State.mailboxOrder (s : State) : List Nat := (List.range 64).map fun i => (s.ctl.nextMailbox + i) % 64

/-- Sets ERR of a mailbox and records the event (R293). -/
def State.mailboxError (s : State) (m : Nat) : State :=
  let x := s.mailbox m
  let slot := (s.slotOf x.ctx.toNat).getD 0
  (s.onMailbox m fun x => { x with ctl := x.ctl ||| 0x10 }).ring 0 0x14 (s.ident slot) [m, x.head.toNat]

/-- A dispatch before its acceptance. -/
def Dispatch.fresh (m entry slot : Nat) (r : BitVec 2048) : Dispatch :=
  { mailbox := m, entry := entry, slot := slot, record := r, header := 0, buds := [], windows := [], attempts := 0,
    nfault := 0, faddr := 0, bound := [], nextRank := 0, live := 0, started := false, startEnded := false, order := 0,
    ran := [], colls := [], named := [], pages := [], phase := .held }

/-- Enters a dispatch record. -/
def State.holdDispatch (s : State) (m slot e : Nat) (r : BitVec 2048) : State :=
  let d := s.ctl.nextDispatch
  let s :=
    { s with
      ctl := { s.ctl with dispatches := tput s.ctl.dispatches d (Dispatch.fresh m e slot r), nextDispatch := d + 1 } }
  if recBits r 19 19 = 1 then s.onMailbox m fun x => { x with serial := some d } else s

/-- Enters a group command (R302). -/
def State.holdCommand (s : State) (m slot : Nat) (c : BitVec 320) : State :=
  let r : Round :=
    { mailbox := m, ticket := s.ctl.nextDispatch, slot := slot, command := c, members := [], old := [], voters := [], votes := [],
      acks := [],
      holds := [], lastVote := 0, proposed := 0, phase := .posted }
  { s with eng := { s.eng with rounds := tput s.eng.rounds (tnext s.eng.rounds) r } }

/-- The completion address of an entry by its KIND (R294). -/
def entryCrec (v : Nat) : Nat := if v % 256 = 1 then bits v 575 512 else bits v 255 192

/-- MAILBOX_TAKE_ENTRY (R293, R294): a mailbox whose turn it is gives up its next entry. -/
def execMailboxTakeEntry (m : Nat) (s : State) : Result :=
  match s.mailboxOrder.find? fun i => (s.takeable i).isSome, s.takeable m with
  | some i, some slot =>
    if i ≠ m then .next s
    else
      match if (s.mailbox m).overrun then none else s.readEntry m slot with
      | none =>
        let s := if (s.mailbox m).local && !(s.mailbox m).overrun then s.engMark 0 slot [((s.mailbox m).entryAddress, 256)] else s
        .next (s.mailboxError m)
      | some v =>
        let e := (s.mailbox m).head.toNat
        let s := s.onMailbox m fun x => { x with head := x.head + 1 }
        let s := { s with ctl := { s.ctl with nextMailbox := (m + 1) % 64 } }
        let kind := v % 256
        let known := kind = 1 || kind = 2
        if !known || bits v 15 8 ≠ 1 || entryCrec v % 32 ≠ 0 then
          let s := s.ring 0 0x14 (s.ident slot) [m, e]
          if known && entryCrec v % 32 = 0 then
            let tag := if kind = 1 then bits v 703 640 else bits v 319 256
            .next (s.complete m slot (entryCrec v) (completionBytes tag s.rt 0 0 0 9 2))
          else .next s
        else if kind = 1 then .next (s.holdDispatch m slot e (BitVec.ofNat 2048 v))
        else if bits v 2047 320 ≠ 0 then
          .next (s.complete m slot (entryCrec v) (completionBytes (bits v 319 256) s.rt 0 0 0 15 2))
        else .next (s.holdCommand m slot (BitVec.ofNat 320 v))
  | _, _ => .next s

/-! ### Acceptance (R297) -/

/-- The dies of a placement set that are enabled. -/
def State.placeable (s : State) (r : BitVec 2048) : List Nat := (placementSet r).filter s.dieUp

/-- Domains of a list of dies at a level, by lowest die identifier (R196). -/
def domainsOf (ds : List Nat) (width : Nat) : List (List Nat) :=
  let ids := (ds.map (· / width)).eraseDups
  (sortNat ids).map fun i => ds.filter fun d => d / width = i

/-- Binds instances of the die, chip and module levels, or none on a shortfall (R196). -/
def bind : List (Nat × Nat) → List (List Nat) → Option (List (List Nat))
  | [], l => some l
  | (e, width) :: t, l =>
    if e = 0 then bind t l
    else
      let parts := l.map fun ds => (domainsOf ds width).take e
      if parts.all fun p => p.length = e then bind t parts.flatten else none

/-- Domains of each used level needed in all do not exceed those of the placement set (R194). -/
def levelsFit (set : List Nat) : List (Nat × Nat) → Nat → Bool
  | [], _ => true
  | (e, width) :: t, n =>
    if e = 0 then levelsFit set t n
    else decide (n * e ≤ ((set.map (· / width)).eraseDups).length) && levelsFit set t (n * e)

/-- The pages of a snapshot list, by the page number of the pod physical address; none where the list is bad or an area lacks
room (R300). -/
def State.snapshotPages (s : State) (slot : Nat) (r : BitVec 2048) : Option (List Nat) :=
  let n := recBits r 479 472
  if n = 0 then some []
  else
    match s.engRead 0 slot (recBits r 639 576) (16 * n) with
    | .error _ => none
    | .ok b =>
      let entries := (chunks 16 n b).map ofBytes
      if entries.any fun e => bits e 63 0 % 65536 ≠ 0 || bits e 95 64 = 0 || bits e 127 96 ≠ 0 then none
      else
        let found := (entries.flatMap fun e => (List.range (bits e 95 64)).map fun i => bits e 63 0 + 65536 * i).map fun va =>
          s.translate 0 slot va .read
        if found.any fun f => match f with
            | .ok _ => false
            | .error _ => true
        then none
        else
          let pages := (found.filterMap fun f =>
            match f with
            | .ok p => if p.home = 2 then none else some (p.pa / 65536)
            | .error _ => none).eraseDups
          let others := s.ctl.dispatches.flatMap fun (_, d) => tkeys d.pages
          let room := ((pages ++ others).map fun p => homeDie (p * 65536)).eraseDups.all fun die =>
            decide (((pages ++ others).filter fun p => homeDie (p * 65536) = die).length ≤ Config.snapshotFrames die)
          if room then some pages else none

/-- Largest store below the level-1 region that an empty enabled core of a set of dies has (R197). -/
def State.largestStore (s : State) (ds : List Nat) : Nat :=
  (ds.flatMap fun d => ((List.range 144).map (256 * d + ·)).filter s.coreUp).foldl
    (fun m c => max m (2 ^ 20 - (s.core c).pl1sz.toNat * 65536)) 0

/-- What acceptance finds: the header, its tables, the binding and the snapshot pages. -/
structure Accepted where
  header  : BitVec 256
  buds    : List Nat
  windows : List (BitVec 256)
  bound   : List (List Nat)
  pages   : List Nat

/-- The tables of a kernel header (R73, R240), or none where they cannot be read. -/
def State.readTables (s : State) (slot code : Nat) (h : BitVec 256) : Option (List Nat × List (BitVec 256)) :=
  let nb := hdrBits h 159 144
  let nw := hdrBits h 143 136
  match s.engRead 0 slot (code + hdrBits h 223 192) (4 * nb), s.engRead 0 slot (code + hdrBits h 255 224) (32 * nw) with
  | .ok b, .ok w => some ((chunks 4 nb b).map ofBytes, (chunks 32 nw w).map fun l => BitVec.ofNat 256 (ofBytes l))
  | _, _ => none

/-- A die of the pod: of the model's module, or of one that Greux has taken into the pod (R2, R264). -/
def State.inPod (s : State) (d : Nat) : Bool := d < 32 || (tfind s.mod.pod (d / 32)).isSome

/-- Steps 3 to 6 of R297 for a header that is read. -/
def State.checkBinding (s : State) (slot : Nat) (r : BitVec 2048) (h : BitVec 256) (fresh : Bool) :
    Except Nat (List (List Nat) × List Nat) :=
  let set := placementSet r
  let roles := recBits r 39 32 + recBits r 47 40 + recBits r 55 48
  let regs := recBits r 455 448
  if recBits r 383 337 ≠ 0 || recGroups r = 0 || recBits r 63 56 ≠ 0 || decide (hdrBits h 135 128 < roles) ||
      recBits r 404 394 = 0 || !set.all s.inPod || !levelsFit set (levels r) 1 then
    .error 2
  else if (regs ≠ 0 && (decide (regs < hdrBits h 79 72) || regs % 8 ≠ 0 || decide (192 < regs))) ||
      (recBits r 471 456 ≠ 0 && decide (recBits r 471 456 * 16384 < groupNeed r h)) ||
      (recBits r 447 416 ≠ 0 && hdrBits h 65 65 = 0) then .error 4
  else
    match if fresh then s.snapshotPages slot r else some [] with
    | none => .error 8
    | some pages =>
      match bind (levels r) [s.placeable r] with
      | none => .error 3
      | some bound => if s.largestStore (s.placeable r) < groupSize r h then .error 3 else .ok (bound, pages)

/-- The checks of R297 in their order: what acceptance finds, or a code. A replay keeps its snapshot pages. -/
def State.checkDispatch (s : State) (slot : Nat) (r : BitVec 2048) (fresh : Bool) : Except Nat Accepted :=
  if !recClean r then .error 9
  else if recBits r 191 128 % 64 ≠ 0 || recBits r 127 64 % 8 ≠ 0 ||
      (recBits r 479 472 ≠ 0 && recBits r 639 576 % 16 ≠ 0) then .error 1
  else
    match s.engRead 0 slot (recBits r 191 128) 32 with
    | .error _ => .error 1
    | .ok b =>
      let h := BitVec.ofNat 256 (ofBytes b)
      if !headerOk h then .error 1
      else
        match s.readTables slot (recBits r 127 64) h with
        | none => .error 1
        | some (buds, ws) =>
          if !windowsOk h ws then .error 1
          else
            match s.checkBinding slot r h fresh with
            | .error c => .error c
            | .ok (bound, pages) => .ok { header := h, buds := buds, windows := ws, bound := bound, pages := pages }

/-- What the checks of acceptance read up to the failure of a code: the header, its tables, the snapshot list (R297, R325). -/
def State.acceptReads (s : State) (slot : Nat) (r : BitVec 2048) (code : Nat) : List (Nat × Nat) :=
  let a := recBits r 191 128
  if !recClean r || a % 64 ≠ 0 || recBits r 127 64 % 8 ≠ 0 then []
  else
    match s.engRead 0 slot a 32 with
    | .error _ => [(a, 32)]
    | .ok b =>
      let h := BitVec.ofNat 256 (ofBytes b)
      if !headerOk h then []
      else
        [(recBits r 127 64 + hdrBits h 223 192, 4 * hdrBits h 159 144),
          (recBits r 127 64 + hdrBits h 255 224, 32 * hdrBits h 143 136)] ++
          if code = 8 then [(recBits r 639 576, 16 * recBits r 479 472)] else []

/-- Accepts a dispatch or a replay of it (R239, R297, R301). A replay begins a dispatch span of its own (R4), so it counts its own
faults. -/
def State.acceptDispatch (s : State) (d : Nat) (x : Dispatch) (a : Accepted) : State :=
  -- A replay keeps the place of its first acceptance in the order of R200 (log entry 55).
  let order := s.ctl.dispatches.foldl (fun n (_, y) => max n (y.order + 1)) 0
  let pages := if x.attempts = 0 then a.pages.foldl (fun t p => tput t p none) [] else x.pages.map fun (p, _) => (p, none)
  let s := s.onDispatch d fun x =>
    { x with
      header := a.header, buds := a.buds, windows := a.windows, bound := a.bound, attempts := x.attempts + 1, nextRank := 0,
      live := 0, started := false, startEnded := false, named := [], colls := [], pages := pages, phase := .accepted,
      nfault := 0, faddr := 0,
      order := if x.attempts = 0 then order else x.order }
  let s := s.onMailbox x.mailbox fun y => { y with serial := if y.serial = some d then none else y.serial }
  let set := placementSet x.record
  { s with
    dies := s.dies.map fun (n, y) =>
      (n, if set.contains n then { y with records := y.records.filter fun e => e.1 ≠ x.slot } else y) }

/-- A SERIAL dispatch waits for every earlier dispatch of its mailbox (R296). -/
def State.serialWaits (s : State) (d : Nat) (x : Dispatch) : Bool :=
  recBits x.record 19 19 = 1 && s.ctl.dispatches.any fun (e, y) => decide (e < d) && y.mailbox = x.mailbox

/-- The record of a SERIAL dispatch follows every earlier record of its mailbox, those of group commands among them (R298). -/
def State.recordWaits (s : State) (d : Nat) (x : Dispatch) : Bool :=
  recBits x.record 19 19 = 1 && s.eng.rounds.any fun (_, r) => r.mailbox = x.mailbox && decide (r.ticket ≤ d)

/-- A dispatch is rejected (R297, R298): an uncorrectable error that its checks met is marked. -/
def State.reject (s : State) (d : Nat) (x : Dispatch) (code : Nat) : State :=
  if s.recordWaits d x then s else (s.engMark 0 x.slot (s.acceptReads x.slot x.record code)).finishDispatch d 2 code 0

/-- DISPATCH_ACCEPT (R297): the checks in their order; the first failure completes the dispatch as rejected. -/
def execDispatchAccept (d : Nat) (s : State) : Result :=
  match s.dispatch? d with
  | none => .next s
  | some x =>
    if x.phase ≠ .held || s.serialWaits d x then .next s
    else
      match s.checkDispatch x.slot x.record true with
      | .error c => .next (s.reject d x c)
      | .ok a => .next (s.acceptDispatch d x a)

/-! ### Placing groups (R197 to R200) -/

/-- Groups on a core. -/
def State.groupsOn (s : State) (core : Nat) : List (Nat × Group) := s.comp.groups.filter fun (g, _) => coreOfGroup g = core

/-- Warps that a group slot would put on each quarter (R197). -/
def quarterLoad (gslot wpg q : Nat) : Nat := ((List.range wpg).filter fun w => (gslot + w) % 4 = q).length

/-- The lowest free group slot of a core with which no quarter holds more than 16 warps (R197). -/
def State.freeSlot (s : State) (core wpg : Nat) : Option Nat :=
  let on := s.groupsOn core
  (List.range 64).find? fun n =>
    !(on.any fun (g, _) => g % 64 = n) &&
      (List.range 4).all fun q =>
        decide (quarterLoad n wpg q + (on.map fun (g, x) => quarterLoad (g % 64) x.wpg q).foldl (· + ·) 0 ≤ 16)

/-- The lowest free stretch of a core's store below its level-1 region (R198). -/
def State.freeStretch (s : State) (core size : Nat) : Option Nat :=
  let top := 2 ^ 20 - (s.core core).l1sz.toNat * 65536
  ((List.range 64).map (· * 16384)).find? fun o =>
    decide (o + size ≤ top) && !(s.groupsOn core).any fun (_, x) => overlaps o size x.base x.size

/-- What a group needs of a core (R197, R241). -/
structure Needs where
  wpg  : Nat
  size : Nat
  nwin : Nat
  mask : Word
deriving DecidableEq, Repr

/-- A group slot and a base for a group on a core, if it fits there (R197, R241). -/
def State.fits (s : State) (core : Nat) (n : Needs) : Option (Nat × Nat) :=
  let on := s.groupsOn core
  if s.coreUp core && on.all (fun (_, x) => x.accMask &&& n.mask = 0) &&
      decide ((on.map fun (_, x) => x.windows.length).foldl (· + ·) n.nwin ≤ 64) then
    match s.freeSlot core n.wpg, s.freeStretch core n.size with
    | some g, some o => some (g, o)
    | _, _ => none
  else none

/-- FREE of a core (R16). -/
def State.freeStore (s : State) (core : Nat) : Nat := bits (s.cscfg core) 15 8

/-- The core that R198 chooses among candidates in order of die and core: the largest FREE where the group fits. -/
def State.chooseCore (s : State) (n : Needs) : List Nat → Option Nat
  | [] => none
  | c :: t =>
    match s.chooseCore n t with
    | none => if (s.fits c n).isSome then some c else none
    | some b => if (s.fits c n).isSome && decide (s.freeStore b ≤ s.freeStore c) then some c else some b

/-- The enabled cores of some dies, by die and core. -/
def State.coresOf (s : State) (ds : List Nat) : List Nat :=
  ds.flatMap fun d => ((List.range 144).map (256 * d + ·)).filter s.coreUp

/-- What a group of a dispatch needs. -/
def Dispatch.needs (d : Dispatch) : Needs :=
  { wpg := hdrBits d.header 135 128, size := groupSize d.record d.header, nwin := d.windows.length,
    mask := BitVec.ofNat 32 (recBits d.record 447 416) }

/-- The dies of the instance that a rank is bound to (R196). -/
def Dispatch.domain (d : Dispatch) (rank : Nat) : List Nat :=
  nth [] d.bound (rank / (recGroups d.record * max 1 (recClusters d.record)))

/-- The preloads of a group's warps (R29): uniform registers and their values. -/
def preloads (d : Dispatch) (g : Group) (core : Nat) : List (Nat × Nat) :=
  let args := recBits d.record 255 192
  let all : List (Nat × List (Nat × Nat)) :=
    [ (0, [(40, nth 0 g.ids 0)]), (1, [(41, nth 0 g.ids 1)]), (2, [(42, nth 0 g.ids 2)]), (3, [(43, nth 0 g.ids 3)]),
      (4, [(44, nth 0 g.ids 4)]), (5, [(45, g.rank)]), (6, [(46, totalGroups d.record)]), (7, [(47, g.wpg)]),
      (8, [(48, args), (49, args / 2 ^ 32)]), (9, [(50, d.attempts - 1)]), (10, [(51, core % 256)]),
      (11, [(52, dieOfCore core)]), (12, [(53, g.prio)]) ]
  (all.filter fun e => hdrBits d.header (48 + e.1) (48 + e.1) = 1).flatMap Prod.snd

/-- A warp at its start (R22, R29, R30): registers zero but for the preloads, the threads of a set running at their pcs. -/
def startWarp (d : Dispatch) (g : Group) (core run now : Nat) (lanes : LaneSet) (pc : Nat → Nat) : Warp :=
  let W := (preloads d g core).foldl (fun W (n, v) => W.putK n (BitVec.ofNat 32 v)) Warp.reset
  let W := (lanesOf lanes).foldl (fun W l => { W.setStatus l .running with pcs := tset 0 W.pcs l (pc l) }) W
  { W with seq := run * runSpan, readyAt := now, issuePc := W.lowestPc lanes }

/-- The address of a bud clause (R73), in the 57 bits of a pc (R22). -/
def Dispatch.budClause (d : Dispatch) (n : Nat) : Nat := (recBits d.record 127 64 + nth 0 d.buds n) % 2 ^ 57

/-- Places a group of a dispatch on a core (R30, R231, R241, R249, R283). Its warps see what the host released before the dispatch was
taken, so no older line stays in the core's level-1 region (R230). -/
def State.placeOn (s : State) (d : Nat) (x : Dispatch) (rank core gslot base : Nat) : State :=
  let g := core * 64 + gslot
  let r := x.record
  let h := x.header
  let wpg := hdrBits h 135 128
  let nreg := dispatchRegs r h
  let scratch := base + wpg * nreg * 128 + wpg * 256
  let bars := scratch + hdrBits h 127 96
  let windows : Table Window := x.windows.foldl (fun t w =>
    let b := w.toNat
    tput t (bits b 5 0)
      { offset := scratch + bits b 67 48, size := bits b 87 68,
        bar := if bits b 107 88 = 0xFFFFF then none else some (bars + bits b 107 88), record := bits b 191 128,
        coords := BitVec.ofNat 64 (bits b 255 192), mode := Fin.ofNat 3 (bits b 9 8), state := .absent }) []
  let y : Group :=
    { dispatch := d, slot := x.slot, rank := rank, ids := rankIds r rank, domain := x.domain rank,
      instanceId := rank / recGroups r, base := base, size := groupSize r h, nreg := nreg, wpg := wpg,
      scrb := hdrBits h 127 96, barb := hdrBits h 95 80, prio := recBits r 17 16,
      roles := BitVec.ofNat 32 (recBits r 63 32), accMask := BitVec.ofNat 32 (recBits r 447 416), bars := [],
      windows := windows }
  let s := ({ s with comp := { s.comp with groups := tput s.comp.groups g y } } : State).dropLevel1 core
  let s := s.takeStore core base y.size (s.slot x.slot).world
  let inWindow (n : Nat) : Bool := windows.any fun (_, w) => overlaps (n * 16) 16 w.offset w.size
  let granules := (List.range (y.size / 16)).map (base / 16 + ·)
  let s := s.onCore core fun c =>
    { c with
      empty := granules.foldl (fun t n => tset false t n (inWindow n)) c.empty
      poison := granules.foldl (fun t n => if n * 16 < scratch then tset false t n false else t) c.poison }
  let s := (List.range (y.barb / 16)).foldl (fun s i =>
    s.coreWrite core ((toBytes 16 (0xFFFFFFFF * 2 ^ 96)).zipIdx.map fun (b, j) => (bars + 16 * i + j, b))) s
  let cambial := hdrBits h 64 64 = 1
  let now := s.time.now
  let pc (_ : Nat) : Nat := if cambial then x.budClause 0 else (recBits r 127 64 + hdrBits h 191 160) % 2 ^ 57
  let n := if cambial then (if rank = 0 then 1 else 0) else wpg
  let warps := (List.range n).foldl (fun t w => tput t (g * 64 + w) (startWarp x y core (s.comp.launched + w + 1) now allLanes pc))
    s.comp.warps
  let s := { s with comp := { s.comp with warps := warps, launched := s.comp.launched + n } }
  (s.onDispatch d fun z =>
    { z with nextRank := rank + 1, live := z.live + 1, started := true,
             ran := if z.ran.contains core then z.ran else core :: z.ran }).progress core x.slot

/-- Places one group by R198 among candidate cores. -/
def State.placeOne (s : State) (d : Nat) (x : Dispatch) (rank : Nat) (cores : List Nat) : Option State :=
  match s.chooseCore x.needs cores with
  | none => none
  | some c =>
    match s.fits c x.needs with
    | some (g, o) => some (s.placeOn d x rank c g o)
    | none => none

/-- Places n groups in rank order, or none of them. -/
def State.placeMany (s : State) (d : Nat) (x : Dispatch) (cores : List Nat) : Nat → Nat → Option State
  | _, 0 => some s
  | rank, n + 1 =>
    match s.placeOne d x rank cores with
    | none => none
    | some s => s.placeMany d x cores (rank + 1) n

/-- Cluster sites of some dies that are free for a dispatch, in order of die and site (R199). -/
def State.freeSites (s : State) (d : Nat) (ds : List Nat) : List Nat :=
  (ds.flatMap fun die => (List.range 18).map (32 * die + ·)).filter fun site =>
    !(s.groupsOf d).any fun (g, _) => siteOf (coreOfGroup g) = site

/-- The first site where a whole cluster instance fits (R199). -/
def State.placeCluster (s : State) (d : Nat) (x : Dispatch) (rank : Nat) : List Nat → Option State
  | [] => none
  | site :: t =>
    match s.placeMany d x ((coresOfSite site).filter s.coreUp) rank (recGroups x.record) with
    | some s => some s
    | none => s.placeCluster d x rank t

/-- Places the next group of a dispatch, or its whole cluster instance, on some dies (R198, R199). -/
def State.placeNext (s : State) (d : Nat) (x : Dispatch) (ds : List Nat) : Option State :=
  if recClusters x.record = 0 then s.placeOne d x x.nextRank (s.coresOf ds)
  else s.placeCluster d x x.nextRank (s.freeSites d ds)

/-- A dispatch has a group to place now (R200, R314). -/
def State.wantsPlace (s : State) (x : Dispatch) : Bool :=
  x.phase = .accepted && decide (x.nextRank < totalGroups x.record) && !(s.slot x.slot).preq && !(s.slot x.slot).saved

/-- How another dispatch stands before one at placement: it goes first on these dies, or blocks them (R200). -/
def State.ahead (s : State) (x : Dispatch) (d : Nat) : List Nat × List Nat :=
  s.ctl.dispatches.foldl (fun (first, blocked) (e, y) =>
    if e = d || !s.wantsPlace y then (first, blocked)
    else
      let earlier := decide (y.order < x.order)
      let prioX := recBits x.record 17 16
      let prioY := recBits y.record 17 16
      let ds := y.domain y.nextRank
      if (s.placeNext e y ds).isSome then
        if prioX < prioY || (prioX = prioY && earlier) then (first ++ ds, blocked) else (first, blocked)
      else if prioX ≤ prioY && earlier then (first, blocked ++ ds) else (first, blocked)) ([], [])

/-! ### The end of a dispatch (R87, R151, R249, R298, R299) -/

/-- An engine, queue or front holds a program or block of a dispatch (R193, R298). -/
def State.hasPrograms (s : State) (d : Nat) : Bool :=
  (s.eng.roots.any fun (_, r) => (r.front ++ r.queue ++ tvals r.ctxs).any fun p => p.dispatch = d) ||
    (s.eng.canopies.any fun (_, c) => (c.queue ++ tvals c.ctxs).any (fun p => p.dispatch = d) ||
      c.front.any fun m => m.dispatch = d) ||
    s.dies.any fun (_, x) => x.waiting.any fun w => w.2.dispatch = d

/-- Frees every lock that a warp of a dispatch holds, ended or not, and removes its requests (R151). -/
def State.freeLocks (s : State) (d : Nat) : State :=
  let mine (w : Nat) : Bool := s.dispatchOfWarp w = d && (s.group? (groupOf w)).isSome
  let slot := match s.dispatch? d with
    | some x => x.slot
    | none => 0
  s.eng.locks.foldl (fun s (pa, l) =>
    let l' := { l with queue := l.queue.filter fun e => !mine e.1 }
    match l.holder with
    | some _ =>
      if l.owner = d then (s.freeLock pa l').ring (homeDie pa) 0x12 (s.ident slot) [pa]
      else if l'.queue = l.queue then s else s.writeLock pa l'
    | none => s) s

/-- What is left of the abort.root instructions of a dispatch goes with it (R178). -/
def State.dropAborts (s : State) (d : Nat) : State :=
  { s with
    eng :=
      { s.eng with
        roots := s.eng.roots.map fun (n, r) => (n, { r with aborts := r.aborts.filter fun a => a.dispatch ≠ d }) } }

/-- Invalidates the level-1 regions of the cores that a dispatch has run on (R31, R213). -/
def State.dropDispatchLines (s : State) (x : Dispatch) : State :=
  x.ran.foldl (fun s c => s.onCore c fun y => { y with level1 := [] }) s

/-- Frees what a dispatch that has ended holds. -/
def State.closeDispatch (s : State) (d : Nat) (x : Dispatch) : State :=
  let s := (s.flushDispatch d).freeLocks d
  let s := ((s.groupsOf d).foldl (fun s (g, _) => s.freeGroup g) s).pruneSaves
  let s := ((s.dropCambium d).dropAborts d).dropDispatchLines x
  let cbars := s.comp.cbars.filter fun (k, _) => k / 2 ^ 20 ≠ d
  { s with comp := { s.comp with cbars := cbars } }

/-- DISPATCH_COMPLETE (R298): every group and program has ended, or a kill without replay is done; the record is written. The groups of
a cambium dispatch end together (R249). -/
def execDispatchComplete (d : Nat) (s : State) : Result :=
  match s.dispatch? d with
  | none => .next s
  | some x =>
    if s.recordWaits d x then .next s
    else
      match x.phase with
      | .stopped code again =>
        if again || code = 6 || code = 7 then .next s else .next (s.finishDispatch d 3 code x.attempts)
      | .accepted =>
        let s := s.endCambium d
        match s.dispatch? d with
        | none => .next s
        | some x =>
          if totalGroups x.record ≤ x.nextRank ∧ s.groupsOf d = [] ∧ !s.hasPrograms d ∧ !s.pathsWait d then
            .next ((s.closeDispatch d x).finishDispatch d 1 0 x.attempts)
          else .next s
      | _ => .next s

/-- The collectives that a dispatch has queued or running: die, communicator and attempt (R280, R301). -/
def State.collectivesOf (s : State) (d : Nat) : List (Nat × Nat × BitVec 16) :=
  let of (die : Nat) (p : Prog) : Option (Nat × Nat × BitVec 16) :=
    match p.block with
    | some b => if p.dispatch = d then some (die, blockComm b.toNat, BitVec.ofNat 16 (bits b.toNat 479 464)) else none
    | none => none
  (s.eng.canopies.flatMap fun (n, c) => (c.queue ++ tvals c.ctxs).filterMap (of (n / 2))) ++
    s.dies.flatMap fun (n, x) => x.waiting.filterMap fun w => of n w.2

/-- Aborts every program and block of a dispatch, started or not (R178, R193, R299). -/
def State.abortPrograms (s : State) (d : Nat) : State :=
  let mine (p : Prog) : Bool := p.dispatch = d
  let s := s.contexts.foldl (fun s e =>
    match s.prog? e with
    | some p => if mine p then s.abortProg e 0 else s
    | none => s) s
  let s := s.eng.roots.foldl (fun s (n, r) =>
    let e := EngRef.root (n / 32) (n % 32) 0
    let s := (r.front.filter mine).foldl (fun s p => (s.abortQueued e p 3 0).accepted p) s
    let s := (r.queue.filter mine).foldl (fun s p => s.abortQueued e p 3 0) s
    s.onRoot n fun r => { r with front := r.front.filter fun p => !mine p, queue := r.queue.filter fun p => !mine p }) s
  let s := s.eng.canopies.foldl (fun s (n, c) =>
    let e := EngRef.canopy (n / 2) (n % 2) 0
    let s := (c.queue.filter mine).foldl (fun s p => s.abortQueued e p 3 0) s
    let posts := c.front.filter fun m => m.dispatch = d && match m.msg with
      | .post _ => true
      | _ => false
    let s := posts.foldl (fun s m => s.finishOp m.warp m.seq) s
    s.onCanopy n fun c =>
      { c with queue := c.queue.filter fun p => !mine p, front := c.front.filter fun m => !posts.contains m }) s
  s.dies.foldl (fun s (n, x) =>
    let s := (x.waiting.filter fun w => mine w.2).foldl (fun s w => s.abortQueued (.canopy n w.1 0) w.2 3 0) s
    s.onDie n fun x => { x with waiting := x.waiting.filter fun w => !mine w.2 }) s

/-- Stops a warp of a killed dispatch at its boundary; a clause stalled at issue is withdrawn (R299). -/
def State.stopWarp (s : State) (w : Nat) : State :=
  match (s.warp w).phase with
  | .issuing =>
    match s.clauseOf w with
    | some (q, c) => if c.stalled then s.onClause q fun c => { c with ending := some .withdrawn, stalled := false } else s
    | none => s
  | .gone => s
  | _ => (((s.withdrawLdws w).dropRequests w).onWarp w Warp.exitAll).progress (coreOf w) (s.ctxOfWarp w)

/-- No access of a dispatch remains in flight (R299). -/
def State.quiet (s : State) (d : Nat) : Bool :=
  (s.warpsOf d).all (fun (w, W) =>
    (s.clauseOf w).isNone && W.phase ≠ .issuing && W.ops.all fun o => !o.kind.isAccess || o.made) &&
    !s.hasPrograms d && !s.pathsWait d &&
    s.comp.transfers.all fun (_, t) => s.transferDispatch t ≠ d

/-- DISPATCH_KILL (R299): warps stop at their boundaries, programs are aborted, transfers that no credit has let start, or whose
group is saved, are dropped; once nothing is in flight the dispatch's locks, banks, windows and groups are freed. -/
def execDispatchKill (d : Nat) (s : State) : Result :=
  match s.dispatch? d with
  | none => .next s
  | some x =>
    match x.phase with
    | .killing code again =>
      let s := s.onDispatch d fun y => { y with colls := (y.colls ++ s.collectivesOf d).eraseDups }
      let s := (tkeys (s.warpsOf d)).foldl State.stopWarp s
      let s := s.abortPrograms d
      let s := s.dropCambium d
      let held := s.comp.transfers.filter fun (_, t) => s.transferDispatch t = d && !(t.charged && t.lands)
      let s := (tkeys held).foldl State.cancelTransfer s
      if s.quiet d then
        let s := s.closeDispatch d x
        .next (s.onDispatch d fun y =>
          { y with live := 0, nextRank := totalGroups y.record, phase := .stopped code again })
      else .next s
    | _ => .next s

/-- Entries of an image over what a table lists outside a page. -/
def pageBack {α : Type} [DecidableEq α] (zero : α) (t image : Table α) (here : Nat → Bool) : Table α :=
  image.foldl (fun t e => tset zero t e.1 e.2) (t.filter fun e => !here e.1)

/-- Writes a snapshot page back whole, as its copy holds it: bytes, poison marks and keys (R300, R301, R345, R346; log entry 9). -/
def State.restorePage (s : State) (page : Nat) (image : PageImage) : State :=
  { s with
    mem :=
      { s.mem with
        hbm := pageBack 0 s.mem.hbm image.bytes fun a => a / 65536 = page
        poison := pageBack false s.mem.poison image.poison fun n => n / 2048 = page
        lineKeys := pageBack 0 s.mem.lineKeys image.lineKeys fun n => n / 512 = page
        keyed := pageBack 0 s.mem.keyed image.keyed fun a => a / 65536 = page
        versions := (List.range 2048).foldl (fun t i =>
          tset 0 t (page * 2048 + i) (tget 0 t (page * 2048 + i) + 1)) s.mem.versions } }

/-- Sends the abort of an attempt of a communicator to its members (R280). -/
def State.sendAbort (s : State) (ctx die comm : Nat) (attempt : BitVec 16) : State :=
  let members := match tfind (s.die die).comms (ctx * 256 + comm) with
    | some c => c.members
    | none => []
  members.foldl (fun s m =>
    let n := tnext s.eng.flights
    { s with eng := { s.eng with flights := tput s.eng.flights n { src := die, msg := .abort ctx comm attempt m } } }) s

/-- An abort that a kill has sent is still on its way (R301). -/
def State.aborting (s : State) (x : Dispatch) : Bool :=
  s.eng.flights.any fun (_, f) =>
    match f.msg with
    | .abort ctx comm attempt _ => ctx = x.slot && x.colls.any fun (_, c, a) => c = comm && a = attempt
    | _ => false

/-- DISPATCH_REPLAY (R301): after a kill for a consumed error, copied pages are written back and the dispatch's collectives
aborted; once the aborts have arrived, the dispatch is accepted again or completed. -/
def execDispatchReplay (d : Nat) (s : State) : Result :=
  match s.dispatch? d with
  | none => .next s
  | some x =>
    match x.phase with
    | .stopped code again =>
      if !again && code ≠ 6 && code ≠ 7 then .next s
      else
        let s := x.pages.foldl (fun s (p, i) =>
          match i with
          | some b => s.restorePage p b
          | none => s) s
        let s := x.colls.foldl (fun s (die, comm, a) => s.sendAbort x.slot die comm a) s
        .next (s.onDispatch d fun y => { y with phase := .aborting code again })
    | .aborting code again =>
      if s.aborting x then .next s
      else if again then
        match s.checkDispatch x.slot x.record false with
        | .error c => .next (s.reject d x c)
        | .ok a => .next (s.acceptDispatch d x a)
      else .next (if s.recordWaits d x then s else s.finishDispatch d 3 code x.attempts)
    | _ => .next s

end Sys2Proof.Machine
end

