-- ==== Sys2Proof/Machine/RootCommands.lean ====
section
/-! DEFINITION. Root engines and the commands that root and canopy engines run, R177, R178, R190 to R193, R237, R246 to R248,
R272 to R276 (spec/08_isa_engines_system.md, spec/11_root_engines_windows.md, spec/13_fabric_and_collectives.md). -/

namespace Sys2Proof.Machine

/-! ### Acceptance and start of programs (R177, R178) -/

/-- An abort.root can take effect: its release is done and no earlier submission of its warp is still on its way. -/
def State.abortDue (s : State) (r : Nat) (a : RootAbort) : Bool :=
  a.ctxs.isNone && s.handed a.warp a.seq a.scope &&
    (s.root r).front.all fun p =>
      match p.owner with
      | some (w, seq) => w ≠ a.warp || a.seq < seq || s.handed w seq p.scope
      | none => true

/-- A submission stands in front of its engine: its release is done and it was issued before a point of a warp. -/
def State.stands (s : State) (p : Prog) : Bool :=
  match p.owner with
  | some (w, seq) => s.handed w seq p.scope
  | none => true

/-- A submission comes before an abort of its own warp. -/
def Prog.before (p : Prog) (a : RootAbort) : Bool :=
  match p.owner with
  | some (w, seq) => w ≠ a.warp || seq < a.seq
  | none => true

/-- An abort.root takes effect (R178): programs that have not started end with their records, running ones stop; its count
completes when the last of them has written its record. -/
def State.serveAbort (s : State) (r : Nat) (a : RootAbort) : State :=
  let e (c : Nat) : EngRef := .root (r / 32) (r % 32) c
  let s := s.markRelease a.warp a.seq a.scope
  let x := s.root r
  let front := x.front.filter fun p => p.dispatch = a.dispatch && p.before a && s.stands p
  let queue := x.queue.filter fun p => p.dispatch = a.dispatch
  let s := s.onRoot r fun x =>
    { x with
      front := x.front.filter fun p => !front.contains p
      queue := x.queue.filter fun p => p.dispatch ≠ a.dispatch }
  let s := front.foldl (fun s p => (s.abortQueued (e 0) p 3 0).accepted p) s
  let s := queue.foldl (fun s p => s.abortQueued (e 0) p 3 0) s
  let s := (tkeys (x.ctxs.filter fun (_, p) => p.dispatch = a.dispatch)).foldl (fun s c => s.abortProg (e c) 0) s
  let left := ((s.root r).ctxs.filter fun (_, p) =>
    p.dispatch = a.dispatch && match p.phase with
      | .finishing 3 _ => true
      | _ => false).map Prod.fst
  if left.isEmpty then
    let s := s.onRoot r fun x => { x with aborts := x.aborts.filter fun b => b ≠ a }
    (s.finishOp a.warp a.seq).wake a.warp
  else s.onRoot r fun x => { x with aborts := x.aborts.map fun b => if b = a then { b with ctxs := some left } else b }

/-- The submission that an engine accepts next: the first that stands in front of it, with none of its warp before it and no
abort of its warp before it. -/
def State.nextSubmission (s : State) (r : Nat) : Option Prog :=
  let x := s.root r
  x.front.find? fun p =>
    s.stands p && match p.owner with
      | none => true
      | some (w, seq) =>
        (x.front.all fun q =>
          match q.owner with
          | some (v, n) => v ≠ w || seq ≤ n
          | none => true) &&
          x.aborts.all fun a => a.ctxs.isSome || a.warp ≠ w || seq < a.seq

/-- ROOT_PROGRAM_ACCEPT (R177, R178): an abort that is due takes effect; otherwise the queue takes the next submission. -/
def execRootProgramAccept (die slice : Nat) (s : State) : Result :=
  let r := die * 32 + slice
  match (s.root r).aborts.find? (s.abortDue r) with
  | some a => .next (s.serveAbort r a)
  | none =>
    match s.nextSubmission r with
    | none => .next s
    | some p =>
      if 16 ≤ (s.root r).queue.length then .next s
      else
        let s := s.onRoot r fun x => { x with front := x.front.filter fun q => q ≠ p, queue := x.queue ++ [p] }
        .next (s.accepted p)

/-- A program begins (R190, R193): g1 holds the argument. -/
def Prog.begin (p : Prog) : Prog := { (p.setG 1 p.arg.toNat) with pc := p.start, phase := .running }

/-- ROOT_PROGRAM_START (R177): the oldest accepted program takes a free context. -/
def execRootProgramStart (die slice : Nat) (s : State) : Result :=
  let r := die * 32 + slice
  match (s.root r).queue, (List.range 4).find? fun c => (tfind (s.root r).ctxs c).isNone with
  | p :: t, some c => .next (s.onRoot r fun x => { x with queue := t, ctxs := tput x.ctxs c p.begin })
  | _, _ => .next s

/-! ### Commands (R190 to R192) -/

/-- It is a context's turn on its engine: root engines pass the turn at command boundaries (R177, R192). -/
def State.myTurn (s : State) (e : EngRef) : Bool :=
  match e with
  | .canopy .. => true
  | .root d n c =>
    let r := s.root (d * 32 + n)
    let runs (i : Nat) : Bool :=
      match tfind r.ctxs i with
      | some p => p.phase = .running
      | none => false
    ((List.range 4).map fun i => (r.turn + i) % 4).find? runs = some c

/-- Passes a root engine's turn on. -/
def State.passTurn (s : State) (e : EngRef) : State :=
  match e with
  | .canopy .. => s
  | .root d n c => s.onRoot (d * 32 + n) fun r => { r with turn := (c + 1) % 4 }

/-- A command starts (R193): NCMD, CADDR and the command address. A built-in expansion counts no register setting, and
its commands have no address (R272). -/
def Prog.startCmd (p : Prog) (counted : Bool) : Prog :=
  { p with
    ncmd := if p.internal && !counted then p.ncmd else bump 32 p.ncmd
    issued := p.issued + 1
    caddr := if p.internal then (if counted then p.start else p.caddr) else p.pc
    pc := (p.pc + 16) % 2 ^ 64
    script := p.script.tail }

/-- The virtual channel of a canopy context's communicator. -/
def State.channelOf (s : State) (e : EngRef) (p : Prog) : Option (Fin 8) :=
  match p.block with
  | some b => (tfind (s.die (engDie e)).comms (p.slot * 256 + blockComm b.toNat)).map Comm.channel
  | none => none

/-- Another context of the canopy engine holds the chunk slot of this context's channel (R192, R274). -/
def State.chunkTaken (s : State) (e : EngRef) (p : Prog) : Bool :=
  match e, s.channelOf e p with
  | .canopy d n c, some ch =>
    (s.canopy (d * 2 + n)).ctxs.any fun (i, q) => i ≠ c && q.holdsChunk && s.channelOf e q = some ch
  | _, _ => false

/-- What is common to commands: whether it counts as started, whether it waits for earlier writes (R192), whether it moves
data on the communicator's channel, the ranges that it reads, for the routes to them, and whether its destinations can be reached
now. -/
structure CmdSpec where
  counted  : Bool := true
  releases : Bool := false
  data     : Bool := false
  reads    : Prog → List (Nat × Nat) := fun _ => []
  blocked  : EngRef → Prog → State → Bool := fun _ _ _ => false

/-- Runs a command on the engine context that is the agent, when its program runs and has the turn: a command that cannot
start yet passes the turn; one that starts counts, and `run` gives its effect, from the program as it stood before. -/
def command (c : CmdSpec) (run : EngRef → Prog → State → State) (s : State) : Result :=
  match s.sched.agent with
  | .quarter _ => .next s
  | .engine e =>
    match s.prog? e with
    | none => .next s
    | some p =>
      if p.phase ≠ .running || !s.myTurn e then .next s
      else
        let s := s.passTurn e
        if (c.releases && !s.progReleased e) || (c.data && s.chunkTaken e p) || c.blocked e p s ||
            (c.reads p).any (fun r => s.rangeWaits (engDie e) p.slot r.1 r.2) then .next s
        else
          let s := s.onProg e fun p =>
            { p.startCmd c.counted with holdsChunk := p.holdsChunk || (c.data && isCanopy e) }
          .next (run e p s)

/-- Writes an engine register of a program. -/
def State.setReg (s : State) (e : EngRef) (n : Fin 16) (v : Nat) : State := s.onProg e fun p => p.setG n v

/-- A 64-bit address. -/
def addr64 (n : Nat) : Nat := n % 2 ^ 64

/-- An immediate extended by its sign to 64 bits. -/
def sext64 (imm : Word) : Nat := wrap 64 (toSigned 32 imm.toNat)

/-- Holds a write of a program until it is performed (R192), or ends the program where it cannot be made. -/
def State.engStore (s : State) (e : EngRef) (va : Nat) (bytes : List Byte) : State :=
  match s.prog? e with
  | none => s
  | some p =>
    let fault := s.engWriteFault (engDie e) p.slot va bytes.length
    let s := s.keepWalks (engDie e) p.slot va bytes.length .write
    match fault with
    | some c => s.progFault e c
    | none =>
      if bytes.isEmpty then s
      else s.onProg e fun p => { p with writes := p.writes ++ [{ place := p.issued, va := va, bytes := bytes }] }

/-! ### Arithmetic and branches (R191) -/

/-- CMD_NOP: no effect. -/
def execCmdNop (s : State) : Result := command {} (fun _ _ s => s) s

/-- CMD_SETI: FA := X. -/
def execCmdSeti (fa : Fin 16) (x : Double) (s : State) : Result :=
  command { counted := false } (fun e _ s => s.setReg e fa x.toNat) s

/-- CMD_ADDI: FA := FB + X. -/
def execCmdAddi (fa fb : Fin 16) (x : Double) (s : State) : Result :=
  command {} (fun e p s => s.setReg e fa (p.g fb + x.toNat)) s

/-- CMD_ADD: FA := FB + FC + sext(IMM). -/
def execCmdAdd (fa fb fc : Fin 16) (imm : Word) (s : State) : Result :=
  command {} (fun e p s => s.setReg e fa (p.g fb + p.g fc + sext64 imm)) s

/-- CMD_MAD: FA := FB × FC + X. -/
def execCmdMad (fa fb fc : Fin 16) (x : Double) (s : State) : Result :=
  command {} (fun e p s => s.setReg e fa (p.g fb * p.g fc + x.toNat)) s

/-- A branch moves to the command address plus 16 × sext(IMM) (R191). -/
def State.branch (s : State) (e : EngRef) (p : Prog) (imm : Word) : State :=
  s.onProg e fun q => { q with pc := addr64 (p.pc + 16 * sext64 imm) }

/-- CMD_BR. -/
def execCmdBr (imm : Word) (s : State) : Result := command {} (fun e p s => s.branch e p imm) s

/-- CMD_BRC: a comparison at 64 bits. -/
def execCmdBrc (fa fb : Fin 16) (cmp : MCond) (imm : Word) (s : State) : Result :=
  command {} (fun e p s => if compareAt 64 (MCond.num cmp) (p.g fa) (p.g fb) then s.branch e p imm else s) s

/-- CMD_LOOP: FA := FA − 1, and a branch if FA is not zero. -/
def execCmdLoop (fa : Fin 16) (imm : Word) (s : State) : Result :=
  command {} (fun e p s =>
    let q := p.setG fa (p.g fa + (2 ^ 64 - 1))
    let s := s.setReg e fa (p.g fa + (2 ^ 64 - 1))
    if q.g fa ≠ 0 then s.branch e p imm else s) s

/-! ### Memory (R191) -/

/-- CMD_LDG: 8 bytes, fresh. -/
def execCmdLdg (fa fb : Fin 16) (x : Double) (s : State) : Result :=
  command { reads := fun p => [(addr64 (p.g fb + x.toNat), 8)] } (fun e p s =>
    let a := addr64 (p.g fb + x.toNat)
    if a % 8 ≠ 0 then s.progFault e 8
    else
      match s.engRead (engDie e) p.slot a 8 with
      | .error c => s.progError e c [(a, 8)]
      | .ok b => s.setReg e fa (ofBytes b)) s

/-- CMD_STG: with .rel after every earlier write. -/
def execCmdStg (fa fb : Fin 16) (x : Double) (rel : Bool) (s : State) : Result :=
  command { releases := rel } (fun e p s =>
    let a := addr64 (p.g fb + x.toNat)
    if a % 8 ≠ 0 then s.progFault e 8 else s.engStore e a (toBytes 8 (p.g fa))) s

/-- CMD_ATOM: an addition in the home sync engine. -/
def execCmdAtom (fa fb : Fin 16) (x : Double) (s : State) : Result :=
  command { reads := fun p => [(p.g fb, 8)] } (fun e p s =>
    let a := p.g fb
    if a % 8 ≠ 0 then s.progFault e 8
    else
      match s.engWriteFault (engDie e) p.slot a 8, s.engRead (engDie e) p.slot a 8 with
      | some c, _ => (s.keepWalks (engDie e) p.slot a 8 .write).progFault e c
      | none, .error c => s.progError e c [(a, 8)]
      | none, .ok b =>
        (s.engWrite (engDie e) p.dispatch p.slot a (toBytes 8 (ofBytes b + x.toNat))).setReg e fa (ofBytes b)) s

/-- CMD_MOVE: IMM bytes from global to global. -/
def execCmdMove (fa fb : Fin 16) (imm : Word) (s : State) : Result :=
  command { data := true, reads := fun p => [(p.g fb, imm.toNat)] } (fun e p s =>
    let n := imm.toNat
    if overlaps (p.g fa) n (p.g fb) n then s.progFault e 9
    else
      match s.engRead (engDie e) p.slot (p.g fb) n with
      | .error c => s.progError e c [(p.g fb, n)]
      | .ok b => s.engStore e (p.g fa) b) s

/-- Element-wise sums of two arrays, rounded once to nearest even (R36, R191). -/
def sumArrays (bf16 : Bool) (a b : List Byte) : List Byte :=
  let es := if bf16 then 2 else 4
  let f := if bf16 then bf16Fmt else f32Fmt
  let n := a.length / es
  ((chunks es n a).zip (chunks es n b)).flatMap fun (x, y) =>
    toBytes es (addFl f .rn (Fl.decode f (ofBytes x)) (Fl.decode f (ofBytes y))).1

/-- CMD_SUM: checks of length, alignment and overlap, then FC[i] := FA[i] + FB[i]. -/
def execCmdSum (fa fb fc : Fin 16) (imm : Word) (bf16 : Bool) (s : State) : Result :=
  command { data := true, reads := fun p => [(p.g fa, imm.toNat), (p.g fb, imm.toNat)] } (fun e p s =>
    let n := imm.toNat
    let es := if bf16 then 2 else 4
    let a := p.g fa
    let b := p.g fb
    let c := p.g fc
    if n % es ≠ 0 then s.progFault e 1
    else if a % es ≠ 0 ∨ b % es ≠ 0 ∨ c % es ≠ 0 then s.progFault e 8
    else if (c ≠ a && overlaps c n a n) || (c ≠ b && overlaps c n b n) then s.progFault e 9
    else
      match s.engRead (engDie e) p.slot a n, s.engRead (engDie e) p.slot b n with
      | .error k, _ => s.progError e k [(a, n)]
      | _, .error k => s.progError e k [(b, n)]
      | .ok x, .ok y => s.engStore e c (sumArrays bf16 x y)) s

/-- CMD_FENCE (.grp to .pod): the command starts once earlier reads have their values and earlier writes are performed. -/
def execCmdFence (scope : Scope) (s : State) : Result :=
  command { releases := decide (2 ≤ scope.level) } (fun e _ s =>
    if scope.level < 2 then s.progFault e 1 else s) s

/-! ### Pushes and steps (R237, R246 to R248) -/

/-- A saved group of a dispatch holds a core-store offset of the core that it left: what aims at it waits for the
restore (R245). -/
def State.savedHolds (s : State) (dispatch core o : Nat) : Bool :=
  (s.ctl.saves.flatMap Prod.snd).any fun v =>
    coreOfGroup v.left = core && match s.group? v.group with
      | some g => g.dispatch = dispatch && g.holds o 1
      | none => false

/-- A descriptor aims at a saved group. -/
def State.descSaved (s : State) (dispatch d : Nat) : Bool :=
  let x := descOf d
  s.savedHolds dispatch x.core x.offset || match x.bar with
    | some o => s.savedHolds dispatch x.core o
    | none => false

/-- The descriptors of a list, checked in list order (R248). -/
def State.checkDescs (s : State) (die dispatch n : Nat) : List Nat → Except Nat (List (Desc × Nat))
  | [] => .ok []
  | d :: t =>
    match s.descFault die dispatch d n with
    | .error c => .error c
    | .ok x =>
      match s.checkDescs die dispatch n t with
      | .error c => .error c
      | .ok l => .ok (x :: l)

/-- CMD_PUSH (R246). -/
def execCmdPush (fa fb fc : Fin 16) (s : State) : Result :=
  command { data := true, reads := fun p => [(p.g fb, 64)], blocked := fun _ p s => s.descSaved p.dispatch (p.g fa) } (fun e p s =>
    match s.pushRecord e p.slot (p.g fb) (p.g fc) with
    | (s, .error c) => s.progError e c [(p.g fb, 64)]
    | (s, .ok r) =>
      match s.checkDescs (engDie e) p.dispatch (recSize r.toNat) [p.g fa] with
      | .error c => s.progFault e c
      | .ok l => s.startPush e p r (p.g fc) false l) s

/-- The descriptors that a PUSHMC lists (R248). -/
def State.descList (s : State) (e : EngRef) (p : Prog) (a n : Nat) : Except Nat (List Nat) :=
  match s.engRead (engDie e) p.slot a (8 * n) with
  | .error c => .error c
  | .ok b => .ok ((chunks 8 n b).map ofBytes)

/-- CMD_PUSHMC (R248). An IMM outside 1 to 32 ends with code 1 before the record is read (log entry 66). -/
def execCmdPushmc (fa fb fc : Fin 16) (imm : Word) (s : State) : Result :=
  let n := imm.toNat
  command
    { data := true, reads := fun p => [(p.g fa, 8 * n), (p.g fb, 64)],
      blocked := fun e p s =>
        decide (n ≤ 32) && match s.descList e p (p.g fa) n with
          | .ok l => l.any fun d => s.descSaved p.dispatch d
          | .error _ => false }
    (fun e p s =>
      if n = 0 ∨ 32 < n then s.progFault e 1
      else
        match s.pushRecord e p.slot (p.g fb) (p.g fc) with
        | (s, .error c) => s.progError e c [(p.g fb, 64)]
        | (s, .ok r) =>
          match s.descList e p (p.g fa) n with
          | .error c => s.progError e c [(p.g fa, 8 * n)]
          | .ok ds =>
            match s.checkDescs (engDie e) p.dispatch (recSize r.toNat) ds with
            | .error c => s.progFault e c
            | .ok l => s.startPush e p r (p.g fc) true l) s

/-- CMD_STEP (R237). -/
def execCmdStep (fa fb : Fin 16) (s : State) : Result :=
  command { reads := fun p => [(p.g fb, 64)] } (fun e p s =>
    match s.pushRecord e p.slot (p.g fb) (p.g fa) with
    | (s, .error c) => s.progError e c [(p.g fb, 64)]
    | (s, .ok r) => s.setReg e fa (stepCoords r.toNat (p.g fa))) s

/-! ### Signals, tokens and waits (R191, R192) -/

/-- The code that the barrier of a SIG or WBAR fails with (R191, R192). -/
def State.signalFault (s : State) (die dispatch d : Nat) : Option Nat :=
  if bits d 63 58 ≠ 0 then some 4 else s.barFault die dispatch (descOf d)

/-- A descriptor's barrier cannot be signalled yet: its group is saved, or the route to its core holds packets (R245, R331, R332). -/
def State.signalWaits (s : State) (e : EngRef) (p : Prog) (d : Nat) : Bool :=
  s.descSaved p.dispatch d || s.pairWaits fabricUnit (engDie e) (dieOfCore (descOf d).core)

/-- The granule of a barrier holds an uncorrectable error, which a command that reads the barrier consumes (R322, R325; log
entry 82). -/
def State.barPoison (s : State) (core o : Nat) : Bool := tget false (s.core core).poison (o / 16)

/-- CMD_SIG: an arrival of IMM after a release. -/
def execCmdSig (fa : Fin 16) (imm : Word) (s : State) : Result :=
  command { releases := true, blocked := fun e p s => s.signalWaits e p (p.g fa) } (fun e p s =>
    match s.signalFault (engDie e) p.dispatch (p.g fa) with
    | some c => s.progFault e c
    | none =>
      match (descOf (p.g fa)).bar with
      | some o =>
        if s.barPoison (descOf (p.g fa)).core o then s.progBadData e o else s.arrive (descOf (p.g fa)).core o imm.toNat
      | none => s) s

/-- Sends something over the fabric from a die. -/
def State.send (s : State) (src : Nat) (f : Flight) : State :=
  { s with eng := { s.eng with flights := tput s.eng.flights (tnext s.eng.flights) { src := src, msg := f } } }

/-- CMD_TOK: a token after a release; 0x3FF names the own die. A die that is not enabled refuses it (R176, R179). -/
def execCmdTok (imm : Word) (die : BitVec 10) (s : State) : Result :=
  command { releases := true } (fun e p s =>
    let t := if die.toNat = 0x3FF then engDie e else die.toNat
    if s.dieUp t then s.send (engDie e) (.token p.slot imm.toNat t none)
    else s.ring (engDie e) 0x13 (s.ident p.slot) [engUnit e, 0, p.caddr]) s

/-- Changes the count of a token of a context slot in a die's matching store (R278). -/
def State.setTokens (s : State) (die slot id n : Nat) : State :=
  s.onDie die fun d => { d with tokens := tset 0 d.tokens (slot * 2 ^ 32 + id) n }

/-- The condition of a waiting command, or the code of R193 that it meets (R191). A barrier of a group that is away is not
read. -/
def State.engineCond (s : State) (e : EngRef) (p : Prog) : Instr → Except Nat Bool
  | .cmdWtok imm _ _ => .ok (decide (1 ≤ s.tokens (engDie e) p.slot imm.toNat))
  | .cmdWbar fa phase _ =>
    let d := descOf (p.g fa)
    match d.bar with
    | some o =>
      if (s.barrierGroup p.dispatch d.core o).isNone then .ok false
      else if s.barPoison d.core o then .error 3
      else .ok (decide (s.barrierPhase d.core o = b2n phase))
    | none => .ok false
  | .cmdWmem fa fb cmp wide _ =>
    let n := if wide then 8 else 4
    if s.rangeWaits (engDie e) p.slot (p.g fa) n then .ok false
    else
    match s.engRead (engDie e) p.slot (p.g fa) n with
    | .error c => .error c
    | .ok b => .ok (compareAt (if wide then 64 else 32) (MCond.num cmp) (ofBytes b) (p.g fb))
  | _ => .ok false

/-- The effect of a wait whose condition is met: WTOK with .consume takes the token (R191, R278). -/
def State.waitDone (s : State) (e : EngRef) (p : Prog) (cmd : Instr) : State :=
  let s := s.onProg e fun q => { q with phase := .running }
  match cmd with
  | .cmdWtok imm true _ => s.setTokens (engDie e) p.slot imm.toNat (s.tokens (engDie e) p.slot imm.toNat - 1)
  | _ => s

/-- Judges a waiting command: the program runs on, ends by a fault, or waits. -/
def State.judgeWait (s : State) (e : EngRef) (p : Prog) (cmd : Instr) (deadline : Option Nat) : State :=
  match s.engineCond e p cmd with
  | .error c =>
    match cmd with
    | .cmdWmem fa _ _ wide _ => s.progError e c [(p.g fa, if wide then 8 else 4)]
    | .cmdWbar fa _ _ => s.progBadData e ((descOf (p.g fa)).bar.getD 0)
    | _ => s
  | .ok true => s.waitDone e p cmd
  | .ok false => s.onProg e fun q => { q with phase := .waiting cmd deadline, holdsChunk := false }

/-- The deadline of a timeout in rt; 0 means none (R191). -/
def State.deadline (s : State) (tmo : BitVec 28) : Option Nat := if tmo.toNat = 0 then none else some (s.rt + tmo.toNat)

/-- CMD_WTOK. -/
def execCmdWtok (imm : Word) (consume : Bool) (tmo : BitVec 28) (s : State) : Result :=
  command {} (fun e p s => s.judgeWait e p (.cmdWtok imm consume tmo) (s.deadline tmo)) s

/-- CMD_WBAR: a descriptor without a barrier ends the program with code 4. -/
def execCmdWbar (fa : Fin 16) (phase : Bool) (tmo : BitVec 28) (s : State) : Result :=
  command { blocked := fun _ p s => s.descSaved p.dispatch (p.g fa) } (fun e p s =>
    match s.signalFault (engDie e) p.dispatch (p.g fa), (descOf (p.g fa)).bar with
    | some c, _ => s.progFault e c
    | none, none => s.progFault e 4
    | none, some _ => s.judgeWait e p (.cmdWbar fa phase tmo) (s.deadline tmo)) s

/-- CMD_WMEM: the word is aligned to its width. -/
def execCmdWmem (fa fb : Fin 16) (cmp : MCond) (wide : Bool) (tmo : BitVec 28) (s : State) : Result :=
  command { reads := fun p => [(p.g fa, if wide then 8 else 4)] } (fun e p s =>
    if p.g fa % (if wide then 8 else 4) ≠ 0 then s.progFault e 8
    else s.judgeWait e p (.cmdWmem fa fb cmp wide tmo) (s.deadline tmo)) s

/-- ENGINE_WAIT_MET (R193): a waiting command is judged again; a push held by credit is charged further (R248). -/
def execEngineWaitMet (e : EngRef) (s : State) : Result :=
  match s.prog? e with
  | none => .next s
  | some p =>
    match p.phase with
    | .waiting cmd deadline => .next (s.judgeWait e p cmd deadline)
    | .charging l => .next (s.pushOn e l)
    | _ => .next s

/-- ENGINE_WAIT_TIMEOUT (R193): code 5. -/
def execEngineWaitTimeout (e : EngRef) (s : State) : Result :=
  match s.prog? e with
  | none => .next s
  | some p =>
    match p.phase with
    | .waiting _ (some t) => if t ≤ s.rt then .next (s.progFault e 5) else .next s
    | _ => .next s

/-! ### Collectives (R273 to R276) -/

/-- Dies that share a node at a level of a reduction tree: chip, module, pod (R264, R275). -/
def levelWidth (level : Nat) : Nat := if level = 0 then 2 else if level = 1 then 32 else 2 ^ 20

/-- The lowest rank among the members that share a node with a rank at a level. -/
def lowestRank (members : List Nat) (level rank : Nat) : Nat :=
  let die := nth 0 members rank
  ((members.zipIdx.find? fun (d, _) => d / levelWidth level = die / levelWidth level).map Prod.snd).getD rank

/-- The children of the node whose lowest rank is n, in port order (R275). -/
def treeChildren (members : List Nat) (level n : Nat) : List Nat :=
  (List.range members.length).filter fun r =>
    lowestRank members level r = n && (level = 0 || lowestRank members (level - 1) r = r)

/-- Elements of a payload: f32 as it is, bf16 widened exactly (R275). -/
def elements (bf16 : Bool) (b : List Byte) : List Word :=
  if bf16 then (chunks 2 ((b.length + 1) / 2) b).map fun x => BitVec.ofNat 32 (ofBytes x * 65536)
  else (chunks 4 ((b.length + 3) / 4) b).map fun x => BitVec.ofNat 32 (ofBytes x)

/-- OP of a context's collective; a program's own RED delivers to every member (R191, R270). -/
def Prog.op (p : Prog) : Nat :=
  match p.block with
  | some b => blockOp b.toNat
  | none => 7

/-- A block's collective runs on a reduction tree: ALG 0, or no payload to combine (R270, R273). -/
def blockTree (b : Nat) : Bool :=
  bits b 415 412 = 0 || (bits b 511 480 = 0 && [0, 1, 4].contains (blockOp b))

/-- The REDs of a context run on trees. -/
def Prog.tree (p : Prog) : Bool :=
  match p.block with
  | some b => blockTree b.toNat
  | none => true

/-- The source bytes that a member contributes to a tree (R270, R273): OP 4 takes the part of each of its n blocks, OP 2 sends the
root's data alone. -/
def State.contributed (s : State) (e : EngRef) (p : Prog) (c : Comm) (src n : Nat) : Except Nat (List Byte) :=
  let read (a : Nat) : Except Nat (List Byte) := s.engRead (engDie e) p.slot a n
  match p.op, p.block with
  | 4, some b =>
    (List.range c.members.length).foldl (fun acc k =>
      match acc with
      | .error x => .error x
      | .ok l =>
        match read (src + k * bits b.toNat 511 480) with
        | .error x => .error x
        | .ok r => .ok (l ++ r)) (.ok [])
  | 2, some b => if bits b.toNat 447 438 = c.rank then read src else .ok []
  | _, _ => read src

/-! ### Collectives that no tree reduces: ring and direct (R270, R273, R277) -/

/-- A part of a collective is taken at a member: its bytes are written at the destination and its RED completes (R228, R273). -/
def State.takePart (s : State) (e : EngRef) (p : Prog) (key : Nat) (w : RedWait) (bytes : List Byte) : State :=
  let s := s.onProg e fun q => { q with reds := tdel q.reds key }
  match s.engWriteFault (engDie e) p.slot w.dst bytes.length with
  | some k => (s.progFault e k).tryFinish e
  | none => (s.engWrite (engDie e) p.dispatch p.slot w.dst bytes).tryFinish e

/-- The engine of a rank has the bytes of a block after its own addition (R277) or as they are. A sum goes on to the next rank until the
block's own rank has added; that one takes it. A finished block goes around the ring, or, with ALG 2, from its rank to every
member; a reduce-scatter leaves it where it is. -/
def State.passPart (s : State) (e : EngRef) (p : Prog) (c : Comm) (comm key block : Nat) (adding : Bool) (w : RedWait)
    (bytes : List Byte) : State :=
  let die := engDie e
  let n := c.members.length
  let seq := key / 256
  let pass (rank : Nat) (adding : Bool) (s : State) : State :=
    s.send die (.part p.slot comm c.attempt seq block adding (nth 0 c.members rank) bytes)
  let next := (c.rank + 1) % n
  let direct := match p.block with
    | some b => decide (bits b.toNat 415 412 = 2)
    | none => false
  if adding && c.rank ≠ block then
    let s := pass next true s
    if p.op = 4 then (s.onProg e fun q => { q with reds := tdel q.reds key }).tryFinish e else s
  else
    let s := s.takePart e p key w bytes
    if p.op = 4 then s
    else if direct then
      if c.rank = block then ((List.range n).filter (· ≠ block)).foldl (fun s r => pass r false s) s else s
    else if next = block then s
    else pass next false s

/-- A RED of a ring or direct collective starts (R273, R277): the rank that starts its block reads its own bytes and passes them on;
every other rank waits for the engine before it. -/
def State.startPart (s : State) (e : EngRef) (p : Prog) (c : Comm) (comm : Nat) (src dst length : Nat) : State :=
  let key := c.seq * 256 + comm
  let block := p.g 5
  let w : RedWait := { place := p.issued + 1, src := src, dst := dst, length := length, block := some block }
  let sums := p.op = 0 || p.op = 4
  let s := s.onProg e fun q => { q with reds := tput q.reds key w }
  if c.rank = (if sums then (block + 1) % c.members.length else block) then
    match s.engRead (engDie e) p.slot src length with
    | .error k => (s.progError e k [(src, length)]).tryFinish e
    | .ok b => s.passPart e p c comm key block sums w b
  else s

/-- The ranges that a RED of a communicator of `members` reads. -/
def Prog.redReads (p : Prog) (members src n : Nat) : List (Nat × Nat) :=
  match p.op, p.block with
  | 4, some b => if blockTree b.toNat then (List.range members).map fun k => (src + k * bits b.toNat 511 480, n) else [(src, n)]
  | _, _ => [(src, n)]

/-- CMD_RED (R191, R273, R275): contributes to the communicator's tree, under the next sequence number of the die, or takes part in a
ring or direct collective. A leaf that reads uncorrectable data consumes it, and the attempt ends as by an abort (R325). -/
def execCmdRed (fa fb : Fin 16) (imm : Word) (comm : BitVec 8) (bf16 : Bool) (s : State) : Result :=
  command { data := true, reads := fun p => p.redReads 1024 (p.g fa) imm.toNat } (fun e p s =>
    if !isCanopy e then s.progFault e 7
    else
      let die := engDie e
      let key := p.slot * 256 + comm.toNat
      match tfind (s.die die).comms key with
      | none => s.progFault e 10
      | some c =>
        let count (s : State) : State :=
          s.onDie die fun d => { d with comms := tmap (fun c => { c with seq := c.seq + 1 }) d.comms key }
        if !p.tree then (count s).startPart e p c comm.toNat (p.g fa) (p.g fb) imm.toNat
        else
          match s.contributed e p c (p.g fa) imm.toNat with
          | .error k =>
            let rs := p.redReads c.members.length (p.g fa) imm.toNat
            let s := s.engMark die p.slot rs
            if k = 3 then (s.consume p.dispatch die 6 (s.badPlace die p.slot rs)).sendAbort p.slot die comm.toNat c.attempt
            else s.progFault e k
          | .ok b =>
            let m : Contribution := { op := p.op, bf16 := bf16, length := imm.toNat, data := elements bf16 b }
            let w : RedWait := { place := p.issued + 1, src := p.g fa, dst := p.g fb, length := imm.toNat, block := none }
            let s := (count s).onProg e fun q => { q with reds := tput q.reds (c.seq * 256 + comm.toNat) w }
            s.send die (.child p.slot comm.toNat c.attempt c.seq 0 c.rank
              (lowestRank c.members 0 c.rank) (nth 0 c.members (lowestRank c.members 0 c.rank)) m)) s

/-- CMD_CHUNK (R192): the chunk slot may pass. How many commands an expansion that R273 does not list counts is open. -/
def execCmdChunk (s : State) : Result :=
  command {} (fun e p s =>
    let s := s.onProg e fun q => { q with holdsChunk := false }
    if p.internal && !p.tree then
      let (n, s) := s.free
      s.onProg e fun q => { q with ncmd := min (2 ^ 32 - 1) (q.ncmd + n) }
    else s) s

/-- CMD_END (R193): the program ends once its earlier writes are performed. -/
def execCmdEnd (s : State) : Result :=
  command { releases := true } (fun e _ s =>
    (s.onProg e fun q => { q with phase := .finishing 1 0, holdsChunk := false }).tryFinish e) s

/-- CMD_BAD_OPCODE (R191): code 1. -/
def execCmdBadOpcode (_opc : BitVec 8) (s : State) : Result := command {} (fun e _ s => s.progFault e 1) s

end Sys2Proof.Machine
end

