-- ==== Sys2Proof/Machine/Canopy.lean ====
section
/-! DEFINITION. Canopy engines, the matching store, reduction trees and attempts, R178, R179, R268 to R282
(spec/13_fabric_and_collectives.md). -/

namespace Sys2Proof.Machine

/-! ### Parameter blocks (R269, R270) -/

/-- The algorithms that an OP accepts (R270). -/
def opAlgs : Nat → List Nat
  | 0 => [0, 1]
  | 1 => [0]
  | 2 => [0, 2]
  | 3 => [1, 2]
  | 4 => [0, 1]
  | 5 => [0]
  | 6 => [2]
  | 7 => [0]
  | _ => []

/-- The OP combines data (R270). -/
def opReduces (op : Nat) : Bool := op = 0 || op = 1 || op = 4

/-- An address field of a block is bad (R270). -/
def badField (a : Nat) : Bool := a % 16 ≠ 0 || decide (2 ^ 57 ≤ a)

/-- A block is malformed (R270); `n` is the member count, where the communicator is known. -/
def blockMalformed (b : Nat) (n : Option Nat) : Bool :=
  let op := blockOp b
  let bytes := bits b 511 480
  let root := bits b 447 438
  bits b 821 800 ≠ 0 || bits b 671 668 ≠ 0 || bits b 429 416 ≠ 0 || bits b 403 0 ≠ 0 || decide (8 ≤ op) ||
    !(opAlgs op).contains (bits b 415 412) ||
    !(if opReduces op then [0, 2] else [0]).contains (bits b 411 408) ||
    bytes % 16 ≠ 0 || decide (0x40000000 < bytes) || (op = 5 && bytes ≠ 0) ||
    badField (bits b 1023 960) || badField (bits b 575 512) || (op ≠ 7 && badField (bits b 639 576)) ||
    (op ≠ 1 && op ≠ 2 && root ≠ 0) || (n.map fun k => decide (k ≤ root)).getD false

/-- The input tokens that a block names (R269). -/
def blockTokens (b : Nat) : List Nat :=
  [bits b 703 672, bits b 735 704, bits b 767 736, bits b 799 768].filter fun t => t ≠ 0xFFFFFFFF

/-- The communicator entry of a context on a die (R302). -/
def State.comm? (s : State) (die slot comm : Nat) : Option Comm := tfind (s.die die).comms (slot * 256 + comm)

/-- An agreement round for a communicator holds new blocks on a die (R303). -/
def State.roundHolds (s : State) (die slot comm : Nat) : Bool :=
  s.eng.rounds.any fun (_, r) =>
    r.slot = slot && bits r.command.toNat 31 24 = comm && r.phase = .proposed && r.holds.contains die

/-- The state and code with which a block ends for its communicator, version or attempt: code 10 before code 6 (R268, R270, R280,
R303). -/
def State.commFault (s : State) (die slot b : Nat) : Option (Nat × Nat) :=
  match s.comm? die slot (blockComm b) with
  | none => some (2, 10)
  | some c =>
    if bits b 463 448 ≠ c.version.toNat then some (2, 10)
    else if bits b 479 464 ≠ c.attempt.toNat then some (3, 6)
    else none

/-- The state and code with which a block ends against the entry in force: malformed, ROOT among the members, comes first (R270). -/
def State.entryFault (s : State) (die slot b : Nat) : Option (Nat × Nat) :=
  if blockMalformed b ((s.comm? die slot (blockComm b)).map fun c => c.members.length) then some (2, 11)
  else s.commFault die slot b

/-- The state and code that a block meets at acceptance, when it ends there (R270, R280). One that an agreement round holds is judged
against the entry in force when it proceeds (R303). -/
def State.blockFault (s : State) (die slot b : Nat) : Option (Nat × Nat) :=
  if s.roundHolds die slot (blockComm b) then (if blockMalformed b none then some (2, 11) else none)
  else s.entryFault die slot b

/-- A block as an accepted program (R269): OP 7 runs the command words at SRC with g1 := DST. -/
def blockProg (dispatch slot addr b : Nat) : Prog :=
  { Prog.fresh dispatch slot none .pod (if blockOp b = 7 then bits b 575 512 else addr) (BitVec.ofNat 64 (bits b 639 576))
      (bits b 1023 960) with block := some (BitVec.ofNat 1024 b) }

/-! ### The matching store (R278, R279) -/

/-- Every token that a block names has its count (R279). -/
def State.canFire (s : State) (die slot : Nat) (ids : List Nat) : Bool :=
  ids.all fun i => (ids.filter (· = i)).length ≤ s.tokens die slot i

/-- Puts a block in its engine's queue with its place in the order of R271. -/
def State.enqueueBlock (s : State) (die engine : Nat) (p : Prog) : State :=
  let n := (s.die die).orders
  let s := s.onDie die fun d => { d with orders := n + 1 }
  s.onCanopy (die * 2 + engine) fun c => { c with queue := c.queue ++ [{ p with order := n }] }

/-- A block that waits for its tokens is past its TMO (R279). -/
def State.blockExpired (s : State) (p : Prog) : Bool :=
  let tmo := match p.block with
    | some b => bits b.toNat 667 640
    | none => 0
  tmo ≠ 0 && decide (p.accepted + tmo ≤ s.rt)

/-- The queue of a canopy engine has room (R272). -/
def State.queueRoom (s : State) (k : Nat) : Bool := decide ((s.canopy k).queue.length < 32)

/-- A block of the matching store that has fired and waits for room in its engine's queue. -/
def Prog.fired (p : Prog) : Bool := p.phase = .blocked

/-- BLOCK_FIRE (R279) over waiting blocks, the earliest accepted first: the counts are taken, and the block is ready, with its place in
the order of R271. -/
def State.fireReady (s : State) (die : Nat) : State :=
  (s.die die).waiting.foldl (fun s (engine, p) =>
    match p.block with
    | none => s
    | some b =>
      let ids := blockTokens b.toNat
      if !p.fired && s.canFire die p.slot ids && !s.blockExpired p then
        let s := ids.foldl (fun s i => s.setTokens die p.slot i (s.tokens die p.slot i - 1)) s
        s.onDie die fun d =>
          { d with
            orders := d.orders + 1
            waiting := d.waiting.map fun x => if x = (engine, p) then (engine, { p with phase := .blocked, order := d.orders }) else x }
      else s) s

/-- Blocks that have fired leave the store for their engines' queues, in the order of R271, as far as there is room (R272; log entry
63). -/
def State.moveFired (s : State) (die : Nat) : State :=
  (s.die die).waiting.foldl (fun s (engine, p) =>
    if p.fired && s.queueRoom (die * 2 + engine) &&
        (s.die die).waiting.all fun (n, q) => n ≠ engine || !q.fired || p.order ≤ q.order then
      (s.onDie die fun d => { d with waiting := d.waiting.erase (engine, p) }).onCanopy (die * 2 + engine) fun c =>
        { c with queue := c.queue ++ [{ p with phase := .queued }] }
    else s) s

/-- The matching store fires what it can and hands over what has fired (R272, R279). -/
def State.fireBlocks (s : State) (die : Nat) : State := (s.fireReady die).moveFired die

/-- A delivery that the matching store refuses (R278). -/
def State.refuses (s : State) (die slot id : Nat) : Bool :=
  let n := s.tokens die slot id
  id = 0xFFFFFFFF || n = 255 || (n = 0 && decide (4096 ≤ (s.die die).tokens.length))

/-- Takes something off the fabric. -/
def State.landed (s : State) (n : Nat) : State := { s with eng := { s.eng with flights := tdel s.eng.flights n } }

/-- TOKEN_DELIVER (R278, R279): the count rises and blocks fire, or the delivery is refused with a deferred engine
fault. -/
def execTokenDeliver (n : Nat) (s : State) : Result :=
  match tfind s.eng.flights n with
  | some ⟨src, .token slot id die owner, _⟩ =>
    if s.pairWaits fabricUnit src die then .next s
    else
    let s := s.landed n
    if !s.dieUp die then .next s
    else if s.refuses die slot id then
      let s := s.ring die 0x13 (s.ident slot) [32, 0, id]
      match owner with
      | some (w, seq, clause, index) => .next (s.deferFault w seq clause index { cause := 0x22 })
      | none => .next s
    else .next ((s.setTokens die slot id (s.tokens die slot id + 1)).fireBlocks die)
  | _ => .next s

/-- BLOCK_TOKEN_TIMEOUT (R279): a waiting block past its TMO ends with code 5. -/
def execBlockTokenTimeout (die i : Nat) (s : State) : Result :=
  match (s.die die).waiting[i]? with
  | none => .next s
  | some (engine, p) =>
    if s.blockExpired p && !p.fired then
      let s := s.onDie die fun d => { d with waiting := d.waiting.eraseIdx i }
      .next (s.abortQueued (.canopy die engine 0) p 2 5)
    else .next s

/-! ### Acceptance (R178, R179, R272) -/

/-- The message that a canopy engine takes next: the first whose release is done, with none of its warp before it. -/
def State.nextMessage (s : State) (k : Nat) : Option CanopyFront :=
  let l := (s.canopy k).front
  l.find? fun m => s.handed m.warp m.seq m.scope && l.all fun x => x.warp ≠ m.warp || m.seq ≤ x.seq

/-- Takes a message, whose release is made, and completes its count (R25, R175). -/
def State.takeMessage (s : State) (k : Nat) (m : CanopyFront) : State :=
  let s := (s.markRelease m.warp m.seq m.scope).onCanopy k fun c => { c with front := c.front.filter fun x => x ≠ m }
  (s.finishOp m.warp m.seq).wake m.warp

/-- A deferred engine fault of the instruction that handed a message over, entered in the die's ring record (R176). -/
def State.messageFault (s : State) (die : Nat) (m : CanopyFront) : State :=
  (s.ring die 0x13 (s.ident m.slot) [32, 0, 0]).deferFault m.warp m.seq m.clause m.index { cause := 0x22 }

/-- Accepts a posted block (R179, R269 to R272, R279), when its queue or the matching store has room. A block that cannot be
read shows only in the ring record (R176). -/
def State.acceptBlock (s : State) (die engine : Nat) (m : CanopyFront) (addr : Nat) : State :=
  let k := die * 2 + engine
  let e := EngRef.canopy die engine 0
  if s.rangeWaits die m.slot addr 128 then s
  else
  match s.engRead die m.slot addr 128 with
  | .error c =>
    let s := ((s.takeMessage k m).engMark die m.slot [(addr, 128)]).ring die 0x13 (s.ident m.slot) [engUnit e, c, addr]
    if c = 3 then s.consume m.dispatch die 5 (s.badPlace die m.slot [(addr, 128)]) else s
  | .ok bytes =>
    let b := ofBytes bytes
    let p := { blockProg m.dispatch m.slot addr b with accepted := s.rt }
    match s.blockFault die m.slot b with
    | some (state, code) =>
      if s.queueRoom k then (s.takeMessage k m).abortQueued e p state code else s
    | none =>
      if (blockTokens b).isEmpty then
        if s.queueRoom k then (s.takeMessage k m).enqueueBlock die engine p else s
      else if 256 ≤ (s.die die).waiting.length then s
      else
        let s := s.takeMessage k m
        (s.onDie die fun d => { d with waiting := d.waiting ++ [(engine, p)] }).fireBlocks die

/-- CANOPY_BLOCK_ACCEPT: a canopy engine takes the next message in front of it: a block (R272), a token for delivery (R179), or
an abort that it sends to every member (R178, R280). A block that finds no room keeps what stands behind it waiting (log entry
63). -/
def execCanopyBlockAccept (die engine : Nat) (s : State) : Result :=
  let k := die * 2 + engine
  match s.nextMessage k with
  | none => .next s
  | some m =>
    match m.msg with
    | .post addr => .next (s.acceptBlock die engine m addr)
    | .token id t =>
      let s := if s.dieUp t then s.send die (.token m.slot id t (some (m.warp, m.seq, m.clause, m.index)))
        else s.messageFault die m
      .next (s.takeMessage k m)
    | .abort comm attempt =>
      let s := if (s.comm? die m.slot comm).isSome then s.sendAbort m.slot die comm (BitVec.ofNat 16 attempt)
        else s.messageFault die m
      .next (s.takeMessage k m)

/-! ### Start and expansion (R271 to R273, R277) -/

/-- A command as 16 bytes of an expansion (R190). -/
def commandWord (i : Instr) : BitVec 128 :=
  match Sys2Proof.encode i with
  | [h, x] => BitVec.ofNat 128 (h + x * 2 ^ 64)
  | _ => 0

/-- Sets the source and destination of the next chunk. -/
def chunkRegs (src dst : Nat) : List Instr :=
  [.cmdSeti 2 (BitVec.ofNat 64 src), .cmdSeti 3 (BitVec.ofNat 64 dst)]

/-- A payload in chunks of at most 16 KiB: offset and length of each (R273, R274). -/
def chunked (bytes : Nat) : List (Nat × Nat) :=
  (List.range ((bytes + 16383) / 16384)).map fun c => (16384 * c, min 16384 (bytes - 16384 * c))

/-- The transfers that a block's expansion makes, for n members: the rank whose block each carries, source, destination, length. A tree
carries each chunk once; a ring or direct collective carries the chunks of each rank's block (R270, R273, R277). -/
def blockParts (b n : Nat) : List (Nat × Nat × Nat × Nat) :=
  let src := bits b 575 512
  let dst := bits b 639 576
  let bytes := bits b 511 480
  let each (rank a b n : Nat) := (chunked n).map fun (o, len) => (rank, a + o, b + o, len)
  if blockTree b then if bytes = 0 then [(0, src, dst, 0)] else each 0 src dst bytes
  else
    match blockOp b with
    | 0 =>
      let block := roundUp ((bytes + n - 1) / n) 16
      (List.range n).flatMap fun k => each k (src + block * k) (dst + block * k) (min block (bytes - block * k))
    | 2 => each (bits b 447 438) src dst bytes
    | 3 => (List.range n).flatMap fun k => each k src (dst + bytes * k) bytes
    | 4 => (List.range n).flatMap fun k => each k (src + bytes * k) dst bytes
    | _ => each 0 src dst bytes

/-- The built-in expansion of a block for n members (R273; those of R277 and of ALG 2 in the same form, log entry 62). -/
def expansion (b n : Nat) : List Instr :=
  let comm := BitVec.ofNat 8 (blockComm b)
  let bf16 := decide (bits b 411 408 = 2)
  let sig := bits b 959 896
  let otok := bits b 863 832
  ((blockParts b n).flatMap fun (rank, src, dst, len) =>
      (if blockTree b then [] else [.cmdSeti 5 (BitVec.ofNat 64 rank)]) ++ chunkRegs src dst ++
        [.cmdChunk, if blockOp b = 6 then .cmdMove 3 2 (BitVec.ofNat 32 len) else .cmdRed 2 3 (BitVec.ofNat 32 len) comm bf16]) ++
    (if bits sig 57 38 = 0xFFFFF then []
      else [.cmdSeti 4 (BitVec.ofNat 64 sig), .cmdSig 4 (BitVec.ofNat 32 (bits b 895 864))]) ++
    (if otok = 0xFFFFFFFF then [] else [.cmdTok (BitVec.ofNat 32 otok) (BitVec.ofNat 10 (bits b 831 822))]) ++
    [.cmdEnd]

/-- Two programs are collectives of one communicator. -/
def sameComm (p q : Prog) : Bool :=
  match p.block, q.block with
  | some a, some b => p.slot = q.slot && blockComm a.toNat = blockComm b.toNat
  | _, _ => false

/-- A ready block is first in its communicator's order on the die, none of it runs, and no agreement round holds it (R271,
R303). -/
def State.blockFirst (s : State) (die : Nat) (p : Prog) : Bool :=
  [die * 2, die * 2 + 1].all (fun k =>
    ((s.canopy k).queue.all fun q => !sameComm p q || p.order ≤ q.order) &&
      (s.canopy k).ctxs.all fun (_, q) => !sameComm p q) &&
    ((s.die die).waiting.all fun (_, q) => !q.fired || !sameComm p q || p.order ≤ q.order) &&
    match p.block with
    | some b => !s.roundHolds die p.slot (blockComm b.toNat)
    | none => true

/-- The ready blocks of a canopy engine: those of its queue, and those that have fired and find no room in it (R272, R279). -/
def State.readyBlocks (s : State) (die engine : Nat) : List Prog :=
  (s.canopy (die * 2 + engine)).queue ++ ((s.die die).waiting.filter fun (n, p) => n = engine && p.fired).map Prod.snd

/-- CANOPY_BLOCK_START (R268, R271, R272): the first ready block that may start takes a free context and is expanded, or ends, judged
against its communicator's entry in force. -/
def execCanopyBlockStart (die engine : Nat) (s : State) : Result :=
  let k := die * 2 + engine
  let s := s.fireBlocks die
  match (s.readyBlocks die engine).find? (s.blockFirst die), (List.range 8).find? fun c => (tfind (s.canopy k).ctxs c).isNone with
  | some p, some c =>
    let b := match p.block with
      | some b => b.toNat
      | none => 0
    let s := (s.onCanopy k fun x => { x with queue := x.queue.erase p }).onDie die fun d =>
      { d with waiting := d.waiting.erase (engine, p) }
    match s.entryFault die p.slot b with
    | some (state, code) => .next (s.abortQueued (.canopy die engine 0) p state code)
    | none =>
      let n := match s.comm? die p.slot (blockComm b) with
        | some m => m.members.length
        | none => 0
      let p := if blockOp b = 7 then p.begin
        else { p.begin with script := (expansion b n).map commandWord }
      .next (s.onCanopy k fun x => { x with ctxs := tput x.ctxs c p })
  | _, _ => .next s

/-! ### Attempts (R280) -/

/-- A program works for a communicator: its block names it, or a RED to it is outstanding. -/
def Prog.worksFor (p : Prog) (slot comm : Nat) : Bool :=
  p.slot = slot &&
    ((match p.block with
      | some b => blockComm b.toNat = comm
      | none => false) || p.reds.any fun (k, _) => k % 256 = comm)

/-- A member's attempt advances (R280): its collectives of the communicator end with code 6, and nodes of older attempts on
the die forward nothing. -/
def State.advanceAttempt (s : State) (die slot comm : Nat) (attempt : BitVec 16) : State :=
  let s := s.onDie die fun d =>
    { d with comms := tmap (fun c => { c with attempt := attempt, seq := 0 }) d.comms (slot * 256 + comm) }
  let s := { s with
    eng := { s.eng with reds := s.eng.reds.filter fun (_, r) => !(r.ctx = slot && r.comm = comm && r.die = die) } }
  let s := s.contexts.foldl (fun s e =>
    match s.prog? e with
    | some p =>
      if isCanopy e && engDie e = die && p.worksFor slot comm then
        let s := s.abortProg e 6
        (s.onProg e fun q => { q with reds := q.reds.filter fun (k, _) => k % 256 ≠ comm }).tryFinish e
      else s
    | none => s) s
  let s := [0, 1].foldl (fun s engine =>
    let k := die * 2 + engine
    let gone := (s.canopy k).queue.filter fun p => p.worksFor slot comm
    let s := s.onCanopy k fun c => { c with queue := c.queue.filter fun p => !p.worksFor slot comm }
    gone.foldl (fun s p => s.abortQueued (.canopy die engine 0) p 3 6) s) s
  let gone := (s.die die).waiting.filter fun w => w.2.worksFor slot comm
  let s := s.onDie die fun d => { d with waiting := d.waiting.filter fun w => !w.2.worksFor slot comm }
  gone.foldl (fun s w => s.abortQueued (.canopy die w.1 0) w.2 3 6) s

/-- Judges a collective packet at a die's ingress (R280): whether it is accepted. -/
def State.judgePacket (s : State) (die slot comm : Nat) (attempt : BitVec 16) : State × Bool :=
  match s.comm? die slot comm with
  | none => (s, false)
  | some c =>
    let d := (attempt - c.attempt).toNat
    if d = 0 then (s, true)
    else if 0x8000 ≤ d then
      (s.onDie die fun x =>
        { x with counts := { x.counts with dropped := BitVec.ofNat 32 (bump 32 x.counts.dropped.toNat) } }, false)
    else (s.advanceAttempt die slot comm attempt, true)

/-- The communicator and attempt that a packet of a collective carries, and the die it goes to (R280). -/
def Flight.collective : Flight → Option (Nat × Nat × BitVec 16 × Nat)
  | .child ctx comm attempt _ _ _ _ die _ => some (ctx, comm, attempt, die)
  | .result ctx comm attempt _ _ die _ => some (ctx, comm, attempt, die)
  | .part ctx comm attempt _ _ _ die _ => some (ctx, comm, attempt, die)
  | _ => none

/-- The member dies whose ingress a packet has still to pass on its route before the die it goes to (R265, R280). -/
def State.onTheWay (s : State) (x : Packet) (slot comm die : Nat) : List Nat :=
  ((s.pathOf x.src die).map fun (d, l) => hopTo d l die).filter fun d =>
    d ≠ die && !x.passed.contains d && (s.comm? d slot comm).isSome

/-- Judges a packet at the ingress of some dies in turn: it is accepted when each accepts it (R280). -/
def State.judgeAll (s : State) (slot comm : Nat) (attempt : BitVec 16) : List Nat → State × Bool
  | [] => (s, true)
  | d :: t =>
    match s.judgePacket d slot comm attempt with
    | (s, false) => (s, false)
    | (s, true) => s.judgeAll slot comm attempt t

/-- Judges a packet on the rest of its way and at the die it goes to (R280). -/
def State.judgeArrival (s : State) (x : Packet) (slot comm : Nat) (attempt : BitVec 16) (die : Nat) : State × Bool :=
  s.judgeAll slot comm attempt (s.onTheWay x slot comm die ++ [die])

/-- COLLECTIVE_PACKET_INGRESS (R280): a packet of a communicator and attempt reaches a member die on its way, which judges it after those
before it; one that a die drops goes no further. -/
def execCollectivePacketIngress (die slot comm : Nat) (attempt : BitVec 16) (s : State) : Result :=
  let here (x : Packet) : Bool :=
    match x.msg.collective with
    | some (c, k, a, t) =>
      c = slot && k = comm && a = attempt && !s.pairWaits fabricUnit x.src t && (s.onTheWay x slot comm t).contains die
    | none => false
  match s.eng.flights.find? fun (_, x) => here x with
  | none => .next s
  | some (n, x) =>
    match x.msg.collective with
    | none => .next s
    | some (_, _, _, t) =>
      let way := s.onTheWay x slot comm t
      let dies := way.take (way.idxOf die + 1)
      match s.judgeAll slot comm attempt dies with
      | (s, false) => .next (s.landed n)
      | (s, true) =>
        .next { s with eng := { s.eng with flights := tmap (fun x => { x with passed := x.passed ++ dies }) s.eng.flights n } }

/-- ATTEMPT_ABORT_ARRIVE (R280): the attempt advances if it stands at the aborted one. -/
def execAttemptAbortArrive (n : Nat) (s : State) : Result :=
  match tfind s.eng.flights n with
  | some ⟨src, .abort slot comm attempt die, _⟩ =>
    if s.pairWaits fabricUnit src die then .next s
    else
    let s := s.landed n
    match s.comm? die slot comm with
    | some c => if c.attempt = attempt then .next (s.advanceAttempt die slot comm (attempt + 1)) else .next s
    | none => .next s
  | _ => .next s

/-! ### Reduction trees (R275 to R277, R281, R282) -/

/-- One element of a node's result (R275). -/
def combineWords (l : List Nat) : Nat :=
  let vs := l.map (Fl.decode f32Fmt)
  let inf (neg : Bool) : Bool := vs.any fun v => v = .inf neg
  if vs.any Fl.isNan || (inf false && inf true) then 0x7FC00000
  else if inf false then 0x7F800000
  else if inf true then 0xFF800000
  else
    let sum := vs.foldl (fun a v =>
      match v with
      | .num neg m e => a + atExp neg m e f32Fmt.minExp
      | _ => a) 0
    (roundInt f32Fmt .rn (l.all fun w => w = 0x80000000) sum f32Fmt.minExp).1

/-- Combines the children of a tree node, in port order: one child passes unchanged, OP 2 passes the root's data (R270,
R275). -/
def combine (op : Nat) (l : List (List Word)) : List Word :=
  match l with
  | [] => []
  | [x] => x
  | x :: t =>
    if op = 2 then ((x :: t).find? fun y => y ≠ []).getD []
    else (List.range x.length).map fun i => BitVec.ofNat 32 (combineWords ((x :: t).map fun y => (nth 0 y i).toNat))

/-- The node of a RED at a level and die. -/
def State.redNode? (s : State) (ctx comm : Nat) (attempt : BitVec 16) (seq level die : Nat) : Option (Nat × RedNode) :=
  s.eng.reds.find? fun (_, r) =>
    r.ctx = ctx && r.comm = comm && r.attempt = attempt && r.seq = seq && r.level = level && r.die = die

/-- Writes or removes a node. -/
def State.putNode (s : State) (k : Nat) (r : Option RedNode) : State :=
  { s with
    eng := { s.eng with
      reds := match r with
        | some r => tput s.eng.reds k r
        | none => tdel s.eng.reds k } }

/-- The root's result for TYPE bf16 is rounded once (R275). -/
def rootRound (m : Contribution) : Contribution :=
  if m.bf16 && (opReduces m.op || m.op = 7) then
    { m with data := m.data.map fun w =>
        BitVec.ofNat 32 ((roundFl bf16Fmt .rn false (Fl.decode f32Fmt w.toNat)).1 * 65536) }
  else m

/-- Sends a result down from a tree node at a die: to the nodes below it, or from a chip node to its members (R276). -/
def State.sendDown (s : State) (c : Comm) (ctx comm : Nat) (attempt : BitVec 16) (seq level node die : Nat) (m : Contribution) :
    State :=
  (treeChildren c.members level node).foldl (fun s x =>
    s.send die (.result ctx comm attempt seq (if level = 0 then none else some (level - 1, x)) (nth 0 c.members x) m)) s

/-- A node whose children have all arrived forwards its value: to its parent, or, at the root, as the result back down the tree
(R275, R276). -/
def State.forward (s : State) (c : Comm) (r : RedNode) (node : Nat) (m : Contribution) : State :=
  if r.level < 2 then
    let up := lowestRank c.members (r.level + 1) node
    s.send r.die (.child r.ctx r.comm r.attempt r.seq (r.level + 1) node up (nth 0 c.members up) m)
  else s.sendDown c r.ctx r.comm r.attempt r.seq r.level node r.die (rootRound m)

/-- A node gives its attempt up: it forwards nothing, its die's ring record has the event, and the abort goes out (R281, R282). -/
def State.closeNode (s : State) (k : Nat) (r : RedNode) (code : Nat) (data : List Nat) : State :=
  ((s.putNode k (some { r with closed := true })).ring r.die code (s.ident r.ctx) ([r.comm, r.attempt.toNat, r.seq] ++ data)).sendAbort
    r.ctx r.die r.comm r.attempt

/-- The ports of a node that have not arrived, as a mask (R282). -/
def RedNode.missing (r : RedNode) : Nat :=
  r.children.zipIdx.foldl (fun a (x, i) => if (tfind r.arrived x).isSome then a else a + 2 ^ i) 0

/-- RED_CHILD_ARRIVE (R275, R280 to R282). A child that comes after REDTMO finds its node timed out. -/
def execRedChildArrive (n : Nat) (s : State) : Result :=
  match tfind s.eng.flights n with
  | some ⟨src, .child ctx comm attempt seq level child node die m, passed⟩ =>
    if s.pairWaits fabricUnit src die then .next s
    else
      match (s.landed n).judgeArrival ⟨src, .child ctx comm attempt seq level child node die m, passed⟩ ctx comm attempt die with
      | (s, false) => .next s
      | (s, true) =>
        match s.comm? die ctx comm with
        | none => .next s
        | some c =>
          let fresh : RedNode :=
            { ctx := ctx, comm := comm, attempt := attempt, seq := seq, level := level, die := die,
              children := treeChildren c.members level node, arrived := [], deadline := s.rt + c.redtmo, closed := false }
          let (k, r) := (s.redNode? ctx comm attempt seq level die).getD (tnext s.eng.reds, fresh)
          if r.closed then .next s
          else if !r.arrived.isEmpty && decide (r.deadline ≤ s.rt) then .next (s.closeNode k r 0x16 [r.missing])
          else if r.arrived.any fun (_, x) => x.op ≠ m.op || x.bf16 ≠ m.bf16 || x.length ≠ m.length then
            .next (s.closeNode k r 0x15 [])
          else
            let r := { r with arrived := tput r.arrived child m }
            if r.children.all fun x => (tfind r.arrived x).isSome then
              let xs := r.children.map fun x => (tfind r.arrived x).elim [] Contribution.data
              .next ((s.putNode k none).forward c r node { m with data := combine m.op xs })
            else .next (s.putNode k (some r))
  | _ => .next s

/-- REDUCTION_TIMEOUT (R282): a node whose children have not all arrived within REDTMO sends the abort. -/
def execReductionTimeout (k : Nat) (s : State) : Result :=
  match tfind s.eng.reds k with
  | none => .next s
  | some r => if !r.closed && decide (r.deadline ≤ s.rt) then .next (s.closeNode k r 0x16 [r.missing]) else .next s

/-- The bytes of elements in their type. -/
def elementBytes (bf16 : Bool) (l : List Word) : List Byte :=
  l.flatMap fun w => if bf16 then toBytes 2 (w.toNat / 65536) else toBytes 4 w.toNat

/-- The bytes of a result that a member writes (R270, R276): OP 1 at the root alone, OP 4 the member's own block, a barrier
none. -/
def memberBytes (m : Contribution) (rank : Nat) (root : Bool) : List Byte :=
  let b := elementBytes m.bf16 m.data
  match m.op with
  | 1 => if root then b.take m.length else []
  | 4 => (b.drop (rank * m.length)).take m.length
  | 5 => []
  | _ => b.take m.length

/-- The context of a die where a RED waits, with its program and the RED. -/
def State.waiter? (s : State) (die ctx key : Nat) : Option (EngRef × Prog × RedWait) :=
  s.contexts.findSome? fun e =>
    if isCanopy e && engDie e = die then
      match s.prog? e with
      | some p => if p.slot = ctx then (tfind p.reds key).map fun w => (e, p, w) else none
      | none => none
    else none

/-- The release before a RED's result is written is done: what the program's earlier commands write is performed, the bytes of its
pushes and the results of its REDs among them (R276). -/
def State.redReleased (s : State) (e : EngRef) (p : Prog) (w : RedWait) : Bool :=
  (p.writes.all fun x => decide (w.place ≤ x.place)) && (p.reds.all fun (_, v) => decide (w.place ≤ v.place)) &&
    (s.pushesOf e).all fun n =>
      match tfind s.comp.transfers n with
      | some t => decide (w.place ≤ t.place)
      | none => true

/-- A member takes the result of a RED: it is written at the destination, and the RED completes (R276). -/
def State.takeResult (s : State) (e : EngRef) (p : Prog) (c : Comm) (key : Nat) (w : RedWait) (m : Contribution) : State :=
  let root := match p.block with
    | some b => decide (bits b.toNat 447 438 = c.rank)
    | none => false
  s.takePart e p key w (memberBytes m c.rank root)

/-- The engine of a member takes a part of a ring or direct collective (R277): it adds its own block by SUM, or takes the bytes as they
are. What it cannot read ends its program. -/
def State.meetPart (s : State) (e : EngRef) (p : Prog) (c : Comm) (comm key block : Nat) (adding : Bool) (w : RedWait)
    (bytes : List Byte) : State :=
  if adding then
    match s.engRead (engDie e) p.slot w.src w.length with
    | .error k => ((s.onProg e fun q => { q with reds := tdel q.reds key }).progError e k [(w.src, w.length)]).tryFinish e
    | .ok own =>
      let bf16 := match p.block with
        | some b => decide (bits b.toNat 411 408 = 2)
        | none => false
      s.passPart e p c comm key block true w (sumArrays bf16 bytes own)
  else s.passPart e p c comm key block false w bytes

/-- RED_RESULT_DELIVER (R276, R280): a result is judged at each die on its way down the tree. A node sends it on; a member writes it
after the release, and its RED completes. A part of a ring or direct collective waits until the member's RED has started. -/
def execRedResultDeliver (n : Nat) (s : State) : Result :=
  match tfind s.eng.flights n with
  | some ⟨src, .result ctx comm attempt seq (some (level, node)) die m, passed⟩ =>
    if s.pairWaits fabricUnit src die then .next s
    else
      match (s.landed n).judgeArrival ⟨src, .result ctx comm attempt seq (some (level, node)) die m, passed⟩ ctx comm attempt
        die with
      | (s, false) => .next s
      | (s, true) =>
        match s.comm? die ctx comm with
        | some c => .next (s.sendDown c ctx comm attempt seq level node die m)
        | none => .next s
  | some ⟨src, .result ctx comm attempt seq none die m, passed⟩ =>
    let key := seq * 256 + comm
    let due := match s.waiter? die ctx key with
      | some (e, p, w) => s.redReleased e p w
      | none => true
    if s.pairWaits fabricUnit src die || !due then .next s
    else
      match (s.landed n).judgeArrival ⟨src, .result ctx comm attempt seq none die m, passed⟩ ctx comm attempt die with
      | (s, false) => .next s
      | (s, true) =>
        match s.comm? die ctx comm, s.waiter? die ctx key with
        | some c, some (e, p, w) => .next (s.takeResult e p c key w m)
        | _, _ => .next s
  | some ⟨src, .part ctx comm attempt seq block adding die bytes, passed⟩ =>
    let key := seq * 256 + comm
    if s.pairWaits fabricUnit src die then .next s
    else
      match s.judgeArrival ⟨src, .part ctx comm attempt seq block adding die bytes, passed⟩ ctx comm attempt die with
      | (s, false) => .next (s.landed n)
      | (s, true) =>
        match s.comm? die ctx comm, s.waiter? die ctx key with
        | some c, some (e, p, w) =>
          if w.block = some block then .next ((s.landed n).meetPart e p c comm key block adding w bytes) else .next s
        | _, _ => .next s
  | _ => .next s

end Sys2Proof.Machine
end

