-- ==== Sys2Proof/Machine/Agreement.lean ====
section
/-! DEFINITION. Agreement rounds for group commands, R268, R302, R303 (spec/16_queues_dispatch_groups.md). -/

namespace Sys2Proof.Machine

/-! ### Group commands (R302) -/

/-- Bits of a group command. -/
def Round.field (r : Round) (hi lo : Nat) : Nat := bits r.command.toNat hi lo
/-- OPC: 0 create, 1 change, 2 destroy. -/
def Round.opc (r : Round) : Nat := r.field 19 16
/-- COMM of a group command. -/
def Round.comm (r : Round) : Nat := r.field 31 24
/-- EXPV of a group command. -/
def Round.expected (r : Round) : Nat := r.field 47 32
/-- Key of the communicator's entries. -/
def Round.key (r : Round) : Nat := r.slot * 256 + r.comm
/-- TMO in rt; 0 means 1,000,000. -/
def Round.timeout (r : Round) : Nat := if r.field 187 160 = 0 then 1000000 else r.field 187 160

/-- The fields of a group command keep their rows (R302). -/
def Round.fieldsOk (r : Round) : Bool :=
  r.field 191 188 = 0 && r.field 159 156 = 0 && r.field 23 23 = 0 && decide (r.opc ≤ 2) && r.field 155 128 ≠ 0 &&
    r.field 127 64 % 8 = 0 && (r.opc ≠ 0 || r.expected = 0) &&
    (if r.opc = 2 then r.field 63 48 = 0 else decide (1 ≤ r.field 63 48) && decide (r.field 63 48 ≤ 1024))

/-- The member list of a group command, or none where it cannot be read or is bad (R302). -/
def State.memberList (s : State) (r : Round) : Option (List Nat) :=
  let n := r.field 63 48
  match s.engRead 0 r.slot (r.field 127 64) (2 * n) with
  | .error _ => none
  | .ok b =>
    let l := (chunks 2 n b).map ofBytes
    if l.all (fun d => decide (d < 1024) && s.dieUp d) && l.eraseDups.length = l.length then some l else none

/-- The communicator's entry on a die. -/
def State.entry? (s : State) (r : Round) (die : Nat) : Option Comm := tfind (s.die die).comms r.key

/-- Version b of a communicator is newer than version a, modulo 2^16. -/
def newerVersion (a b : BitVec 16) : Bool := decide (0 < (b - a).toNat) && decide ((b - a).toNat < 0x8000)

/-- The communicator's latest entry on any die. An entry that a member kept because the fabric could not reach it when it left is older
than those of the members that stayed (R303). -/
def State.latestEntry (s : State) (r : Round) : Option Comm :=
  s.dies.foldl (fun best (_, d) =>
    match tfind d.comms r.key, best with
    | none, _ => best
    | some c, none => some c
    | some c, some b => if newerVersion b.version c.version then some c else best) none

/-- The member list that the communicator has, by its latest entry. -/
def State.oldMembers (s : State) (r : Round) : List Nat := ((s.latestEntry r).map Comm.members).getD []

/-- Changes a round. -/
def State.onRound (s : State) (n : Nat) (f : Round → Round) : State :=
  { s with eng := { s.eng with rounds := tmap f s.eng.rounds n } }

/-- Ends a round with its outcome: blocks held on the voters proceed (R303). -/
def State.settleRound (s : State) (n : Nat) (r : Round) (ok : Bool) (code : Nat) : State :=
  s.onRound n fun x => { x with phase := .committed ok code, acks := r.voters }

/-! ### The round (R303) -/

/-- An earlier round of the same communicator is not over. -/
def State.roundBefore (s : State) (n : Nat) (r : Round) : Bool :=
  s.eng.rounds.any fun (k, x) => decide (k < n) && x.key = r.key

/-- The die whose canopy engine 0 coordinates a round: the lowest of the new list, or of the old list for destroy (R303). -/
def Round.coordinator (r : Round) (old new : List Nat) : Nat := (sortNat (if r.opc = 2 then old else new)).headD 0

/-- AGREEMENT_PROPOSE (R302, R303): the command's checks, then the proposal to the voters: the dies of the new list and those of
the old list that the fabric reaches. A communicator that does not exist has no version to match. -/
def execAgreementPropose (n : Nat) (s : State) : Result :=
  match tfind s.eng.rounds n with
  | none => .next s
  | some r =>
    if r.phase ≠ .posted || s.roundBefore n r then .next s
    else if !r.fieldsOk then .next (s.settleRound n r false 15)
    else
      match if r.opc = 2 then some [] else s.memberList r with
      | none => .next ((s.engMark 0 r.slot [(r.field 127 64, 2 * r.field 63 48)]).settleRound n r false 15)
      | some new =>
        let old := s.oldMembers r
        if r.opc ≠ 0 && old.isEmpty then .next (s.settleRound n r false 12)
        else
          let first := r.coordinator old new
          let voters := sortNat (new ++ old.filter fun d => !new.contains d && s.reachable first d)
          .next (s.onRound n fun r =>
            { r with members := new, old := old, voters := voters, proposed := s.rt, phase := .proposed })

/-- A collective of the communicator runs on a die. -/
def State.commRuns (s : State) (r : Round) (die : Nat) : Bool :=
  [die * 2, die * 2 + 1].any fun k => (s.canopy k).ctxs.any fun (_, p) => p.worksFor r.slot r.comm

/-- Other rounds in which a die has voted yes for a membership that it would serve, and that are not settled: their keys and
channels (R268). -/
def State.pledged (s : State) (n die : Nat) : List (Nat × Nat) :=
  (s.eng.rounds.filter fun (k, x) =>
    k ≠ n && x.phase = .proposed && x.members.contains die && tfind x.votes die = some 0).map fun (_, x) =>
      (x.key, x.field 22 20)

/-- A voter's answer: 0 yes, 12 or 13 (R268, R303). What it has promised to other rounds counts as served. -/
def State.ballot (s : State) (n : Nat) (r : Round) (die : Nat) : Nat :=
  let entry := s.entry? r die
  let others := (s.die die).comms.filter fun (k, _) => k ≠ r.key
  let pledged := s.pledged n die
  let serves := others.length + (pledged.filter fun (k, _) => (tfind others k).isNone).length
  let stale := match entry with
    | some c => r.opc = 0 || c.version.toNat ≠ r.expected
    | none => false
  if stale then 12
  else if r.members.contains die &&
      (others.any (fun (_, c) => c.channel.val = r.field 22 20) || pledged.any (fun (_, c) => c = r.field 22 20) ||
        (entry.isNone && decide (8 ≤ serves))) then 13
  else 0

/-- The proposal or commit of a round cannot pass now to a voter and its answer back: no route reaches it, or one holds packets (R303, R331,
R332). -/
def State.roundWaits (s : State) (r : Round) (die : Nat) : Bool :=
  let c := r.coordinator r.old r.members
  !s.reachable c die || !s.reachable die c || s.tripWaits fabricUnit c die

/-- AGREEMENT_VOTE (R303): the proposal reaches the voter, which holds new blocks and votes once no collective of the communicator runs on
it. -/
def execAgreementVote (n die : Nat) (s : State) : Result :=
  match tfind s.eng.rounds n with
  | none => .next s
  | some r =>
    if r.phase ≠ .proposed || !r.voters.contains die || (tfind r.votes die).isSome || s.roundWaits r die then .next s
    else
      let s := s.onRound n fun x => { x with holds := if x.holds.contains die then x.holds else die :: x.holds }
      if s.commRuns r die then .next s
      else
        let rt := s.rt
        .next (s.onRound n fun x => { x with votes := tput x.votes die (s.ballot n r die), lastVote := rt })

/-- The attempt that a voter takes: one above its own, or, at a new member, one above that of the lowest voter with an entry
(R303). -/
def State.nextAttempt (s : State) (r : Round) (die : Nat) : BitVec 16 :=
  if r.opc = 0 then 0
  else
    match s.entry? r die with
    | some c => c.attempt + 1
    | none =>
      match r.voters.findSome? fun d => s.entry? r d with
      | some c => c.attempt + 1
      | none => 0

/-- A voter installs the new membership, or drops its entry (R303). -/
def State.install (s : State) (r : Round) (die : Nat) : State :=
  match r.members.zipIdx.find? fun (d, _) => d = die with
  | some (_, rank) =>
    let c : Comm :=
      { members := r.members, rank := rank, version := BitVec.ofNat 16 (if r.opc = 0 then 1 else r.expected + 1),
        attempt := s.nextAttempt r die, channel := Fin.ofNat 8 (r.field 22 20), redtmo := r.field 155 128, seq := 0 }
    s.onDie die fun d => { d with comms := tput d.comms r.key c }
  | none => s.onDie die fun d => { d with comms := tdel d.comms r.key }

/-- Nodes of the communicator's earlier attempts on the voters forward nothing (R280). -/
def State.dropNodes (s : State) (r : Round) : State :=
  { s with
    eng := { s.eng with
      reds := s.eng.reds.filter fun (_, x) => !(x.ctx = r.slot && x.comm = r.comm && r.voters.contains x.die) } }

/-- AGREEMENT_COMMIT (R303): every voter has voted; with every vote yes before TMO the new membership is installed once the commit passes
to every voter, otherwise nothing changes. -/
def execAgreementCommit (n : Nat) (s : State) : Result :=
  match tfind s.eng.rounds n with
  | none => .next s
  | some r =>
    if r.phase ≠ .proposed || r.voters.any (fun d => (tfind r.votes d).isNone) then .next s
    else
      match (tvals r.votes).find? fun v => v ≠ 0 with
      | some code => .next (s.settleRound n r false code)
      | none =>
        if r.proposed + r.timeout ≤ r.lastVote then .next (s.settleRound n r false 14)
        else if r.voters.any (s.roundWaits r) then .next s
        else
          let keep := s
          let s := r.voters.foldl (fun s d =>
            (s.install r d).onDie d fun x =>
              { x with comms := tmap (fun c => { c with attempt := keep.nextAttempt r d }) x.comms r.key }) s
          .next ((s.dropNodes r).settleRound n r true 0)

/-- AGREEMENT_ROUND_TIMEOUT (R303): votes missing after TMO. -/
def execAgreementRoundTimeout (n : Nat) (s : State) : Result :=
  match tfind s.eng.rounds n with
  | none => .next s
  | some r =>
    if r.phase = .proposed && decide (r.proposed + r.timeout ≤ s.rt) && r.voters.any (fun d => (tfind r.votes d).isNone)
    then .next (s.settleRound n r false 14)
    else .next s

/-- GROUP_COMMAND_COMPLETE (R302): the completion record is written after every voter has acknowledged. -/
def execGroupCommandComplete (n : Nat) (s : State) : Result :=
  match tfind s.eng.rounds n with
  | none => .next s
  | some r =>
    match r.phase with
    | .committed ok code =>
      let s := { s with eng := { s.eng with rounds := tdel s.eng.rounds n } }
      .next (s.complete r.mailbox r.slot (r.field 255 192)
        (completionBytes (r.field 319 256) s.rt 0 0 0 code (if ok then 1 else 2)))
    | _ => .next s

end Sys2Proof.Machine
end

