-- ==== Sys2Proof/Machine/Saving.lean ====
section
/-! DEFINITION. Saving, restoring and migrating groups, and the placement of the next group: R31, R198 to R200, R229, R245,
R261, R314 to R318, R326 (spec/17_translation_preemption_traps.md). A saved group stands under a group-slot number that is
no core's (log entry 33). -/

namespace Sys2Proof.Machine

/-! ### Moving a group to another number -/

/-- A warp's number after its group has moved. -/
def moveWarp (old new w : Nat) : Nat := if w / 64 = old then new * 64 + w % 64 else w

/-- The owner of a program or block after a move. -/
def Prog.move (old new : Nat) (p : Prog) : Prog := { p with owner := p.owner.map fun (w, n) => (moveWarp old new w, n) }

/-- A barrier's arrivals after a move. -/
def BarPhase.move (old new : Nat) (b : BarPhase) : BarPhase :=
  { b with arrived := b.arrived.map (moveWarp old new) }

/-- Inserts the entries of a table one by one, so that its keys rise. -/
def rekey {β : Type} (f : Nat → Nat) (t : Table β) : Table β := t.foldl (fun r (k, v) => tput r (f k) v) []

/-- A sweep's record after a move. -/
def CamSlot.move (old new : Nat) (c : CamSlot) : CamSlot :=
  { c with sweep := c.sweep.map fun x => { x with warp := moveWarp old new x.warp } }

/-- The engines' records of warps after a move. -/
def Eng.move (old new : Nat) (e : Eng) : Eng :=
  let m := moveWarp old new
  { e with
    fences := e.fences.map fun f => { f with warp := m f.warp }
    roots := e.roots.map fun (n, r) =>
      (n, { r with
            front := r.front.map (Prog.move old new), queue := r.queue.map (Prog.move old new)
            ctxs := r.ctxs.map fun (c, p) => (c, p.move old new)
            aborts := r.aborts.map fun a => { a with warp := m a.warp } })
    canopies := e.canopies.map fun (n, c) =>
      (n, { front := c.front.map fun x => { x with warp := m x.warp }, queue := c.queue.map (Prog.move old new),
            ctxs := c.ctxs.map fun (k, p) => (k, p.move old new) })
    cambiums := e.cambiums.map fun (n, c) =>
      (n, { front := c.front.map fun x => { x with warp := m x.warp }, ends := c.ends.map fun x => { x with warp := m x.warp },
            slots := c.slots.map fun (k, x) => (k, x.move old new) })
    flights := e.flights.map fun (n, f) =>
      (n, { f with
            msg := match f.msg with
              | .token ctx id die owner => .token ctx id die (owner.map fun (w, k) => (m w, k))
              | f => f })
    locks := e.locks.map fun (a, l) =>
      (a, { l with holder := l.holder.map fun (w, n) => (m w, n), queue := l.queue.map fun (w, n) => (m w, n) }) }

/-- A transfer after a move. -/
def Transfer.move (old new : Nat) (t : Transfer) : Transfer :=
  { t with
    group := if t.group = old then new else t.group
    core := if t.group = old then coreOfGroup new else t.core
    barGroup := if t.barGroup = old then new else t.barGroup }

/-- Gives a group and its warps another number wherever they are named. -/
def State.moveGroup (s : State) (old new : Nat) : State :=
  let m := moveWarp old new
  { s with
    mem :=
      { s.mem with
        paths := s.mem.paths.map fun (k, l) =>
          (k, l.map fun p => { p with warp := m p.warp, after := p.after.map m, rels := p.rels.map m }) }
    comp :=
      { s.comp with
        groups := rekey (fun g => if g = old then new else g)
          (s.comp.groups.map fun (g, x) => (g, { x with bars := x.bars.map fun (i, b) => (i, b.move old new) }))
        cbars := s.comp.cbars.map fun (k, t) => (k, t.map fun (i, b) => (i, b.move old new))
        warps := rekey m s.comp.warps
        transfers := s.comp.transfers.map fun (n, t) => (n, t.move old new) }
    dies := s.dies.map fun (n, d) => (n, { d with waiting := d.waiting.map fun (c, p) => (c, p.move old new) })
    eng := s.eng.move old new }

/-! ### Saving (R315, R316) -/

/-- Entries of a table whose keys lie in a range, counted from its start. -/
def slice {β : Type} (t : Table β) (lo n : Nat) : Table β :=
  (t.filter fun (k, _) => lo ≤ k && k < lo + n).map fun (k, v) => (k - lo, v)

/-- Entries of a table whose keys do not lie in a range. -/
def outside {β : Type} (t : Table β) (lo n : Nat) : Table β := t.filter fun (k, _) => !(lo ≤ k && k < lo + n)

/-- A number for a saved group. -/
def State.savePlace (s : State) : Nat := max (2 ^ 40) (tnext s.comp.groups)

/-- A window as it is saved: absent or full (R245). -/
def Window.saved (w : Window) : Window :=
  match w.state with
  | .filling _ => { w with state := .absent }
  | _ => w

/-- Writes a group to the save area of its context and frees its core's resources (R31, R315): the level-1 region of the core
is invalidated; transfers held at its barriers keep their order (R233). -/
def State.saveGroup (s : State) (g : Nat) : State :=
  match s.group? g with
  | none => s
  | some x =>
    let core := coreOfGroup g
    let place := s.savePlace
    let c := s.core core
    let mine := c.banks.filter fun (_, b) => b.owner = g
    let inBanks (word : Nat) : Bool := (tkeys mine).contains word
    let atBarrier (n : Nat) : Bool := (tfind s.comp.transfers n).any fun t => t.barGroup = g
    let saved : SavedGroup :=
      { group := place, left := g, store := slice c.store x.base x.size, empty := slice c.empty (x.base / 16) (x.size / 16),
        poison := slice c.poison (x.base / 16) (x.size / 16),
        held := c.held.filter fun h => atBarrier h.transfer,
        banks := mine.map fun (n, b) => (n, { b with owner := place }),
        acc := c.acc.filter fun (k, _) => inBanks (k / 2048), accPoison := c.accPoison.filter fun (k, _) => inBanks (k / 512) }
    let s := s.onCore core fun c =>
      { c.zeroBanks (BitVec.ofNat 32 ((tkeys mine).foldl (fun n b => n + 2 ^ b) 0)) with
        banks := c.banks.filter fun (_, b) => b.owner ≠ g
        held := c.held.filter fun h => !atBarrier h.transfer
        empty := outside c.empty (x.base / 16) (x.size / 16)
        watch := tdel c.watch x.slot
        level1 := [] }
    let s := s.onGroup g fun y => { y with windows := y.windows.map fun (n, w) => (n, w.saved) }
    let s := s.moveGroup g place
    let saves := tput s.ctl.saves x.slot (tget [] s.ctl.saves x.slot ++ [saved])
    ({ s with ctl := { s.ctl with saves := saves } }).copySize core

/-- An access to the store of the core that a group left, at the place that its bytes take (R140). -/
def Access.rebase (left base to' size core : Nat) (a : Access) : Access :=
  match a.loc with
  | .store c o => if c = left && base ≤ o && o < base + size then { a with loc := .store core (to' + (o - base)) } else a
  | .global _ => a

/-- What waits for a phase of a cluster barrier after its group has moved to another site (R95; log entry 56): an arrival that stands
waits for the phase that is open there, one whose phase is complete waits no longer. -/
def Warp.moveArrival (stands : Bool) (id n : Nat) (W : Warp) : Warp :=
  { W with
    phase := match W.phase with
      | .barrier true i m => .barrier true i (if i = id && stands then n else m)
      | p => p
    rejoin := match W.rejoin with
      | some (true, i, m) => if i = id then (if stands then some (true, i, n) else none) else some (true, i, m)
      | r => r }

/-- The arrivals of a group at the cluster barriers of its dispatch move with it to another cluster site (R95; log entry 56). -/
def State.moveArrivals (s : State) (dispatch old new g : Nat) : State :=
  (tget [] s.comp.cbars (cbarKey dispatch old)).foldl (fun s (id, b) =>
    let mine := b.arrived.filter fun w => groupOf w = g
    let c := tget BarPhase.start (tget [] s.comp.cbars (cbarKey dispatch new)) id
    let put (s : State) (site : Nat) (b : BarPhase) : State :=
      let key := cbarKey dispatch site
      { s with comp := { s.comp with cbars := tput s.comp.cbars key (tput (tget [] s.comp.cbars key) id b) } }
    let s := put s old { b with arrived := b.arrived.filter fun w => groupOf w ≠ g }
    let s := if mine.isEmpty then s
      else put s new { c with count := if c.arrived.isEmpty then b.count else c.count, arrived := c.arrived ++ mine }
    ((tkeys s.comp.warps).filter fun w => groupOf w = g).foldl (fun s w =>
      s.onWarp w (Warp.moveArrival (mine.contains w) id c.complete)) s) s

/-- A warp goes on after its group is restored (R92, R140, R189, R229, R317): it acquires, its preempt destination receives 1, its
ldw instructions are issued again, and a wait whose time has passed ends. -/
def State.goOn (s : State) (w : Nat) : State :=
  let now := s.time.now
  let s := (s.acquire w .pod).onWarp w fun W =>
    let W := match W.resumed with
      | some (d, lanes) => (resultWrites d false lanes fun _ => some 1).foldl Warp.applyPending W
      | none => W
    { W with resumed := none, readyAt := now }
  let s := s.reissue w
  match (s.warp w).phase with
  | .waiting x => if s.expired x then s.endWait w x else s
  | _ => s.wake w

/-- A write in a path happens before what a group does after its move: one of its dispatch, one of its warps, or one that a warp of it has
acquired (R221, R229). -/
def PathWrite.beforeMove (p : PathWrite) (dispatch g : Nat) : Bool :=
  p.dispatch = dispatch || groupOf p.warp = g || p.after.any fun w => groupOf w = g

/-- Puts a saved group back on a core (R229, R317): its store, windows and barriers at the new base, its banks under the same
numbers. The move releases at the old core and acquires at the new one. The offsets in the wait block of a warp that waits stay as they
are (log entry 57). -/
def State.restoreGroup (s : State) (v : SavedGroup) (core gslot base : Nat) : State :=
  match s.group? v.group with
  | none => s
  | some x =>
    let g := core * 64 + gslot
    let left := coreOfGroup v.left
    let s := if siteOf core = siteOf left then s else s.flushWhere fun p => p.beforeMove x.dispatch v.group
    let at' (o : Nat) : Nat := base + (o - x.base)
    let s := s.onCore core fun c =>
      let c := c.zeroBanks (BitVec.ofNat 32 ((tkeys v.banks).foldl (fun n b => n + 2 ^ b) 0))
      { c with
        worlds := (base, x.size, (s.slot x.slot).world) :: c.worlds
        store := v.store.foldl (fun t (k, b) => tset 0 t (base + k) b) (outside c.store base x.size)
        empty := v.empty.foldl (fun t (k, b) => tset false t (base / 16 + k) b) (outside c.empty (base / 16) (x.size / 16))
        poison := v.poison.foldl (fun t (k, b) => tset false t (base / 16 + k) b)
          (outside c.poison (base / 16) (x.size / 16))
        held := c.held ++ v.held.map fun h => { h with barrier := at' h.barrier }
        banks := v.banks.foldl (fun t (k, b) => tput t k { b with owner := g }) c.banks
        acc := v.acc.foldl (fun t (k, b) => tset 0 t k b) c.acc
        accPoison := v.accPoison.foldl (fun t (k, b) => tset false t k b) c.accPoison }
    let s := s.onGroup v.group fun y =>
      { y with
        base := base
        windows := y.windows.map fun (n, w) => (n, { w with offset := at' w.offset, bar := w.bar.map at' }) }
    let shift (t : Transfer) : Transfer :=
      let t := if t.barGroup = v.group then { t with bar := t.bar.map at' } else t
      if t.group = v.group then { t with offset := at' t.offset } else t
    let s := { s with comp := { s.comp with transfers := s.comp.transfers.map fun (n, t) => (n, shift t) } }
    let s := s.moveGroup v.group g
    let s := (s.onDispatch x.dispatch fun d => { d with ran := if d.ran.contains core then d.ran else core :: d.ran })
    let s := if siteOf core = siteOf left then s else s.moveArrivals x.dispatch (siteOf left) (siteOf core) g
    let ws := tkeys (s.comp.warps.filter fun (w, _) => groupOf w = g)
    let move (o : Op) : Op := { o with acc := o.acc.map (Access.rebase left x.base base x.size core) }
    let s := ws.foldl (fun s w =>
      s.onWarp w fun W => { W with ops := W.ops.map move, withdrawn := W.withdrawn.map move, onReturn := W.onReturn.map move }) s
    (ws.foldl State.goOn s).progress core x.slot

/-- Cores where a saved group may be placed again (R198, R249, R317): of its instance, and of its cluster site when the
cluster level is used or the dispatch is a cambium dispatch. -/
def State.restoreCores (s : State) (v : SavedGroup) (x : Group) : List Nat :=
  let site := siteOf (coreOfGroup v.left)
  let bound := match s.dispatch? x.dispatch with
    | some d => recClusters d.record ≠ 0 || hdrBits d.header 64 64 = 1
    | none => false
  (s.coresOf x.domain).filter fun c => !bound || siteOf c = site

/-- Places a saved group again, if it fits somewhere (R317) and, on another cluster site, no route holds a write that goes before the move
(R229, R332). -/
def State.tryRestore (s : State) (v : SavedGroup) : Option State :=
  match s.group? v.group with
  | none => none
  | some x =>
    let n : Needs := { wpg := x.wpg, size := x.size, nwin := x.windows.length, mask := x.accMask }
    match s.chooseCore n (s.restoreCores v x) with
    | none => none
    | some c =>
      match s.fits c n with
      | some (g, o) =>
        if siteOf c ≠ siteOf (coreOfGroup v.left) && s.waitsWhere fun p => p.beforeMove x.dispatch v.group then none
        else some (s.restoreGroup v c g o)
      | none => none

/-- Places every saved group of a list that fits, in order; what does not fit stays saved. -/
def State.restoreAll (s : State) : List SavedGroup → State × List SavedGroup
  | [] => (s, [])
  | v :: t =>
    match s.tryRestore v with
    | some s => s.restoreAll t
    | none =>
      let (s, l) := s.restoreAll t
      (s, v :: l)

/-- Continues a resume: when every group is placed, SAVED returns to 0 (R317). -/
def State.resumeSlot (s : State) (slot : Nat) : State :=
  if (s.slot slot).resuming then
    let (s, left) := s.restoreAll (tget [] s.ctl.saves slot)
    let s := { s with ctl := { s.ctl with saves := tset [] s.ctl.saves slot left } }
    if left.isEmpty then
      s.onSlot slot fun x => { x with ctxctl := x.ctxctl &&& ~~~(4 : Word), resuming := false }
    else s
  else s

/-- GROUP_PLACE (R198 to R200, R317): the next group of a dispatch goes to the core that the rules choose, once it fits;
saved groups of a context that resumes go first. -/
def execGroupPlace (d : Nat) (s : State) : Result :=
  match s.dispatch? d with
  | none => .next s
  | some x =>
    if (s.slot x.slot).resuming then .next (s.resumeSlot x.slot)
    else if !s.wantsPlace x then .next s
    else
      let (first, blocked) := s.ahead x d
      let ds := (x.domain x.nextRank).filter fun e => !blocked.contains e
      if ds.any first.contains then .next s
      else
        match s.placeNext d x ds with
        | some s => .next s
        | none => .next s

/-! ### Pre-emption (R314, R315, R261) -/

/-- Resident groups of a context slot. -/
def State.slotGroups (s : State) (slot : Nat) : List Nat :=
  tkeys (s.comp.groups.filter fun (g, x) => x.slot = slot && decide (coreOfGroup g < 2 ^ 18))

/-- Warps of a context slot on cores. -/
def State.slotWarps (s : State) (slot : Nat) : List (Nat × Warp) :=
  s.comp.warps.filter fun (w, _) => resident w && s.ctxOfWarp w = slot

/-- Stops a warp for a save: a clause stalled at issue is withdrawn with its resume point there, waiting ldw instructions
are withdrawn, those of a warp that has ended too (R140, R315). -/
def State.stopForSave (s : State) (w : Nat) : State :=
  match (s.warp w).phase with
  | .issuing =>
    match s.clauseOf w with
    | some (q, c) =>
      if c.stalled then
        let s := s.onClause q fun c => { c with ending := some .withdrawn, stalled := false }
        s.onWarp w fun W => { W with resume := some (c.h, c.index) }
      else s
    | none => s
  | .gone => s
  | _ => s.withdrawLdws w

/-- A warp is drained for a save (R315): at a boundary, no entry pending, and the conditions of R311 met. -/
def State.drained (s : State) (w : Nat) : Bool :=
  let ph := (s.warp w).phase
  ph ≠ .issuing && ph ≠ .entering && s.entryMet w

/-- Groups of a context slot, or one group, can be saved (R245, R315). -/
def State.saveable (s : State) (gs : List Nat) : Bool :=
  (s.comp.warps.all fun (w, _) => !gs.contains (groupOf w) || s.drained w) &&
    (gs.all fun g => (s.core (coreOfGroup g)).queue.all fun q => groupOf q.warp ≠ g) &&
    s.comp.transfers.all fun (_, t) => !gs.contains t.group || match t.source with
      | .copy .. => false
      | .push _ => true

/-- Bytes of the save area that groups of given sizes and numbers of banks need (R316). -/
def saveNeed (l : List (Nat × Nat)) : Nat := (l.map fun (size, banks) => 65536 + roundUp size 65536 + 8192 * banks).foldl (· + ·) 0

/-- The size and banks of a group by its number. -/
def State.saveSize (s : State) (g banks : Nat) : List (Nat × Nat) :=
  match s.group? g with
  | none => []
  | some x => [(x.size, banks)]

/-- Bytes of the save area of a context slot that its saved groups and some more of its groups need (R316). -/
def State.saveBytes (s : State) (slot : Nat) (gs : List Nat) : Nat :=
  saveNeed ((gs.flatMap fun g =>
      s.saveSize g ((s.core (coreOfGroup g)).banks.filter fun (_, b) => b.owner = g).length) ++
    (tget [] s.ctl.saves slot).flatMap fun v => s.saveSize v.group v.banks.length)

/-- The save area of a context slot is too small for its saved groups and some more (R316). -/
def State.saveShort (s : State) (slot : Nat) (gs : List Nat) : Bool := Config.saveFrames slot * 65536 < s.saveBytes slot gs

/-- A cambium engine gives up its forming warp: its elements are ready again, and the cursor returns to the last element of the last warp
launched, with the scan behind it (R261). -/
def State.stopScan (s : State) (site dispatch slot : Nat) (c : CamSlot) : State :=
  match c.sweep with
  | none => s
  | some x =>
    let d := c.desc.toNat
    let s := x.forming.foldl (fun s (i, _) =>
      match s.readBud site c.ctx d i with
      | some b => (s.writeBud site dispatch c.ctx d i { b with state := 1 }).getD s
      | none => s) s
    let next := match x.launched with
      | some i => i + 1
      | none => (s.camRange site dispatch (camCount d)).1
    s.onCamSlot site dispatch slot fun c =>
      { c with sweep := c.sweep.map fun y => { y with forming := [], cursor := y.launched, scanned := next } }

/-- The cambium engines of a context slot stop at an element boundary (R261). -/
def State.stopScans (s : State) (slot : Nat) : State :=
  s.eng.cambiums.foldl (fun s (site, c) =>
    c.slots.foldl (fun s (k, x) => if x.ctx = slot then s.stopScan site (k / 4) (k % 4) x else s) s) s

/-- A kill with code 5 (R299): of a dispatch that runs, or of one whose kill is complete and that awaits its replay (R301). One that is
being killed stays as it is, and one that is only held has not been accepted (R296). -/
def DispatchPhase.kill : DispatchPhase → DispatchPhase
  | .accepted => .killing 5 false
  | .stopped _ true => .stopped 5 false
  | .aborting _ true => .aborting 5 false
  | x => x

/-- Kills every accepted dispatch that satisfies a condition, with code 5 (R299). -/
def State.killWhere (s : State) (p : Dispatch → Bool) : State :=
  { s with
    ctl :=
      { s.ctl with
        dispatches := s.ctl.dispatches.map fun (n, d) =>
          (n, if p d then { d with phase := d.phase.kill } else d) } }

/-- PREEMPT_SAVE (R315): warps stop and drain; then the context's groups are written to the save area and SAVED is set.
A save area that is too small kills the context's dispatches (R316), and the request stands until nothing of them is left to save
(R314). -/
def execPreemptSave (slot : Nat) (s : State) : Result :=
  if !(s.slot slot).preq then .next s
  else
    let s := (tkeys (s.slotWarps slot)).foldl State.stopForSave s
    let gs := s.slotGroups slot
    if !s.saveable gs then .next s
    else if s.saveShort slot gs then .next (s.killWhere fun d => d.slot = slot)
    else
      let s := gs.foldl State.saveGroup (s.stopScans slot)
      let vec := bits (s.slot slot).ctxctl.toNat 15 8
      let s := s.onSlot slot fun x => { x with ctxctl := (x.ctxctl &&& ~~~(1 : Word)) ||| 4, resuming := false }
      .next (s.output (.msix 0 vec))

/-- A write of CTXCTL (R314): VEC is stored; PREQ requests pre-emption while nothing is saved, RESUME resumes while the context
is. -/
def State.writeCtxctl (s : State) (p : HostPort) (slot : Nat) (v : Word) : State :=
  if !p.pf || !s.portOpen p || decide (64 ≤ slot) then s
  else
    let s := s.useStream p
    let x := s.slot slot
    let s := s.onSlot slot fun x => { x with ctxctl := (x.ctxctl &&& 0xFFFF00FF) ||| (v &&& 0xFF00) }
    if x.saved then
      if bitOf v.toNat 3 then (s.onSlot slot fun x => { x with resuming := true }).resumeSlot slot else s
    else if bitOf v.toNat 0 then s.onSlot slot fun x => { x with ctxctl := x.ctxctl ||| 1 } else s

/-- CTXCTL_PREQ (R314). -/
def execCtxctlPreq (p : HostPort) (slot : Nat) (v : Word) (s : State) : Result := .next (s.writeCtxctl p slot v)

/-- CTXCTL_RESUME (R317). -/
def execCtxctlResume (p : HostPort) (slot : Nat) (v : Word) (s : State) : Result := .next (s.writeCtxctl p slot v)

end Sys2Proof.Machine
end

