-- ==== Sys2Proof/Machine/HostRegs.lean ====
section
/-! DEFINITION. Host registers and host accesses through BAR2: R7, R292, R293, R295, R299, R304, R310, R342 to
R347, R354 (spec/16_queues_dispatch_groups.md, spec/17_translation_preemption_traps.md, spec/20_trust_and_confidential_mode.md). -/

namespace Sys2Proof.Machine

/-- An access to a mailbox's registers takes effect only from its own interface (R292). -/
def State.ownMailbox (s : State) (p : HostPort) (m : Nat) : Bool :=
  decide (m < 64) && (Config.mailboxOwner m).val = p.iface && s.portOpen p

/-! ### Mailboxes (R292, R293, R299) -/

/-- A mailbox whose ring is overrun sets ERR (R293). -/
def State.judgeOverrun (s : State) (m : Nat) : State :=
  let x := s.mailbox m
  if x.overrun && !bitOf x.ctl.toNat 4 then s.mailboxError m else s

/-- MBTAIL_WRITE (R293): a release of the host's writes; an overrun sets ERR. -/
def execMbtailWrite (p : HostPort) (m : Nat) (v : Word) (s : State) : Result :=
  if !s.ownMailbox p m then .next s
  else .next (((s.useStream p).onMailbox m fun x => { x with tail := v }).judgeOverrun m)

/-- MBCTX_WRITE (R292): through the physical function, while EN is 0; bits 31:16 of the word written are ignored. -/
def execMbctxWrite (p : HostPort) (m : Nat) (_upper id : BitVec 16) (s : State) : Result :=
  if s.ownMailbox p m && p.pf && !bitOf (s.mailbox m).ctl.toNat 0 then
    .next ((s.useStream p).onMailbox m fun x => { x with ctx := id })
  else .next s

/-- Writes a mailbox's MBCTL (R292): EN, IEN and VEC are stored; LOC and SIZE only while EN is 0; a 1 in ERR clears it with
MBHEAD := MBTAIL; a 1 in KILL kills the mailbox's dispatches (R299). A ring made too small for what is posted is overrun (R293). -/
def State.writeMbctl (s : State) (p : HostPort) (m : Nat) (v : Word) : State :=
  if !s.ownMailbox p m then s
  else
    let s := s.useStream p
    let old := (s.mailbox m).ctl
    let frozen := bitOf old.toNat 0
    let loc := if frozen then old &&& 2 else v &&& 2
    let size := if frozen || 13 ≤ bits v.toNat 19 16 then old &&& 0xF0000 else v &&& 0xF0000
    let err := if bitOf v.toNat 4 then 0 else old &&& 0x10
    let s := s.onMailbox m fun x =>
      { x with
        ctl := (v &&& 0xFF05) ||| loc ||| size ||| err
        head := if bitOf v.toNat 4 then x.tail else x.head }
    let s := s.judgeOverrun m
    if bitOf v.toNat 3 then s.killWhere fun d => d.mailbox = m else s

/-- MBCTL_ENABLE (R292). -/
def execMbctlEnable (p : HostPort) (m : Nat) (v : Word) (s : State) : Result := .next (s.writeMbctl p m v)

/-- MBCTL_KILL (R292, R299). -/
def execMbctlKill (p : HostPort) (m : Nat) (v : Word) (s : State) : Result := .next (s.writeMbctl p m v)

/-- MBCTL_ERR_CLEAR (R292). -/
def execMbctlErrClear (p : HostPort) (m : Nat) (v : Word) (s : State) : Result := .next (s.writeMbctl p m v)

/-! ### Context slots (R304, R310, R345) -/

/-- A slot's registers are written through the physical function of any interface (R304). -/
def State.slotPort (s : State) (p : HostPort) (slot : Nat) : Bool := p.pf && s.portOpen p && decide (slot < 64)

/-- A dispatch of a slot is accepted and not completed. -/
def State.slotBusy (s : State) (slot : Nat) : Bool := s.ctl.dispatches.any fun (_, d) => d.slot = slot && d.phase ≠ .held

/-- Worlds that a valid slot names (R345). -/
def State.liveWorlds (s : State) : List Nat := ((s.ctl.slots.filter fun (_, x) => x.valid).map fun (_, x) => x.world).eraseDups

/-- Draws the keys of worlds that now have a valid slot and erases those of worlds that have none (R345). -/
def State.updateKeys (s : State) : State :=
  let live := s.liveWorlds
  let kept := s.mod.worldKeys.filter fun (w, _) => live.contains w
  (sortNat live).foldl (fun s w =>
    if (tfind s.mod.worldKeys w).isSome then s
    else { s with mod := { s.mod with worldKeys := tput s.mod.worldKeys w (s.mod.keySerial + 1), keySerial := s.mod.keySerial + 1 } })
    { s with mod := { s.mod with worldKeys := kept } }

/-- The context slot of something on its way over the fabric. -/
def Flight.ctx : Flight → Nat
  | .token c .. | .abort c .. | .child c .. | .result c .. | .part c .. => c

/-- Drops cached copies of translations, in the TLB of every core and the walk cache of every die (R310). -/
def State.dropCopies (s : State) (gone : TlbEntry → Bool) : State :=
  { s with
    comp := { s.comp with cores := s.comp.cores.map fun (n, c) => (n, { c with tlb := c.tlb.filter fun e => !gone e }) }
    dies := s.dies.map fun (n, d) => (n, { d with walks := d.walks.filter fun e => !gone e }) }

/-- What a context's span held goes with it (R4, R292, R302): bound mailboxes are cleared, its communicators and tokens dropped, and the
cached copies of its translations. -/
def State.leaveContext (s : State) (slot ident : Nat) : State :=
  let s := s.dropCopies fun e => e.slot = slot
  { s with
    ctl := { s.ctl with mailboxes := s.ctl.mailboxes.filter fun (_, x) => x.ctx.toNat ≠ ident }
    eng := { s.eng with flights := s.eng.flights.filter fun (_, f) => f.msg.ctx ≠ slot
                        reds := s.eng.reds.filter fun (_, r) => r.ctx ≠ slot }
    dies := s.dies.map fun (n, d) =>
      (n, { d with comms := d.comms.filter fun (k, _) => k / 256 ≠ slot
                   tokens := d.tokens.filter fun (k, _) => k / 2 ^ 32 ≠ slot }) }

/-- CTXID_WRITE (R304, R345): ignored through a virtual function and while a dispatch of the slot is accepted and not
completed. The context's span ends where VALID goes or the identifier changes, and not with another world alone (log entry 34). -/
def execCtxidWrite (p : HostPort) (slot : Nat) (v : Word) (s : State) : Result :=
  if !s.slotPort p slot || s.slotBusy slot then .next s
  else
    let s := s.useStream p
    let old := s.slot slot
    let v := v &&& 0x803FFFFF
    let s := if old.valid && (!bitOf v.toNat 31 || bits v.toNat 15 0 ≠ old.ident) then s.leaveContext slot old.ident else s
    .next ((s.onSlot slot fun x => { x with ctxid := v }).updateKeys)

/-- A TLB entry matches an invalidation (R304, R310): the slot, and an address in the page that SIZE and TLBIVA name. -/
def tlbMatches (slot size iva : Nat) (e : TlbEntry) : Bool :=
  e.slot = slot &&
    (size = 3 ||
      let n := if size = 0 then 16 else if size = 1 then 21 else 30
      overlaps (iva / 2 ^ n * 2 ^ n) (2 ^ n) e.va (2 ^ e.size))

/-- TLBICTL_INVALIDATE (R310): BUSY drops every matching entry of the slot; a write while BUSY is 1 is ignored. -/
def execTlbictlInvalidate (p : HostPort) (slot : Nat) (v : Word) (s : State) : Result :=
  let x := s.slot slot
  if !s.slotPort p slot || bitOf x.tlbictl.toNat 0 then .next s
  else
    let s := (s.useStream p).onSlot slot fun x => { x with tlbictl := v &&& 7 }
    if bitOf v.toNat 0 then .next (s.dropCopies (tlbMatches slot (bits v.toNat 2 1) (x.tlbiva.toNat % 2 ^ 57)))
    else .next s

/-- TLB_INVALIDATE_COMPLETE (R310): BUSY returns to 0 once every write translated for the context is at its home. -/
def execTlbInvalidateComplete (slot : Nat) (s : State) : Result :=
  let mine (d : Nat) : Bool := match s.dispatch? d with
    | some x => x.slot = slot
    | none => false
  if bitOf (s.slot slot).tlbictl.toNat 0 && s.mem.paths.all fun (_, l) => l.all fun p => !mine p.dispatch then
    .next (s.onSlot slot fun x => { x with tlbictl := x.tlbictl &&& 6 })
  else .next s

/-! ### BAR2 windows (R295) -/

/-- The registers of a window of an interface. -/
def State.aperture (s : State) (iface w : Nat) : Aperture := tget Aperture.reset s.ctl.apertures (iface * 16 + w)

/-- Changes the registers of a window. -/
def State.onAperture (s : State) (iface w : Nat) (f : Aperture → Aperture) : State :=
  { s with ctl := { s.ctl with apertures := tput s.ctl.apertures (iface * 16 + w) (f (s.aperture iface w)) } }

/-- The registers of a window are written through the physical function of its interface; there are 16 windows (R295). -/
def State.windowPort (s : State) (p : HostPort) (w : Nat) : Bool := p.pf && s.portOpen p && decide (w < 16)

/-- APCTL_WRITE (R295) of EN and the word's other fields: while EN is 1 only EN changes. -/
def execApctlWrite (p : HostPort) (w : Nat) (en : Bool) (fields : Word) (s : State) : Result :=
  if !s.windowPort p w then .next s
  else
    .next ((s.useStream p).onAperture p.iface w fun x =>
      { x with
        ctl := ((if bitOf x.ctl.toNat 31 then x.ctl else fields) &&& 0x403F003F) ||| if en then 0x80000000 else 0 })

/-- The address of a host access at an offset of one of the 16 windows of BAR2 and the world that keys it; none where the access is
refused (R295, R342, R343). -/
def State.hostTarget (s : State) (p : HostPort) (w offset : Nat) : Option (Aperture × Nat × Nat) :=
  let x := s.aperture p.iface w
  let phys := bitOf x.ctl.toNat 30
  let slot := bits x.ctl.toNat 5 0
  let world := if phys then bits x.ctl.toNat 21 16 else (s.slot slot).world
  let refused := !s.portOpen p || 16 ≤ w || 2 ^ 32 ≤ offset || !bitOf x.ctl.toNat 31 || (!phys && !(s.slot slot).valid) ||
    (s.mod.mode && !(p.stream.isSome && (s.ideOf p.iface).world = world))
  if refused then none else some (x, world, x.base.toNat / 2 ^ 32 * 2 ^ 32 + offset)

/-- The physical address of a host access (R295): the page's code 2 does not refuse the host (R213). -/
def State.hostPhys (s : State) (x : Aperture) (a : Nat) (need : Need) : Option Nat :=
  if bitOf x.ctl.toNat 30 then
    if 2 ^ 54 ≤ a ∨ (s.addressFault 0 a 0 .read).isSome then none else some a
  else
    match s.walk [] 0 (bits x.ctl.toNat 5 0) a with
    | .error _ => none
    | .ok l =>
      let f := leafOf l
      let pa := leafAddress f.entry f.level a
      if (leafFault f.entry need).isSome ∨ (s.addressFault 0 pa 0 .read).isSome then none else some pa

/-- The physical addresses of every byte of a host access. -/
def State.hostBytes (s : State) (x : Aperture) (a n : Nat) (need : Need) : Option (List Nat) :=
  (pieces a n).foldl (fun acc e =>
    match acc, s.hostPhys x e.1 need with
    | some l, some pa => some (l ++ (List.range e.2).map (pa + ·))
    | _, _ => none) (some [])

/-- A byte that a world's key gives of a line: what the line holds, or what another key makes of it (R344, R345). -/
def State.plainByte (s : State) (world pa : Nat) : Byte :=
  if s.badLine world pa then Config.garbled world pa else s.seenByte world pa

/-- HOST_BAR2_READ (R295, R325, R345): the bytes, with the poisoned attribute where an error was met, or Unsupported Request. -/
def execHostBar2Read (p : HostPort) (w offset count : Nat) (s : State) : Result :=
  match s.hostTarget p w offset with
  | none => .next (s.output (.unsupported p.iface))
  | some (x, world, a) =>
    let s := s.useStream p
    match s.hostBytes x a count .read with
    | none => .next (s.output (.unsupported p.iface))
    | some l =>
      .next ((l.foldl (fun s pa => s.checkMac world pa 1) s).output
        (.read p.iface (l.map (s.plainByte world)) (l.any (s.poisoned world))))

/-- HOST_BAR2_WRITE (R295): performed at the home with its byte mask, or dropped. -/
def execHostBar2Write (p : HostPort) (w offset : Nat) (bytes : List Byte) (s : State) : Result :=
  match s.hostTarget p w offset with
  | none => .next s
  | some (x, world, a) =>
    let s := s.useStream p
    match s.hostBytes x a bytes.length .write with
    | none => .next s
    | some l => .next (s.hbmWrite world (l.zip bytes))

/-! ### Registers as a whole (R7, R292, R295, R304, R347, R354) -/

/-- TRUSTSTAT (R347). -/
def State.truststat (s : State) : Nat :=
  s.mod.worldKeys.length % 128 * 2 ^ 24 +
    ((List.range 4).map fun i => (s.ideOf i).state % 4 * 4 ^ i).foldl (· + ·) 0 * 2 ^ 16 + b2n s.mod.act * 2 ^ 9 +
    b2n s.mod.scrub * 2 ^ 8 + b2n s.mod.flash.pend * 4 + b2n s.mod.mode

/-- The header of the start record (R354). -/
def StartRecord.header (r : StartRecord) : Nat :=
  0x5A535452 * 2 ^ 224 + r.nstart.toNat * 2 ^ 192 + r.units.length % 32 * 2 ^ 128 + r.lastFail.toNat * 2 ^ 96 +
    r.alt.toNat * 2 ^ 32 + ((List.range 12).map fun k => tget 0 r.stat k % 4 * 4 ^ k).foldl (· + ·) 0

/-- The start record: its header and its sixteen unit entries (R354). -/
def StartRecord.value (r : StartRecord) : List Nat :=
  r.header :: (List.range 16).map fun i => ((r.units[i]?).getD 0).toNat

/-- A double of the start record's copy at BAR0 offset 0x3_0100 (R354). -/
def StartRecord.double (r : StartRecord) (i : Nat) : Nat :=
  if i < 4 then r.header / 2 ^ (64 * i) % 2 ^ 64 else ((r.units[i - 4]?).getD 0).toNat

/-- What a read of a host register gives (R292, R295, R304, R314, R347, R354): a mailbox reads zero from another interface, MBCTX gives
the world of its slot beside the context identifier, and KILL and RESUME read 0. -/
def State.registerValue (s : State) (p : HostPort) : HostReg → Nat
  | .mbbase m => if s.ownMailbox p m then (s.mailbox m).base.toNat else 0
  | .mbctl m => if s.ownMailbox p m then (s.mailbox m).ctl.toNat else 0
  | .mbhead m => if s.ownMailbox p m then (s.mailbox m).head.toNat else 0
  | .mbtail m => if s.ownMailbox p m then (s.mailbox m).tail.toNat else 0
  | .mbctx m =>
    if s.ownMailbox p m then
      let id := (s.mailbox m).ctx.toNat
      id + (match s.slotOf id with
        | some n => (s.slot n).world
        | none => 0) * 2 ^ 16
    else 0
  | .ctxid n => (s.slot n).ctxid.toNat
  | .ptroot n => (s.slot n).ptroot.toNat
  | .tvec n => (s.slot n).tvec.toNat
  | .tlbiva n => (s.slot n).tlbiva.toNat
  | .tlbictl n => (s.slot n).tlbictl.toNat
  | .ctxctl n => (s.slot n).ctxctl.toNat
  | .ctxsave n => (s.slot n).ctxsave.toNat
  | .apctl w => if w < 16 then (s.aperture p.iface w).ctl.toNat else 0
  | .apbase w => if w < 16 then (s.aperture p.iface w).base.toNat else 0
  | .truststat => s.truststat
  | .startRecord i => s.mod.flash.start.double i

/-- A host read of a register: answered once the module is released; outside its stream, in confidential mode, with Unsupported
Request (R343, R353). -/
def State.readRegister (s : State) (p : HostPort) (r : HostReg) : State :=
  if !s.ifaceLive p.iface then s
  else if !s.streamOk p then s.output (.unsupported p.iface)
  else (s.useStream p).output (.register p.iface (BitVec.ofNat 64 (s.registerValue p r)))

/-- REGISTER_WRITE: stores the fields of a register; read-only and frozen registers keep their values. A register with a behaviour of
its own has it. -/
def execRegisterWrite (p : HostPort) (r : HostReg) (v : Double) (s : State) : Result :=
  match r with
  | .mbbase m =>
    if s.ownMailbox p m && !bitOf (s.mailbox m).ctl.toNat 0 then
      .next ((s.useStream p).onMailbox m fun x => { x with base := v })
    else .next s
  | .mbctl m => .next (s.writeMbctl p m (v.setWidth 32))
  | .mbtail m => execMbtailWrite p m (v.setWidth 32) s
  | .mbctx m => execMbctxWrite p m (v.extractLsb' 16 16) (v.setWidth 16) s
  | .ctxid n => execCtxidWrite p n (v.setWidth 32) s
  | .tlbictl n => execTlbictlInvalidate p n (v.setWidth 32) s
  | .ctxctl n => .next (s.writeCtxctl p n (v.setWidth 32))
  | .apctl w => execApctlWrite p w (bitOf v.toNat 31) (v.setWidth 32) s
  | .mbhead _ | .truststat | .startRecord _ => .next s
  | .ptroot n =>
    .next (if s.slotPort p n && !s.slotBusy n then (s.useStream p).onSlot n fun x => { x with ptroot := v } else s)
  | .tvec n => .next (if s.slotPort p n then (s.useStream p).onSlot n fun x => { x with tvec := v } else s)
  | .tlbiva n => .next (if s.slotPort p n then (s.useStream p).onSlot n fun x => { x with tlbiva := v } else s)
  | .ctxsave n => .next (if s.slotPort p n then (s.useStream p).onSlot n fun x => { x with ctxsave := v } else s)
  | .apbase w =>
    if s.windowPort p w && !bitOf (s.aperture p.iface w).ctl.toNat 31 then
      .next ((s.useStream p).onAperture p.iface w fun x => { x with base := v })
    else .next s

end Sys2Proof.Machine
end

