-- ==== Sys2Proof/Machine/Repair.lean ====
section
/-! DEFINITION. Scrubbing, retirement, the clock manager, links and routes, R2, R9, R289, R324 to R333, R358
(spec/19_reliability_and_repair.md, spec/21_bringup_and_module.md). -/

namespace Sys2Proof.Machine

/-! ### Sectors and frames (R324, R325, R327, R328) -/

/-- Counts a corrected error of a sector (R324, R328): the fourth of its frame within one scrub period retires the frame. -/
def State.correctedError (s : State) (sector : Nat) : State :=
  let die := homeDie (sector * 32)
  let frame := sector / 2048
  let now := s.rt
  let s := s.onDie die fun d =>
    let recent := (tget [] d.scrub.frameErrors frame).filter fun t => now < t + d.scrub.period
    { d with
      counts := { d.counts with corrected := BitVec.ofNat 32 (bump 32 d.counts.corrected.toNat) }
      scrub := { d.scrub with frameErrors := tput d.scrub.frameErrors frame (recent ++ [now]) } }
  let s := s.ring die 0x01 0 [0, sector * 32]
  if 4 ≤ (tget [] (s.die die).scrub.frameErrors frame).length then s.retireFrame die frame else s

/-- A corrected sector is on its way back with the version it was read at (R324, R327). -/
def State.scrubFlight (s : State) (die sector : Nat) : State :=
  let v := tget 0 s.mem.versions sector
  s.onDie die fun d => { d with scrub := { d.scrub with inFlight := d.scrub.inFlight ++ [(sector, v)] } }

/-- SCRUB_SECTOR (R327): the scrubber reads a sector of a frame that is not retired; `errors` says what it finds: none,
one that it corrects, or one that it cannot. -/
def execScrubSector (die sector errors : Nat) (s : State) : Result :=
  if homeDie (sector * 32) ≠ die || tget false (s.die die).scrub.retired (sector / 2048) || !s.dieUp die then .next s
  else
    match errors with
    | 0 => .next s
    | 1 => .next ((s.correctedError sector).scrubFlight die sector)
    | _ => .next (s.markSector sector)

/-- SCRUB_WRITEBACK (R327): the oldest corrected sector in flight is written only if no write came between, so it never changes newer
bytes; a dropped one is recorded. -/
def execScrubWriteback (die : Nat) (s : State) : Result :=
  match (s.die die).scrub.inFlight with
  | [] => .next s
  | (sector, v) :: t =>
    let s := s.onDie die fun d => { d with scrub := { d.scrub with inFlight := t } }
    if tget 0 s.mem.versions sector = v then .next s else .next (s.ring die 0x04 0 [sector * 32])

/-! ### Retiring a core (R229, R318, R326) -/

/-- Kills a dispatch as a consumed error does (R301, R326). -/
def State.killForRepair (s : State) (dispatch : Nat) : State :=
  s.onDispatch dispatch fun d =>
    match d.phase with
    | .accepted =>
      { d with
        phase := .killing (if bitOf d.record.toNat 18 then 6 else 7) (bitOf d.record.toNat 18 && decide (d.attempts < 3)) }
    | _ => d

/-- Moves the groups of a retired core that can be saved now: each is written to its save area and placed on another core of
its instance, at once or when one has room (R318). A save area that is too small kills the context's dispatches (R316). -/
def State.migrate (s : State) (core : Nat) : State :=
  (tkeys (s.groupsOn core)).foldl (fun s g =>
    match s.group? g with
    | none => s
    | some x =>
      if !s.saveable [g] then s
      else if s.saveShort x.slot [g] then s.killWhere fun d => d.slot = x.slot
      else
        (((s.saveGroup g).onSlot x.slot fun y => { y with resuming := true }).resumeSlot x.slot)) s

/-- CORE_RETIRE (R326): the core is disabled; its groups move to other cores once their warps stand at boundaries, or their
dispatches are killed when the saved state is not intact. -/
def execCoreRetire (core : Nat) (intact : Bool) (s : State) : Result :=
  let die := dieOfCore core
  let first := s.coreUp core
  let s := if first then
      (s.onDie die fun d =>
        { d with
          cores := d.cores &&& ~~~(BitVec.ofNat 144 (2 ^ (core % 256)))
          counts := { d.counts with retCores := d.counts.retCores + 1 } }).ring die 0x06 0 [core, b2n intact]
    else s
  let gs := s.groupsOn core
  if gs.isEmpty then .next s
  else if first && !intact then
    .next ((gs.map fun e => e.2.dispatch).eraseDups.foldl State.killForRepair s)
  else
    let ws := s.comp.warps.filter fun (w, _) => coreOf w = core && !s.dying w
    let s := (tkeys ws).foldl State.stopForSave s
    .next (s.migrate core)

/-! ### The clock (R329, R330, R358) -/

/-- Changes the clock of a die. -/
def State.onClock (s : State) (die : Nat) (f : Clock → Clock) : State := s.onDie die fun d => { d with clock := f d.clock }

/-- The window of LATECNT that holds a moment (R330). -/
def Clock.roll (c : Clock) (rt : Nat) : Clock :=
  let n := (rt - c.windowStart) / 2 ^ 20
  if n = 0 then c else { c with windowStart := c.windowStart + n * 2 ^ 20, windowLate := 0, lateCores := [] }

/-- LATE_TRANSITION_REPLAY (R329, R330): LATECNT of the core's die counts the replay; a window above LTHR / 4 is not quiet. -/
def execLateTransitionReplay (core : Nat) (s : State) : Result :=
  let now := s.rt
  .next (s.onDie (dieOfCore core) fun d =>
    let c := d.clock.roll now
    let n := c.windowLate + 1
    { d with
      counts := { d.counts with late := BitVec.ofNat 32 (bump 32 d.counts.late.toNat) }
      clock :=
        { c with
          windowLate := n, lateCores := tset 0 c.lateCores core (tget 0 c.lateCores core + 1)
          quietSince := if d.lthr < 4 * n then c.windowStart + 2 ^ 20 else c.quietSince } })

/-- Starts a clock step (R330). -/
def State.startStep (s : State) (die mhz : Nat) (f : Clock → Clock) : State :=
  s.onClock die fun c => { f c with stepping := some mhz }

/-- The core whose latches report most in a window, the lowest where several do (R330). -/
def Clock.worstCore (c : Clock) : Option Nat :=
  (c.lateCores.foldl (fun (best : Option (Nat × Nat)) (core, n) =>
    match best with
    | some (_, m) => if m < n then some (core, n) else best
    | none => some (core, n)) none).map Prod.fst

/-- CLOCK_STEP_DOWN (R330): a window above LTHR steps the clock down, not below 1,200 MHz; at the floor the core whose latches report
most is retired. -/
def execClockStepDown (die : Nat) (s : State) : Result :=
  let c := (s.die die).clock.roll s.rt
  if (s.die die).lthr < c.windowLate ∧ c.stepping = none then
    let clear : Clock := { c with windowLate := 0, lateCores := [] }
    if 1300 ≤ c.fmhz then .next (s.startStep die (c.fmhz - 100) fun _ => clear)
    else
      let s := s.onClock die fun _ => clear
      match c.worstCore with
      | some core => execCoreRetire core true s
      | none => .next s
  else .next s

/-- CLOCK_STEP_UP (R330): after 2^24 rt of quiet windows, not above the die's highest clock. -/
def execClockStepUp (die : Nat) (s : State) : Result :=
  let c := (s.die die).clock
  if c.quietSince + 2 ^ 24 ≤ s.rt ∧ c.stepping = none ∧ c.fmhz + 100 ≤ c.fmax ∧ !c.hot then
    .next (s.startStep die (c.fmhz + 100) id)
  else .next s

/-- THERMAL_CLOCK_STEP (R358): down above 105 °C, up once the junction has stayed below 95 °C for 2^24 rt. -/
def execThermalClockStep (die : Nat) (up : Bool) (s : State) : Result :=
  let c := (s.die die).clock
  let t := tget 0 s.mod.sensors.junction die
  if c.stepping ≠ none then .next s
  else if up then
    if c.hot ∧ t < 95 ∧ c.coolSince + 2 ^ 24 ≤ s.rt ∧ c.fmhz + 100 ≤ c.fmax then
      let now := s.rt
      .next (s.startStep die (c.fmhz + 100) fun c => { c with hot := decide (c.fmhz + 100 < c.fmax), coolSince := now })
    else .next s
  else if 105 < t ∧ 1300 ≤ c.fmhz then .next (s.startStep die (c.fmhz - 100) fun c => { c with hot := true })
  else .next s

/-- CLOCK_STEP_COMPLETE (R330): the new frequency takes effect; the clk count goes on at it (R9). -/
def execClockStepComplete (die : Nat) (s : State) : Result :=
  let c := (s.die die).clock
  match c.stepping with
  | none => .next s
  | some mhz =>
    let base := s.clk die
    let now := s.time.now
    let rt := s.rt
    .next ((s.onClock die fun c =>
      { c with fmhz := mhz, base := base, since := now, stepping := none, quietSince := max c.quietSince rt }).ring die 0x07 0
        [c.fmhz, mhz])

/-! ### Links (R289, R331, R333) -/

/-- Changes a link. -/
def State.onLink (s : State) (die link : Nat) (f : Link → Link) : State :=
  s.onDie die fun d => { d with links := tmap f d.links link }

/-- A link of a die. -/
def State.link (s : State) (die link : Nat) : Link := tget (Link.reset false) (s.die die).links link

/-- Both ends of a link, as die and link number; an off-package port's other end lies in another module. -/
def linkEnds (die link : Nat) : List (Nat × Nat) :=
  if link < 5 then [(die, link), (linkPeer die link, linkBack link)] else [(die, link)]

/-- Records an event of a link at both ends. -/
def State.ringLink (s : State) (die link code : Nat) (data : List Nat) : State :=
  (linkEnds die link).foldl (fun s (d, l) => s.ring d code 0 (l :: data)) s

/-- A link of a die retrains, or a reroute involves the die (R333). -/
def Die.disturbed (d : Die) : Bool := (d.links.any fun (_, l) => l.retraining.isSome) || d.inReroute

/-- Pauses the watchdog counts of a die, or lets them go on from their held values (R333). -/
def State.updatePause (s : State) (die : Nat) : State :=
  let d := s.die die
  let now := s.clk die
  match d.pause with
  | none => if d.disturbed then s.onDie die fun d => { d with pause := some now } else s
  | some t =>
    if d.disturbed then s
    else
      let cores := s.comp.cores.map fun (n, c) =>
        (n, if dieOfCore n = die then { c with watch := c.watch.map fun (k, u) => (k, now - (t - u)) } else c)
      ({ s with comp := { s.comp with cores := cores } }).onDie die fun d => { d with pause := none }

/-- A link retrains (R331): its packets wait. -/
def State.retrain (s : State) (die link : Nat) : State :=
  let l := s.link die link
  if !l.inUse || l.failed || l.retraining.isSome then s
  else
    let now := s.rt
    let s := s.ringLink die link 0x08 [l.failures.length + 1]
    let s := (linkEnds die link).foldl (fun s (d, k) => s.onLink d k fun l => { l with retraining := some now }) s
    (linkEnds die link).foldl (fun s (d, _) => s.updatePause d) s

/-- LINK_REPLAY (R289, R331): the flits arrive in their order; the replay is counted. More than 16 of a link within 2^16 rt, in both
directions together, make it retrain. -/
def execLinkReplay (die link : Nat) (s : State) : Result :=
  let l := s.link die link
  if !l.inUse || l.failed then .next s
  else
    let now := s.rt
    let s := s.onDie die fun d =>
      { d with counts := { d.counts with replays := BitVec.ofNat 32 (bump 32 d.counts.replays.toNat) } }
    let s := (linkEnds die link).foldl (fun s (d, k) =>
      s.onLink d k fun l => { l with replays := (l.replays.filter fun t => now < t + 2 ^ 16) ++ [now] }) s
    .next (if 16 < (s.link die link).replays.length then s.retrain die link else s)

/-- LINK_RETRAIN (R331): a link in use that has lost its flit alignment retrains. -/
def execLinkRetrain (die link : Nat) (s : State) : Result := .next (s.retrain die link)

/-- The dies on which a failure of a link brings a new route generation: those of its module, or of the pod for a pod plane (R332). -/
def State.rerouteDies (s : State) (die link : Nat) : List Nat :=
  (tkeys s.dies).filter fun d => 5 ≤ link || d / 32 = die / 32

/-- Changes some dies, and judges whether their watchdogs pause (R333). -/
def State.onDies (s : State) (ds : List Nat) (f : Die → Die) : State :=
  ds.foldl (fun s d => (s.onDie d f).updatePause d) s

/-- LINK_RETRAIN_END (R331): the link carries packets again, or the attempt has failed and the next one begins; the third failure within
2^24 rt declares the link failed, and a reroute begins (R332). -/
def execLinkRetrainEnd (die link : Nat) (ok : Bool) (s : State) : Result :=
  let l := s.link die link
  if l.retraining.isNone then .next s
  else
    let now := s.rt
    let fails := if ok then l.failures else (l.failures.filter fun t => now < t + 2 ^ 24) ++ [now]
    let dead := !ok && decide (3 ≤ fails.length)
    let s := (linkEnds die link).foldl (fun s (d, k) =>
      s.onLink d k fun l =>
        { l with retraining := none, replays := if ok then [] else l.replays, failures := fails, failed := dead }) s
    if dead then .next ((s.ringLink die link 0x09 []).onDies (s.rerouteDies die link) fun d => { d with inReroute := true })
    else
      let s := (linkEnds die link).foldl (fun s (d, _) => s.updatePause d) s
      .next (if ok then s else s.retrain die link)

/-! ### Route generations (R265, R332) -/

/-- The targets of a die whose route uses one of some links (R332). -/
def State.affected (s : State) (d : Nat) (links : List (Nat × Nat)) : List Nat :=
  (tkeys s.dies).filter fun t => d ≠ t && (routeLinks t (s.pathOf d t)).any fun h => links.contains h

/-- The route that a pair takes in a new generation: the one that Greux chose, where it leads there by links that work, else a shortest
one; none where no route reaches the target (R332). -/
def State.newRoute (s : State) (chosen : List (Nat × Nat × List (Nat × Nat))) (d t : Nat) : Option (List (Nat × Nat)) :=
  match chosen.find? fun (a, b, path) => a = d && b = t && routeLeads s.linkUp t d path with
  | some (_, _, path) => some path
  | none => searchRoute s.linkUp d t

/-- The units of a die whose packets go by pairs: its cluster sites, and its engines (R215, R332). -/
def pairUnits : List Nat := List.range 18 ++ [fabricUnit]

/-- A die takes the next route generation (R332): pairs whose route used the failed link get another and are held; every other pair
keeps its route. -/
def State.reroute (s : State) (chosen : List (Nat × Nat × List (Nat × Nat))) (links : List (Nat × Nat)) (d : Nat) : State :=
  let gen := (s.die d).counts.routeGen + 1
  let mark := 2 * gen.toNat + b2n (links.any fun (_, k) => 5 ≤ k)
  let moved := (s.affected d links).filterMap fun t => (s.newRoute chosen d t).map fun path => (t, path)
  s.onDie d fun x =>
    { x with
      counts := { x.counts with routeGen := gen }
      routes := moved.foldl (fun r (t, path) => tput r t path) x.routes
      rerouting := moved.foldl (fun r (t, _) => pairUnits.foldl (fun r u => tput r (pairKey u t) mark) r) x.rerouting }

/-- ROUTE_GENERATION_INSTALL (R332): the dies of the module, or of the pod, take the next route generation; both ends of the failed link
record it (R336). `routes` is what Greux chooses. -/
def execRouteGenerationInstall (die link : Nat) (routes : List (Nat × Nat × List (Nat × Nat))) (s : State) : Result :=
  if !(s.link die link).failed || (s.link die link).rerouted then .next s
  else
    let links := linkEnds die link
    let gen := (s.die die).counts.routeGen + 1
    let s := (s.rerouteDies die link).foldl (fun s d => s.reroute routes links d) s
    let s := links.foldl (fun s (d, k) => s.onLink d k fun l => { l with rerouted := true }) s
    .next (links.foldl (fun s (d, k) => s.ring d 0x0A 0 [gen.toNat, k]) s)

/-- Every request of a cluster site to a home die is acknowledged: nothing is in a path to it. -/
def State.acknowledged (s : State) (site home : Nat) : Bool :=
  (List.range 32).all fun slice => (tget [] s.mem.paths (site * 32768 + home * 32 + slice)).isEmpty

/-- A die takes part in a reroute of its module, or of the pod: one of its pairs is held, or a failed link of it awaits its route
generation (R332). -/
def Die.reroutes (d : Die) (pod : Bool) : Bool :=
  (d.rerouting.any fun (_, n) => decide (n % 2 = b2n pod)) ||
    d.links.any fun (k, l) => decide (5 ≤ k) = pod && l.failed && !l.rerouted

/-- A reroute of the pod, or of the module of a die, is in progress (R333). -/
def State.involved (s : State) (die : Nat) : Bool :=
  s.dies.any fun (k, d) => d.reroutes true || k / 32 = die / 32 && d.reroutes false

/-- A reroute ends, for the dies that it involves, once no pair is held for it and its failed link has its route generation
(R332, R333). -/
def State.settleReroute (s : State) : State :=
  s.onDies ((tkeys s.dies).filter fun d => !s.involved d) fun d => { d with inReroute := false }

/-- ROUTE_PAIR_SWITCH (R332): a pair whose old requests are all acknowledged moves to the new generation. `site` is the source
unit of its die, `home` the target die. -/
def execRoutePairSwitch (home site : Nat) (s : State) : Result :=
  let die := dieOfSite site
  if s.acknowledged site home then
    .next ((s.onDie die fun d => { d with rerouting := tdel d.rerouting (pairKey site home) }).settleReroute)
  else .next s

/-! ### The pod (R2, R211, R264, R345) -/

/-- Greux takes another module into the pod (R2, R345): its dies join the load-store domain; a pod is formed only of modules that share
one mode, and in confidential mode the links to the module get keys. The dies come as a reset leaves them (log entry 71). -/
def State.joinPod (s : State) (module : Nat) (mode : Bool) (mask : BitVec 32) (dies : List DieConfig) : State :=
  if module = 0 || 32 ≤ module || mode ≠ s.mod.mode || !s.live || (tfind s.mod.pod module).isSome then s
  else
    let new := dies.zipIdx.map fun (c, d) => (32 * module + d, Die.reset (mask.toNat.testBit d) c)
    { s with
      dies := new.foldl (fun t (d, x) => if d < 32 * module + 32 then tput t d x else t) s.dies
      mod :=
        { s.mod with
          pod := tput s.mod.pod module (if s.mod.mode then s.mod.keySerial + 1 else 0), keySerial := s.mod.keySerial + 1 } }

/-- A module leaves the pod: its dies are no longer reached. -/
def State.leavePod (s : State) (module : Nat) : State :=
  if (tfind s.mod.pod module).isNone then s
  else
    { s with
      dies := s.dies.map fun (d, x) => (d, if d / 32 = module then { x with enabled := false } else x)
      mod := { s.mod with pod := tdel s.mod.pod module } }

end Sys2Proof.Machine
end

