-- ==== Sys2Proof/Machine/Bringup.lean ====
section
/-! DEFINITION. Resets, the start sequence, the configuration record and the Bausk controller, R30, R336, R348 to R359
(spec/20_trust_and_confidential_mode.md, spec/21_bringup_and_module.md). -/

namespace Sys2Proof.Machine

/-! ### The configuration record (R356, R357) -/

/-- Bits set among the cores of a cluster site. -/
def siteCores (cores : BitVec 144) (site : Nat) : Nat := popCount 8 (cores.toNat / 2 ^ (8 * site))

/-- What R357 asks of an enabled die's entry. -/
def dieConfigOk (c : DieConfig) : Bool :=
  decide (136 ≤ popCount 144 c.cores.toNat) && decide (c.slices ≠ 0) && decide (c.hbmStacks ≠ 0) &&
    (List.range 18).all fun i => 7 ≤ siteCores c.cores i

/-- Step 1 accepts a configuration record (R357). -/
def configOk (r : ConfigRecord) : Bool :=
  r.signed && decide (r.magic = 0x5A434647) && decide (r.version = 1) && r.clean &&
    decide (1200 ≤ r.fmax) && decide (r.fmax ≤ 1800) && decide (36 ≤ r.scrubp) && decide (r.scrubp ≤ 44) &&
    decide (r.dies.length = 32) &&
    (List.range 32).all fun d =>
      !r.dieMask.toNat.testBit d ||
        match r.dies[d]? with
        | some c => dieConfigOk c
        | none => false

/-- A signature's bytes: r then s, each most significant byte first (R337). -/
def signatureBytes (g : BitVec 768) : List Byte := (toBytes 96 g.toNat).reverse

/-- The signed configuration record as a number, for its measurement: 2,112 bytes and the signature over them (R340, R356). -/
def configValue (r : ConfigRecord) : Nat :=
  let header := r.serial.toNat * 2 ^ 192 + r.dieMask.toNat * 2 ^ 160 + r.fmax % 2 ^ 16 * 2 ^ 144 + r.lthr.toNat * 2 ^ 128 +
    r.scrubp % 256 * 2 ^ 120 + r.version.toNat * 2 ^ 32 + r.magic.toNat
  (r.dies.zipIdx.map fun (c, i) =>
    (c.links.toNat * 2 ^ 178 + c.hbmStacks.toNat * 2 ^ 176 + c.slices.toNat * 2 ^ 144 + c.cores.toNat) *
      2 ^ (512 + 512 * i)).foldl (· + ·) header + ofBytes (signatureBytes r.signature) * 2 ^ (8 * 2112)

/-- Bit s of ALT (R354). -/
def StartRecord.onAlt (r : StartRecord) (k : Nat) : Bool := r.alt.toNat.testBit k

/-- The copy of the configuration record that a start uses (R353, R357). -/
def Flash.inForce (f : Flash) (r : StartRecord) : ConfigRecord := if r.onAlt 1 then f.config2 else f.config

/-! ### Units of the start record (R354, R355) -/

/-- KIND of a unit entry. -/
def unitKind (e : Double) : Nat := bits e.toNat 63 60
/-- The die of a unit entry. -/
def unitDie (e : Double) : Nat := bits e.toNat 53 44
/-- The core, slice, stack or link number of a unit entry. -/
def unitNumber (e : Double) : Nat := bits e.toNat 7 0

/-- Clears a bit. -/
def clearBit {n : Nat} (x : BitVec n) (i : Nat) : BitVec n := x &&& ~~~(BitVec.ofNat n (2 ^ i))

/-- A die's configuration without the units of the start record: they behave as absent (R334, R355). -/
def withoutUnits (units : List Double) (d : Nat) (c : DieConfig) : DieConfig :=
  units.foldl (fun c e =>
    if unitDie e ≠ d then c
    else
      match unitKind e with
      | 1 => { c with cores := clearBit c.cores (unitNumber e) }
      | 2 => { c with slices := clearBit c.slices (unitNumber e) }
      | 4 => { c with hbmStacks := clearBit c.hbmStacks (unitNumber e) }
      | 5 => { c with links := clearBit c.links (unitNumber e) }
      | _ => c) c

/-- The dies that a configuration record and a list of units out of service give (R335, R355, R356): the units that the record enables
and the list does not name, at the record's highest clock, with the ring record that a warm reset keeps. -/
def State.startDies (s : State) (c : ConfigRecord) (units : List Double) (keepRing : Bool) : Table Die :=
  let top := min c.fmax 1800
  c.dies.zipIdx.map fun (x, d) =>
    let on := c.dieMask.toNat.testBit d && !(units.any fun e => unitKind e = 3 && unitDie e = d)
    let die := Die.reset on (withoutUnits units d x)
    (d, { die with
          clock := { die.clock with fmhz := top, fmax := top }
          lthr := if c.lthr = 0 then 64 else c.lthr.toNat
          scrub := { die.scrub with period := 2 ^ c.scrubp }
          ring := if keepRing then (s.die d).ring else []
          ringSeq := if keepRing then (s.die d).ringSeq else 0 })

/-- A clock that goes on from the core cycles that its die has counted (R9, R188). -/
def State.goOnClock (s : State) (die : Nat) (c : Clock) : Clock := { c with base := s.clk die, since := s.time.now }

/-- Step 2 on its alternative profile holds the clocks at 1,500 MHz (R353). -/
def State.holdClocks (s : State) : State :=
  { s with
    dies := s.dies.map fun (n, d) =>
      (n, { d with clock := s.goOnClock n { d.clock with fmhz := min d.clock.fmhz 1500, fmax := min d.clock.fmax 1500 } }) }

/-! ### Resets (R348, R352) -/

/-- The parts of the module that no reset keeps: cores, engines, controller, host memory excepted; HBM goes with a cold
reset (log entry 6). A runtime that an activation has brought stays (log entry 70). -/
def State.blank (s : State) (cold : Bool) : State :=
  { s with
    time := { now := 0, adjust := 0, floor := 0, lastMove := 0, fresh := s.time.fresh }
    sched := { s.sched with agent := .quarter 0 }
    mem := if cold then { s.mem with hbm := [], poison := [], versions := [], lineKeys := [], keyed := [], paths := [] }
           else { s.mem with keyed := [], paths := [] }
    comp := State.reset.comp
    eng := State.reset.eng
    ctl := State.reset.ctl
    mod :=
      { s.mod with
        scrub := true, act := false, actSince := 0, responders := [], ide := [], worldKeys := [], pod := [], activations := 0,
        receipt := none, scrubbing := false, startAt := none } }

/-- A full reset (R348, R352): every die is reset and the start sequence begins at step 0. One whose PEND differs from MODE
runs as a cold reset and scrubs, as one in confidential mode does; MODE becomes PEND with the scrub, at step 5 (log entry 44). The
units that the start record lists are absent until the next reset. The dies stand as the record that was in force gives them until
step 1 has accepted one. `fails` is what this start and those that follow it meet. -/
def State.fullReset (s : State) (cold : Bool) (fails : List StepFail) : State :=
  let change := s.mod.flash.pend ≠ s.mod.mode
  let cold := cold || change
  let r : StartRecord := { s.mod.flash.start with nstart := s.mod.flash.start.nstart + 1, stat := [] }
  let dies := s.startDies s.mod.config r.units (!cold)
  let pend := s.mod.flash.pend
  let s := s.blank cold
  { s with
    dies := dies
    mod :=
      { s.mod with
        power := true, startAt := some 0, fails := fails, record := r, absent := r.units, newMode := pend,
        scrubbing := change || pend
        flash := { s.mod.flash with resets := s.mod.flash.resets + 1 } } }

/-- COLD_RESET (R352): power-on or a controller command. A module held failed accepts nothing (R355). -/
def execColdReset (fails : List StepFail) (s : State) : Result :=
  .next (if s.mod.heldFailed then s else s.fullReset true fails)

/-- WARM_RESET (R352): from the controller or a host's physical function, of a module that has power. -/
def execWarmReset (fails : List StepFail) (s : State) : Result :=
  .next (if s.mod.heldFailed || !s.mod.power then s else s.fullReset false fails)

/-- THERMAL_POWER_CUT (R358): a junction above 115 °C, inlet above 45 °C or flow below 18 L/min cuts module power. -/
def execThermalPowerCut (s : State) : Result :=
  let r := s.mod.sensors
  if s.mod.power && (r.junction.any (fun (_, t) => 115 < t) || decide (45 < r.inlet) || decide (r.flow < 18)) then
    let s := s.blank true
    .next { s with
      dies := s.dies.map fun (n, d) =>
        (n, Die.reset false { cores := d.cores, slices := d.slices, hbmStacks := d.hbmStacks, links := 0 })
      mod := { s.mod with power := false } }
  else .next s

/-! ### The start sequence (R353, R355) -/

/-- Records a step's result in STAT. -/
def StartRecord.setStat (r : StartRecord) (k v : Nat) : StartRecord := { r with stat := tset 0 r.stat k v }

/-- Optional steps: per stack, core, link or interface. -/
def optionalStep (k : Nat) : Bool := k = 4 || k = 6 || k = 7 || k = 10

/-- Mandatory steps with an alternative profile. -/
def hasAlternative (k : Nat) : Bool := k = 1 || k = 2 || k = 3 || k = 9

/-- The unit entries of a step's failing units; an interface's entry is the configuration's (log entry 6). -/
def stepUnits (k : Nat) (units : List Double) : List Double :=
  if k = 10 then units.map fun e => Config.interfaceUnit (unitNumber e) else units

/-- The controller's decision for a failed step: the start record for the next start, or none when the module is held
failed (R355). `units` are the failing units that are not yet in the list. -/
def StartRecord.nextStart (r : StartRecord) (k : Nat) (units : List Double) : Option StartRecord :=
  if optionalStep k then
    if k = 4 ∧ !r.onAlt 4 then some { r with alt := r.alt ||| 0x010 }
    else if 16 < r.units.length + units.length then none
    else some { r with units := r.units ++ units }
  else if hasAlternative k && !r.onAlt k then some { r with alt := r.alt ||| BitVec.ofNat 12 (2 ^ k) }
  else none

/-- A step fails (R355): 3 in its STAT, its number in LASTFAIL, the decision, and a warm reset; or the module is held
failed. -/
def State.failStep (s : State) (k : Nat) (units : List Double) : State :=
  let r := s.mod.record.setStat k 3
  let r := { r with lastFail := BitVec.ofNat 8 k }
  match r.nextStart k units with
  | some r =>
    ({ s with mod := { s.mod with flash := { s.mod.flash with start := r } } }).fullReset false s.mod.fails
  | none =>
    let r := { r with units := (r.units ++ if optionalStep k then units else []).take 16 }
    { s with
      mod :=
        { s.mod with heldFailed := true, startAt := none, record := r, flash := { s.mod.flash with start := r } } }

/-- Retires a location that the scrub found failing (R349): a frame, a core, a cache slice or a die. -/
def State.retireUnit (s : State) (e : Double) : State :=
  match unitKind e with
  | 0 => s.retireFrame (homeDie (e.toNat % 2 ^ 54)) (e.toNat % 2 ^ 54 / 65536)
  | 1 =>
    (s.onDie (unitDie e) fun d =>
      { d with cores := clearBit d.cores (unitNumber e), counts := { d.counts with retCores := d.counts.retCores + 1 } }).ring
        (unitDie e) 0x06 0 [unitNumber e, 0]
  | 2 => s.onDie (unitDie e) fun d => { d with slices := clearBit d.slices (unitNumber e) }
  | 3 => s.onDie (unitDie e) fun d => { d with enabled := false }
  | _ => s

/-- HBM frames of the enabled dies. -/
def State.frames (s : State) : Nat :=
  (s.dies.map fun (n, d) => if d.enabled then s.hbmSize n / 65536 - d.scrub.retired.length else 0).foldl (· + ·) 0

/-- Entries in increasing order of bits 53:0 (R350). -/
def sortUnits (l : List Double) : List Double :=
  (sortNat (l.map fun e => e.toNat % 2 ^ 54 * 2 ^ 64 + e.toNat)).map fun k => BitVec.ofNat 64 (k % 2 ^ 64)

/-- The scrub (R348, R349): MODE becomes the mode that this reset brings, keys are erased and one drawn, every location zeroed under the
new mode, the failing ones retired, and the receipt's content taken. -/
def State.scrubAll (s : State) (failed : List Double) : State :=
  let before := s.mod.absent.filter fun e => unitKind e ≤ 3
  let old := s.mod.mode
  let s := { s with
    mem := { s.mem with hbm := [], keyed := [], poison := [], versions := [], lineKeys := [], paths := [] }
    mod := { s.mod with mode := s.mod.newMode, worldKeys := [], keySerial := s.mod.keySerial + 1 } }
  let s := failed.foldl State.retireUnit s
  let frames := s.frames
  { s with
    mod :=
      { s.mod with
        receipt := some { oldMode := b2n old, newMode := b2n s.mod.mode, frames := frames,
                          retired := sortUnits before, failed := sortUnits failed } } }

/-- Step 1 puts the configuration record that it accepts in force: it gives the dies their units (R356, R357). -/
def State.configure (s : State) : State :=
  let c := s.mod.flash.inForce s.mod.record
  { s with
    dies := (s.startDies c s.mod.absent true).map fun (n, d) => (n, { d with clock := s.goOnClock n d.clock })
    mod := { s.mod with config := c } }

/-- A step passes: its STAT, its effect, and the next step. Step 11 releases the module: SCRUB := 0. The rt count needs no alignment
there: the module holds die 0 of its pod, to whose count the others are aligned (R353, R359; log entry 49). -/
def State.passStep (s : State) (k : Nat) (failed : List Double) : State :=
  let s := if k = 5 ∧ s.mod.scrubbing then s.scrubAll failed
    else if k = 1 then s.configure
    else if k = 2 ∧ s.mod.record.onAlt 2 then s.holdClocks
    else s
  let r := s.mod.record.setStat k (if s.mod.record.onAlt k then 2 else 1)
  if k < 11 then { s with mod := { s.mod with record := r, startAt := some (k + 1) } }
  else
    { s with
      mod :=
        { s.mod with
          record := r, startAt := none, scrub := false, scrubbing := false, flash := { s.mod.flash with start := r } } }

/-- One step of the start sequence (R353, R355): it fails when a unit or the work it covers fails, when step 1 does not
accept its configuration record, and passes otherwise. Units that are already out of service are not covered, and the
locations that the scrub finds failing are retired by R349. -/
def State.startSequence (s : State) (k : Nat) : State :=
  let (met, s) := match s.mod.fails with
    | f :: t => if f.step = k then (some f, { s with mod := { s.mod with fails := t } }) else (none, s)
    | [] => (none, s)
  let whole := match met with
    | some f => f.whole
    | none => false
  let units := match met with
    | some f => stepUnits k f.units
    | none => []
  let fresh := (units.filter fun e => !s.mod.absent.contains e).eraseDups
  let bad :=
    if k = 5 then whole
    else if k = 1 then whole || !fresh.isEmpty || !configOk (s.mod.flash.inForce s.mod.record)
    else whole || !fresh.isEmpty
  if bad then s.failStep k fresh else s.passStep k (if k = 5 then fresh else [])

/-! ### The controller (R336, R354 to R359) -/

/-- RT_REALIGN (R359): of the ticks to be moved one is added, or the count is held for it, when 1,024 rt have passed since the latest;
the rest wait for later moves. -/
def execRtRealign (up : Bool) (ticks : Nat) (s : State) : Result :=
  let rt := s.rt
  let n := if s.time.lastMove + 1024 ≤ rt then min ticks 1 else 0
  if !s.live || n = 0 then .next s
  else if up then .next { s with time := { s.time with adjust := s.time.adjust + n, lastMove := rt } }
  else .next { s with time := { s.time with adjust := s.time.adjust - n, floor := rt, lastMove := rt } }

/-- The start record is cleared, and a module held failed can start again (R355). -/
def State.clearRecord (s : State) : State :=
  { s with
    mod :=
      { s.mod with
        heldFailed := false, record := StartRecord.reset, flash := { s.mod.flash with start := StartRecord.reset } } }

/-- CLEAR_START_RECORD (R355). -/
def execClearStartRecord (s : State) : Result := .next s.clearRecord

/-- INSTALL_CONFIGURATION_RECORD (R355, R357): only a record that verifies is written, to the second copy and then to the
first, and the start record is reset. -/
def execInstallConfigurationRecord (r : ConfigRecord) (s : State) : Result :=
  if configOk r then
    let s := { s with mod := { s.mod with flash := { s.mod.flash with config2 := r } } }
    .next ({ s with mod := { s.mod with flash := { s.mod.flash with config := r } } }).clearRecord
  else .next s

/-- READ_RING_RECORD (R336). -/
def execReadRingRecord (die : Nat) (s : State) : Result :=
  .next (s.output (.controller ((List.range 4096).map fun i => (tget 0 (s.die die).ring i).toNat)))

/-- READ_START_RECORD (R354, R358). -/
def execReadStartRecord (s : State) : Result := .next (s.output (.controller s.mod.flash.start.value))

/-- READ_SENSORS (R358): junction temperatures, coolant inlet and flow, power. -/
def execReadSensors (s : State) : Result :=
  let r := s.mod.sensors
  .next (s.output (.controller ((List.range 32).map (tget 0 r.junction) ++ [r.inlet, r.flow, r.power])))

end Sys2Proof.Machine
end

