-- ==== Sys2Proof/Machine/Cambium.lean ====
section
/-! DEFINITION. Cambium engines: declarations, sweeps, wakes, byields and exits, R182 to R185, R249 to R262
(spec/08_isa_engines_system.md, spec/12_cambium_sweeps.md). -/

namespace Sys2Proof.Machine

/-! ### Commands in front of an engine (R175, R182) -/

/-- A declaration. -/
def CamMsg.isDeclare : CamMsg → Bool
  | .declare .. => true
  | _ => false

/-- A sweep request. -/
def CamMsg.isSweep : CamMsg → Bool
  | .sweep .. => true
  | _ => false

/-- A wake. -/
def CamMsg.isWake : CamMsg → Bool
  | .wake .. => true
  | _ => false

/-- The slot that a command names. -/
def CamMsg.slot : CamMsg → Nat
  | .declare n .. => n
  | .sweep n .. => n
  | .wake n .. => n

/-- The command that an engine takes next among those of one kind: the first whose release is done, with no earlier command of its warp
to be taken, and whose slot is settled; a declaration passes commands that wait for one (R175, R182). A reroute holds the engine
(R332; log entry 61). -/
def State.nextCam (s : State) (site : Nat) (kind : CamMsg → Bool) : Option CamFront :=
  (s.cambium site).front.find? fun m =>
    kind m.msg && !s.enginesWait (dieOfSite site) && s.handed m.warp m.seq m.scope &&
      if m.msg.isDeclare then s.declFirst m.dispatch m.warp m.seq
      else s.camFirst m.dispatch m.warp m.seq && s.slotSettled m.dispatch m.msg.slot m.warp m.seq

/-- Takes a command from the front of an engine. -/
def State.takeCam (s : State) (site : Nat) (m : CamFront) : State :=
  let s := s.markRelease m.warp m.seq m.scope
  (s.onCambium site fun c => { c with front := c.front.erase m }).camTaken m.warp m.seq

/-- A deferred engine fault of a command in front of an engine: the ring record takes it though its warp has ended (R176). -/
def State.camMsgFault (s : State) (site : Nat) (m : CamFront) : State :=
  s.camFault site m.dispatch m.warp m.seq m.clause m.index

/-- Some engine of the dispatch sweeps a slot. -/
def State.slotSweeps (s : State) (dispatch slot : Nat) : Bool :=
  s.eng.cambiums.any fun (_, c) =>
    match tfind c.slots (camKey dispatch slot) with
    | some x => x.sweep.isSome
    | none => false

/-! ### Declarations and sweep requests (R182, R251) -/

/-- The context slot of a dispatch. -/
def State.slotOfDispatch (s : State) (dispatch : Nat) : Nat :=
  match s.dispatch? dispatch with
  | some d => d.slot
  | none => 0

/-- A declaration that the first engine finds bad is dropped at every engine of the dispatch, and each records it (R176, R182, R251;
log entry 58). -/
def State.dropDecl (s : State) (m : CamFront) : State :=
  (s.sitesOf m.dispatch).foldl (fun s e => if (s.cambium e).front.contains m then (s.camMsgFault e m).takeCam e m else s) s

/-- DECLARATION_ACCEPT (R182, R251): the descriptor is read and checked; the declaration is installed, or dropped as a deferred
engine fault. -/
def execDeclarationAccept (site : Nat) (s : State) : Result :=
  match s.nextCam site CamMsg.isDeclare with
  | none => .next s
  | some m =>
    match m.msg with
    | .declare slot addr scope =>
      let ctx := s.slotOfDispatch m.dispatch
      let first := (s.sitesOf m.dispatch).all fun e => (s.cambium e).front.contains m
      match s.camRead site ctx addr 64 with
      | some b =>
        let d := ofBytes b
        if camOk d && !s.slotSweeps m.dispatch slot then
          let s := s.onCambium site fun c =>
            { c with
              slots := tput c.slots (camKey m.dispatch slot)
                { dispatch := m.dispatch, ctx := ctx, descriptor := addr, desc := BitVec.ofNat 512 d, scope := scope,
                  pending := [], sweep := none } }
          .next (s.takeCam site m)
        else if first then .next (s.dropDecl m)
        else .next ((s.camMsgFault site m).takeCam site m)
      | none =>
        let s := s.camMark site ctx [(addr, 64, false)]
        if first then .next (s.dropDecl m) else .next ((s.camMsgFault site m).takeCam site m)
    | _ => .next s

/-- SWEEP_REQUEST_ACCEPT (R182, R255): the engine starts the sweeping of a slot on every engine of the dispatch. -/
def execSweepRequestAccept (site : Nat) (s : State) : Result :=
  match s.nextCam site CamMsg.isSweep with
  | none => .next s
  | some m =>
    match m.msg with
    | .sweep slot limit stop barrier =>
      let s :=
        if (s.camSlot? site m.dispatch slot).isNone || s.slotSweeps m.dispatch slot then s.camMsgFault site m
        else
          (s.sitesOf m.dispatch).foldl (fun s e =>
            match s.camSlot? e m.dispatch slot with
            | none => s
            | some x =>
              let lo := (s.camRange e m.dispatch (camCount x.desc.toNat)).1
              s.onCamSlot e m.dispatch slot fun x =>
                { x with
                  sweep := some
                    { warp := m.warp, seq := m.seq, clause := m.clause, index := m.index, limit := limit, k := 0, stop := stop,
                      barrier := barrier, cursor := none, launched := none, scanned := lo, forming := [] } }) s
      .next (s.takeCam site m)
    | _ => .next s

/-! ### Scanning (R256, R257) -/

/-- Warps of a dispatch on a cluster site that may be filled: free warp slots by core, group slot and warp index
(R257). -/
def State.freeWarps (s : State) (site dispatch : Nat) : List Nat :=
  (s.comp.groups.filter fun (g, x) => x.dispatch = dispatch && (coresOfSite site).contains (coreOfGroup g)).flatMap
    fun (g, x) => ((List.range x.wpg).map (g * 64 + ·)).filter fun w =>
      match tfind s.comp.warps w with
      | none => true
      | some W => W.phase = .gone

/-- The context of a dispatch is being pre-empted or is saved (R261). -/
def State.away (s : State) (dispatch : Nat) : Bool :=
  let x := s.slot (s.slotOfDispatch dispatch)
  x.preq || x.saved

/-- Changes the sweep of a slot on an engine. -/
def State.onSweep (s : State) (site dispatch slot : Nat) (f : Sweep → Sweep) : State :=
  s.onCamSlot site dispatch slot fun x => { x with sweep := x.sweep.map f }

/-- A deferred engine fault of the warp that issued a sweep request. -/
def State.sweepFault (s : State) (site dispatch : Nat) (x : Sweep) : State :=
  s.camFault site dispatch x.warp x.seq x.clause x.index

/-- BUD_WARP_LAUNCH (R257): the forming warp takes a free slot, whose register area and uniform block are zeroed (R30, R323), with its
preloads, and acquires at the scope of the cdecl. -/
def State.launch (s : State) (site dispatch slot : Nat) (c : CamSlot) (x : Sweep) (w : Nat) : State :=
  match s.dispatch? dispatch, s.group? (groupOf w) with
  | some d, some g =>
    let desc := c.desc.toNat
    let core := coreOf w
    let elem (l : Nat) : Nat × Nat × Nat := nth (0, 0, 0) x.forming l
    let lanes := laneSet fun l => l < x.forming.length
    let W := startWarp d g core (s.comp.launched + 1) s.time.now lanes fun l => d.budClause (elem l).2.1
    let v := (lanesOf lanes).foldl (fun t l =>
      let (i, clause, locals) := elem l
      let a := elemAddr desc i
      [(0, i), (1, clause), (2, a), (3, a / 2 ^ 32), (4, locals), (5, locals / 2 ^ 32)].foldl (fun t (n, b) =>
        tset 0 t (32 * n + l) (BitVec.ofNat 32 b)) t) W.v
    let buds := (lanesOf lanes).foldl (fun t l => tput t l (slot, (elem l).1)) []
    let s :=
      { s with
        comp :=
          { s.comp with
            warps := tput s.comp.warps w { W with v := v, buds := buds }
            launched := s.comp.launched + 1 } }
    let s := s.onCore core fun y =>
      let areas := granulesIn [(g.base + w % 64 * g.nreg * 128, g.nreg * 128), (g.base + g.blocks + 256 * (w % 64), 256)]
      { y with poison := areas.foldl (fun t n => tset false t n false) y.poison }
    let s := (s.acquire w c.scope).progress core d.slot
    s.onSweep site dispatch slot fun y => { y with forming := [], launched := (x.forming.getLast?).map Prod.fst }
  | _, _ => s

/-- Takes one element of a scan (R256). A bud or map double that cannot be read or written is a deferred engine fault, and
the element is passed. -/
def State.scanElement (s : State) (site dispatch slot : Nat) (c : CamSlot) (x : Sweep) (nbud i : Nat) : State :=
  let d := c.desc.toNat
  let bud := (budAddr d i, 16, true)
  let map := (mapDouble (camMap d) i, 8, true)
  let fail (l : List (Nat × Nat × Bool)) (s : State) : State := (s.camMark site c.ctx l).sweepFault site dispatch x
  match s.mapBit site c.ctx (camMap d) i, s.mapBit site c.ctx (camNextm d) i with
  | some dorm, some defer =>
    if dorm || defer then s
    else
      match s.readBud site c.ctx d i with
      | none => fail [bud] s
      | some b =>
        if b.state = 1 ∧ b.clause < nbud then
          match s.writeBud site dispatch c.ctx d i { b with state := 2 } with
          | some s => s.onSweep site dispatch slot fun y =>
              { y with forming := y.forming ++ [(i, b.clause, b.locals)], cursor := some i }
          | none => fail [bud] s
        else if b.state = 1 then
          match s.writeBud site dispatch c.ctx d i { b with state := 3 } with
          | some s => fail [map] ((s.setMapBit site dispatch c.ctx (camMap d) i true).getD s)
          | none => fail [bud] s
        else if b.state = 2 then s
        else
          match s.setMapBit site dispatch c.ctx (camMap d) i true with
          | some s => s
          | none => fail [map] s
  | _, _ => fail [(mapDouble (camMap d) i, 8, false), (mapDouble (camNextm d) i, 8, false)] s

/-- No other slot of an engine has a forming warp (R256). -/
def State.gathersAlone (s : State) (site key : Nat) : Bool :=
  (s.cambium site).slots.all fun (k, c) => k = key || c.sweep.all fun x => x.forming.isEmpty

/-- SCAN_STEP (R256, R257): with a warp slot free and no other warp forming, the engine takes the next element, then launches the
forming warp when it is full or the range is exhausted. `key` names the dispatch and its slot. -/
def execScanStep (site key : Nat) (s : State) : Result :=
  let dispatch := key / 4
  let slot := key % 4
  match s.camSlot? site dispatch slot, s.freeWarps site dispatch, s.dispatch? dispatch with
  | some c, _ :: _, some y =>
    match c.sweep with
    | none => .next s
    | some x =>
      if s.away dispatch || y.phase ≠ .accepted || !s.gathersAlone site key || s.enginesWait (dieOfSite site) then .next s
      else
        let d := c.desc.toNat
        let hi := (s.camRange site dispatch (camCount d)).2
        let s := if x.scanned < hi then
            (s.scanElement site dispatch slot c x y.buds.length x.scanned).onSweep site dispatch slot fun z =>
              { z with scanned := x.scanned + 1 }
          else s
        match (s.camSlot? site dispatch slot).bind CamSlot.sweep, (s.freeWarps site dispatch).head? with
        | some z, some w =>
          if z.forming ≠ [] ∧ (camWidth d ≤ z.forming.length ∨ hi ≤ z.scanned) then
            .next (s.launch site dispatch slot c z w)
          else .next s
        | _, _ => .next s
  | _, _, _ => .next s

/-! ### Wakes (R184, R258) -/

/-- The engine that owns an element takes a wake of it. -/
def State.wakeElement (s : State) (site dispatch slot : Nat) (c : CamSlot) (i : Nat) (next : Bool) : Option State :=
  let d := c.desc.toNat
  match s.readBud site c.ctx d i with
  | none => none
  | some b =>
    if b.state = 0 then
      match s.writeBud site dispatch c.ctx d i { b with state := 1 } with
      | none => none
      | some s =>
        if next then s.setMapBit site dispatch c.ctx (camNextm d) i true
        else s.setMapBit site dispatch c.ctx (camMap d) i false
    else if b.state = 2 then
      some (s.onCamSlot site dispatch slot fun x =>
        { x with pending := if x.pending.contains i then x.pending else x.pending ++ [i] })
    else some s

/-- WAKE_TAKE (R182, R184): a wake reaches the engine that owns its element; a bad index or an undeclared slot is a deferred
engine fault. -/
def execWakeTake (site : Nat) (s : State) : Result :=
  match s.nextCam site CamMsg.isWake with
  | none => .next s
  | some m =>
    match m.msg with
    | .wake slot i next =>
      let t := match s.camSlot? site m.dispatch slot with
        | none => none
        | some c =>
          let n := camCount c.desc.toNat
          let owner := s.camOwner m.dispatch n i
          if n ≤ i then none
          else
            match s.camSlot? owner m.dispatch slot with
            | none => none
            | some x => s.wakeElement owner m.dispatch slot x i next
      let marked := match s.camSlot? site m.dispatch slot with
        | none => s
        | some c =>
          let d := c.desc.toNat
          if camCount d ≤ i then s
          else
            s.camMark (s.camOwner m.dispatch (camCount d) i) c.ctx
              [(budAddr d i, 16, true), (mapDouble (if next then camNextm d else camMap d) i, 8, true)]
      .next ((t.getD (marked.camMsgFault site m)).takeCam site m)
    | _ => .next s

/-! ### Byields and exits (R183, R253, R258) -/

/-- The neighbours of element i that name elements (R253), or none on an error. -/
def State.neighbours (s : State) (site slot d i : Nat) : Option (List Nat) :=
  (s.camRead site slot (camNbr d + 32 * i) 32).map fun b =>
    ((chunks 4 8 b).map ofBytes).filter fun j => j ≠ 0xFFFFFFFF && decide (j < camCount d)

/-- A wait is met (R253), or none where it cannot be taken. -/
def State.budWait (s : State) (site slot d i kind opnd : Nat) : Option Bool :=
  match kind with
  | 0 => some true
  | 2 =>
    if camLevel d = 0 then none
    else
      match s.neighbours site slot d i with
      | none => none
      | some l =>
        l.foldl (fun acc j =>
          match acc, s.camRead site slot (camLevel d + 4 * j) 4 with
          | some a, some b => some (a && decide (opnd ≤ ofBytes b))
          | _, _ => none) (some true)
  | _ => some false

/-- The bud and dormancy bit that an ended run leaves (R183). A wake that waited for the element is gone after it, after an exit too (log
entry 83). -/
def State.endRun (s : State) (site : Nat) (e : BudEnd) (c : CamSlot) : State :=
  let d := c.desc.toNat
  let levels : Bool := match e.yielded with
    | some (retire, _, kind, _, _) => !retire && kind = 2 && camLevel d ≠ 0
    | none => false
  let reads := if levels then (camNbr d + 32 * e.element, 32, false) ::
      ((s.neighbours site c.ctx d e.element).getD []).map fun j => (camLevel d + 4 * j, 4, false)
    else []
  let fail (s : State) : State :=
    (s.camMark site c.ctx ((budAddr d e.element, 16, false) :: reads ++
      [(budAddr d e.element, 16, true), (mapDouble (camMap d) e.element, 8, true)])).camFault
      site e.dispatch e.warp e.seq e.clause e.index
  let put (s : State) (b : Bud) (dorm : Bool) : State :=
    match s.writeBud site e.dispatch c.ctx d e.element b with
    | none => fail s
    | some s => (s.setMapBit site e.dispatch c.ctx (camMap d) e.element dorm).getD (fail s)
  let s := match s.readBud site c.ctx d e.element with
    | none => fail s
    | some b =>
      match e.yielded with
      | none => put s { b with state := 1 } false
      | some (retire, clause, kind, opnd, locals) =>
        let b := { b with clause := clause, wkind := kind, wopnd := opnd, locals := locals.toNat }
        let met := s.budWait site c.ctx d e.element kind opnd
        let s := if met.isNone && !retire then fail s else s
        if retire then put s { b with state := 3 } true
        else if c.pending.contains e.element || met.getD false then put s { b with state := 1 } false
        else put s { b with state := 0 } true
  s.onCamSlot site e.dispatch e.slot fun x => { x with pending := x.pending.filter (· ≠ e.element) }

/-- BYIELD_TAKE (R183, R258): after its release, a byield, or an exit of a bud thread, writes its bud and dormancy bit. The earlier
commands of its warp have been taken (R175). -/
def execByieldTake (site : Nat) (s : State) : Result :=
  let due (e : BudEnd) : Bool :=
    !s.enginesWait (dieOfSite site) && s.camFirst e.dispatch e.warp e.seq && match e.yielded with
    | some _ => s.handed e.warp e.seq e.scope
    | none => true
  match (s.cambium site).ends.find? due with
  | none => .next s
  | some e =>
    let s := (s.markRelease e.warp e.seq e.scope).onCambium site fun c => { c with ends := c.ends.erase e }
    match s.camSlot? site e.dispatch e.slot with
    | none => .next s
    | some c => .next (s.endRun site e c)

/-! ### The end of a sweep (R259) -/

/-- Step 1 on one engine: deferred elements are no longer dormant. -/
def State.clearDeferrals (s : State) (site dispatch : Nat) (c : CamSlot) : Option State :=
  let d := c.desc.toNat
  let (lo, hi) := s.camRange site dispatch (camCount d)
  ((List.range (hi - lo)).map (lo + ·)).foldl (fun acc i =>
    match acc with
    | none => none
    | some s =>
      match s.mapBit site c.ctx (camNextm d) i with
      | none => none
      | some false => some s
      | some true =>
        match s.setMapBit site dispatch c.ctx (camMap d) i false with
        | none => none
        | some s => s.setMapBit site dispatch c.ctx (camNextm d) i false) (some s)

/-- Some element of a slot has a clear dormancy bit; none on an error. -/
def State.anyReady (s : State) (site : Nat) (c : CamSlot) : Option Bool :=
  let d := c.desc.toNat
  (List.range (camCount d)).foldl (fun acc i =>
    match acc with
    | some false => (s.mapBit site c.ctx (camMap d) i).map fun b => !b
    | x => x) (some false)

/-- Step 3: sweeping ends after sweep k; none on an error. -/
def State.sweepDone (s : State) (site : Nat) (c : CamSlot) (x : Sweep) : Option Bool :=
  let stop := match x.stop with
    | none => some false
    | some a => (s.camRead site c.ctx a 8).map fun b => ofBytes b ≠ 0
  match stop, s.anyReady site c with
  | some w, some r => some ((x.limit ≠ 0 && x.k = x.limit) || w || !r)
  | _, _ => none

/-- Step 5: the barrier in the core store of the warp that issued the sweep; an engine reaches no register area (R28). -/
def State.sweepSignal (s : State) (site dispatch : Nat) (x : Sweep) : State :=
  match x.barrier with
  | none => s
  | some o =>
    match s.group? (groupOf x.warp) with
    | none => s
    | some g =>
      if g.holds o 16 && !g.meetsRegisters o 16 then s.arrive (coreOf x.warp) o 1 else s.sweepFault site dispatch x

/-- The sweep of a slot has nothing left to run: every range is scanned, no warp forms, no bud warp remains, and every byield
is taken. -/
def State.sweepExhausted (s : State) (dispatch slot : Nat) : Bool :=
  ((s.sitesOf dispatch).all fun site =>
    ((s.cambium site).ends.all fun e => e.dispatch ≠ dispatch || e.slot ≠ slot) &&
      match s.camSlot? site dispatch slot with
      | none => true
      | some c =>
        match c.sweep with
        | none => true
        | some x => x.forming.isEmpty && decide ((s.camRange site dispatch (camCount c.desc.toNat)).2 ≤ x.scanned)) &&
    (s.warpsOf dispatch).all fun (_, W) => W.buds.all fun (_, b) => b.1 ≠ slot

/-- Applies a change to the sweep of a slot on every engine of a dispatch. -/
def State.eachSweep (s : State) (dispatch slot : Nat) (f : Nat → Nat → Sweep → Option Sweep) : State :=
  (s.sitesOf dispatch).foldl (fun s site =>
    s.onCamSlot site dispatch slot fun c =>
      { c with sweep := c.sweep.bind (f (s.camRange site dispatch (camCount c.desc.toNat)).1 site) }) s

/-- What a sweep's end leaves when it cannot read a map or the stop word: the first line that fails its MAC is marked (R346). -/
def State.sweepMarks (s : State) (dispatch slot site : Nat) (c : CamSlot) (x : Sweep) : State :=
  let s := (s.sitesOf dispatch).foldl (fun s e =>
    match s.camSlot? e dispatch slot with
    | none => s
    | some y =>
      let d := y.desc.toNat
      let (lo, hi) := s.camRange e dispatch (camCount d)
      s.camMark e y.ctx (((List.range (hi - lo)).map (lo + ·)).flatMap fun i =>
        [(mapDouble (camNextm d) i, 8, false), (mapDouble (camMap d) i, 8, false)])) s
  s.camMark site c.ctx (x.stop.toList.map fun a => (a, 8, false))

/-- SWEEP_END (R259): deferrals clear, then sweeping ends, with DONE, or the next sweep starts; the barrier is signalled. The engine
releases at .pod before DONE and the signal, for the runs that it has taken too (R260; log entry 59). An error ends sweeping at
once. -/
def execSweepEnd (dispatch slot : Nat) (s : State) : Result :=
  let site := ((s.sitesOf dispatch).find? fun e =>
    match s.camSlot? e dispatch slot with
    | some c =>
      match c.sweep with
      | some x => siteOf (coreOf x.warp) = e
      | none => false
    | none => false).getD 0
  match s.camSlot? site dispatch slot with
  | none => .next s
  | some c =>
    match c.sweep with
    | none => .next s
    | some x =>
      if s.away dispatch || !s.sweepExhausted dispatch slot || (x.barrier.isSome && !resident x.warp) || s.pathsWait dispatch then
        .next s
      else
        let x := { x with k := x.k + 1 }
        let cleared := (s.sitesOf dispatch).foldl (fun acc e =>
          match acc, s.camSlot? e dispatch slot with
          | (s, ok), some c => if ok then
              match s.clearDeferrals e dispatch c with
              | some s => (s, true)
              | none => (s, false)
            else (s, false)
          | a, none => a) (s, true)
        let (s, ok) := cleared
        let done := if ok then s.sweepDone site c x else none
        let s := if done.isNone then (s.sweepMarks dispatch slot site c x).sweepFault site dispatch x else s
        let s := s.flushDispatch dispatch
        match done with
        | some false =>
          .next ((s.eachSweep dispatch slot fun lo _ y =>
            some { y with k := x.k, cursor := none, launched := none, scanned := lo, forming := [] }).sweepSignal site dispatch x)
        | _ =>
          let word := toBytes 4 (0x80000000 + x.k % 2 ^ 31)
          let s := (s.camWrite site dispatch c.ctx (c.descriptor + 60) word).getD
            ((s.camMark site c.ctx [(c.descriptor + 60, 4, true)]).sweepFault site dispatch x)
          .next (((s.eachSweep dispatch slot fun _ _ _ => none).sweepSignal site dispatch x).endCambium dispatch)

end Sys2Proof.Machine
end

