-- ==== Sys2Proof/Machine/Trust.lean ====
section
/-! DEFINITION. SPDM responders, measurements, live activation, IDE streams and scrub receipts, R337 to R343, R347 to R351
(spec/20_trust_and_confidential_mode.md). -/

namespace Sys2Proof.Machine

/-! ### Responders and their channels (R339, R353) -/

/-- The responder of an interface answers: from step 10 of a start on (R353). -/
def State.answers (s : State) (iface : Nat) : Bool :=
  decide (iface < 4) && !s.ifaceDown iface && s.mod.power && !s.mod.heldFailed &&
    match s.mod.startAt with
    | none => !s.mod.scrub
    | some k => decide (10 ≤ k)

/-- The transcript of a channel: of the connection or of a session that is open. -/
def Responder.channel (r : Responder) (session : Option Nat) : Option Session :=
  match session with
  | none => some r.conn
  | some n => tfind r.sessions n

/-- Changes the transcript of a channel. -/
def Responder.onChannel (r : Responder) (session : Option Nat) (f : Session → Session) : Responder :=
  match session with
  | none => { r with conn := f r.conn }
  | some n => { r with sessions := tmap f r.sessions n }

/-- The channel that a request uses, when its responder answers, it exists, and a session's keys are those that protect the request. -/
def State.channel (s : State) (ch : Channel) : Option Session :=
  if s.answers ch.iface then
    match (s.responder ch.iface).channel ch.session with
    | some x => if ch.session.isSome && ch.key ≠ x.keys then none else some x
    | none => none
  else none

/-- A request names one of the versions of R339. -/
def versionOk (version : Nat) : Bool := version = 0x12 || version = 0x13

/-- What a request on a channel comes to: no answer where the channel is none, an error where its version is none of R339's, or what the
request itself does (R12, R339; log entry 69). -/
def State.request (s : State) (ch : Channel) (f : Session → State) : State :=
  match s.channel ch with
  | none => s
  | some x => if versionOk ch.version then f x else s.output (.notSupported ch.iface)

/-- Changes a responder. -/
def State.onResponder (s : State) (iface : Nat) (f : Responder → Responder) : State :=
  { s with mod := { s.mod with responders := tput s.mod.responders iface (f (s.responder iface)) } }

/-- A signature over a value, with the randomness of the moment (R337). -/
def State.sign (s : State) (v : Nat) : BitVec 768 × State :=
  (Config.signature v s.time.fresh, { s with time := { s.time with fresh := s.time.fresh + 1 } })

/-! ### Measurements (R340, R341) -/

/-- The digest of the runtime: the flash image's, or that of an activated image (R340, R341). -/
def runtimeDigest (runtime : Nat) : Nat := if runtime = 0 then (Config.imageDigest 2).toNat else (runtime - 1) % 2 ^ 384

/-- Index 5: MODE, PEND, the activation count since reset and the full resets since manufacture (R340). -/
def State.rawBlock (s : State) : Nat :=
  s.mod.flash.resets % 2 ^ 64 * 2 ^ 64 + s.mod.activations.toNat * 2 ^ 32 + b2n s.mod.flash.pend * 2 ^ 8 + b2n s.mod.mode

/-- The content of a measurement block, if the index is present (R340). -/
def State.block (s : State) (index : Nat) : Option Nat :=
  match index with
  | 1 => some (Config.imageDigest 1).toNat
  | 2 => some (runtimeDigest s.mod.runtime)
  | 3 => some (Config.imageDigest 3).toNat
  | 4 => some (Config.digest (configValue s.mod.config)).toNat
  | 5 => some s.rawBlock
  | _ => none

/-- The blocks that a request names, from one snapshot: one index, or every one with 0xFF (R341). -/
def State.blocks (s : State) (index : Nat) : List (Nat × Nat) :=
  (if index = 0xFF then [1, 2, 3, 4, 5] else [index]).filterMap fun i => (s.block i).map fun v => (i, v)

/-- A transcript as one number, for its signature. -/
def packList (l : List Nat) : Nat := l.foldl (fun a v => a * 2 ^ 512 + v % 2 ^ 512) 1

/-- GET_MEASUREMENTS (R341): Busy while an activation runs; RequestResynch, which clears the transcript, when an activation
ended over it; otherwise the blocks, and a signature over the requests since the last signed one. An index that is absent is refused
(R12, R340). -/
def execGetMeasurements (ch : Channel) (index : Nat) (sign : Bool) (s : State) : Result :=
  .next (s.request ch fun x =>
    let set (s : State) (y : Session) : State := s.onResponder ch.iface fun r => r.onChannel ch.session fun _ => y
    let bs := s.blocks index
    if s.mod.act then s.output (.busy ch.iface)
    else if x.stale then (set s { x with transcript := [], stale := false }).output (.resynch ch.iface)
    else if bs.isEmpty then s.output (.notSupported ch.iface)
    else
      let t := x.transcript ++ (index :: bs.map Prod.snd)
      if sign then
        let (sig, s) := s.sign (Config.digest (packList t)).toNat
        (set s { x with transcript := [], stale := false }).output (.measurements ch.iface bs (some sig))
      else (set s { x with transcript := t, stale := false }).output (.measurements ch.iface bs none))

/-! ### Identity and sessions (R337, R339) -/

/-- GET_CERTIFICATE (R337, R339): the chain to the identity key. -/
def execGetCertificate (ch : Channel) (s : State) : Result :=
  .next (s.request ch fun _ => s.output (.certificate ch.iface Config.certificate))

/-- CHALLENGE (R337, R339): a signature under the identity key. -/
def execChallenge (ch : Channel) (nonce : BitVec 256) (s : State) : Result :=
  .next (s.request ch fun _ =>
    let (sig, s) := s.sign (Config.digest nonce.toNat).toNat
    s.output (.challenge ch.iface nonce sig))

/-- A fresh key of the module, by its serial number. -/
def State.drawKey (s : State) : Nat × State :=
  (s.mod.keySerial + 1, { s with mod := { s.mod with keySerial := s.mod.keySerial + 1 } })

/-- An offer names the listed algorithms (R339). -/
def algorithmsOk (o : KeyOffer) : Bool := o.asym = 0 && o.hash = 0 && o.group = 0 && o.aead = 0

/-- A KEY_EXCHANGE asks for what the responder supports: SPDM 1.2 or 1.3, the listed algorithms, no pre-shared keys and no mutual
authentication (R339). -/
def offerOk (o : KeyOffer) : Bool := versionOk o.version && algorithmsOk o && !o.psk && !o.auth

/-- The capabilities of R339. -/
def spdmCaps : List SpdmCap := [.cert, .chal, .measSig, .keyEx, .encrypt, .mac, .keyUpd, .hbeat]

/-- A request that has no instruction of its own (R12, R339): the versions, which a request of any version may ask for, the
capabilities, the algorithms, by the vendor identifier that announces the signature's, for an offer that names them; everything else is
refused. -/
def State.spdm (s : State) (ch : Channel) (q : SpdmQuery) : State :=
  match q with
  | .versions => if (s.channel ch).isSome then s.output (.versions ch.iface [0x12, 0x13]) else s
  | .capabilities => s.request ch fun _ => s.output (.capabilities ch.iface spdmCaps)
  | .algorithms o =>
    s.request ch fun _ =>
      s.output (if algorithmsOk o then .algorithms ch.iface Config.vendorId 0 0 0 0 else .notSupported ch.iface)
  | .vendor .. | .other _ => s.request ch fun _ => s.output (.notSupported ch.iface)

/-- KEY_EXCHANGE (R12, R339): opens one of the interface's four sessions with keys of its own, if one is free; what R339 does not list is
refused. The bits of the keys lie outside the model (log entry 8). -/
def execKeyExchange (iface : Nat) (offer : KeyOffer) (s : State) : Result :=
  if !s.answers iface then .next s
  else if !offerOk offer then .next (s.output (.notSupported iface))
  else
    let n := tfresh (s.responder iface).sessions 0 4
    if n < 4 then
      let (key, s) := s.drawKey
      let rt := s.rt
      .next ((s.onResponder iface fun r =>
        { r with sessions := tput r.sessions n { transcript := [], stale := false, keys := key, beat := rt } }).output
          (.session iface (some n)))
    else .next (s.output (.session iface none))

/-- A session ends, as the standard has it end: by its requester, or with its heartbeats (R339). -/
def State.sessionEnd (s : State) (iface session : Nat) : State :=
  s.onResponder iface fun r => { r with sessions := tdel r.sessions session }

/-- A session whose heartbeats have stopped ends (R339; log entry 69). -/
def State.sessionLapse (s : State) (iface session : Nat) : State :=
  match tfind (s.responder iface).sessions session with
  | some x => if x.beat + Config.heartbeat < s.rt then s.sessionEnd iface session else s
  | none => s

/-- KEY_UPDATE (R339): the session's keys are refreshed; outside a session it is not expected. -/
def execKeyUpdate (ch : Channel) (s : State) : Result :=
  .next (s.request ch fun _ =>
    if ch.session.isNone then s.output (.unexpected ch.iface)
    else
      let (key, s) := s.drawKey
      (s.onResponder ch.iface fun r => r.onChannel ch.session fun x => { x with keys := key }).output (.ack ch.iface))

/-- HEARTBEAT (R339): the session is kept; outside a session it is not expected. -/
def execHeartbeat (ch : Channel) (s : State) : Result :=
  .next (s.request ch fun _ =>
    if ch.session.isNone then s.output (.unexpected ch.iface)
    else
      let rt := s.rt
      (s.onResponder ch.iface fun r => r.onChannel ch.session fun x => { x with beat := rt }).output (.ack ch.iface))

/-! ### Modes and receipts (R348, R350, R351) -/

/-- PEND is written and stored in flash (R348). -/
def State.setPend (s : State) (v : Bool) : State :=
  { s with mod := { s.mod with flash := { s.mod.flash with pend := v } } }

/-- SET_MODE (R348): from the controller, or inside a session; outside one it receives UnexpectedRequest. -/
def execSetMode (ch : Option Channel) (value : Byte) (s : State) : Result :=
  match ch with
  | none => .next (if value.toNat < 2 then s.setPend (value = 1) else s)
  | some c =>
    .next (s.request c fun _ =>
      if c.session.isSome && decide (value.toNat < 2) then (s.setPend (value = 1)).output (.ack c.iface)
      else s.output (.unexpected c.iface))

/-- The header and entries of a receipt, before its signature (R350). -/
def Receipt.body (r : Receipt) (nonce : BitVec 256) (resets : Nat) : List Byte :=
  toBytes 64 (nonce.toNat * 2 ^ 256 + resets % 2 ^ 64 * 2 ^ 192 + r.frames % 2 ^ 32 * 2 ^ 160 +
      r.retired.length % 2 ^ 32 * 2 ^ 128 + r.failed.length % 2 ^ 32 * 2 ^ 96 + r.oldMode % 256 * 2 ^ 64 +
      r.newMode % 256 * 2 ^ 56 + 0x0001 * 2 ^ 32 + 0x5A534352) ++
    (r.retired ++ r.failed).flatMap fun e => toBytes 8 e.toNat

/-- GET_RECEIPT (R350, R351): Busy while SCRUB is set, UnexpectedRequest after a reset that did not scrub, otherwise the
receipt with the nonce. -/
def execGetReceipt (ch : Channel) (nonce : BitVec 256) (s : State) : Result :=
  .next (s.request ch fun _ =>
    if s.mod.scrub then s.output (.busy ch.iface)
    else
      match s.mod.receipt with
      | none => s.output (.unexpected ch.iface)
      | some r =>
        let b := r.body nonce s.mod.flash.resets
        let (sig, s) := s.sign (Config.digest (ofBytes b)).toNat
        s.output (.receipt ch.iface (b ++ signatureBytes sig)))

/-! ### Live activation (R338, R341) -/

/-- LIVE_ACTIVATION (R338, R341): an image that verifies sets ACT; one that does not leaves the running image in place. -/
def execLiveActivation (verified : Bool) (digest : Nat) (s : State) : Result :=
  if !verified || s.mod.act || !s.live then .next s
  else
    let rt := s.rt
    .next { s with mod := { s.mod with act := true, actSince := rt, newRuntime := digest + 1 } }

/-- An activation has ended over a transcript (R341). -/
def Session.activated (x : Session) : Session := { x with stale := x.stale || !x.transcript.isEmpty }

/-- LIVE_ACTIVATION_END (R341): index 2 and the activation count change in one step, and ACT clears. -/
def execLiveActivationEnd (s : State) : Result :=
  if !s.mod.act then .next s
  else
    .next { s with
      mod :=
        { s.mod with
          act := false, runtime := s.mod.newRuntime, activations := s.mod.activations + 1
          responders := s.mod.responders.map fun (n, r) =>
            (n, { conn := r.conn.activated, sessions := r.sessions.map fun (k, x) => (k, x.activated) }) } }

/-! ### IDE streams (R342, R343) -/

/-- IDE_KEY_PROGRAM (R342, R343): inside a session, it keys the stream's sub-streams and binds its interface to a world; keys for a
stream in use are those of the other key set and wait for the switch. Outside a session it is not expected; a link stream, a second
selective stream and a world beyond 63 are refused (R12). -/
def execIdeKeyProgram (ch : Channel) (keys : IdeKeys) (world : Nat) (s : State) : Result :=
  .next (s.request ch fun _ =>
    let x := s.ideOf ch.iface
    if ch.session.isNone then s.output (.unexpected ch.iface)
    else if keys.link || decide (x.state ≠ 0 ∧ keys.stream ≠ x.keys.stream) || decide (64 ≤ world) then
      s.output (.notSupported ch.iface)
    else
      (s.onIde ch.iface fun x =>
        if x.state = 1 then { x with next := some keys, world := world }
        else { state := 1, set := false, keys := keys, next := none, world := world }).output (.ack ch.iface))

/-- IDE_KEY_SET_SWITCH (R342): the first TLP under the new key set ends acceptance of the old one. -/
def execIdeKeySetSwitch (iface : Nat) (s : State) : Result :=
  let x := s.ideOf iface
  .next (if x.state = 1 ∧ x.next.isSome then s.onIde iface Ide.switch else s)

/-- IDE_INTEGRITY_FAILURE (R343): the stream is Insecure until it is programmed again; in confidential mode the dispatches of
the interface's mailboxes are killed. -/
def execIdeIntegrityFailure (iface : Nat) (s : State) : Result :=
  if (s.ideOf iface).state ≠ 1 then .next s
  else
    let s := s.onIde iface fun x => { x with state := 2, next := none }
    if s.mod.mode then .next (s.killWhere fun d => (Config.mailboxOwner d.mailbox).val = iface) else .next s

/-- INTERFACE_RESET (R342): the stream's keys end with it. -/
def execInterfaceReset (iface : Nat) (s : State) : Result := .next (s.onIde iface fun _ => Ide.reset)

end Sys2Proof.Machine
end

