-- ==== Sys2Proof/Machine/Dispatch.lean ====
section
/-! DEFINITION. What each instruction and each event does: one arm per row of spec/opcode_table.json. -/

namespace Sys2Proof.Machine

def exec (i : Instr) (s : State) : Host.Outcome State Fault Refusal :=
  match i with
  | .nop g => Sys2Proof.Machine.execNop g s
  | .bra g disp => Sys2Proof.Machine.execBra g disp s
  | .brx g a disp => Sys2Proof.Machine.execBrx g a disp s
  | .call g d disp => Sys2Proof.Machine.execCall g d disp s
  | .callx g d a disp => Sys2Proof.Machine.execCallx g d a disp s
  | .ret g a => Sys2Proof.Machine.execRet g a s
  | .exit g => Sys2Proof.Machine.execExit g s
  | .meet g form d => Sys2Proof.Machine.execMeet g form d s
  | .sign g n => Sys2Proof.Machine.execSign g n s
  | .wait g d a imm => Sys2Proof.Machine.execWait g d a imm s
  | .bar g id count => Sys2Proof.Machine.execBar g id count s
  | .cbar g id count => Sys2Proof.Machine.execCbar g id count s
  | .yield g => Sys2Proof.Machine.execYield g s
  | .trap g code => Sys2Proof.Machine.execTrap g code s
  | .cvset g n a => Sys2Proof.Machine.execCvset g n a s
  | .iadd x sat => Sys2Proof.Machine.execIadd x sat s
  | .isub x sat => Sys2Proof.Machine.execIsub x sat s
  | .imul x => Sys2Proof.Machine.execImul x s
  | .imulhi x => Sys2Proof.Machine.execImulhi x s
  | .imad x => Sys2Proof.Machine.execImad x s
  | .imadw x => Sys2Proof.Machine.execImadw x s
  | .iadd64 x sat => Sys2Proof.Machine.execIadd64 x sat s
  | .isub64 x sat => Sys2Proof.Machine.execIsub64 x sat s
  | .imul64 x => Sys2Proof.Machine.execImul64 x s
  | .imad64 x => Sys2Proof.Machine.execImad64 x s
  | .shl x => Sys2Proof.Machine.execShl x s
  | .shr x => Sys2Proof.Machine.execShr x s
  | .sar x => Sys2Proof.Machine.execSar x s
  | .mix3 x t => Sys2Proof.Machine.execMix3 x t s
  | .imin x => Sys2Proof.Machine.execImin x s
  | .imax x => Sys2Proof.Machine.execImax x s
  | .iabs x sat => Sys2Proof.Machine.execIabs x sat s
  | .icmp g ty pd cc a b => Sys2Proof.Machine.execIcmp g ty pd cc a b s
  | .sel x pc => Sys2Proof.Machine.execSel x pc s
  | .popc x => Sys2Proof.Machine.execPopc x s
  | .clz x => Sys2Proof.Machine.execClz x s
  | .brev x => Sys2Proof.Machine.execBrev x s
  | .bfe x => Sys2Proof.Machine.execBfe x s
  | .bfi x => Sys2Proof.Machine.execBfi x s
  | .iaddp x sat => Sys2Proof.Machine.execIaddp x sat s
  | .isubp x sat => Sys2Proof.Machine.execIsubp x sat s
  | .iminp x => Sys2Proof.Machine.execIminp x s
  | .imaxp x => Sys2Proof.Machine.execImaxp x s
  | .iabsp x sat => Sys2Proof.Machine.execIabsp x sat s
  | .idp4 x sat => Sys2Proof.Machine.execIdp4 x sat s
  | .mov x => Sys2Proof.Machine.execMov x s
  | .movi g ty d imm => Sys2Proof.Machine.execMovi g ty d imm s
  | .xlane x mode => Sys2Proof.Machine.execXlane x mode s
  | .lpoll g form q => Sys2Proof.Machine.execLpoll g form q s
  | .wred x op => Sys2Proof.Machine.execWred x op s
  | .pmix3 g pd pa pb pc t => Sys2Proof.Machine.execPmix3 g pd pa pb pc t s
  | .pget g d => Sys2Proof.Machine.execPget g d s
  | .pset g mask a => Sys2Proof.Machine.execPset g mask a s
  | .wext x mode => Sys2Proof.Machine.execWext x mode s
  | .iaddi x imm => Sys2Proof.Machine.execIaddi x imm s
  | .imuli x imm => Sys2Proof.Machine.execImuli x imm s
  | .icmpi g ty pd cc a imm => Sys2Proof.Machine.execIcmpi g ty pd cc a imm s
  | .mixi g t d a imm => Sys2Proof.Machine.execMixi g t d a imm s
  | .fadd x m => Sys2Proof.Machine.execFadd x m s
  | .fmul x m => Sys2Proof.Machine.execFmul x m s
  | .ffma x m => Sys2Proof.Machine.execFfma x m s
  | .fmin x rnd nan => Sys2Proof.Machine.execFmin x rnd nan s
  | .fmax x rnd nan => Sys2Proof.Machine.execFmax x rnd nan s
  | .fcmp g pd cc a b rnd => Sys2Proof.Machine.execFcmp g pd cc a b rnd s
  | .fabs x rnd neg => Sys2Proof.Machine.execFabs x rnd neg s
  | .fclass x rnd elem => Sys2Proof.Machine.execFclass x rnd elem s
  | .dadd x m => Sys2Proof.Machine.execDadd x m s
  | .dmul x m => Sys2Proof.Machine.execDmul x m s
  | .dfma x m => Sys2Proof.Machine.execDfma x m s
  | .dmin x rnd nan => Sys2Proof.Machine.execDmin x rnd nan s
  | .dmax x rnd nan => Sys2Proof.Machine.execDmax x rnd nan s
  | .dcmp g pd cc a b rnd => Sys2Proof.Machine.execDcmp g pd cc a b rnd s
  | .dclass x rnd => Sys2Proof.Machine.execDclass x rnd s
  | .hadd2 x m => Sys2Proof.Machine.execHadd2 x m s
  | .hmul2 x m => Sys2Proof.Machine.execHmul2 x m s
  | .hfma2 x m => Sys2Proof.Machine.execHfma2 x m s
  | .hmin2 x rnd nan => Sys2Proof.Machine.execHmin2 x rnd nan s
  | .hmax2 x rnd nan => Sys2Proof.Machine.execHmax2 x rnd nan s
  | .hcmp2 x rnd cc => Sys2Proof.Machine.execHcmp2 x rnd cc s
  | .faddi x imm => Sys2Proof.Machine.execFaddi x imm s
  | .fmuli x imm => Sys2Proof.Machine.execFmuli x imm s
  | .frcp x rnd => Sys2Proof.Machine.execFrcp x rnd s
  | .frsq x rnd => Sys2Proof.Machine.execFrsq x rnd s
  | .fsqrt x rnd => Sys2Proof.Machine.execFsqrt x rnd s
  | .fex2 x rnd => Sys2Proof.Machine.execFex2 x rnd s
  | .flg2 x rnd => Sys2Proof.Machine.execFlg2 x rnd s
  | .fsin x rnd => Sys2Proof.Machine.execFsin x rnd s
  | .fcos x rnd => Sys2Proof.Machine.execFcos x rnd s
  | .ftanh x rnd => Sys2Proof.Machine.execFtanh x rnd s
  | .dsqrt x rnd => Sys2Proof.Machine.execDsqrt x rnd s
  | .drcp x rnd => Sys2Proof.Machine.execDrcp x rnd s
  | .cvff x m => Sys2Proof.Machine.execCvff x m s
  | .cvfi x m => Sys2Proof.Machine.execCvfi x m s
  | .cvif x m => Sys2Proof.Machine.execCvif x m s
  | .cvii x m => Sys2Proof.Machine.execCvii x m s
  | .pkf8 x rnd sat => Sys2Proof.Machine.execPkf8 x rnd sat s
  | .pkf4 x rnd q => Sys2Proof.Machine.execPkf4 x rnd q s
  | .mxsc x rnd inv => Sys2Proof.Machine.execMxsc x rnd inv s
  | .ld x fresh => Sys2Proof.Machine.execLd x fresh s
  | .st x => Sys2Proof.Machine.execSt x s
  | .ldb x fresh => Sys2Proof.Machine.execLdb x fresh s
  | .stb x => Sys2Proof.Machine.execStb x s
  | .ldw x clr => Sys2Proof.Machine.execLdw x clr s
  | .setempty x => Sys2Proof.Machine.execSetempty x s
  | .atadd x slot => Sys2Proof.Machine.execAtadd x slot s
  | .atmin x slot => Sys2Proof.Machine.execAtmin x slot s
  | .atmax x slot => Sys2Proof.Machine.execAtmax x slot s
  | .atand x slot => Sys2Proof.Machine.execAtand x slot s
  | .ator x slot => Sys2Proof.Machine.execAtor x slot s
  | .atxor x slot => Sys2Proof.Machine.execAtxor x slot s
  | .atexch x slot => Sys2Proof.Machine.execAtexch x slot s
  | .atcas x slot b => Sys2Proof.Machine.execAtcas x slot b s
  | .redadd x => Sys2Proof.Machine.execRedadd x s
  | .redmin x => Sys2Proof.Machine.execRedmin x s
  | .redmax x => Sys2Proof.Machine.execRedmax x s
  | .redand x => Sys2Proof.Machine.execRedand x s
  | .redor x => Sys2Proof.Machine.execRedor x s
  | .redxor x => Sys2Proof.Machine.execRedxor x s
  | .fxadd x => Sys2Proof.Machine.execFxadd x s
  | .fxrd x rnd => Sys2Proof.Machine.execFxrd x rnd s
  | .nins x b => Sys2Proof.Machine.execNins x b s
  | .lock x => Sys2Proof.Machine.execLock x s
  | .unlock x => Sys2Proof.Machine.execUnlock x s
  | .fence x => Sys2Proof.Machine.execFence x s
  | .mma x => Sys2Proof.Machine.execMma x s
  | .mmag x c => Sys2Proof.Machine.execMmag x c s
  | .mmas x => Sys2Proof.Machine.execMmas x s
  | .sfpush g ty a kindB cv => Sys2Proof.Machine.execSfpush g ty a kindB cv s
  | .sfpushFlush g => Sys2Proof.Machine.execSfpushFlush g s
  | .mmx x unsignedA => Sys2Proof.Machine.execMmx x unsignedA s
  | .aalloc g d mask => Sys2Proof.Machine.execAalloc g d mask s
  | .afree g mask => Sys2Proof.Machine.execAfree g mask s
  | .acqa g a mask => Sys2Proof.Machine.execAcqa g a mask s
  | .rela g mask => Sys2Proof.Machine.execRela g mask s
  | .amv g mode spec tile cv => Sys2Proof.Machine.execAmv g mode spec tile cv s
  | .tcon8 g u m o axis tr acc cv => Sys2Proof.Machine.execTcon8 g u m o axis tr acc cv s
  | .rsub g scope d a b c => Sys2Proof.Machine.execRsub g scope d a b c s
  | .cpost g scope a b => Sys2Proof.Machine.execCpost g scope a b s
  | .ctok g scope a b => Sys2Proof.Machine.execCtok g scope a b s
  | .abort g scope a b => Sys2Proof.Machine.execAbort g scope a b s
  | .abortRoot g scope a => Sys2Proof.Machine.execAbortRoot g scope a s
  | .mcst x blk b => Sys2Proof.Machine.execMcst x blk b s
  | .rfence g scope a => Sys2Proof.Machine.execRfence g scope a s
  | .cdecl g scope a b => Sys2Proof.Machine.execCdecl g scope a b s
  | .sweep g scope d a b c => Sys2Proof.Machine.execSweep g scope d a b c s
  | .byield g scope retire a b c => Sys2Proof.Machine.execByield g scope retire a b c s
  | .bwakeNow g scope a b => Sys2Proof.Machine.execBwakeNow g scope a b s
  | .bwakeNext g scope a b => Sys2Proof.Machine.execBwakeNext g scope a b s
  | .bstate g d a b => Sys2Proof.Machine.execBstate g d a b s
  | .sget g ty d n => Sys2Proof.Machine.execSget g ty d n s
  | .sset g ty a n => Sys2Proof.Machine.execSset g ty a n s
  | .tret g => Sys2Proof.Machine.execTret g s
  | .clkrd g ty d rt => Sys2Proof.Machine.execClkrd g ty d rt s
  | .preempt g d => Sys2Proof.Machine.execPreempt g d s
  | .unassignedOpcode op => Sys2Proof.Machine.execUnassignedOpcode op s
  | .arbitrate q => Sys2Proof.Machine.execArbitrate q s
  | .clauseBoundary q => Sys2Proof.Machine.execClauseBoundary q s
  | .longLatencyResult warp seq lanes level1 => Sys2Proof.Machine.execLongLatencyResult warp seq lanes level1 s
  | .atomicReturn warp seq => Sys2Proof.Machine.execAtomicReturn warp seq s
  | .registerWindowWriteArrive warp seq lanes => Sys2Proof.Machine.execRegisterWindowWriteArrive warp seq lanes s
  | .writePerformed w => Sys2Proof.Machine.execWritePerformed w s
  | .atomicPerform warp seq => Sys2Proof.Machine.execAtomicPerform warp seq s
  | .creditCharge core offset => Sys2Proof.Machine.execCreditCharge core offset s
  | .lockRequestArrive warp seq => Sys2Proof.Machine.execLockRequestArrive warp seq s
  | .unlockArrive warp seq => Sys2Proof.Machine.execUnlockArrive warp seq s
  | .fenceAcknowledge warp seq => Sys2Proof.Machine.execFenceAcknowledge warp seq s
  | .waitMet warp => Sys2Proof.Machine.execWaitMet warp s
  | .waitTimeout warp => Sys2Proof.Machine.execWaitTimeout warp s
  | .waitMemoryPoll warp => Sys2Proof.Machine.execWaitMemoryPoll warp s
  | .ldwAction warp seq => Sys2Proof.Machine.execLdwAction warp seq s
  | .copyGranuleLand transfer granule => Sys2Proof.Machine.execCopyGranuleLand transfer granule s
  | .windowCopyFault transfer => Sys2Proof.Machine.execWindowCopyFault transfer s
  | .pushGranuleLand transfer granule => Sys2Proof.Machine.execPushGranuleLand transfer granule s
  | .recordInvalidationComplete warp seq => Sys2Proof.Machine.execRecordInvalidationComplete warp seq s
  | .matrixOpPerform core early => Sys2Proof.Machine.execMatrixOpPerform core early s
  | .warpEnd warp => Sys2Proof.Machine.execWarpEnd warp s
  | .watchdogFire core ctx => Sys2Proof.Machine.execWatchdogFire core ctx s
  | .trapEntry warp => Sys2Proof.Machine.execTrapEntry warp s
  | .mailboxTakeEntry m => Sys2Proof.Machine.execMailboxTakeEntry m s
  | .dispatchAccept d => Sys2Proof.Machine.execDispatchAccept d s
  | .groupPlace d => Sys2Proof.Machine.execGroupPlace d s
  | .dispatchComplete d => Sys2Proof.Machine.execDispatchComplete d s
  | .dispatchKill d => Sys2Proof.Machine.execDispatchKill d s
  | .dispatchReplay d => Sys2Proof.Machine.execDispatchReplay d s
  | .mbtailWrite p m v => Sys2Proof.Machine.execMbtailWrite p m v s
  | .mbctxWrite p m u v => Sys2Proof.Machine.execMbctxWrite p m u v s
  | .mbctlEnable p m v => Sys2Proof.Machine.execMbctlEnable p m v s
  | .mbctlKill p m v => Sys2Proof.Machine.execMbctlKill p m v s
  | .mbctlErrClear p m v => Sys2Proof.Machine.execMbctlErrClear p m v s
  | .ctxidWrite p slot value => Sys2Proof.Machine.execCtxidWrite p slot value s
  | .ctxctlPreq p slot value => Sys2Proof.Machine.execCtxctlPreq p slot value s
  | .preemptSave slot => Sys2Proof.Machine.execPreemptSave slot s
  | .ctxctlResume p slot value => Sys2Proof.Machine.execCtxctlResume p slot value s
  | .tlbictlInvalidate p slot value => Sys2Proof.Machine.execTlbictlInvalidate p slot value s
  | .tlbInvalidateComplete slot => Sys2Proof.Machine.execTlbInvalidateComplete slot s
  | .apctlWrite p w en v => Sys2Proof.Machine.execApctlWrite p w en v s
  | .hostBar2Read p w o n => Sys2Proof.Machine.execHostBar2Read p w o n s
  | .hostBar2Write p w o b => Sys2Proof.Machine.execHostBar2Write p w o b s
  | .registerWrite p r value => Sys2Proof.Machine.execRegisterWrite p r value s
  | .rootProgramAccept die slice => Sys2Proof.Machine.execRootProgramAccept die slice s
  | .rootProgramStart die slice => Sys2Proof.Machine.execRootProgramStart die slice s
  | .cmdNop => Sys2Proof.Machine.execCmdNop s
  | .cmdSeti fa x => Sys2Proof.Machine.execCmdSeti fa x s
  | .cmdAddi fa fb x => Sys2Proof.Machine.execCmdAddi fa fb x s
  | .cmdAdd fa fb fc imm => Sys2Proof.Machine.execCmdAdd fa fb fc imm s
  | .cmdMad fa fb fc x => Sys2Proof.Machine.execCmdMad fa fb fc x s
  | .cmdLdg fa fb x => Sys2Proof.Machine.execCmdLdg fa fb x s
  | .cmdStg fa fb x rel => Sys2Proof.Machine.execCmdStg fa fb x rel s
  | .cmdAtom fa fb x => Sys2Proof.Machine.execCmdAtom fa fb x s
  | .cmdMove fa fb imm => Sys2Proof.Machine.execCmdMove fa fb imm s
  | .cmdPush fa fb fc => Sys2Proof.Machine.execCmdPush fa fb fc s
  | .cmdPushmc fa fb fc imm => Sys2Proof.Machine.execCmdPushmc fa fb fc imm s
  | .cmdStep fa fb => Sys2Proof.Machine.execCmdStep fa fb s
  | .cmdRed fa fb imm comm bf16 => Sys2Proof.Machine.execCmdRed fa fb imm comm bf16 s
  | .cmdSum fa fb fc imm bf16 => Sys2Proof.Machine.execCmdSum fa fb fc imm bf16 s
  | .cmdSig fa imm => Sys2Proof.Machine.execCmdSig fa imm s
  | .cmdTok imm die => Sys2Proof.Machine.execCmdTok imm die s
  | .cmdWtok imm consume tmo => Sys2Proof.Machine.execCmdWtok imm consume tmo s
  | .cmdWbar fa phase tmo => Sys2Proof.Machine.execCmdWbar fa phase tmo s
  | .cmdWmem fa fb cmp wide tmo => Sys2Proof.Machine.execCmdWmem fa fb cmp wide tmo s
  | .cmdBr imm => Sys2Proof.Machine.execCmdBr imm s
  | .cmdBrc fa fb cmp imm => Sys2Proof.Machine.execCmdBrc fa fb cmp imm s
  | .cmdLoop fa imm => Sys2Proof.Machine.execCmdLoop fa imm s
  | .cmdFence scope => Sys2Proof.Machine.execCmdFence scope s
  | .cmdChunk => Sys2Proof.Machine.execCmdChunk s
  | .cmdEnd => Sys2Proof.Machine.execCmdEnd s
  | .cmdBadOpcode opc => Sys2Proof.Machine.execCmdBadOpcode opc s
  | .engineWaitMet e => Sys2Proof.Machine.execEngineWaitMet e s
  | .engineWaitTimeout e => Sys2Proof.Machine.execEngineWaitTimeout e s
  | .canopyBlockAccept die engine => Sys2Proof.Machine.execCanopyBlockAccept die engine s
  | .canopyBlockStart die engine => Sys2Proof.Machine.execCanopyBlockStart die engine s
  | .tokenDeliver flight => Sys2Proof.Machine.execTokenDeliver flight s
  | .blockTokenTimeout die index => Sys2Proof.Machine.execBlockTokenTimeout die index s
  | .redChildArrive flight => Sys2Proof.Machine.execRedChildArrive flight s
  | .reductionTimeout node => Sys2Proof.Machine.execReductionTimeout node s
  | .redResultDeliver flight => Sys2Proof.Machine.execRedResultDeliver flight s
  | .collectivePacketIngress die ctx comm attempt => Sys2Proof.Machine.execCollectivePacketIngress die ctx comm attempt s
  | .attemptAbortArrive flight => Sys2Proof.Machine.execAttemptAbortArrive flight s
  | .agreementPropose round => Sys2Proof.Machine.execAgreementPropose round s
  | .agreementVote round die => Sys2Proof.Machine.execAgreementVote round die s
  | .agreementCommit round => Sys2Proof.Machine.execAgreementCommit round s
  | .agreementRoundTimeout round => Sys2Proof.Machine.execAgreementRoundTimeout round s
  | .groupCommandComplete round => Sys2Proof.Machine.execGroupCommandComplete round s
  | .declarationAccept site => Sys2Proof.Machine.execDeclarationAccept site s
  | .sweepRequestAccept site => Sys2Proof.Machine.execSweepRequestAccept site s
  | .scanStep site slot => Sys2Proof.Machine.execScanStep site slot s
  | .wakeTake site => Sys2Proof.Machine.execWakeTake site s
  | .byieldTake site => Sys2Proof.Machine.execByieldTake site s
  | .sweepEnd dispatch slot => Sys2Proof.Machine.execSweepEnd dispatch slot s
  | .scrubSector die sector errors => Sys2Proof.Machine.execScrubSector die sector errors s
  | .scrubWriteback die => Sys2Proof.Machine.execScrubWriteback die s
  | .coreRetire core intact => Sys2Proof.Machine.execCoreRetire core intact s
  | .lateTransitionReplay core => Sys2Proof.Machine.execLateTransitionReplay core s
  | .clockStepDown die => Sys2Proof.Machine.execClockStepDown die s
  | .clockStepUp die => Sys2Proof.Machine.execClockStepUp die s
  | .linkReplay die link => Sys2Proof.Machine.execLinkReplay die link s
  | .linkRetrain die link => Sys2Proof.Machine.execLinkRetrain die link s
  | .routeGenerationInstall die link routes => Sys2Proof.Machine.execRouteGenerationInstall die link routes s
  | .routePairSwitch die site => Sys2Proof.Machine.execRoutePairSwitch die site s
  | .thermalClockStep die up => Sys2Proof.Machine.execThermalClockStep die up s
  | .thermalPowerCut => Sys2Proof.Machine.execThermalPowerCut s
  | .coldReset fails => Sys2Proof.Machine.execColdReset fails s
  | .warmReset fails => Sys2Proof.Machine.execWarmReset fails s
  | .rtRealign up ticks => Sys2Proof.Machine.execRtRealign up ticks s
  | .clearStartRecord => Sys2Proof.Machine.execClearStartRecord s
  | .installConfigurationRecord r => Sys2Proof.Machine.execInstallConfigurationRecord r s
  | .readRingRecord die => Sys2Proof.Machine.execReadRingRecord die s
  | .readStartRecord => Sys2Proof.Machine.execReadStartRecord s
  | .readSensors => Sys2Proof.Machine.execReadSensors s
  | .getMeasurements ch index sign => Sys2Proof.Machine.execGetMeasurements ch index sign s
  | .getCertificate ch => Sys2Proof.Machine.execGetCertificate ch s
  | .challenge ch nonce => Sys2Proof.Machine.execChallenge ch nonce s
  | .keyExchange iface offer => Sys2Proof.Machine.execKeyExchange iface offer s
  | .keyUpdate ch => Sys2Proof.Machine.execKeyUpdate ch s
  | .heartbeat ch => Sys2Proof.Machine.execHeartbeat ch s
  | .setMode ch value => Sys2Proof.Machine.execSetMode ch value s
  | .getReceipt ch nonce => Sys2Proof.Machine.execGetReceipt ch nonce s
  | .liveActivation verified digest => Sys2Proof.Machine.execLiveActivation verified digest s
  | .ideKeyProgram ch keys world => Sys2Proof.Machine.execIdeKeyProgram ch keys world s
  | .ideKeySetSwitch iface => Sys2Proof.Machine.execIdeKeySetSwitch iface s
  | .ideIntegrityFailure iface => Sys2Proof.Machine.execIdeIntegrityFailure iface s
  | .linkRetrainEnd die link ok => Sys2Proof.Machine.execLinkRetrainEnd die link ok s
  | .clockStepComplete die => Sys2Proof.Machine.execClockStepComplete die s
  | .liveActivationEnd => Sys2Proof.Machine.execLiveActivationEnd s
  | .interfaceReset iface => Sys2Proof.Machine.execInterfaceReset iface s

end Sys2Proof.Machine
end

