-- ==== Sys2Proof/Machine/Fetch.lean ====
section
/-! DEFINITION. What moves next: the agenda, a start in progress, or the agent that has the turn, and the instruction or
command that it fetches, R60, R71, R190, R192, R353 (log entries 1 and 2). -/

namespace Sys2Proof.Machine

/-- What a step comes to: an instruction or event that runs, another state, or the whole module at a stop. -/
inductive Turn
  | run (i : Instr) (s : State)
  | go (s : State)
  | stop (f : Fault)

/-- A quarter's turn: the next instruction of its running clause, the clause's boundary, or arbitration. A word that does
not decode raises the illegal-encoding fault (R61, R67). -/
def State.quarterTurn (s : State) (q : Nat) : Turn :=
  match tfind s.comp.clauses q with
  | none => .run (.arbitrate q) s
  | some c =>
    if c.ending.isSome then .run (.clauseBoundary q) s
    else
      match decodeInstr (nth 0 c.words c.index) with
      | .ok i => .run i s
      | .error _ => .go s.illegal

/-- A command whose fetch or decoding ends its program has started (R193). -/
def State.startBad (s : State) (e : EngRef) : State := (s.passTurn e).onProg e fun p => p.startCmd true

/-- The command in a header and its operand: it runs, or its fields end the program with code 1 (R190, R191). -/
def State.commandTurn (s : State) (e : EngRef) (h x : Nat) : Turn :=
  match decodeCommand h x with
  | .ok i => .run i s
  | .error _ => .go ((s.startBad e).progFault e 1)

/-- An engine context's turn: its next command, fetched with a fresh read (R190) or taken from a built-in expansion
(R272), a judgement of its wait, or its end. -/
def State.engineTurn (s : State) (e : EngRef) : Turn :=
  match s.prog? e with
  | none => .go s
  | some p =>
    match p.phase with
    | .queued | .blocked => .go s
    | .waiting .. | .charging .. => .run (.engineWaitMet e) s
    | .finishing .. => .go (s.tryFinish e)
    | .running =>
      if !s.myTurn e then .go s
      else if p.internal then
        match p.script with
        | c :: _ => s.commandTurn e (c.toNat % 2 ^ 64) (c.toNat / 2 ^ 64)
        | [] => .go s
      else if s.rangeWaits (engDie e) p.slot p.pc 16 then .go s
      else
        match s.engRead (engDie e) p.slot p.pc 16 with
        | .error c => .go ((s.startBad e).progError e c [(p.pc, 16)])
        | .ok b => s.commandTurn e (ofBytes (b.take 8)) (ofBytes (b.drop 8))

/-- Gives the turn to an agent. -/
def State.giveTurn (s : State) (a : Agent) : State := { s with sched := { s.sched with agent := a } }

/-- The turn of the agent that has it. -/
def State.agentTurn (s : State) : Turn :=
  match s.sched.agent with
  | .quarter q => s.quarterTurn q
  | .engine e => s.engineTurn e

/-- Writes bytes of host memory. -/
def State.hostStore (s : State) (a : Nat) (bytes : List Byte) : State :=
  bytes.zipIdx.foldl (fun s (b, i) => { s with mem := { s.mem with host := tset 0 s.mem.host (a + i) b } }) s

/-- A granule of core store that can no longer be corrected is marked (R322, R325). -/
def State.markGranule (s : State) (core granule : Nat) : State :=
  (s.onCore core fun c => { c with poison := tset false c.poison granule true }).ring (dieOfCore core) 0x02 0
    [1, core, granule]

/-- The same for a granule of a line that the level-1 region of a core holds (R14, R322). -/
def State.markLine (s : State) (core line granule : Nat) : State :=
  (s.onCore core fun c => { c with level1 := tmap (fun l => { l with bad := granule :: l.bad }) c.level1 line }).ring
    (dieOfCore core) 0x02 0 [3, core, line * 8 + granule]

/-- The same for a granule of accumulator memory. -/
def State.markAccumulator (s : State) (core granule : Nat) : State :=
  (s.onCore core fun c => { c with accPoison := tset false c.accPoison granule true }).ring (dieOfCore core) 0x02 0
    [2, core, granule]

/-- New readings of the sensors. A die that was not below 95 °C begins to count its cool time (R358). -/
def State.sense (s : State) (r : Sensors) : State :=
  let old := s.mod.sensors
  let now := s.rt
  let dies := s.dies.map fun (n, d) =>
    (n, if tget 0 r.junction n < 95 ∧ tget 0 old.junction n < 95 then d
      else { d with clock := { d.clock with coolSince := now } })
  { s with mod := { s.mod with sensors := r }, dies := dies }

/-- One move of an agent or input of the outside world. -/
def State.moveTurn (s : State) (m : Move) : Turn :=
  match m with
  | .issue q => (s.giveTurn (.quarter q)).quarterTurn q
  | .command e => (s.giveTurn (.engine e)).engineTurn e
  | .event i => if (encode i).isEmpty then .run i s else .go s
  | .hostStore a bytes => .go (s.hostStore a bytes)
  | .sectorError n corrected =>
    .go (if corrected then (s.correctedError n).scrubFlight (homeDie (n * 32)) n else s.markSector n)
  | .granuleError c g => .go (s.markGranule c g)
  | .accumulatorError c g => .go (s.markAccumulator c g)
  | .hostError n bad => .go { s with mem := { s.mem with hostBad := tset false s.mem.hostBad n bad } }
  | .level1Error c line g => .go (s.markLine c line g)
  | .walkFill die slot va => .go (s.keepWalk die slot va .read)
  | .walkEvict die n => .go (s.onDie die fun d => { d with walks := d.walks.eraseIdx n })
  | .tlbEvict core n => .go (s.onCore core fun c => { c with tlb := c.tlb.eraseIdx n })
  | .level1Evict core line =>
    .go (s.onCore core fun c => { c with level1 := c.level1.filter fun (k, l) => k ≠ line || l.pinned })
  | .sliceEvict n => .go (s.evictSlice n)
  | .matrixRead core place gs => .go (s.matrixRead core place gs)
  | .sense r => .go (s.sense r)
  | .readRegister p r => .go (s.readRegister p r)
  | .spdm ch q => .go (s.spdm ch q)
  | .sessionEnd iface n => .go (s.sessionEnd iface n)
  | .sessionLapse iface n => .go (s.sessionLapse iface n)
  | .joinPod n mode mask dies => .go (s.joinPod n mode mask dies)
  | .leavePod n => .go (s.leavePod n)
  | .start =>
    match s.mod.startAt with
    | some k => .go (s.startSequence k)
    | none => .go s
  | .powerOn fails => .go (if s.mod.power || s.mod.heldFailed then s else s.fullReset true fails)

/-- What happens next: the head of the agenda; with nothing there, a stop of the whole module, the next step of a start, or
the agent's turn, one clk later. -/
def State.turn (s : State) : Turn :=
  match s.sched.agenda with
  | (dt, m) :: t => ({ s with sched := { s.sched with agenda := t } }.pass dt).moveTurn m
  | [] =>
    if !s.mod.power then .stop .powerOff
    else if s.mod.heldFailed then .stop .heldFailed
    else
      match s.mod.startAt with
      | some k => .go ((s.pass 1).startSequence k)
      | none => (s.pass 1).agentTurn

end Sys2Proof.Machine
end

