-- ==== Sys2Proof/Machine/Step.lean ====
section
/-! DEFINITION. One step of the machine, and the state whose next step runs a given instruction. -/

namespace Sys2Proof.Machine

/-- One step: what moves next runs (log entry 1). -/
def step (s : State) : Host.Outcome State Fault Refusal :=
  match s.turn with
  | .run i s => exec i s
  | .go s => .next s
  | .stop f => .fault f

/-- A group of one warp of 128 registers, resident in group slot 0 of core 0 of die 0. -/
def hostGroup : Group :=
  { dispatch := 0, slot := 0, rank := 0, ids := [0, 0, 0], domain := [0], instanceId := 0, base := 0, size := 65536,
    nreg := 128, wpg := 1, scrb := 16384, barb := 1024, prio := 0, roles := 0, accMask := 0, bars := [], windows := [] }

/-- Its warp: every thread runs and takes part in a clause at 0x1000. -/
def hostWarp : Warp :=
  { Warp.reset with
    status := (List.range 32).map fun l => (l, .running)
    pcs := (List.range 32).map fun l => (l, 0x1000)
    issuePc := 0x1000
    phase := .issuing }

/-- The running clause of one instruction word, on every port. -/
def hostClause (w : Nat) : Clause :=
  { warp := 0, h := 0x1000,
    header := { sbmask := 0, w1cls := 0, w1thr := 63, w0cls := 0, w0thr := 63, priv := false, yhint := false,
                park := false, ports := 15, count := 0 }
    words := [w], index := 0, lanes := allLanes, targets := [], signed := [], stalled := false, ending := none, v := [],
    k := [] }

/-- A released module with nothing on the agenda, whose turn is an agent's. -/
def State.ready4 (s : State) (a : Agent) : State :=
  { s with
    sched := { agenda := [], agent := a }
    mod := { s.mod with power := true, heldFailed := false, startAt := none, scrub := false } }

/-- An engine program at virtual address 0x10000 of context slot 0. -/
def hostProg : Prog :=
  { dispatch := 0, slot := 0, owner := none, scope := .thr, start := 0x10000, arg := 0, status := 0, regs := [],
    pc := 0x10000, ncmd := 0, caddr := 0, issued := 0, phase := .running, writes := [], block := none, script := [], order := 0,
    accepted := 0, reds := [], holdsChunk := false }

/-- The state whose next step runs the instruction in the low bits of `w`: an instruction word stands in a running clause of
quarter 0, a command at the command address of a root program, with tables that map its page. -/
def State.withFetchWord (s : State) (nbits w : Nat) : State :=
  if nbits ≤ 64 then
    let s := s.ready4 (.quarter 0)
    { s with
      comp :=
        { s.comp with
          groups := tput s.comp.groups 0 hostGroup
          warps := tput s.comp.warps 0 hostWarp
          clauses := tput s.comp.clauses 0 (hostClause (w % 2 ^ 64)) } }
  else
    let s := s.ready4 (.engine (.root 0 0 0))
    let s := s.onRoot 0 fun r => { r with ctxs := tput r.ctxs 0 hostProg, turn := 0 }
    let s := s.onSlot 0 fun x => { x with ctxid := 0x80000000, ptroot := 0x1000 }
    let bytes := ((toBytes 8 0x2001).zipIdx.map fun (b, i) => (0x1000 + i, b)) ++
      ((toBytes 8 0x3001).zipIdx.map fun (b, i) => (0x2000 + i, b)) ++
      ((toBytes 8 0x000F).zipIdx.map fun (b, i) => (0x3000 + i, b)) ++
      ((toBytes 16 (w % 2 ^ 128)).zipIdx.map fun (b, i) => (0x10000 + i, b))
    bytes.foldl (fun s e => s.putHbm e.1 e.2) s

end Sys2Proof.Machine
end

