-- ==== Sys2Proof/Safety.lean ====
section
/-! DEFINITION. What counts as a safe state and a safe run, in the terms the statements use. -/

namespace Sys2Proof.Machine

/-! ### What every step keeps -/

/-- Memory in its one canonical form: addresses rise strictly and no entry equals what an unlisted address reads as, for
device memory, host memory and its error marks, poison marks, sector versions, line keys and slice keys. -/
def Memory.wf (m : Mem) : Bool :=
  tcanon 0 m.hbm && tcanon 0 m.host && tcanon false m.poison && tcanon 0 m.versions && tcanon 0 m.lineKeys &&
    tcanon false m.hostBad && tcanon 0 m.keyed

/-- A core's store in the same form: its bytes, its empty granules and its poison marks (R15, R322). -/
def Core.wf (c : Core) : Bool := tcanon 0 c.store && tcanon false c.empty && tcanon false c.poison

/-- Both copies of the configuration record verify: the controller installs no other (R357). -/
def Flash.verified (f : Flash) : Bool := configOk f.config && configOk f.config2

/-- What every step keeps. -/
def State.Inv (s : State) : Prop :=
  Memory.wf s.mem = true ∧ (∀ e ∈ s.comp.cores, Core.wf e.2 = true) ∧ s.mod.flash.verified = true

/-- A module that can go on by itself: it has power and is not held failed (R355, R358). -/
def State.on (s : State) : Bool := s.mod.power && !s.mod.heldFailed

/-- A step goes on to another state. -/
def Goes (r : Result) : Prop := ∃ t, r = .next t

/-! ### An instruction that issues -/

/-- Quarter q has the turn and runs clause c of warp W of the resident group g; its next instruction is at c.index. -/
def Runs (s : State) (q : Nat) (c : Clause) (W : Warp) (g : Group) : Prop :=
  s.sched.agent = .quarter q ∧ tfind s.comp.clauses q = some c ∧ c.ending = none ∧ s.warp? c.warp = some W ∧
    s.group? (groupOf c.warp) = some g

/-- An instruction with the needs p passes the checks of R61 there and has an active lane. -/
def Issues (p : Spec) (s : State) (q : Nat) (c : Clause) (W : Warp) (g : Group) : Prop :=
  Runs s q c W g ∧ issueFault p c g = none ∧ activeLanes c W p.guard ≠ 0

/-- What the instruction sees as it issues: its warp and the lanes in which it acts. -/
def sees (q : Nat) (c : Clause) (W : Warp) (g : Group) (guard : Guard) : Ctx :=
  { q := q, w := c.warp, W := W, g := g, c := c, act := activeLanes c W guard }

/-- The issuing warp becomes W' and its clause moves on; nothing else changes. -/
def State.wrote (s : State) (q : Nat) (c : Clause) (W' : Warp) : State :=
  (s.onWarp c.warp fun _ => W').advance q

/-- The needs of an ALU instruction: guard and operands. -/
def needs (guard : Guard) (uses : List Use) : Spec := { guard := guard, uses := uses }

/-- An instruction with these needs completes whenever it issues, and its warp becomes what f says. -/
def Yields (i : Instr) (guard : Guard) (uses : List Use) (f : Ctx → Warp) : Prop :=
  ∀ s q c W g, Issues (needs guard uses) s q c W g →
    exec i s = .next (s.wrote q c (f (sees q c W g guard)))

/-- Each active lane of d receives f of that lane's a; wd and wa say which of them are pairs. -/
def Gives1 (i : Instr) (x : R1) (wd wa : Bool) (f : Nat → Nat) : Prop :=
  Yields i x.g [wr x.d wd, rd x.a wa] fun z => z.W.dstN wd x.d z.act fun l => f (z.W.srcN z.w wa x.a l)

/-- Each active lane of d receives f of that lane's a and b. -/
def Gives2 (i : Instr) (x : R2) (wd wa wb : Bool) (f : Nat → Nat → Nat) : Prop :=
  Yields i x.g [wr x.d wd, rd x.a wa, rd x.b wb] fun z =>
    z.W.dstN wd x.d z.act fun l => f (z.W.srcN z.w wa x.a l) (z.W.srcN z.w wb x.b l)

/-- Each active lane of d receives f of that lane's a, b and c. -/
def Gives3 (i : Instr) (x : R3) (wd wa wb wc : Bool) (f : Nat → Nat → Nat → Nat) : Prop :=
  Yields i x.g [wr x.d wd, rd x.a wa, rd x.b wb, rd x.c wc] fun z =>
    z.W.dstN wd x.d z.act fun l => f (z.W.srcN z.w wa x.a l) (z.W.srcN z.w wb x.b l) (z.W.srcN z.w wc x.c l)

/-- The flags that active lanes raise enter FPST with the results (R110). -/
def Ctx.raise (z : Ctx) (W : Warp) (fl : Nat → Flags) : Warp := W.flag (Flags.all ((lanesOf z.act).map fl))

/-- Each active lane of d receives the value part of f of that lane's a, and FPST the conditions. -/
def Floats1 (i : Instr) (x : R1) (wd wa : Bool) (f : Nat → Nat × Flags) : Prop :=
  Yields i x.g [wr x.d wd, rd x.a wa] fun z =>
    z.raise (z.W.dstN wd x.d z.act fun l => (f (z.W.srcN z.w wa x.a l)).1) fun l => (f (z.W.srcN z.w wa x.a l)).2

/-- The same of two operands of one width. -/
def Floats2 (i : Instr) (x : R2) (wide : Bool) (f : Nat → Nat → Nat × Flags) : Prop :=
  Yields i x.g [wr x.d wide, rd x.a wide, rd x.b wide] fun z =>
    let r (l : Nat) := f (z.W.srcN z.w wide x.a l) (z.W.srcN z.w wide x.b l)
    z.raise (z.W.dstN wide x.d z.act fun l => (r l).1) fun l => (r l).2

/-- The same of three operands of one width. -/
def Floats3 (i : Instr) (x : R3) (wide : Bool) (f : Nat → Nat → Nat → Nat × Flags) : Prop :=
  Yields i x.g [wr x.d wide, rd x.a wide, rd x.b wide, rd x.c wide] fun z =>
    let r (l : Nat) := f (z.W.srcN z.w wide x.a l) (z.W.srcN z.w wide x.b l) (z.W.srcN z.w wide x.c l)
    z.raise (z.W.dstN wide x.d z.act fun l => (r l).1) fun l => (r l).2

/-! ### What each instruction needs to issue -/

/-- The operands of one, two and three sources, of the widths given. -/
def uses1 (x : R1) (wd wa : Bool) : List Use := [wr x.d wd, rd x.a wa]
/-- The operands of two sources. -/
def uses2 (x : R2) (wd wa wb : Bool) : List Use := [wr x.d wd, rd x.a wa, rd x.b wb]
/-- The operands of three sources. -/
def uses3 (x : R3) (wd wa wb wc : Bool) : List Use := [wr x.d wd, rd x.a wa, rd x.b wb, rd x.c wc]

/-- An instruction that ends its clause (R62). -/
def lastNeeds (guard : Guard) (uses : List Use) : Spec := { guard := guard, ends := true, uses := uses }
/-- An instruction of the memory port (R59, R62). -/
def memNeeds (guard : Guard) (uses : List Use) (arrival : Bool := false) : Spec :=
  { port := 1, guard := guard, arrival := arrival, uses := uses }
/-- An instruction of the matrix port. -/
def matNeeds (guard : Guard) (uses : List Use) : Spec := { port := 2, guard := guard, uses := uses }
/-- An instruction of the engine port. -/
def engNeeds (guard : Guard) (uses : List Use) : Spec := { port := 3, guard := guard, uses := uses }

/-- The needs of a returning atomic (R128). -/
def atomicNeeds (m : MForm) (arrives : Bool) (b : Option Opnd) : Spec :=
  memNeeds m.g ([wr m.d (m.ty.bytes = 8), rd m.a true] ++ badD true m.d ++
    (b.map fun o => rd o (m.ty.bytes = 8)).toList) (arrives && arrivesForm m)
/-- The needs of a reduction (R128). -/
def reduceNeeds (m : MForm) (arrives : Bool) : Spec :=
  memNeeds m.g ([rd m.d (m.ty.bytes = 8), rd m.a true] ++ badD false m.d) (arrives && arrivesForm m)

/-- The port, place in the clause, privilege, guard and operands of every instruction that a warp issues (R19, R20, R24,
R57, R59, R62, R71); none for engine commands, events and unassigned opcodes. -/
def needsOf : Instr → Option Spec
  | .nop g | .sign g _ => needs g []
  | .bra g _ | .exit g | .bar g _ _ | .cbar g _ _ | .yield g | .trap g _ => lastNeeds g []
  | .brx g a _ | .ret g a => lastNeeds g [rd a true]
  | .call g d _ => lastNeeds g [wr d true]
  | .callx g d a _ => lastNeeds g [wr d true, rd a true]
  | .meet g (.direct _) d => needs g [wr d true]
  | .meet g (.reg a) d => needs g [wr d true, rd a true]
  | .wait g d a _ => lastNeeds g [wr d, rd a]
  | .cvset g _ a => needs g [rd a]
  | .iadd x _ | .isub x _ | .iadd64 x _ | .isub64 x _ | .imul x | .imul64 x | .imin x | .imax x =>
    needs x.g (uses2 x x.ty.wide x.ty.wide x.ty.wide)
  | .imulhi x | .bfe x | .iaddp x _ | .isubp x _ | .iminp x | .imaxp x => needs x.g (uses2 x false false false)
  | .imad x | .bfi x | .wext x _ | .idp4 x _ => needs x.g (uses3 x false false false false)
  | .imadw x => needs x.g (uses3 x true false false true)
  | .imad64 x => needs x.g (uses3 x true true true true)
  | .mix3 x _ => needs x.g (uses3 x x.ty.wide x.ty.wide x.ty.wide x.ty.wide)
  | .xlane x _ => needs x.g (uses3 x x.ty.wide x.ty.wide false false)
  | .shl x | .shr x | .sar x => needs x.g (uses2 x x.ty.wide x.ty.wide false)
  | .sel x _ => needs x.g (uses2 x x.ty.wide x.ty.wide x.ty.wide)
  | .iabs x _ | .brev x | .mov x | .wred x _ | .iaddi x _ | .imuli x _ | .faddi x _ | .fmuli x _ | .fabs x _ _ =>
    needs x.g (uses1 x x.ty.wide x.ty.wide)
  | .popc x | .clz x => needs x.g (uses1 x false x.ty.wide)
  | .iabsp x _ | .fclass x _ _ | .frcp x _ | .frsq x _ | .fsqrt x _ | .fex2 x _ | .flg2 x _ | .fsin x _ | .fcos x _ |
    .ftanh x _ | .mxsc x _ _ => needs x.g (uses1 x false false)
  | .dclass x _ => needs x.g (uses1 x false true)
  | .dsqrt x _ | .drcp x _ => needs x.g (uses1 x true true)
  | .icmp g ty _ _ a b => needs g [rd a ty.wide, rd b ty.wide]
  | .icmpi g ty _ _ a _ => needs g [rd a ty.wide]
  | .movi g ty d _ => needs g [wr d ty.wide]
  | .mixi g _ d a _ => needs g [wr d, rd a]
  | .lpoll g (.every _) _ | .lpoll g (.some _) _ | .lpoll g (.same _) _ => needs g []
  | .lpoll g (.mask d) _ | .lpoll g (.count d) _ | .lpoll g (.first d) _ | .pget g d => needs g [wr d]
  | .pmix3 g _ _ _ _ _ => needs g []
  | .pset g _ a => needs g [rd a]
  | .fadd x _ | .fmul x _ | .fmin x _ _ | .fmax x _ _ | .hadd2 x _ | .hmul2 x _ | .hmin2 x _ _ | .hmax2 x _ _ |
    .hcmp2 x _ _ | .pkf4 x _ _ => needs x.g (uses2 x false false false)
  | .ffma x _ | .hfma2 x _ => needs x.g (uses3 x false false false false)
  | .dadd x _ | .dmul x _ | .dmin x _ _ | .dmax x _ _ => needs x.g (uses2 x true true true)
  | .dfma x _ => needs x.g (uses3 x true true true true)
  | .fcmp g _ _ a b _ => needs g [rd a, rd b]
  | .dcmp g _ _ a b _ => needs g [rd a true, rd b true]
  | .cvff x m | .cvfi x m | .cvif x m | .cvii x m =>
    needs x.g (uses1 x x.ty.wide m.sty.wide ++ if decide (x.ty.bits < 32) then [rd x.d] else [])
  | .pkf8 x _ _ =>
    needs x.g [wr x.d, if quadFault 192 x.a = some 2 then rd (.bad 0) else rd (quadOpnd x.a 3), rd x.b]
  | .ld m _ | .ldb m _ | .ldw m _ => memNeeds m.g [wr m.d (m.ty.bytes = 8), rd m.a true]
  | .st m | .stb m => memNeeds m.g [rd m.d (m.ty.bytes = 8), rd m.a true]
  | .setempty m | .lock m | .unlock m => memNeeds m.g [rd m.a true]
  | .atadd m _ => atomicNeeds m true none
  | .atmin m _ | .atmax m _ | .atand m _ | .ator m _ | .atxor m _ | .atexch m _ => atomicNeeds m false none
  | .atcas m _ b => atomicNeeds m false (some b)
  | .redadd m => reduceNeeds m true
  | .redmin m | .redmax m | .redand m | .redor m | .redxor m => reduceNeeds m false
  | .fxadd m => memNeeds m.g [rd m.d, rd m.a true]
  | .fxrd m _ => memNeeds m.g [wr m.d m.ty.wide, rd m.a true]
  | .nins m b => memNeeds m.g [rd m.d, rd m.a true, rd b]
  | .fence m => memNeeds m.g []
  | .mma p | .mmas p | .mmx p _ => matNeeds p.g [rd p.a, rd p.b]
  | .mmag p c => matNeeds p.g ([rd p.a, rd p.b] ++ vectorUse c)
  | .sfpush g _ a _ _ => matNeeds g (vectorUse a)
  | .sfpushFlush g | .afree g _ | .rela g _ => matNeeds g []
  | .aalloc g d _ => matNeeds g [wr d]
  | .acqa g a _ => matNeeds g [rd a true]
  | .amv g (.a2v d) spec _ _ => matNeeds g (vectorUse d true ++ [rd spec])
  | .amv g (.v2a a) spec _ _ => matNeeds g (vectorUse a ++ [rd spec])
  | .amv g (.a2c a) spec _ _ | .amv g (.c2a a) spec _ _ => matNeeds g ([rd a] ++ [rd spec])
  | .tcon8 g u m o _ _ _ _ => matNeeds g [rd u, rd m, rd o]
  | .rsub g _ d a b c => engNeeds g [rd d true, rd a true, rd b, rd c true]
  | .abortRoot g _ a => engNeeds g [rd a]
  | .cpost g _ a b | .cdecl g _ a b => engNeeds g [rd a true, rd b]
  | .ctok g _ a b | .abort g _ a b | .bwakeNow g _ a b | .bwakeNext g _ a b => engNeeds g [rd a, rd b]
  | .mcst m _ b => engNeeds m.g [rd m.d (m.ty.bytes = 8), rd m.a true, rd b]
  | .rfence g _ a => engNeeds g (if a = .zero then [] else [rd a true])
  | .sweep g _ d a b c => engNeeds g [rd d true, rd a, rd b, rd c]
  | .byield g _ _ a b c => some { engNeeds g [rd a, rd b, rd c true] with ends := true }
  | .bstate g d a b => engNeeds g [wr d, rd a, rd b]
  | .sget g ty d n => some { needs g [wr d ty.wide] with priv := sysReadPriv n.toNat }
  | .sset g ty a n => some { needs g [rd a ty.wide] with priv := sysWritePriv n.toNat, denied := n.toNat = 1 }
  | .tret g => some { lastNeeds g [] with priv := true }
  | .clkrd g ty d _ => needs g [wr d ty.wide]
  | .preempt g d => lastNeeds g [wr d]
  | _ => none

/-- The memory form of an access, what its checks need to know, and the counter that it raises (R25, R128, R131). -/
def accessOf : Instr → Option (MForm × Shape × Option Nat)
  | .ld m _ => some (m, { size := m.ty.bytes, align := m.ty.bytes }, some 0)
  | .st m => some (m, { size := m.ty.bytes, align := m.ty.bytes }, some 1)
  | .ldb m _ => some (m, { size := 32 * m.ty.bytes, align := 16, block := true, whole := true }, some 0)
  | .stb m => some (m, { size := 32 * m.ty.bytes, align := 16, block := true }, some 1)
  | .ldw m _ => some (m, { size := m.ty.bytes, align := m.ty.bytes, global := false, cluster := false }, some 0)
  | .setempty m => some (m, { size := 16, align := 16, global := false, cluster := false }, none)
  | .lock m | .unlock m => some (m, lockShape, some 5)
  | .atadd m _ | .atmin m _ | .atmax m _ | .atand m _ | .ator m _ | .atxor m _ | .atexch m _ | .atcas m _ _ =>
    some (m, atomicShape m.ty.bytes, some 0)
  | .redadd m | .redmin m | .redmax m | .redand m | .redor m | .redxor m => some (m, atomicShape m.ty.bytes, some 1)
  | .fxadd m => some (m, { size := 32, align := 32, register := false }, some 1)
  | .fxrd m _ => some (m, { size := 32, align := 32, register := false }, some 0)
  | .nins m _ => some (m, { size := 1, align := 1, register := false }, some 1)
  | _ => none

/-- The scoreboard slot that a returning atomic asks for: one that it names, or the lowest that is free (R26). -/
def slotOf : Instr → Option (Option (Fin 8))
  | .atadd _ n | .atmin _ n | .atmax _ n | .atand _ n | .ator _ n | .atxor _ n | .atexch _ n | .atcas _ n _ => some n
  | _ => none

/-! ### An engine command that starts -/

/-- Context e has its engine's turn, and its running program p starts its next command: a releasing command waits for every
earlier write, a data command for its channel's chunk slot (R192), and one that reads for the routes to what it reads (R331,
R332). -/
def Starts (s : State) (e : EngRef) (p : Prog) (releases : Bool := false) (data : Bool := false) (reads : List (Nat × Nat) := []) :
    Prop :=
  s.sched.agent = .engine e ∧ s.prog? e = some p ∧ p.phase = .running ∧ s.myTurn e = true ∧
    (releases = true → s.progReleased e = true) ∧ (data = true → s.chunkTaken e p = false) ∧
    ∀ r ∈ reads, s.rangeWaits (engDie e) p.slot r.1 r.2 = false

/-- The state in which a started command acts: the turn has passed on, the command is counted, the command address has moved
on, and a data command of a canopy context holds the chunk slot (R191 to R193). -/
def State.started (s : State) (e : EngRef) (data : Bool := false) : State :=
  (s.passTurn e).onProg e fun p => { p.startCmd true with holdsChunk := p.holdsChunk || (data && isCanopy e) }

end Sys2Proof.Machine
end

