-- ==== Sys2Proof/Certificates/Slice0/Obligations.lean ====
section
/-! DEFINITION. The statements for the provers, from the numbered rules of spec/. -/

open Sys2Proof Sys2Proof.Machine

/-! ### Encoding, decoding and the step -/

/-- R66 to R71, R85, R99, R190, R191: words that the spec writes out, or that are written out here from its tables of fields,
decode to the instructions they stand for. -/
def Obligations.WrittenWordsDecode : Prop :=
  -- the clause encoded under R71: ld, iaddi and iadd
  decodeInstr 0x0100E701F8040AA0 =
      .ok (.ld ⟨⟨false, 7⟩, .n32, 16, .v 4, .v 10, .plain, .thr, .global⟩ false) ∧
  decodeInstr 0x000000017A0A0B47 = .ok (.iaddi ⟨⟨false, 7⟩, .s32, .v 11, .v 10⟩ 1) ∧
  decodeInstr 0x0000AAF8C30B0C20 = .ok (.iadd ⟨⟨true, 2⟩, .s32, .v 12, .v 11, .k 3⟩ false) ∧
  -- its header: both waits class 0 with threshold 63, ALU and memory ports, COUNT 2
  decodeHeader 0xCA00000007E3F032 =
      some { sbmask := 0, w1cls := 0, w1thr := 63, w0cls := 0, w0thr := 63, priv := false, yhint := false, park := false,
             ports := 3, count := 2 } ∧
  -- icmpi.lt.n32 p1, laneid, 4: IMM | PRED 7, TYPE n32 | A 249 | D lt:p1 | OP 0x49
  decodeInstr (4 * 2 ^ 32 + 7 * 2 ^ 28 + 14 * 2 ^ 24 + 249 * 2 ^ 16 + 0x11 * 2 ^ 8 + 0x49) =
      .ok (.icmpi ⟨false, 7⟩ .n32 1 .lt .laneid 4) ∧
  -- mix3.fn=0xCA.n32 v5, v1, v2, v3: MOD | TYPE | PRED 7 | C | B | A | D | OP 0x2D
  decodeInstr (0xCA * 2 ^ 48 + 14 * 2 ^ 44 + 7 * 2 ^ 40 + 3 * 2 ^ 32 + 2 * 2 ^ 24 + 1 * 2 ^ 16 + 5 * 2 ^ 8 + 0x2D) =
      .ok (.mix3 ⟨⟨false, 7⟩, .n32, .v 5, .v 1, .v 2, .v 3⟩ 0xCA) ∧
  -- bra under !p0, one word back: DISP −1 | NEG | A, D 248 | OP 0x01
  decodeInstr (0xFFFFFFFF * 2 ^ 32 + 2 ^ 31 + 248 * 2 ^ 16 + 248 * 2 ^ 8 + 0x01) = .ok (.bra ⟨true, 0⟩ 0xFFFFFFFF) ∧
  -- SETI 3, 0x123456789ABCDEF0: FA in bits 15:12 of the header, OPC 0x01
  decodeCommand (3 * 2 ^ 12 + 0x01) 0x123456789ABCDEF0 = .ok (.cmdSeti 3 0x123456789ABCDEF0) ∧
  -- 0x1F is unassigned; a nop whose unused D field does not hold 248 is no instruction
  decodeInstr 0x1F = .ok (.unassignedOpcode 0x1F) ∧
  decodeInstr (7 * 2 ^ 40 + 248 * 2 ^ 32 + 248 * 2 ^ 24 + 248 * 2 ^ 16 + 0 * 2 ^ 8 + 0x00) = .error .undefinedBits

/-- R66 to R69, R190, R191: decoding gives back every well-formed instruction that has an encoding, with every operand and
modifier at every value. -/
def Obligations.DecodeInvertsEncode : Prop :=
  ∀ i : Instr, i.wf = true → encode i ≠ [] → decode (encode i) = .ok i

/-- R67: an assigned opcode decodes only from the very word that its fields encode to, so two words never stand for one
instruction, and what it decodes to is well formed. -/
def Obligations.DecodedWordIsItsEncoding : Prop :=
  (∀ w i, decodeInstr w = .ok i → opAssigned (fld w 0 8) = true → i.wf = true ∧ encode i = [w]) ∧
  (∀ h x i, decodeCommand h x = .ok i → fld h 0 8 < 0x19 → i.wf = true ∧ encode i = [h, x])

/-- R60, R71, R190 to R192: one step runs the instruction that stands there. With the turn at a quarter whose running clause has a
word next, a word that decodes is run by exec one clk later, and one that does not raises the illegal-encoding fault; with the
turn at an engine program that runs and whose engine's turn is its own, the 16 bytes at its command address are fetched with a
fresh read, decoded and run; an event at the head of the model's agenda (log entry 1) runs after its delay. -/
def Obligations.StepRunsWhatIsThere : Prop :=
  (∀ (s : State) q c W g, Runs s q c W g → s.sched.agenda = [] → s.on = true → s.mod.startAt = none →
     (∀ i, decodeInstr (nth 0 c.words c.index) = .ok i → step s = exec i (s.pass 1)) ∧
     (∀ e, decodeInstr (nth 0 c.words c.index) = .error e →
       step s = .next ((s.pass 1).precise q c { cause := 1, lanes := c.lanes }))) ∧
  (∀ (s : State) e p b i, s.sched.agent = .engine e → s.sched.agenda = [] → s.on = true → s.mod.startAt = none →
     (s.pass 1).prog? e = some p → p.phase = .running → p.internal = false → (s.pass 1).myTurn e = true →
     (s.pass 1).engRead (engDie e) p.slot p.pc 16 = .ok b →
     decodeCommand (ofBytes (b.take 8)) (ofBytes (b.drop 8)) = .ok i →
     step s = exec i (s.pass 1)) ∧
  (∀ (s : State) dt i t, s.sched.agenda = (dt, .event i) :: t → encode i = [] →
     step s = exec i ({ s with sched := { s.sched with agenda := t } }.pass dt))

/-- No step refuses, every instruction and event has a meaning that goes on, and the module stops only when its power is cut
(R358) or it is held failed (R355) with nothing else to happen. -/
def Obligations.OnlyPowerLossOrFailureStops : Prop :=
  (∀ i s, Goes (exec i s)) ∧ (∀ s r, step s ≠ .refused r) ∧
  ∀ s f, step s = .fault f ↔
    s.sched.agenda = [] ∧ ((f = .powerOff ∧ s.mod.power = false) ∨
      (f = .heldFailed ∧ s.mod.power = true ∧ s.mod.heldFailed = true))

/-- R7, R16, R292, R295, R304, R314, R335, R336, R347, R353, R354: what the module holds right after reset: the invariant; the start
sequence at step 0, and TRUSTSTAT with SCRUB alone set above its mode bits; every host register zero; no group, warp, program or
dispatch; CSCFG with 64 KiB in both fields; every die's counters zero, its clock 1,800 MHz, LTHR 64 and its ring record zero. (Which
units and modes flash enables, and what memory holds, are the model's choices, log entries 4 to 6, and not stated.) -/
def Obligations.ResetLeavesItsValues : Prop :=
  State.reset.Inv ∧
  (State.reset.mod.startAt = some 0 ∧ State.reset.mod.scrub = true ∧ State.reset.mod.act = false ∧
    State.reset.truststat / 16 = 0x10) ∧
  (∀ n, State.reset.mailbox n = { base := 0, ctl := 0, head := 0, tail := 0, ctx := 0, serial := none } ∧
    State.reset.slot n = { ctxid := 0, ptroot := 0, tvec := 0, tlbiva := 0, tlbictl := 0, ctxctl := 0, ctxsave := 0,
                           resuming := false } ∧
    tget Aperture.reset State.reset.ctl.apertures n = { ctl := 0, base := 0 }) ∧
  (∀ n, State.reset.group? n = none ∧ State.reset.warp? n = none ∧ State.reset.dispatch? n = none ∧
    tfind State.reset.comp.clauses n = none) ∧
  (∀ e, State.reset.prog? e = none) ∧
  (∀ core, (State.reset.core core).l1sz = 1 ∧ (State.reset.core core).pl1sz = 1) ∧
  (∀ n, n < 32 → let d := State.reset.die n
    d.counts = { routeGen := 0, retired := 0, corrected := 0, late := 0, dropped := 0, replays := 0, retCores := 0 } ∧
      d.clock.fmhz = 1800 ∧ d.lthr = 64 ∧ ∀ i, tget 0 d.ring i = 0) ∧
  State.reset.mod.flash.start = { nstart := 0, lastFail := 0xFF, alt := 0, stat := [], units := [] } ∧
  State.reset.rt = 0

/-- Every step keeps memory and every core's store in their canonical form, and both copies of the configuration record
verified (R357: the controller installs no record that fails its check), from every state that meets this. -/
def Obligations.EveryStepKeepsTheInvariant : Prop :=
  ∀ s t : State, s.Inv → step s = .next t → t.Inv

/-! ### Operands, registers and predicates -/

/-- R19, R20: what each operand code reads as at 32 and at 64 bits, which codes are illegal operands and which registers are out of
range. A 64-bit operand is named by the even register of its pair: an odd code there is an illegal operand, and a pair whose odd
register lies at or beyond NREG is out of range. -/
def Obligations.OperandCodesRead : Prop :=
  ∀ (W : Warp) (w l : Nat), w < 64 → l < 32 →
    (∀ (n : Fin 191), n.val % 2 = 0 →
      W.srcN w true (.v ⟨n.val, by omega⟩) l =
        W.srcN w false (.v ⟨n.val, by omega⟩) l + 2 ^ 32 * W.srcN w false (.v ⟨n.val + 1, by omega⟩) l) ∧
    (∀ (n : Fin 55), n.val % 2 = 0 →
      W.srcN w true (.k ⟨n.val, by omega⟩) l =
        W.srcN w false (.k ⟨n.val, by omega⟩) l + 2 ^ 32 * W.srcN w false (.k ⟨n.val + 1, by omega⟩) l) ∧
    (∀ n m, W.srcN w false (.k n) l = W.srcN w false (.k n) m) ∧
    (∀ wide, W.srcN w wide .zero l = 0 ∧ W.srcN w wide .laneid l = l ∧ W.srcN w wide .warpid l = w) ∧
    W.srcN w false .ones l = 2 ^ 32 - 1 ∧ W.srcN w true .ones l = 2 ^ 64 - 1 ∧
    (∀ n u, (u = rd (.v n) true ∨ u = wr (.v n) true) → (u.illegal = true ↔ n.val % 2 = 1) ∧
      ∀ nreg, (u.outOfRange nreg = true ↔ nreg ≤ n.val + 1)) ∧
    (∀ n u, (u = rd (.k n) true ∨ u = wr (.k n) true) → (u.illegal = true ↔ n.val % 2 = 1)) ∧
    (∀ n u, (u = rd (.v n) ∨ u = wr (.v n)) → u.illegal = false ∧ ∀ nreg, (u.outOfRange nreg = true ↔ nreg ≤ n.val)) ∧
    (∀ n wide, (rd (.bad n) wide).illegal = true ∧ (wr (.bad n) wide).illegal = true) ∧
    (∀ o wide, o = .laneid ∨ o = .warpid ∨ o = .ones → (wr o wide).illegal = true ∧ (rd o wide).illegal = false)

/-- R17, R19, R20, R22, R61, R71: what a result leaves in the registers and predicates. A vector destination changes in active lanes
alone, a uniform one takes the value of the lowest-numbered active lane, a pair holds bits 31:0 in its even and bits 63:32 in its
odd register, and a result sent to zero is discarded. A predicate changes in active lanes only; p7 reads as true and a write to it is
discarded; !p7 is never true. An instruction that passes its checks with no active lane has no effect: its clause moves on, or ends
after its last instruction, and nothing else changes; an unassigned opcode raises the illegal-encoding fault whatever its guard. -/
def Obligations.ResultsReachTheirRegisters : Prop :=
  (∀ (W : Warp) w (n m : Fin 192) act (f : Nat → Word) l, l < 32 →
    (W.dst (.v n) act f).src w (.v m) l = if n = m ∧ inSet act l then f l else W.src w (.v m) l) ∧
  (∀ (W : Warp) w (n m : Fin 56) act (f : Nat → Word) l,
    (W.dst (.k n) act f).src w (.k m) l =
      match lowest act with
      | some i => if n = m then f i else W.src w (.k m) l
      | none => W.src w (.k m) l) ∧
  (∀ (W : Warp) w (n : Fin 191) act (f : Nat → Double) l, l < 32 → inSet act l →
    (W.dst64 (.v ⟨n.val, by omega⟩) act f).src64 w (.v ⟨n.val, by omega⟩) l = f l) ∧
  (∀ (W : Warp) w (n : Fin 55) act (f : Nat → Double) l i, lowest act = some i →
    (W.dst64 (.k ⟨n.val, by omega⟩) act f).src64 w (.k ⟨n.val, by omega⟩) l = f i) ∧
  (∀ (W : Warp) wide act (f : Nat → Nat), W.dstN wide .zero act f = W) ∧
  (∀ (W : Warp) w (n : Fin 192) (m : Fin 56) act (f : Nat → Word) l,
    (W.dst (.v n) act f).src w (.k m) l = W.src w (.k m) l ∧ (W.dst (.k m) act f).src w (.v n) l = W.src w (.v n) l) ∧
  (∀ (W : Warp) (p r : Fin 8) act value l, l < 32 →
    inSet ((W.putPred p act value).pred r) l =
      if p = r ∧ p ≠ 7 ∧ inSet act l = true then inSet value l else inSet (W.pred r) l) ∧
  (∀ (W : Warp) act value, W.putPred 7 act value = W) ∧
  (∀ W : Warp, W.guardSet ⟨false, 7⟩ = allLanes ∧ W.guardSet ⟨true, 7⟩ = 0) ∧
  (∀ i p, needsOf i = some p → ∀ s q c W g, Runs s q c W g → issueFault p c g = none → activeLanes c W p.guard = 0 →
    exec i s = .next (s.onClause q fun c =>
      if c.index = c.header.count.val then { c with ending := some .done, stalled := false }
      else { c with index := c.index + 1, stalled := false })) ∧
  (∀ op s q c W g, Runs s q c W g →
    exec (.unassignedOpcode op) s = .next (s.precise q c { cause := 1, lanes := c.lanes }))

/-! ### Faults at issue -/

/-- R17, R19, R20, R57 to R59, R61, R62: which fault of R312 an instruction raises at issue, in the order of the checks: port not in
the header, memory port of a matrix warp, clause end not last, privilege, illegal operand, register range; and none when every
check passes. The port of every instruction is that of its opcode's range, and exactly the fourteen instructions of R62 end
their clause. -/
def Obligations.ChecksAtIssueInOrder : Prop :=
  (∀ (p : Spec) (c : Clause) (g : Group),
     let port := c.header.ports.toNat.testBit p.port
     let role := p.port = 1 ∧ g.role (c.warp % 64) = 2 ∧ p.arrival = false
     let place := p.ends = true ∧ c.index ≠ c.header.count.val
     let privilege := p.denied = true ∨ (p.priv = true ∧ c.header.priv = false)
     let illegal := ∃ u ∈ p.uses, u.illegal = true
     let range := ∃ u ∈ p.uses, u.outOfRange g.nreg = true
     (port = false → issueFault p c g = some 1) ∧
     (port = true → role → issueFault p c g = some 6) ∧
     (port = true → ¬role → place → issueFault p c g = some 1) ∧
     (port = true → ¬role → ¬place → privilege → issueFault p c g = some 5) ∧
     (port = true → ¬role → ¬place → ¬privilege → illegal → issueFault p c g = some 2) ∧
     (port = true → ¬role → ¬place → ¬privilege → ¬illegal → range → issueFault p c g = some 3) ∧
     (port = true → ¬role → ¬place → ¬privilege → ¬illegal → ¬range → issueFault p c g = none)) ∧
  (∀ i p w, needsOf i = some p → encode i = [w] →
    let op := fld w 0 8
    p.port = (if op ≤ 0x9F ∨ 0xF8 ≤ op then 0 else if op ≤ 0xCF then 1 else if op ≤ 0xE7 then 2 else 3) ∧
    (p.ends = true ↔ match i with
      | .bra .. | .brx .. | .call .. | .callx .. | .ret .. | .exit .. | .wait .. | .bar .. | .cbar .. | .yield .. | .trap .. |
        .tret .. | .byield .. | .preempt .. => True
      | _ => False))

/-- R21, R60, R61: for every instruction that a warp issues, a check that fails ends the clause there by a precise fault whose
record names the clause address, the instruction's index, the cause and the threads of the clause; no register, predicate or
flag of the warp changes, and neither does memory, a core, another group or the controller. -/
def Obligations.FailedCheckIsAPreciseFault : Prop :=
  ∀ i p, needsOf i = some p → ∀ s q c W g cause, Runs s q c W g → issueFault p c g = some cause →
    ∃ t W', exec i s = .next t ∧ t.warp? c.warp = some W' ∧
      W'.faults = W.faults ++ [{ order := W.seq, clause := c.h, index := c.index, cause := cause, sub := 0, addr := 0,
                                 lanes := c.lanes, code := 0, deferred := false }] ∧
      W'.resume = some (c.h, c.index) ∧ W'.v = W.v ∧ W'.k = W.k ∧ W'.preds = W.preds ∧ W'.fpst = W.fpst ∧
      tfind t.comp.clauses q = some { c with ending := some .fault, stalled := false } ∧
      t.mem = s.mem ∧ t.comp.cores = s.comp.cores ∧ t.comp.groups = s.comp.groups ∧ t.eng = s.eng ∧ t.ctl = s.ctl ∧
      t.dies = s.dies ∧ t.mod = s.mod

/-! ### Arithmetic, logic and lanes -/

/-- R96, R97: integer arithmetic completes with the exact result wrapped, or clamped with .sat, to the type: without .sat the low bits
of the exact result, with .sat the nearest value of the type's range. Shifts by any amount are those of a word of the type's width,
and wext extracts a word of b:a. -/
def Obligations.IntegerArithmeticAndShifts : Prop :=
  (∀ x sat, Gives2 (.iadd x sat) x x.ty.wide x.ty.wide x.ty.wide fun a b => x.ty.deliver sat (x.ty.int a + x.ty.int b)) ∧
  (∀ x sat, Gives2 (.isub x sat) x x.ty.wide x.ty.wide x.ty.wide fun a b => x.ty.deliver sat (x.ty.int a - x.ty.int b)) ∧
  (∀ x sat, Gives2 (.iadd64 x sat) x x.ty.wide x.ty.wide x.ty.wide fun a b => x.ty.deliver sat (x.ty.int a + x.ty.int b)) ∧
  (∀ x sat, Gives2 (.isub64 x sat) x x.ty.wide x.ty.wide x.ty.wide fun a b => x.ty.deliver sat (x.ty.int a - x.ty.int b)) ∧
  (∀ x, Gives2 (.imul x) x x.ty.wide x.ty.wide x.ty.wide fun a b => x.ty.deliver false (x.ty.int a * x.ty.int b)) ∧
  (∀ x, Gives2 (.imul64 x) x x.ty.wide x.ty.wide x.ty.wide fun a b => x.ty.deliver false (x.ty.int a * x.ty.int b)) ∧
  (∀ x, Gives2 (.imulhi x) x false false false fun a b => wrap 64 (x.ty.int a * x.ty.int b) / 2 ^ 32) ∧
  (∀ x, Gives3 (.imad x) x false false false false fun a b c => wrap 32 (x.ty.int a * x.ty.int b + x.ty.int c)) ∧
  (∀ x, Gives3 (.imadw x) x true false false true fun a b c => wrap 64 (x.ty.int a * x.ty.int b + c)) ∧
  (∀ x, Gives3 (.imad64 x) x true true true true fun a b c => wrap 64 (x.ty.int a * x.ty.int b + x.ty.int c)) ∧
  (∀ x, Gives2 (.imin x) x x.ty.wide x.ty.wide x.ty.wide fun a b => x.ty.deliver false (min (x.ty.int a) (x.ty.int b))) ∧
  (∀ x, Gives2 (.imax x) x x.ty.wide x.ty.wide x.ty.wide fun a b => x.ty.deliver false (max (x.ty.int a) (x.ty.int b))) ∧
  (∀ x sat, Gives1 (.iabs x sat) x x.ty.wide x.ty.wide fun a => x.ty.deliver sat |x.ty.int a|) ∧
  (∀ x imm, Gives1 (.iaddi x imm) x x.ty.wide x.ty.wide fun a => x.ty.deliver false (x.ty.int a + imm.toInt)) ∧
  (∀ x imm, Gives1 (.imuli x imm) x x.ty.wide x.ty.wide fun a => x.ty.deliver false (x.ty.int a * imm.toInt)) ∧
  (∀ (t : Ty) (i : Int),
     (t.isInt = true → ∀ sat, t.deliver sat i < 2 ^ t.bits) ∧
     (t.isInt = true → (t.int (t.deliver false i) - i) % (2 ^ t.bits : Nat) = 0) ∧
     (t.isInt = true → t.int (t.deliver true i) = max t.minInt (min t.maxInt i)) ∧
     (t.isInt = true → t.minInt ≤ i → i ≤ t.maxInt → ∀ sat, t.int (t.deliver sat i) = i)) ∧
  (∀ x : R2, Gives2 (.shl x) x x.ty.wide x.ty.wide false fun a n => (BitVec.ofNat x.ty.bits a <<< n).toNat) ∧
  (∀ x : R2, x.ty.plain = true →
    Gives2 (.shr x) x x.ty.wide x.ty.wide false fun a n => (BitVec.ofNat x.ty.bits a >>> n).toNat) ∧
  (∀ x : R2, x.ty.plain = true →
    Gives2 (.sar x) x x.ty.wide x.ty.wide false fun a n => ((BitVec.ofNat x.ty.bits a).sshiftRight n).toNat) ∧
  (∀ x : R3, Gives3 (.wext x .lo) x false false false false fun a b c =>
    ((BitVec.ofNat 64 (b * 2 ^ 32 + a) >>> c).setWidth 32).toNat) ∧
  (∀ x : R3, Gives3 (.wext x .hi) x false false false false fun a b c =>
    ((BitVec.ofNat 64 (b * 2 ^ 32 + a) <<< c).extractLsb' 32 32).toNat) ∧
  (∀ x : R3, Gives3 (.wext x .rot) x false false false false fun a b c =>
    (((BitVec.ofNat 64 (b * 2 ^ 32 + a)).rotateRight c).setWidth 32).toNat)

/-- R98 to R101: bit fields, counts and reversal complete, and the results of the bit-field and logic functions are, bit by bit, those
of the rules, for every operand; logic, compare, select, moves and predicate transfers complete. An immediate is sign-extended for
64-bit types. -/
def Obligations.BitFieldsLogicAndMoves : Prop :=
  (∀ x, Gives2 (.bfe x) x false false false (bfeOf x.ty.signed)) ∧
  (∀ x, Gives3 (.bfi x) x false false false false bfiOf) ∧
  (∀ x, Gives1 (.popc x) x false x.ty.wide (popCount x.ty.bits)) ∧
  (∀ x, Gives1 (.clz x) x false x.ty.wide (leadingZeros x.ty.bits)) ∧
  (∀ x, Gives1 (.brev x) x x.ty.wide x.ty.wide (reverseBits x.ty.bits)) ∧
  (∀ signed a b i, a < 2 ^ 32 → i < 32 →
    (bfeOf signed a b).testBit i =
      let pos := b % 256
      let len := min (b / 256 % 256) 32
      let at' (j : Nat) : Bool := if j < 32 then a.testBit j else signed && a.testBit 31
      if len = 0 then false else if i < len then at' (pos + i) else signed && at' (pos + len - 1)) ∧
  (∀ a b c i, i < 32 →
    (bfiOf a b c).testBit i =
      if b % 256 ≤ i ∧ i < b % 256 + min (b / 256 % 256) 32 then a.testBit (i - b % 256) else c.testBit i) ∧
  (∀ n t a b c i, i < n →
    (mixBits n t a b c).testBit i =
      t.testBit ((a.testBit i).toNat + 2 * (b.testBit i).toNat + 4 * (c.testBit i).toNat)) ∧
  (∀ n a i, i < n → (reverseBits n a).testBit i = a.testBit (n - 1 - i)) ∧
  (∀ n a, 0 < a → a < 2 ^ n → leadingZeros n a < n ∧ 2 ^ (n - 1 - leadingZeros n a) ≤ a ∧ a < 2 ^ (n - leadingZeros n a)) ∧
  (∀ n, leadingZeros n 0 = n) ∧
  (∀ x (t : BitVec 8), Gives3 (.mix3 x t) x x.ty.wide x.ty.wide x.ty.wide x.ty.wide (mixBits x.ty.bits t.toNat)) ∧
  (∀ g (t : BitVec 4) d a (imm : Word),
    Gives1 (.mixi g t d a imm) ⟨g, .n32, d, a⟩ false false fun a => mixBits 32 t.toNat a imm.toNat 0) ∧
  (∀ g pd pa pb pc (t : BitVec 8), Yields (.pmix3 g pd pa pb pc t) g [] fun z =>
    z.W.putPred pd z.act (laneSet fun l =>
      t.toNat.testBit (b2n (inSet (z.W.pred pa) l) + 2 * b2n (inSet (z.W.pred pb) l) + 4 * b2n (inSet (z.W.pred pc) l)))) ∧
  (∀ g ty pd cc a b, Yields (.icmp g ty pd cc a b) g [rd a ty.wide, rd b ty.wide] fun z =>
    z.W.putPred pd z.act (laneSet fun l =>
      ICond.holds cc (ty.int (z.W.srcN z.w ty.wide a l)) (ty.int (z.W.srcN z.w ty.wide b l)))) ∧
  (∀ g ty pd cc a imm, Yields (.icmpi g ty pd cc a imm) g [rd a ty.wide] fun z =>
    z.W.putPred pd z.act (laneSet fun l =>
      ICond.holds cc (ty.int (z.W.srcN z.w ty.wide a l)) (ty.int (if ty.wide then wrap 64 imm.toInt else imm.toNat)))) ∧
  (∀ x pc, Yields (.sel x pc) x.g (uses2 x x.ty.wide x.ty.wide x.ty.wide) fun z =>
    z.W.dstN x.ty.wide x.d z.act fun l => z.W.srcN z.w x.ty.wide (if inSet (z.W.pred pc) l then x.a else x.b) l) ∧
  (∀ x, Gives1 (.mov x) x x.ty.wide x.ty.wide id) ∧
  (∀ g ty d imm, Yields (.movi g ty d imm) g [wr d ty.wide] fun z =>
    z.W.dstN ty.wide d z.act fun _ => if ty.wide then wrap 64 imm.toInt else imm.toNat) ∧
  (∀ g d, Yields (.pget g d) g [wr d] fun z => z.W.dst d z.act fun l =>
    BitVec.ofNat 32 ((List.range 7).foldl (fun r i => r + b2n (inSet (z.W.pred (fin3 i)) l) * 2 ^ i) 0x80)) ∧
  (∀ g (mask : BitVec 7) a, Yields (.pset g mask a) g [rd a] fun z =>
    (List.range 7).foldl (fun V i => if mask.toNat.testBit i then
      V.putPred (fin3 i) z.act (laneSet fun l => (z.W.src z.w a l).toNat.testBit i) else V) z.W)

/-- R102 to R106: packed integers, dot products and the exchange of values between lanes complete. xlane reads every source
lane before it writes any; its source is a lane whose bit of the first active lane's c is set, otherwise the lane itself. idp4 is
opcode 0x3D, takes s8 or n8, and its MOD field holds .sat alone. -/
def Obligations.PackedAndLaneExchange : Prop :=
  (∀ x sat, Gives2 (.iaddp x sat) x false false false (packed2 x.ty fun a b => x.ty.deliver sat (x.ty.int a + x.ty.int b))) ∧
  (∀ x sat, Gives2 (.isubp x sat) x false false false (packed2 x.ty fun a b => x.ty.deliver sat (x.ty.int a - x.ty.int b))) ∧
  (∀ x, Gives2 (.iminp x) x false false false
    (packed2 x.ty fun a b => x.ty.deliver false (min (x.ty.int a) (x.ty.int b)))) ∧
  (∀ x, Gives2 (.imaxp x) x false false false
    (packed2 x.ty fun a b => x.ty.deliver false (max (x.ty.int a) (x.ty.int b)))) ∧
  (∀ x sat, Gives1 (.iabsp x sat) x false false fun a => packed2 x.ty (fun e _ => x.ty.deliver sat |x.ty.int e|) a a) ∧
  (∀ x sat, Gives3 (.idp4 x sat) x false false false false fun a b c =>
    let r : Ty := if x.ty.signed then .s32 else .n32
    r.deliver sat (r.int c + x.ty.int (elem 8 0 a) * x.ty.int (elem 8 0 b) + x.ty.int (elem 8 1 a) * x.ty.int (elem 8 1 b) +
      x.ty.int (elem 8 2 a) * x.ty.int (elem 8 2 b) + x.ty.int (elem 8 3 a) * x.ty.int (elem 8 3 b))) ∧
  (∀ x mode, Yields (.xlane x mode) x.g (uses3 x x.ty.wide x.ty.wide false false) fun z =>
    z.W.dstN x.ty.wide x.d z.act fun l =>
      let src := sourceLane mode l (z.W.src z.w x.b l).toNat
      z.W.srcN z.w x.ty.wide x.a (if 0 ≤ src ∧ src ≤ 31 ∧ (z.one x.c).testBit src.toNat then src.toNat else l)) ∧
  (∀ g pd q, Yields (.lpoll g (.every pd) q) g [] fun z =>
    z.W.putPred pd z.act (if z.act &&& z.W.pred q = z.act then allLanes else 0)) ∧
  (∀ g pd q, Yields (.lpoll g (.some pd) q) g [] fun z =>
    z.W.putPred pd z.act (if z.act &&& z.W.pred q ≠ 0 then allLanes else 0)) ∧
  (∀ g pd q, Yields (.lpoll g (.same pd) q) g [] fun z =>
    z.W.putPred pd z.act (if z.act &&& z.W.pred q = 0 ∨ z.act &&& z.W.pred q = z.act then allLanes else 0)) ∧
  (∀ g d q, Yields (.lpoll g (.mask d) q) g [wr d] fun z => z.W.dst d z.act fun _ => z.act &&& z.W.pred q) ∧
  (∀ g d q, Yields (.lpoll g (.count d) q) g [wr d] fun z =>
    z.W.dst d z.act fun _ => BitVec.ofNat 32 (popCount 32 (z.act &&& z.W.pred q).toNat)) ∧
  (∀ g d q, Yields (.lpoll g (.first d) q) g [wr d] fun z =>
    z.W.dst d z.act fun _ => BitVec.ofNat 32 ((lowest (z.act &&& z.W.pred q)).getD 32)) ∧
  (∀ x op, Yields (.wred x op) x.g (uses1 x x.ty.wide x.ty.wide) fun z =>
    z.W.dstN x.ty.wide x.d z.act fun _ =>
      match (lanesOf z.act).map fun l => z.W.srcN z.w x.ty.wide x.a l with
      | [] => 0
      | v :: t => t.foldl (redOf op x.ty) v) ∧
  (∀ w x sat, decodeInstr w = .ok (.idp4 x sat) →
    fld w 0 8 = 0x3D ∧ (x.ty = .s8 ∨ x.ty = .n8) ∧ fld w 48 16 = bit sat)

/-! ### Floating point and conversion -/

/-- R39, R107, R110 to R112: sums, products and fused products of f32, f64 and packed halves complete, rounded once from the
exact value, and every condition met enters FPST. faddi and fmuli take f32 or f64 and round to nearest even. -/
def Obligations.FloatArithmetic : Prop :=
  (∀ x m, Floats2 (.fadd x m) x false fun a b =>
    addFl f32Fmt m.rnd ((Fl.decode f32Fmt a).negIf m.na) ((Fl.decode f32Fmt b).negIf m.nb)) ∧
  (∀ x m, Floats2 (.fmul x m) x false fun a b =>
    mulRound f32Fmt m.rnd ((Fl.decode f32Fmt a).negIf m.na) ((Fl.decode f32Fmt b).negIf m.nb)) ∧
  (∀ x m, Floats3 (.ffma x m) x false fun a b c =>
    fmaFl f32Fmt m.rnd ((Fl.decode f32Fmt a).negIf m.na) ((Fl.decode f32Fmt b).negIf m.nb)
      ((Fl.decode f32Fmt c).negIf m.nc)) ∧
  (∀ x m, Floats2 (.dadd x m) x true fun a b =>
    addFl f64Fmt m.rnd ((Fl.decode f64Fmt a).negIf m.na) ((Fl.decode f64Fmt b).negIf m.nb)) ∧
  (∀ x m, Floats2 (.dmul x m) x true fun a b =>
    mulRound f64Fmt m.rnd ((Fl.decode f64Fmt a).negIf m.na) ((Fl.decode f64Fmt b).negIf m.nb)) ∧
  (∀ x m, Floats3 (.dfma x m) x true fun a b c =>
    fmaFl f64Fmt m.rnd ((Fl.decode f64Fmt a).negIf m.na) ((Fl.decode f64Fmt b).negIf m.nb)
      ((Fl.decode f64Fmt c).negIf m.nc)) ∧
  (∀ x m, Floats2 (.hadd2 x m) x false fun a b => twice fun i => sumOf (fmtOf x.ty) m (elem 16 i a) (elem 16 i b)) ∧
  (∀ x m, Floats2 (.hmul2 x m) x false fun a b => twice fun i => productOf (fmtOf x.ty) m (elem 16 i a) (elem 16 i b)) ∧
  (∀ x m, Floats3 (.hfma2 x m) x false fun a b c =>
    twice fun i => fusedOf (fmtOf x.ty) m (elem 16 i a) (elem 16 i b) (elem 16 i c)) ∧
  (∀ x imm, Floats1 (.faddi x imm) x x.ty.wide x.ty.wide fun a =>
    addFl (fmtOf x.ty) .rn (Fl.decode (fmtOf x.ty) a) (Fl.decode f32Fmt imm.toNat)) ∧
  (∀ x imm, Floats1 (.fmuli x imm) x x.ty.wide x.ty.wide fun a =>
    mulRound (fmtOf x.ty) .rn (Fl.decode (fmtOf x.ty) a) (Fl.decode f32Fmt imm.toNat)) ∧
  (∀ w x imm, (decodeInstr w = .ok (.faddi x imm) → fld w 0 8 = 0x76 ∧ fld w 32 32 = imm.toNat ∧ (x.ty = .f32 ∨ x.ty = .f64)) ∧
    (decodeInstr w = .ok (.fmuli x imm) → fld w 0 8 = 0x77 ∧ fld w 32 32 = imm.toNat ∧ (x.ty = .f32 ∨ x.ty = .f64)))

/-- R113 to R117: minimum, maximum, compare, absolute value and class complete. fabs and the class instructions leave FPST
as it was. -/
def Obligations.FloatCompareAndSelect : Prop :=
  (∀ x r nan, Floats2 (.fmin x r nan) x false (minMax f32Fmt false nan)) ∧
  (∀ x r nan, Floats2 (.fmax x r nan) x false (minMax f32Fmt true nan)) ∧
  (∀ x r nan, Floats2 (.dmin x r nan) x true (minMax f64Fmt false nan)) ∧
  (∀ x r nan, Floats2 (.dmax x r nan) x true (minMax f64Fmt true nan)) ∧
  (∀ x r nan, Floats2 (.hmin2 x r nan) x false fun a b =>
    twice fun i => minMax (fmtOf x.ty) false nan (elem 16 i a) (elem 16 i b)) ∧
  (∀ x r nan, Floats2 (.hmax2 x r nan) x false fun a b =>
    twice fun i => minMax (fmtOf x.ty) true nan (elem 16 i a) (elem 16 i b)) ∧
  (∀ x r cc, Floats2 (.hcmp2 x r cc) x false fun a b => twice fun i =>
    let z := FCond.judge cc (Fl.decode (fmtOf x.ty) (elem 16 i a)) (Fl.decode (fmtOf x.ty) (elem 16 i b))
    (if z.1 then 0xFFFF else 0, z.2)) ∧
  (∀ g pd cc a b r, Yields (.fcmp g pd cc a b r) g [rd a, rd b] fun z =>
    let t (l : Nat) := FCond.judge cc (Fl.decode f32Fmt (z.W.src z.w a l).toNat) (Fl.decode f32Fmt (z.W.src z.w b l).toNat)
    z.raise (z.W.putPred pd z.act (laneSet fun l => (t l).1)) fun l => (t l).2) ∧
  (∀ g pd cc a b r, Yields (.dcmp g pd cc a b r) g [rd a true, rd b true] fun z =>
    let t (l : Nat) := FCond.judge cc (Fl.decode f64Fmt (z.W.src64 z.w a l).toNat) (Fl.decode f64Fmt (z.W.src64 z.w b l).toNat)
    z.raise (z.W.putPred pd z.act (laneSet fun l => (t l).1)) fun l => (t l).2) ∧
  (∀ x r neg, Gives1 (.fabs x r neg) x x.ty.wide x.ty.wide fun a =>
    if x.ty.count = 2 then pack 16 [absOf (fmtOf x.ty) neg (elem 16 0 a), absOf (fmtOf x.ty) neg (elem 16 1 a)]
    else absOf (fmtOf x.ty) neg a) ∧
  (∀ x r e, Gives1 (.fclass x r e) x false false fun a => 2 ^ classOf (fmtOf x.ty) (elem x.ty.bits e.val a)) ∧
  (∀ x r, Gives1 (.dclass x r) x false true fun a => 2 ^ classOf f64Fmt a)

/-- R118 to R120: reciprocal and square root complete rounded once (log entry 64 for the reciprocals of subnormals), and their special
inputs give the table's results. The approximated functions complete with the result of their function, which outside the cases below
is the model's opaque choice inside the bound of R119 (log entry 7; what an ulp is there, log entry 65) and sets NX. Their exact and
special results: a NaN gives the canonical NaN, with NV when it signals; an invalid operand, a finite negative one of frsq and flg2
among them, raises NV; a zero divides; fex2 of an integer from −149 to 127, flg2 of a power of two, fsin and ftanh below 2^−12 and
ftanh from 9.5 on are exact and raise no flag. -/
def Obligations.SpecialFunctions : Prop :=
  (∀ x r, Floats1 (.frcp x r) x false false fun a => rcpFl f32Fmt r (Fl.decode f32Fmt a)) ∧
  (∀ x r, Floats1 (.fsqrt x r) x false false fun a => sqrtFl f32Fmt r (Fl.decode f32Fmt a)) ∧
  (∀ x r, Floats1 (.drcp x r) x true true fun a => rcpFl f64Fmt r (Fl.decode f64Fmt a)) ∧
  (∀ x r, Floats1 (.dsqrt x r) x true true fun a => sqrtFl f64Fmt r (Fl.decode f64Fmt a)) ∧
  (∀ x r, Floats1 (.frsq x r) x false false frsqOf) ∧ (∀ x r, Floats1 (.fex2 x r) x false false fex2Of) ∧
  (∀ x r, Floats1 (.flg2 x r) x false false flg2Of) ∧ (∀ x r, Floats1 (.fsin x r) x false false fsinOf) ∧
  (∀ x r, Floats1 (.fcos x r) x false false fcosOf) ∧ (∀ x r, Floats1 (.ftanh x r) x false false ftanhOf) ∧
  (∀ f r n e, (f = f32Fmt ∨ f = f64Fmt) →
    (∀ s, rcpFl f r (.nan s) = (f.nan, { nv := s }) ∧ sqrtFl f r (.nan s) = (f.nan, { nv := s })) ∧
    rcpFl f r (.inf n) = (f.signed n 0, {}) ∧ rcpFl f r (.num n 0 e) = (f.signed n f.infCode, { dz := true }) ∧
    sqrtFl f r (.inf n) = (if n then (f.nan, { nv := true }) else (f.infCode, {})) ∧
    sqrtFl f r (.num n 0 e) = (f.signed n 0, {}) ∧ ∀ m, m ≠ 0 → sqrtFl f r (.num true m e) = (f.nan, { nv := true })) ∧
  (∀ a s, Fl.decode f32Fmt a = .nan s →
    ∀ f ∈ [frsqOf, fex2Of, flg2Of, fsinOf, fcosOf, ftanhOf], f a = (0x7FC00000, { nv := s })) ∧
  (∀ a, Fl.decode f32Fmt a = .inf false →
    frsqOf a = (0, {}) ∧ fex2Of a = (0x7F800000, {}) ∧ flg2Of a = (0x7F800000, {}) ∧ fsinOf a = (0x7FC00000, { nv := true }) ∧
      fcosOf a = (0x7FC00000, { nv := true }) ∧ ftanhOf a = (0x3F800000, {})) ∧
  (∀ a, Fl.decode f32Fmt a = .inf true →
    frsqOf a = (0x7FC00000, { nv := true }) ∧ fex2Of a = (0, {}) ∧ flg2Of a = (0x7FC00000, { nv := true }) ∧
      fsinOf a = (0x7FC00000, { nv := true }) ∧ fcosOf a = (0x7FC00000, { nv := true }) ∧ ftanhOf a = (0xBF800000, {})) ∧
  (∀ a n e, Fl.decode f32Fmt a = .num n 0 e →
    frsqOf a = (if n then 0xFF800000 else 0x7F800000, { dz := true }) ∧ fex2Of a = (0x3F800000, {}) ∧
      flg2Of a = (0xFF800000, { dz := true }) ∧ fsinOf a = (a, {}) ∧ fcosOf a = (0x3F800000, {}) ∧ ftanhOf a = (a, {})) ∧
  (∀ a m e, Fl.decode f32Fmt a = .num true m e → m ≠ 0 →
    frsqOf a = (0x7FC00000, { nv := true }) ∧ flg2Of a = (0x7FC00000, { nv := true })) ∧
  (∀ a n m e, Fl.decode f32Fmt a = .num n m e → m ≠ 0 →
    (n = false → (frsqOf a).2 = { nx := true }) ∧ (fcosOf a).2 = { nx := true } ∧
    ((Nat.log2 m : Int) + e < -12 → fsinOf a = (a, {}) ∧ ftanhOf a = (a, {})) ∧
    (-12 ≤ (Nat.log2 m : Int) + e → (fsinOf a).2 = { nx := true })) ∧
  -- the f32 code of a nonzero integer n, and that of 2^n
  (let code (n : Int) : Nat := (roundNum f32Fmt .rn false (decide (n < 0)) n.natAbs 0).1
   let power (n : Int) : Nat := (roundNum f32Fmt .rn false false 1 n).1
   ∀ n : Int, -149 ≤ n → n ≤ 127 → fex2Of (code n) = (power n, {}) ∧ flg2Of (power n) = (code n, {})) ∧
  (∀ a, a < 2 ^ 32 → 0x41180000 ≤ a % 2 ^ 31 → a % 2 ^ 31 ≤ 0x7F800000 →
    ftanhOf a = (a / 2 ^ 31 * 2 ^ 31 + 0x3F800000, {}))

/-- R121 to R126: conversions and packing complete. A narrow destination keeps d's other bits; the quad of pkf8 is four
registers from a multiple of 4; mxsc reads a in all 32 lanes; pkf4 writes the active lanes of four (log entry 11 for a
uniform D). -/
def Obligations.ConversionsAndPacking : Prop :=
  let merged (x : R1) (m : CvMod) (z : Ctx) (f : Nat → Nat × Flags) : Warp :=
    let r (l : Nat) := f (elem m.sty.bits m.sidx.val (z.W.srcN z.w m.sty.wide x.a l))
    let n := x.ty.bits
    z.raise (z.W.dstN x.ty.wide x.d z.act fun l =>
      if n < 32 then
        let d := (z.W.src z.w x.d l).toNat
        d - elem n m.didx.val d * 2 ^ (n * m.didx.val) + (r l).1 % 2 ^ n * 2 ^ (n * m.didx.val)
      else (r l).1) fun l => (r l).2
  let uses (x : R1) (m : CvMod) : List Use :=
    uses1 x x.ty.wide m.sty.wide ++ if decide (x.ty.bits < 32) then [rd x.d] else []
  (∀ x m, Yields (.cvff x m) x.g (uses x m) fun z =>
    merged x m z fun e => roundFl (fmtOf x.ty) m.rnd m.sat (valueOf m.sty e)) ∧
  (∀ x m, Yields (.cvfi x m) x.g (uses x m) fun z => merged x m z fun e => toInt x.ty m.rnd (valueOf m.sty e)) ∧
  (∀ x m, Yields (.cvif x m) x.g (uses x m) fun z =>
    merged x m z fun e => roundFl (fmtOf x.ty) m.rnd m.sat (valueOf m.sty e)) ∧
  (∀ x m, Yields (.cvii x m) x.g (uses x m) fun z => merged x m z fun e => (x.ty.deliver m.sat (m.sty.int e), {})) ∧
  (∀ x rnd sat, Yields (.pkf8 x rnd sat) x.g
      [wr x.d, if quadFault 192 x.a = some 2 then rd (.bad 0) else rd (quadOpnd x.a 3), rd x.b] fun z =>
    let r (l i : Nat) := scaled (fmtOf x.ty) rnd sat (Fl.decode f32Fmt (z.W.src z.w (quadOpnd x.a i) l).toNat)
      (Fl.decode f32Fmt (z.W.src z.w x.b l).toNat)
    (z.W.dst x.d z.act fun l => BitVec.ofNat 32 (pack 8 [(r l 0).1, (r l 1).1, (r l 2).1, (r l 3).1])).flag
      (Flags.all ((lanesOf z.act).flatMap fun l => [(r l 0).2, (r l 1).2, (r l 2).2, (r l 3).2]))) ∧
  (∀ x rnd q, Yields (.pkf4 x rnd q) x.g (uses2 x false false false) fun z =>
    let quad := z.act &&& laneSet fun l => l / 4 = q.val
    let r (l i : Nat) := scaled e2m1Fmt rnd false (Fl.decode f32Fmt (z.W.src z.w x.a (8 * (l % 4) + i)).toNat)
      (Fl.decode f32Fmt (z.one x.b))
    (z.W.dst x.d (written x.d z.act quad) fun l =>
        BitVec.ofNat 32 (pack 4 ((List.range 8).map fun i => (r l i).1))).flag
      (Flags.all ((lanesOf quad).flatMap fun l => (List.range 8).map fun i => (r l i).2))) ∧
  (∀ x r inv, Yields (.mxsc x r inv) x.g (uses1 x false false) fun z =>
    let code := scaleCode x.ty ((List.range 32).map fun i => Fl.decode f32Fmt (z.W.src z.w x.a i).toNat)
    (z.W.dst x.d z.act fun _ => BitVec.ofNat 32
      (if inv then (if code = 0xFF then 0x7FC00000 else (roundNum f32Fmt .rn false false 1 (127 - code)).1) else code)).flag
      { nv := decide (code = 0xFF) })

/-- R37, R38, R40: rounding is correct in every mode and for both signs. A magnitude is kept as a multiple of a step: exactly where the
step divides it; otherwise, to nearest, within half a step and to an even multiple at a tie; toward zero, and toward the other
infinity, not above it by less than one step; away from zero, not below it by less than one step. The delivered code has the exact
value's sign and the kept multiple's value, with NX where that differs and UF where the value is tiny after rounding too; beyond the
largest finite value of the format it is infinity or that value, as mode, sign and .sat give, with OF and NX. A NaN is delivered
canonical, and an infinity as infinity or clamped with NV. -/
def Obligations.RoundingIsWithinAStep : Prop :=
  (∀ (m : Nat) (e q : Int) (neg : Bool), e < q →
    let d := 2 ^ (q - e).toNat
    let kept (r : Rnd) : Nat := (roundAt r neg m e q).1 * d
    (2 * kept .rn ≤ 2 * m + d ∧ 2 * m ≤ 2 * kept .rn + d) ∧
    (2 * (m % d) = d → (roundAt .rn neg m e q).1 % 2 = 0) ∧
    (∀ r, (r = .rz ∨ (r = .rp ∧ neg = true) ∨ (r = .rm ∧ neg = false)) → kept r ≤ m ∧ m < kept r + d) ∧
    (∀ r, ((r = .rp ∧ neg = false) ∨ (r = .rm ∧ neg = true)) → m ≤ kept r ∧ kept r < m + d) ∧
    (∀ r, (roundAt r neg m e q).2 = true ↔ m % d ≠ 0)) ∧
  (∀ r neg m e q, q ≤ e → roundAt r neg m e q = (m * 2 ^ (e - q).toNat, false)) ∧
  (∀ f ∈ [f64Fmt, f32Fmt, bf16Fmt, f16Fmt, e5m2Fmt, e4m3Fmt, e2m1Fmt], ∀ rnd sat neg m e top x, m ≠ 0 →
    Fl.decode f f.maxCode = .num false top x →
    let free : Int := Nat.log2 m + e - f.manBits
    let q := max free f.minExp
    let r := roundAt rnd neg m e q
    -- the rounded and the largest finite value, in units of the format's least subnormal
    let value := r.1 * 2 ^ (q - f.minExp).toNat
    let most := top * 2 ^ (x - f.minExp).toNat
    let z := roundNum f rnd sat neg m e
    (most < value → z = (f.signed neg (overflowCode f rnd sat neg), { of := true, nx := true })) ∧
    (value ≤ most → (∃ n y, Fl.decode f z.1 = .num neg n y ∧ n * 2 ^ (y - f.minExp).toNat = value) ∧
      z.2.nx = r.2 ∧ z.2.of = false ∧ z.2.nv = false ∧ z.2.dz = false ∧
      (z.2.uf = true ↔ r.2 = true ∧ free < f.minExp ∧
        (roundAt rnd neg m e free).1 < 2 ^ (f.minExp + f.manBits - free).toNat))) ∧
  (∀ f rnd sat neg, overflowCode f rnd sat neg =
    if sat = true ∨ f.hasInf = false ∨ rnd = .rz ∨ (rnd = .rp ∧ neg = true) ∨ (rnd = .rm ∧ neg = false) then f.maxCode
    else f.maxCode + 1) ∧
  (∀ f rnd sat neg,
    (∀ s, roundFl f rnd sat (.nan s) = (f.nan, { nv := s || decide (f.nan = 0) })) ∧
    (∀ e, roundFl f rnd sat (.num neg 0 e) = (f.signed neg 0, {})) ∧
    (∀ m e, roundFl f rnd sat (.num neg m e) = roundNum f rnd sat neg m e) ∧
    roundFl f rnd sat (.inf neg) =
      if f.hasInf = true ∧ sat = false then (f.signed neg (f.maxCode + 1), {}) else (f.signed neg f.maxCode, { nv := true }))

/-! ### Control -/

/-- R84, R88, R69: a branch, call or return moves no lane itself: when every active lane's target is 8-byte aligned and below
2^57, each active lane's branch target is recorded for the boundary and a link pair receives the address of the next clause in
sequence; when some active lane's target is bad the instruction raises the bad-address fault (cause 4) for exactly the lanes
with bad targets and has no other effect. A nop moves the clause on alone. -/
def Obligations.BranchesRecordTargets : Prop :=
  let goes (i : Instr) (p : Spec) (target : Ctx → Nat → Nat) (link : Option Opnd) : Prop :=
    ∀ s q c W g, Issues p s q c W g →
      let z := sees q c W g p.guard
      ((∀ l ∈ lanesOf z.act, target z l % 8 = 0 ∧ target z l < 2 ^ 57) →
        exec i s = .next (((match link with
            | some d => s.onWarp c.warp fun W => W.dst64 d z.act fun _ => BitVec.ofNat 64 (c.h + 16 + 8 * c.header.count.val)
            | none => s).onClause q fun c =>
          { c with targets := (lanesOf z.act).foldl (fun t l => tput t l (target z l)) c.targets }).advance q)) ∧
      (∀ l, (lanesOf z.act).find? (fun l => badTarget (target z l)) = some l →
        exec i s = .next (s.precise q c
          { cause := 4, addr := target z l, lanes := laneSet fun l => inSet z.act l && badTarget (target z l) }))
  let direct (disp : Word) (z : Ctx) (_ : Nat) : Nat := wrap 64 (z.c.h + 8 * disp.toInt)
  let indirect (a : Opnd) (disp : Word) (z : Ctx) (l : Nat) : Nat := wrap 64 (z.W.srcN z.w true a l + 8 * disp.toInt)
  (∀ g disp, goes (.bra g disp) (lastNeeds g []) (direct disp) none) ∧
  (∀ g a disp, goes (.brx g a disp) (lastNeeds g [rd a true]) (indirect a disp) none) ∧
  (∀ g d disp, goes (.call g d disp) (lastNeeds g [wr d true]) (direct disp) (some d)) ∧
  (∀ g d a disp, goes (.callx g d a disp) (lastNeeds g [wr d true, rd a true]) (indirect a disp) (some d)) ∧
  (∀ g a, goes (.ret g a) (lastNeeds g [rd a true]) (fun z l => z.W.srcN z.w true a l) none) ∧
  (∀ g s q c W gr, Issues (needs g []) s q c W gr → exec (.nop g) s = .next (s.advance q))

/-- R85 to R89: meet writes mr of the active lanes and gives the earlier mr to its D pair; sign enters the active lanes of the
declared set in the signed set and in the clause's record; cvset declares a set, clears its signs and releases the threads held
on it; exit ends the active threads, which leave every declared set, and in a handler it ends them for good (R313); yield and trap
end the clause, and trap records the software-trap fault with its code. -/
def Obligations.MeetSignExitYieldTrap : Prop :=
  (∀ g disp d s q c W gr, Issues (needs g [wr d true]) s q c W gr → displaced c.h disp % 8 = 0 →
    displaced c.h disp < 2 ^ 57 →
    exec (.meet g (.direct disp) d) s = .next (s.wrote q c
      ((lanesOf (activeLanes c W g)).foldl (fun V l => { V with mrs := tset 0 V.mrs l (displaced c.h disp) })
        (W.dst64 d (activeLanes c W g) fun l => BitVec.ofNat 64 (W.mrOf l))))) ∧
  (∀ g a d s q c W gr, Issues (needs g [wr d true, rd a true]) s q c W gr →
    (∀ l ∈ lanesOf (activeLanes c W g), W.srcN c.warp true a l % 8 = 0 ∧ W.srcN c.warp true a l < 2 ^ 57) →
    exec (.meet g (.reg a) d) s = .next (s.wrote q c
      ((lanesOf (activeLanes c W g)).foldl (fun V l => { V with mrs := tset 0 V.mrs l (W.srcN c.warp true a l) })
        (W.dst64 d (activeLanes c W g) fun l => BitVec.ofNat 64 (W.mrOf l))))) ∧
  (∀ g n s q c W gr, Issues (needs g []) s q c W gr →
    let m := activeLanes c W g &&& (W.cvSets n.val).1
    exec (.sign g n) s = .next (((s.onWarp c.warp fun _ => W.putCv n.val (W.cv n.val ||| (m ++ (0 : Word)))).onClause q fun c =>
      { c with signed := tset 0 c.signed n.val (tget 0 c.signed n.val ||| m) }).advance q)) ∧
  (∀ g n a s q c W gr, Issues (needs g [rd a]) s q c W gr →
    exec (.cvset g n a) s = .next (((s.onWarp c.warp fun _ =>
        (lanesOf allLanes).foldl (fun V l =>
          if V.statusOf l = .sign ∧ (tget 0 V.heldCv l).testBit n.val = true then
            { V.setStatus l .running with heldCv := tset 0 V.heldCv l 0 }
          else V) (W.putCv n.val (BitVec.ofNat 64 ((sees q c W gr g).one a)))).onClause q fun c =>
      { c with signed := tset 0 c.signed n.val 0 }).advance q)) ∧
  (∀ g s q c W gr, Issues (lastNeeds g []) s q c W gr →
    exec (.exit g) s = .next (((lanesOf (activeLanes c W g)).foldl
      (fun s l => s.budExit c.warp l W.seq c.h c.index)
      (s.onWarp c.warp fun _ => (lanesOf (activeLanes c W g)).foldl (fun V l => (V.setStatus l .exited).leaveSets l)
        { W with seq := W.seq + 1,
                 exits := if W.handler then W.exits ||| activeLanes c W g else W.exits })).advance q)) ∧
  (∀ g s q c W gr, Issues (lastNeeds g []) s q c W gr → exec (.yield g) s = .next ((s.endWith q .yield).advance q)) ∧
  (∀ g code s q c W gr, Issues (lastNeeds g []) s q c W gr →
    exec (.trap g code) s = .next (((s.onWarp c.warp fun _ =>
      { W.addFault W.seq c.h c.index false { cause := 0x14, lanes := activeLanes c W g, code := code.toNat } with
        seq := W.seq + 1 }).endWith q (.trap code)).advance q))

/-- R90 to R95, R187, R189, R313, R325: a wait whose block is good ends the clause with its conditions placed, or writes D at once when
they hold; a block or a barrier that cannot be corrected is consumed; bar and cbar end the clause, and the warp arrives once its
release is performed; tret and preempt end the clause with what the boundary does for them. -/
def Obligations.WaitsBarriersAndReturns : Prop :=
  (∀ g d a i s q c W gr, Issues (lastNeeds g [wr d, rd a]) s q c W gr →
    let z := sees q c W gr g
    let off := z.one a
    let size := (i.cnt.val + 1) * 16
    let entries := (List.range (i.cnt.val + 1)).map fun n => ofBytes (s.coreRead (coreOf c.warp) (off + 16 * n) 16).1
    off % 16 = 0 → gr.holds off size = true →
    ((s.coreRead (coreOf c.warp) off size).2 = true → exec (.wait g d a i) s =
      .next (((s.onWarp c.warp fun W => W.deliver (resultWrites d false z.act fun _ => some poisonWord)).warpConsumes
        c.warp 0 off).advance q)) ∧
    ((s.coreRead (coreOf c.warp) off size).2 = false → ∀ s1 s2 conds, entries.any badCond = false →
      s.placeConds c.warp entries = (s1, none) →
      s1.readConds c.warp c.h c.index (oneLane ((lowest z.act).getD 0))
        (entries.map fun e => { entry := BitVec.ofNat 128 e, seen := none }) = (s2, conds) →
      let y : Waiting :=
        { clause := c.h, index := c.index, took := c.lanes, next := c.next, signed := c.signed, lanes := z.act, dst := d,
          all := i.all, conds := conds, deadline := if i.tmo = 0 then none else some (s2.rt + i.tmo) }
      ((s2.waitMet c.warp y = true ∨ (s2.waitPoison c.warp y).isSome = true) → exec (.wait g d a i) s =
        .next (((s2.onWarp c.warp fun W => W.deliver (s2.waitResult c.warp y false)).waitConsumes c.warp y).advance q)) ∧
      (s2.waitMet c.warp y = false → s2.waitPoison c.warp y = none →
        exec (.wait g d a i) s = .next ((s2.endWith q (.wait y)).advance q)))) ∧
  (∀ cluster g (id : Fin 16) count s q c W gr, Issues (lastNeeds g []) s q c W gr →
    exec (if cluster then .cbar g id count else .bar g id count) s = .next ((s.endWith q (.barrier
      { clause := c.h, index := c.index, took := c.lanes, next := c.next, signed := c.signed,
        lanes := activeLanes c W g, cluster := cluster, id := id.val, count := count })).advance q)) ∧
  (∀ g s q c W gr, Issues { lastNeeds g [] with priv := true } s q c W gr →
    exec (.tret g) s = .next ((s.endWith q .tret).advance q)) ∧
  (∀ g d s q c W gr, Issues (lastNeeds g [wr d]) s q c W gr →
    exec (.preempt g d) s = .next ((s.endWith q (.preempt d (activeLanes c W g))).advance q))

/-- R16, R24, R109, R186, R188, R312, R335: system registers. sget gives each active lane the register's value: WDESC and CSCFG by
their fields, CVn, FPST, PREQ, the trap registers (those that R312 does not name read 0) and the configuration counts of the warp's
die. sset writes it with the
lowest active lane's value; an sset of WDESC is a privilege fault; FPST keeps bits 31:5 zero; CSCFG takes a size from 1 to 8 and
nothing else; clkrd gives core cycles or reference ticks. -/
def Obligations.SystemRegisterMoves : Prop :=
  (∀ g ty d (n : BitVec 16) s q c W gr,
    Issues { needs g [wr d ty.wide] with priv := sysReadPriv n.toNat } s q c W gr →
    exec (.sget g ty d n) s = .next (s.wrote q c (W.dstN ty.wide d (activeLanes c W g) fun _ =>
      s.sysRead (sees q c W gr g) n.toNat))) ∧
  (∀ g s q c W gr, Runs s q c W gr →
    let v (n : Nat) : Nat := s.sysRead (sees q c W gr g) n
    let core := s.core (coreOf c.warp)
    let i := c.warp % 64
    let kept := ((s.comp.groups.filter fun (k, _) => coreOfGroup k = coreOf c.warp).map fun (_, x) => x.size).foldl (· + ·) 0
    v 1 = (BitVec.ofNat 64 (i * 2 ^ 52 + gr.nreg * 2 ^ 44 + (gr.base + i * gr.nreg * 128) / 1024 * 2 ^ 30 +
      (gr.base + gr.blocks + 256 * i) / 256 * 2 ^ 18 + gr.prio % 4 * 2 ^ 16 + gr.role i * 2 ^ 14 +
      groupOf c.warp % 64 * 2 ^ 8)).toNat ∧
    v 2 = core.pl1sz.toNat * 2 ^ 24 + core.l1sz.toNat * 2 ^ 16 +
      (2 ^ 20 - core.l1sz.toNat * 65536 - kept) / 16384 % 256 * 2 ^ 8 ∧
    (∀ n < 8, v (0x10 + n) = (W.cv n).toNat) ∧ v 0x21 = W.fpst.toNat ∧
    v 0x30 = (s.slot gr.slot).ctxctl.toNat % 2 ∧
    v 0x100 = W.trap.cause.toNat ∧ v 0x101 = W.trap.clause.toNat ∧ v 0x102 = W.trap.index.toNat ∧
    v 0x103 = W.trap.addr.toNat ∧ v 0x104 = W.trap.lanes.toNat ∧ v 0x105 = W.trap.code.toNat ∧
    v 0x106 = W.trap.stat.toNat ∧ v 0x107 = W.trap.raddr.toNat ∧ v 0x108 = W.trap.ridx.toNat ∧
    (∀ n < 32, v (0x120 + n) = (tget 0 W.trap.pcs n).toNat) ∧ (∀ n, 0x109 ≤ n → n < 0x120 → v n = 0) ∧
    let die := dieOfCore (coreOf c.warp)
    let d := s.die die
    let set (n : Nat) (w : Nat) : Nat := ((List.range n).filter fun k => w.testBit k).length
    v 0x200 = set 144 d.cores.toNat ∧
    (∀ k, (v 0x201).testBit k = true ↔ k < 18 ∧ ∃ j < 8, d.cores.toNat.testBit (8 * k + j) = true) ∧
    v 0x202 = (s.dies.filter fun (k, x) => k / 32 = die / 32 && x.enabled).length ∧
    v 0x203 = set 2 d.hbmStacks.toNat ∧
    v 0x204 = set 2 d.hbmStacks.toNat * 48 * 2 ^ 30 / 65536 - d.scrub.retired.length ∧
    (∀ k, (v 0x205).testBit k = true ↔ k < 7 ∧ ∃ l, tfind d.links k = some l ∧ l.inUse = true ∧ l.failed = false) ∧
    v 0x206 = d.slices.toNat ∧ v 0x207 = d.clock.fmhz ∧ v 0x208 = d.counts.routeGen.toNat ∧
    v 0x209 = d.counts.retired.toNat ∧ v 0x20A = d.counts.corrected.toNat ∧ v 0x20B = d.counts.late.toNat ∧
    v 0x20C = d.counts.dropped.toNat ∧ v 0x20D = d.counts.replays.toNat ∧ v 0x20E = d.counts.retCores.toNat ∧
    v 0x20F = 0) ∧
  (∀ g ty a s q c W gr, Runs s q c W gr → issueFault (needs g [rd a ty.wide]) c gr = none →
    exec (.sset g ty a 1) s = .next (s.precise q c { cause := 5, lanes := c.lanes })) ∧
  (∀ g ty a s q c W gr, Issues { needs g [rd a ty.wide] with priv := true } s q c W gr →
    let v := if ty.wide then (sees q c W gr g).one64 a else (sees q c W gr g).one a
    exec (.sset g ty a 2) s = .next ((if 1 ≤ v / 2 ^ 24 % 256 ∧ v / 2 ^ 24 % 256 ≤ 8 then
      s.onCore (coreOf c.warp) fun x => { x with pl1sz := BitVec.ofNat 8 (v / 2 ^ 24 % 256) } else s).advance q)) ∧
  (∀ g ty a (n : Fin 8) s q c W gr, Issues { needs g [rd a ty.wide] with priv := true } s q c W gr →
    exec (.sset g ty a (BitVec.ofNat 16 (0x10 + n.val))) s = .next (s.wrote q c (W.putCv n.val
      (BitVec.ofNat 64 (if ty.wide then (sees q c W gr g).one64 a else (sees q c W gr g).one a))))) ∧
  (∀ g ty a s q c W gr, Issues (needs g [rd a ty.wide]) s q c W gr →
    exec (.sset g ty a 0x21) s = .next (s.wrote q c { W with
      fpst := BitVec.ofNat 32 (if ty.wide then (sees q c W gr g).one64 a else (sees q c W gr g).one a) &&& 0x1F })) ∧
  (∀ g ty a (n : Fin 64) s q c W gr, Issues { needs g [rd a ty.wide] with priv := true } s q c W gr →
    exec (.sset g ty a (BitVec.ofNat 16 (0x100 + n.val))) s = .next (s.wrote q c { W with
      trap := W.trap.write n.val
        (BitVec.ofNat 64 (if ty.wide then (sees q c W gr g).one64 a else (sees q c W gr g).one a)) })) ∧
  (∀ g ty d rt s q c W gr, Issues (needs g [wr d ty.wide]) s q c W gr →
    exec (.clkrd g ty d rt) s = .next (s.wrote q c (W.dstN ty.wide d (activeLanes c W g) fun _ =>
      if rt then s.rt else s.clk (dieOfCore (coreOf c.warp)))))

/-! ### Memory instructions at issue -/

/-- R25, R128, R130, R131, R134, R137, R143, R146 to R148: a memory instruction whose addresses pass the checks and whose
counter (and slot) is free enters warp order as one outstanding operation, with one access per active lane (per lane for ldb, which
reads its whole block) at the lane's address, and its clause moves on. What the operation reads or writes happens by the events. -/
def Obligations.MemoryInstructionsIssue : Prop :=
  let enters (i : Instr) (m : MForm) (p : Spec) (f : Form) (data : Ctx → Nat → List Byte) (cmp : Ctx → Nat → Nat) : Prop :=
    ∀ s q c W g, Issues p s q c W g →
      let z := sees q c W g m.g
      s.accessFault z m f.shape = none → W.counter f.cls < 63 →
      ∀ slot, (match f.slot with
        | none => slot = none
        | some named => W.takeSlot named = slot ∧ slot.isSome = true) →
      exec i s = .next ((s.pushOp c.warp (z.memOp m f slot (z.accesses m f.shape (data z) (cmp z)))).advance q)
  let loads (m : MForm) : Spec := memNeeds m.g [wr m.d (m.ty.bytes = 8), rd m.a true]
  let stores (m : MForm) : Spec := memNeeds m.g [rd m.d (m.ty.bytes = 8), rd m.a true]
  let lane (n : Nat) : Shape := { size := n, align := n }
  let block (n : Nat) : Shape := { size := 32 * n, align := 16, block := true }
  let bytes (m : MForm) := regBytes m.d m.ty.bytes
  let atom (i : Instr) (m : MForm) (slot : Option (Fin 8)) (arrives : Bool) : Prop :=
    enters i m (atomicNeeds m arrives none)
      { cls := 0, kind := .atomic i, shape := atomicShape m.ty.bytes, slot := some slot } (bytes m) noCmp
  let red (i : Instr) (m : MForm) (arrives : Bool) : Prop :=
    enters i m (reduceNeeds m arrives) { cls := 1, kind := .reduce i, shape := atomicShape m.ty.bytes } (bytes m) noCmp
  (∀ m fresh, enters (.ld m fresh) m (loads m) { cls := 0, kind := .load fresh, shape := lane m.ty.bytes } noData noCmp) ∧
  (∀ m, enters (.st m) m (stores m) { cls := 1, kind := .store, shape := lane m.ty.bytes } (bytes m) noCmp) ∧
  (∀ m fresh, enters (.ldb m fresh) m (loads m)
    { cls := 0, kind := .blockLoad fresh, shape := { block m.ty.bytes with whole := true } } noData noCmp) ∧
  (∀ m, enters (.stb m) m (stores m) { cls := 1, kind := .blockStore, shape := block m.ty.bytes } (bytes m) noCmp) ∧
  (∀ m n, atom (.atadd m n) m n true) ∧ (∀ m n, atom (.atmin m n) m n false) ∧ (∀ m n, atom (.atmax m n) m n false) ∧
  (∀ m n, atom (.atand m n) m n false) ∧ (∀ m n, atom (.ator m n) m n false) ∧ (∀ m n, atom (.atxor m n) m n false) ∧
  (∀ m n, atom (.atexch m n) m n false) ∧
  (∀ m n b, enters (.atcas m n b) m (atomicNeeds m false (some b))
    { cls := 0, kind := .atomic (.atcas m n b), shape := atomicShape m.ty.bytes, slot := some n } (bytes m)
    fun z l => z.W.srcN z.w (m.ty.bytes = 8) b l) ∧
  (∀ m, red (.redadd m) m true) ∧ (∀ m, red (.redmin m) m false) ∧ (∀ m, red (.redmax m) m false) ∧
  (∀ m, red (.redand m) m false) ∧ (∀ m, red (.redor m) m false) ∧ (∀ m, red (.redxor m) m false) ∧
  (∀ m rnd, enters (.fxrd m rnd) m (memNeeds m.g [wr m.d m.ty.wide, rd m.a true])
    { cls := 0, kind := .sumRead rnd, shape := { size := 32, align := 32, register := false } } noData noCmp) ∧
  (∀ m b, enters (.nins m b) m (memNeeds m.g [rd m.d, rd m.a true, rd b])
    { cls := 1, kind := .reduce (.nins m b), shape := { size := 1, align := 1, register := false } } (regBytes m.d 4)
    fun z l => z.W.srcN z.w false b l) ∧
  (∀ m s q c W g, Issues (memNeeds m.g [rd m.d, rd m.a true]) s q c W g →
    let z := sees q c W g m.g
    let f : Form := { cls := 1, kind := .reduce (.fxadd m), shape := { size := 32, align := 32, register := false } }
    let t := s.pushOp c.warp (z.memOp m f none (z.accesses m f.shape (regBytes m.d 4 z) (noCmp z)))
    let bad := z.badSums m
    let flagged := t.onWarp c.warp fun V => (V.flag { nv := true }).onOp W.seq fun o =>
      { o with acc := o.acc.map fun a => if inSet bad a.lane then { a with done := true } else a }
    s.accessFault z m f.shape = none → W.counter 1 < 63 →
    exec (.fxadd m) s = .next ((if bad = 0 then t else if bad = z.act then flagged.retire c.warp W.seq else flagged).advance q))

/-- R138, R139, R141, R149, R150, R152: window loads start the copies of the absent windows they touch; setempty, locks, unlocks and
fences enter warp order. A fence narrower than .die whose condition holds, and a setempty with no earlier core-store access, acquire,
fence or lock before it, take effect at once, inside the core. -/
def Obligations.WindowLockAndFenceInstructionsIssue : Prop :=
  (∀ m clr s q c W g, Issues (memNeeds m.g [wr m.d (m.ty.bytes = 8), rd m.a true]) s q c W g →
    let z := sees q c W g m.g
    let sh : Shape := { size := m.ty.bytes, align := m.ty.bytes, global := false, cluster := false }
    let acc := z.accesses m sh (fun _ => []) (fun _ => 0)
    let o := z.memOp m { cls := 0, kind := .windowLoad clr, shape := sh } none acc
    s.accessFault z m sh = none → W.counter 0 < 63 → W.counter 2 + (absentWindows g acc).length ≤ 63 →
    exec (.ldw m clr) s = .next (((absentWindows g acc).foldl (fun s (id, w) => s.startCopy c.warp o id w)
      ((s.pushOp c.warp o).onCore (coreOf c.warp) fun x => { x with ldws := x.ldws ++ [(c.warp, W.seq)] })).advance q)) ∧
  (∀ m s q c W g, Issues (memNeeds m.g [rd m.a true]) s q c W g →
    let z := sees q c W g m.g
    let sh : Shape := { size := 16, align := 16, global := false, cluster := false }
    let t := s.pushOp c.warp { z.op none .setempty with acc := z.accesses m sh (fun _ => []) (fun _ => 0) }
    s.accessFault z m sh = none →
    exec (.setempty m) s = .next ((t.drainEmpty c.warp (t.warp c.warp).ops.length).advance q)) ∧
  (∀ m s q c W g, Issues (memNeeds m.g [rd m.a true]) s q c W g →
    let z := sees q c W g m.g
    let enter (kind : OpKind) : Op :=
      z.memOp m { cls := 5, kind := kind, shape := lockShape } none ((z.accesses m lockShape (fun _ => []) (fun _ => 0)).take 1)
    s.accessFault z m lockShape = none → W.counter 5 < 63 →
    exec (.lock m) s = .next ((s.pushOp c.warp (enter .lock)).advance q) ∧
    exec (.unlock m) s = .next ((s.pushOp c.warp (enter .unlock)).advance q)) ∧
  (∀ m s q c W g, Issues (memNeeds m.g []) s q c W g →
    let z := sees q c W g m.g
    (4 ≤ m.scope.level → W.counter 5 < 63) →
    let t := s.pushOp c.warp
      { z.op (if 4 ≤ m.scope.level then some 5 else none) .fence with order := m.order, scope := m.scope }
    exec (.fence m) s = .next ((t.narrowFences c.warp (t.warp c.warp).ops.length).advance q))

/-- R25, R26, R131, R176, R180: an access or engine instruction whose counter class holds 63, or that finds no scoreboard slot free,
stalls and issues nothing; the lowest free slot is taken. An access that fails a check raises the precise fault of the first check that
fails in the order address, alignment, crossing, space, protection, for exactly the lanes that fail it, with the address of the lowest
of them. An operand that fails a check of an engine instruction raises the engine-operand fault with the sub-cause of the first check
that fails, for the lowest active lane, or for exactly the lanes that fail it where each lane has its own operands; the destination
list of mcst is checked before its addresses; nothing is handed over. -/
def Obligations.OperandsStallOrFault : Prop :=
  let stalled (s : State) (q : Nat) (c : Clause) (g : Group) : State :=
    (if c.stalled then s else s.progress (coreOf c.warp) g.slot).onClause q fun c => { c with stalled := true }
  -- accesses: the five checks in order, then the counter
  (∀ i p m sh cls, needsOf i = some p → accessOf i = some (m, sh, cls) → ∀ s q c W g, Issues p s q c W g →
    let z := sees q c W g m.g
    let lanes := if sh.block then (lowest z.act).toList else lanesOf z.act
    let at' (l : Nat) : Option Target := resolve m.space (z.address m l)
    let fails (k l : Nat) : Bool := match k with
      | 0 => (at' l).isNone
      | 1 => decide (z.address m l % sh.align ≠ 0)
      | 2 => sh.block && match at' l, resolve m.space (z.address m l + sh.size - 1) with
        | some t, some u => !t.sameWindow u
        | some _, none => true
        | none, _ => false
      | 3 => (at' l).any fun t => !s.admits sh (coreOf c.warp) t
      | 4 => (at' l).any fun t => !s.allowed z sh.size t
      | _ => false
    (∀ k l, k < 5 → l ∈ lanes → fails k l = true → (∀ j < k, ∀ n ∈ lanes, fails j n = false) →
      (∀ n ∈ lanes, n < l → fails k n = false) →
      exec i s = .next (s.precise q c { cause := nth 0 [0x0C, 0x0D, 0x0E, 0x0F, 0x0B] k, addr := z.address m l,
                                        lanes := laneSet fun n => lanes.contains n && fails k n })) ∧
    ((∀ k < 5, ∀ l ∈ lanes, fails k l = false) → ∀ n, cls = some n → 63 ≤ W.counter n →
      exec i s = .next (stalled s q c g))) ∧
  -- what the space and the protection checks admit
  (∀ (s : State) sh core, (∀ va, s.admits sh core (.global va) = sh.global) ∧
    (∀ off, s.admits sh core (.register off) = sh.register) ∧
    (∀ off, s.admits sh core (.core off) = true ↔ sh.core = true ∧
      (sh.register = true ∨ ∀ e ∈ s.comp.groups, coreOfGroup e.1 = core → e.2.meetsRegisters off sh.size = false)) ∧
    (∀ n off, s.admits sh core (.cluster n off) = true ↔ sh.cluster = true ∧
      (sh.register = true ∨ ∀ e ∈ s.comp.groups, coreOfGroup e.1 = core / 8 * 8 + n → e.2.meetsRegisters off sh.size = false))) ∧
  (∀ (s : State) (z : Ctx) n, (∀ va, s.allowed z n (.global va) = true) ∧
    (∀ off, s.allowed z n (.core off) = true ↔ z.g.base ≤ off ∧ off + n ≤ z.g.base + z.g.size) ∧
    (∀ off, s.allowed z n (.register off) = true ↔ z.g.base ≤ off ∧ off + n ≤ z.g.base + z.g.scratch) ∧
    (∀ k off, s.allowed z n (.cluster k off) = true ↔
      s.coreUp (coreOf z.w / 8 * 8 + k) = true ∧ ∃ e ∈ s.comp.groups, coreOfGroup e.1 = coreOf z.w / 8 * 8 + k ∧
        e.2.dispatch = z.g.dispatch ∧ e.2.base ≤ off ∧ off + n ≤ e.2.base + e.2.size ∧
        (e.1 = groupOf z.w ∨ e.2.meetsRegisters off n = false))) ∧
  -- slots, window copies and fences
  (∀ i p m sh cls slot, needsOf i = some p → accessOf i = some (m, sh, cls) → slotOf i = some slot → ∀ s q c W g,
    Issues p s q c W g → s.accessFault (sees q c W g m.g) m sh = none → W.takeSlot slot = none →
    exec i s = .next (stalled s q c g)) ∧
  (∀ W : Warp, ∀ n : Fin 8, W.busy n.val = true → W.takeSlot (some n) = none) ∧
  (∀ W : Warp, (∀ n < 8, W.busy n = true) → W.takeSlot none = none) ∧
  (∀ (W : Warp) k, W.takeSlot none = some k ↔ k < 8 ∧ W.busy k = false ∧ ∀ j < k, W.busy j = true) ∧
  (∀ m clr s q c W g, Issues (memNeeds m.g [wr m.d (m.ty.bytes = 8), rd m.a true]) s q c W g →
    let z := sees q c W g m.g
    let sh : Shape := { size := m.ty.bytes, align := m.ty.bytes, global := false, cluster := false }
    s.accessFault z m sh = none → 63 < W.counter 2 + (absentWindows g (z.accesses m sh (fun _ => []) fun _ => 0)).length →
    exec (.ldw m clr) s = .next (stalled s q c g)) ∧
  (∀ m s q c W g, Issues (memNeeds m.g []) s q c W g → 4 ≤ m.scope.level → 63 ≤ W.counter 5 →
    exec (.fence m) s = .next (stalled s q c g)) ∧
  -- engine instructions whose lowest active lane acts for the warp: sub-cause, reported address, condition
  (let bad (align v : Nat) : Bool := decide (v % align ≠ 0) || decide (2 ^ 57 ≤ v)
   let one (i : Instr) (cls : Option Nat) (checks : State → Ctx → List (Nat × Nat × Bool)) : Prop :=
     ∀ p, needsOf i = some p → ∀ s q c W gr, Issues p s q c W gr →
       let l := checks s (sees q c W gr p.guard)
       (∀ k sub addr, l[k]? = some (sub, addr, true) → (∀ x ∈ l.take k, x.2.2 = false) →
         exec i s = .next (s.precise q c { cause := 0x10, sub := sub, addr := addr,
                                           lanes := oneLane ((lowest (activeLanes c W p.guard)).getD 0) })) ∧
       ((∀ x ∈ l, x.2.2 = false) → ∀ n, cls = some n → 63 ≤ W.counter n → exec i s = .next (stalled s q c gr))
   (∀ g scope d a b k, one (.rsub g scope d a b k) (some 6) fun _ z =>
     [(1, z.one64 a, bad 16 (z.one64 a)), (1, z.one64 k, bad 16 (z.one64 k)), (2, 0, decide (32 ≤ z.one b))]) ∧
   (∀ g scope a, one (.abortRoot g scope a) (some 6) fun _ z => [(2, 0, decide (32 ≤ z.one a))]) ∧
   (∀ g scope a b, one (.cpost g scope a b) (some 4) fun _ z =>
     [(1, z.one64 a, bad 128 (z.one64 a)), (2, 0, decide (2 ≤ z.one b))]) ∧
   (∀ g scope a b, one (.ctok g scope a b) (some 4) fun _ z => [(2, 0, decide (0x400 ≤ z.one b))]) ∧
   (∀ g scope a b, one (.abort g scope a b) (some 4) fun _ z =>
     [(2, 0, decide (256 ≤ z.one a)), (3, 0, decide (z.one b / 2 ^ 16 % 2 ^ 16 ≠ 0))]) ∧
   (∀ g scope a, one (.rfence g scope a) none fun _ z => [(1, z.one64 a, decide (a ≠ .zero) && bad 64 (z.one64 a))]) ∧
   (∀ g scope a b, one (.cdecl g scope a b) (some 7) fun s z =>
     [(1, z.one64 a, bad 64 (z.one64 a)), (2, 0, decide (4 ≤ z.one b)), (4, 0, !s.cambial z)]) ∧
   (∀ g scope d a b k, one (.sweep g scope d a b k) (some 7) fun s z =>
     [(1, z.one64 d, decide (d ≠ .zero) && bad 8 (z.one64 d)),
      (1, z.one k, decide (z.one k ≠ 0xFFFFFFFF) && decide (z.one k % 16 ≠ 0)), (2, 0, decide (4 ≤ z.one a)),
      (3, 0, decide (z.one b / 2 ^ 16 % 2 ^ 16 ≠ 0)), (4, 0, !s.cambial z || !s.slotNamed z (z.one a))])) ∧
  -- engine instructions with operands of their own in each lane: sub-cause, condition
  (let each (i : Instr) (cls : Option Nat) (checks : State → Ctx → List (Nat × (Nat → Bool))) : Prop :=
     ∀ p, needsOf i = some p → ∀ s q c W gr, Issues p s q c W gr →
       let z := sees q c W gr p.guard
       let l := checks s z
       (∀ k sub fails, l[k]? = some (sub, fails) → (∃ n ∈ lanesOf z.act, fails n = true) →
         (∀ x ∈ l.take k, ∀ n ∈ lanesOf z.act, x.2 n = false) →
         exec i s = .next (s.precise q c { cause := 0x10, sub := sub, addr := 0,
                                           lanes := laneSet fun n => inSet z.act n && fails n })) ∧
       ((∀ x ∈ l, ∀ n ∈ lanesOf z.act, x.2 n = false) → ∀ n, cls = some n → 63 ≤ W.counter n →
         exec i s = .next (stalled s q c gr))
   let slots (b : Opnd) (s : State) (z : Ctx) : List (Nat × (Nat → Bool)) :=
     [(2, fun l => decide (4 ≤ (z.W.src z.w b l).toNat)),
      (4, fun l => !s.cambial z || !s.slotNamed z (z.W.src z.w b l).toNat)]
   (∀ g scope retire a b k, each (.byield g scope retire a b k) none fun s z =>
     let v (l : Nat) : Nat := (z.W.src z.w a l).toNat
     [(3, fun l => decide (v l / 2 ^ 24 % 2 ^ 8 ≠ 0)), (4, fun l => (tfind z.W.buds l).isNone),
      (5, fun l => decide (s.nbud z ≤ v l % 2 ^ 16) || decide (3 ≤ v l / 2 ^ 16 % 2 ^ 8))]) ∧
   (∀ g scope a b, each (.bwakeNow g scope a b) (some 7) (slots b) ∧ each (.bwakeNext g scope a b) (some 7) (slots b)) ∧
   (∀ g d a b, each (.bstate g d a b) (some 0) (slots b))) ∧
  -- mcst: its list, its addresses, its counter
  (∀ m blk b s q c W gr, Issues (engNeeds m.g [rd m.d (m.ty.bytes = 8), rd m.a true, rd b]) s q c W gr →
    let z := sees q c W gr m.g
    let off := z.one b
    let core := coreOf c.warp
    let head := ofBytes (s.coreRead core off 8).1
    let n := head % 256
    let list (cause sub : Nat) : Prop :=
      exec (.mcst m blk b) s = .next (s.precise q c { cause := cause, sub := sub, addr := off,
                                                      lanes := oneLane ((lowest z.act).getD 0) })
    (off % 16 ≠ 0 → list 0x10 1) ∧
    (off % 16 = 0 → gr.holds off 8 = false → list 0x0B 0) ∧
    (off % 16 = 0 → gr.holds off 8 = true →
      ((n = 0 ∨ 32 < n) → list 0x10 2) ∧
      (0 < n → n ≤ 32 → head / 256 ≠ 0 → list 0x10 3) ∧
      (0 < n → n ≤ 32 → head / 256 = 0 → gr.holds off (8 + 8 * n) = false → list 0x0B 0) ∧
      (0 < n → n ≤ 32 → head / 256 = 0 → gr.holds off (8 + 8 * n) = true →
        let size := if blk then 32 * m.ty.bytes else m.ty.bytes
        let align := if blk then 16 else m.ty.bytes
        let lanes := if blk then (lowest z.act).toList else lanesOf z.act
        let addrs (l : Nat) : List Nat := (List.range n).map fun k =>
          (ofBytes (s.coreRead core (off + 8 + 8 * k) 8).1 + z.address m l) % 2 ^ 64
        let fails (k a : Nat) : Bool := match k with
          | 0 => decide (0x01FFFFFFFD000000 ≤ a)
          | 1 => decide (a % align ≠ 0)
          | 2 => blk && decide (0x01FFFFFFFD000000 ≤ a + size - 1)
          | _ => false
        (∀ k l a, k < 3 → l ∈ lanes → (addrs l).find? (fails k) = some a →
          (∀ j < k, ∀ i ∈ lanes, ∀ x ∈ addrs i, fails j x = false) → (∀ i ∈ lanes, i < l → ∀ x ∈ addrs i, fails k x = false) →
          exec (.mcst m blk b) s = .next (s.precise q c { cause := nth 0 [0x0C, 0x0D, 0x0E] k, addr := a,
                                                          lanes := laneSet fun i => lanes.contains i && (addrs i).any (fails k) })) ∧
        ((∀ k < 3, ∀ l ∈ lanes, ∀ x ∈ addrs l, fails k x = false) → 63 ≤ W.counter 1 →
          exec (.mcst m blk b) s = .next (stalled s q c gr)))))

/-! ### Matrix instructions -/

/-- R154 to R158, R160, R165 to R173: a product, a move of tile rows or a contraction whose checks pass and whose mma counter is
below 63 enters the queue of its core with its outstanding operation, clears the signs of the convergence register that it
checked, and a scaled product takes its entries from the scale FIFO. -/
def Obligations.MatrixOperationsQueue : Prop :=
  let product (i : Instr) (p : Prod) (gather : Option Opnd) : Prop :=
    ∀ s q c W g,
      let extra := match gather with
        | some c => vectorUse c
        | none => []
      Issues (matNeeds p.g ([rd p.a, rd p.b] ++ extra)) s q c W g →
      let z := sees q c W g p.g
      let sh := prodShape i
      let idx : List Word := match gather with
        | some c => (List.range 32).map fun l => W.src z.w c l
        | none => []
      let a := z.operand p.a (if gather.isSome then 0 else 32 * sh.wA)
      let b := z.operand p.b (32 * sh.wB)
      let rows := (idx.zipIdx.filter fun (v, _) => v ≠ 0xFFFFFFFF).map fun (v, l) =>
        ({ off := a.off + v.toNat * sh.wA, size := sh.wA, align := sh.wA, lanes := oneLane l } : StoreOperand)
      z.cvFault p.cv = none → (sh.blk ≠ 0 → W.scalesOk sh.sty = true) → z.storeFault [a, b] rows = none →
      s.bankFault z Bank.atUnit [p.tile.val / 2] = none → W.counter 3 < 63 →
      exec i s = .next (((if sh.blk ≠ 0 then s.onWarp c.warp fun W => { W with scales := W.scales.drop 66 } else s).queueOp z
        p.cv .zero { z.queued (some W.seq) (.product i p.tile.val p.zc) with
          aOff := a.off, bOff := b.off, aLen := 32 * sh.wA, bLen := 32 * sh.wB, vector := idx,
          scales := if sh.blk ≠ 0 then W.scales.take 66 else [] }).advance q)
  (∀ p, product (.mma p) p none) ∧ (∀ p c, product (.mmag p c) p (some c)) ∧ (∀ p, product (.mmas p) p none) ∧
  (∀ p u, product (.mmx p u) p none) ∧
  (∀ g u m o axis tr acc cv s q c W gr, Issues (matNeeds g [rd u, rd m, rd o]) s q c W gr →
    let z := sees q c W gr g
    z.cvFault cv = none → z.storeFault [z.operand u 2048, z.operand m 256, z.operand o 2048] [] = none →
    W.counter 3 < 63 →
    exec (.tcon8 g u m o axis tr acc cv) s = .next ((s.queueOp z cv .zero (z.queued (some W.seq)
      (.tensor (.tcon8 g u m o axis tr acc cv) (z.one u) (z.one m) (z.one o)))).advance q)) ∧
  (∀ g mode spec tile cv s q c W gr,
    let uses := match mode with
      | .a2v d => vectorUse d true
      | .v2a a => vectorUse a
      | .a2c a | .c2a a => [rd a]
    Issues (matNeeds g (uses ++ [rd spec])) s q c W gr →
    let z := sees q c W gr g
    let start := z.one spec % 32
    let n := z.one spec / 2 ^ 8 % 32 + 1
    let bank := tget { owner := 0, set := none, holders := 0 } (s.core (coreOf c.warp)).banks (tile.val / 2)
    z.cvFault cv = none → s.bankFault z (Bank.holds c.warp) [tile.val / 2] = none →
    z.one spec / 2 ^ 5 % 8 = 0 → z.one spec / 2 ^ 13 % 2 ^ 19 = 0 → start + n ≤ 32 →
    (bank.band c.warp).1 ≤ start → start + n ≤ (bank.band c.warp).2 → z.amvFault mode n = none → W.counter 3 < 63 →
    exec (.amv g mode spec tile cv) s = .next ((s.queueOp z cv .zero (z.queued (some W.seq) (match mode with
      | .a2v (.v r) => .toRegs tile.val start n r.val
      | .v2a (.v r) => .fromRegs tile.val start n ((List.range n).flatMap fun m =>
          (List.range 32).map fun l => tget 0 W.v (32 * (r.val + m) + l))
      | .a2c a => .toCore tile.val start n (z.one a)
      | .c2a a => .fromCore tile.val start n (z.one a)
      | _ => .toRegs tile.val start 0 0))).advance q))

/-- R159 to R164, R170: scales enter the FIFO until eight stand there; flush empties it; aalloc grants every bank of its mask or
none and writes the mask or zero; afree frees banks whose tokens are at the unit; acqa gives their tokens to a set of warps;
rela returns them. -/
def Obligations.ScalesAndBanks : Prop :=
  (∀ g ty a kindB cv s q c W gr, Issues (matNeeds g (vectorUse a)) s q c W gr → (sees q c W gr g).cvFault cv = none →
    let tag : Word := BitVec.ofNat 32 ((if ty = .e8m0 then 2 else 0) + b2n kindB)
    (W.scales.length < 8 * 33 → exec (.sfpush g ty a kindB cv) s = .next (s.wrote q c
      { W.clearSigns cv with scales := W.scales ++ tag :: (List.range 32).map fun l => W.src c.warp a l })) ∧
    (8 * 33 ≤ W.scales.length → exec (.sfpush g ty a kindB cv) s =
      .next (s.precise q c { cause := 0x12, lanes := activeLanes c W g }))) ∧
  (∀ g s q c W gr, Issues (matNeeds g []) s q c W gr →
    exec (.sfpushFlush g) s = .next (s.wrote q c { W with scales := [] })) ∧
  (∀ g d mask s q c W gr, Issues (matNeeds g [wr d]) s q c W gr →
    let core := coreOf c.warp
    let banks := (s.core core).banks
    let fresh := (banksOf mask).filter fun b => (tfind banks b).isNone
    (mask &&& ~~~gr.accMask ≠ 0 → exec (.aalloc g d mask) s =
      .next (s.precise q c { cause := 0x11, sub := 4, lanes := activeLanes c W g })) ∧
    (mask &&& ~~~gr.accMask = 0 → (∃ b ∈ banksOf mask, ∃ k, tfind banks b = some k ∧ k.owner ≠ groupOf c.warp) →
      exec (.aalloc g d mask) s = .next (s.wrote q c (W.dst d (activeLanes c W g) fun _ => 0))) ∧
    (mask &&& ~~~gr.accMask = 0 → (∀ b ∈ banksOf mask, ∀ k, tfind banks b = some k → k.owner = groupOf c.warp) →
      let t := s.onCore core fun y => { y with
        banks := fresh.foldl (fun t b => tput t b { owner := groupOf c.warp, set := none, holders := 0 }) y.banks }
      let t := if fresh.isEmpty then t else t.enqueue core ((sees q c W gr g).queued none
        (.zero (BitVec.ofNat 32 (fresh.foldl (fun n b => n + 2 ^ b) 0))))
      exec (.aalloc g d mask) s =
        .next ((t.onWarp c.warp fun W => W.dst d (activeLanes c W g) fun _ => mask).advance q))) ∧
  (∀ g mask s q c W gr, Issues (matNeeds g []) s q c W gr →
    let z := sees q c W gr g
    let t := s.onCore (coreOf c.warp) fun y => { y with banks := (banksOf mask).foldl tdel y.banks }
    s.bankFault z Bank.atUnit (banksOf mask) = none →
    exec (.afree g mask) s = .next ((if mask = 0 then t else t.enqueue (coreOf c.warp) (z.queued none (.drop mask))).advance q)) ∧
  (∀ g a mask s q c W gr, Issues (matNeeds g [rd a true]) s q c W gr →
    let z := sees q c W gr g
    let set := BitVec.ofNat 64 (z.one64 a)
    s.bankFault z Bank.atUnit (banksOf mask) = none → s.setAllowed z (z.one64 a) = true →
    exec (.acqa g a mask) s = .next ((s.onCore (coreOf c.warp) fun y => { y with
      banks := (banksOf mask).foldl (fun t b => tput t b { owner := groupOf c.warp, set := some set, holders := set })
        y.banks }).advance q)) ∧
  (∀ g mask s q c W gr, Issues (matNeeds g []) s q c W gr → s.bankFault (sees q c W gr g) (Bank.holds c.warp) (banksOf mask) = none →
    exec (.rela g mask) s = .next ((s.onCore (coreOf c.warp) fun y => { y with
      banks := (banksOf mask).foldl (fun t b => tmap (Bank.leave c.warp) t b) y.banks }).advance q))

/-! ### Engine instructions -/

/-- R174 to R181: a command whose operands pass the checks of R176 and whose counter is below 63 is handed to its engine with its
outstanding operation: a submission and an abort to a root engine of the warp's die, a block to the canopy engine it names, a token or
attempt abort to a canopy engine of the warp's die (that it is engine 0: log entry 24), a multicast store to the memory path, a record
fence to the record caches. -/
def Obligations.EngineCommandsAreHandedOver : Prop :=
  let op (z : Ctx) (cls : Option Nat) (kind : OpKind) (scope : Scope) : Op :=
    { z.op cls kind with scope := scope, order := .rel }
  let canopy (s : State) (z : Ctx) (scope : Scope) (n : Nat) (msg : CanopyMsg) : State :=
    (s.onCanopy (dieOf z.w * 2 + n) fun y =>
      { y with front := y.front ++ [{ warp := z.w, seq := z.W.seq, clause := z.c.h, index := z.c.index, scope := scope,
                                      dispatch := z.g.dispatch, slot := z.g.slot, msg := msg }] })
  (∀ g scope d a b k s q c W gr, Issues (engNeeds g [rd d true, rd a true, rd b, rd k true]) s q c W gr →
    let z := sees q c W gr g
    z.one64 a % 16 = 0 → z.one64 a < 2 ^ 57 → z.one64 k % 16 = 0 → z.one64 k < 2 ^ 57 → z.one b < 32 → W.counter 6 < 63 →
    exec (.rsub g scope d a b k) s = .next (((s.pushOp c.warp (op z (some 6) .submit scope)).onRoot
      (dieOf c.warp * 32 + z.one b) fun r => { r with
        front := r.front ++ [Prog.fresh gr.dispatch gr.slot (some (c.warp, W.seq)) scope (z.one64 a)
          (BitVec.ofNat 64 (z.one64 d)) (z.one64 k)] }).advance q)) ∧
  (∀ g scope a s q c W gr, Issues (engNeeds g [rd a]) s q c W gr →
    let z := sees q c W gr g
    z.one a < 32 → W.counter 6 < 63 →
    exec (.abortRoot g scope a) s = .next (((s.pushOp c.warp (op z (some 6) .post scope)).onRoot
      (dieOf c.warp * 32 + z.one a) fun r => { r with
        aborts := r.aborts ++ [{ warp := c.warp, seq := W.seq, scope := scope, dispatch := gr.dispatch,
                                 ctxs := none }] }).advance q)) ∧
  (∀ g scope a b s q c W gr, Issues (engNeeds g [rd a true, rd b]) s q c W gr →
    let z := sees q c W gr g
    z.one64 a % 128 = 0 → z.one64 a < 2 ^ 57 → z.one b < 2 → W.counter 4 < 63 →
    exec (.cpost g scope a b) s = .next ((canopy (s.pushOp c.warp (op z (some 4) .post scope)) z scope (z.one b)
      (.post (z.one64 a))).advance q)) ∧
  (∀ g scope a b s q c W gr, Issues (engNeeds g [rd a, rd b]) s q c W gr →
    let z := sees q c W gr g
    z.one b < 0x400 → W.counter 4 < 63 →
    exec (.ctok g scope a b) s = .next ((canopy (s.pushOp c.warp (op z (some 4) .post scope)) z scope 0
      (.token (z.one a) (if z.one b = 0x3FF then dieOf c.warp else z.one b))).advance q)) ∧
  (∀ g scope a b s q c W gr, Issues (engNeeds g [rd a, rd b]) s q c W gr →
    let z := sees q c W gr g
    z.one a < 256 → z.one b / 2 ^ 16 % 2 ^ 16 = 0 → W.counter 4 < 63 →
    exec (.abort g scope a b) s = .next ((canopy (s.pushOp c.warp (op z (some 4) .post scope)) z scope 0
      (.abort (z.one a) (z.one b % 2 ^ 16))).advance q)) ∧
  (∀ g scope a s q c W gr, Issues (engNeeds g (if a = .zero then [] else [rd a true])) s q c W gr →
    let z := sees q c W gr g
    (a = .zero ∨ (z.one64 a % 64 = 0 ∧ z.one64 a < 2 ^ 57)) →
    let t := s.onWarp c.warp fun V => { V with seq := V.seq + 1 }
    exec (.rfence g scope a) s = .next ((t.addFence { warp := c.warp, seq := W.seq, die := dieOf c.warp, scope := scope
                                                      slot := gr.slot
                                                      record := if a = .zero then none else some (z.one64 a) }).advance q)) ∧
  (∀ m blk b s q c W gr bases, Issues (engNeeds m.g [rd m.d (m.ty.bytes = 8), rd m.a true, rd b]) s q c W gr →
    let z := sees q c W gr m.g
    let n := m.ty.bytes
    let sh : Shape := if blk then { size := 32 * n, align := 16, block := true } else { size := n, align := n }
    let addr (base l : Nat) : Nat := (base + z.address m l) % 2 ^ 64
    let first := (lowest z.act).getD 0
    s.mcstList z b = .ok bases → mcstFault sh (sh.lanes z.act) (fun l => bases.map fun base => addr base l) = none →
    W.counter 1 < 63 →
    exec (.mcst m blk b) s = .next ((s.pushOp c.warp { z.op (some 1) .multicast with
      order := m.order, scope := m.scope, ty := m.ty
      acc := bases.zipIdx.flatMap fun (base, k) => (lanesOf z.act).map fun l =>
        ({ lane := l, dest := k, loc := .global (if blk then addr base first + n * l else addr base l), size := n,
           data := regBytes m.d n z l, cmp := 0, done := false } : Access) }).advance q))

/-- R176, R182 to R185: cambium instructions of a cambium dispatch whose operands are good reach their engines: a declaration every
cluster site of the dispatch, a sweep and a wake the engine of the warp's site; byield ends the run of each active lane's bud
with its clause, mode, time and argument; bstate waits for its answers. -/
def Obligations.CambiumCommandsAreHandedOver : Prop :=
  let op (z : Ctx) (cls : Option Nat) (kind : OpKind) (scope : Scope) : Op :=
    { z.op cls kind with scope := scope, order := .rel }
  (∀ g scope a b s q c W gr, Issues (engNeeds g [rd a true, rd b]) s q c W gr →
    let z := sees q c W gr g
    let n := z.one b
    let t := (s.pushOp c.warp (op z (some 7) (.cambium 0) scope)).onDispatch gr.dispatch fun d =>
      { d with named := if d.named.contains n then d.named else n :: d.named }
    z.one64 a % 64 = 0 → z.one64 a < 2 ^ 57 → n < 4 → s.cambial z = true → W.counter 7 < 63 →
    exec (.cdecl g scope a b) s = .next (((t.sitesOf gr.dispatch).foldl
      (fun t site => t.toCambium z scope site (.declare n (z.one64 a) scope))
      (t.onWarp c.warp fun V => V.onOp W.seq fun o => { o with kind := .cambium (t.sitesOf gr.dispatch).length })).advance q)) ∧
  (∀ g scope d a b k s q c W gr, Issues (engNeeds g [rd d true, rd a, rd b, rd k]) s q c W gr →
    let z := sees q c W gr g
    (d = .zero ∨ (z.one64 d % 8 = 0 ∧ z.one64 d < 2 ^ 57)) → (z.one k = 0xFFFFFFFF ∨ z.one k % 16 = 0) → z.one a < 4 →
    z.one b / 2 ^ 16 % 2 ^ 16 = 0 → s.cambial z = true → s.slotNamed z (z.one a) = true → W.counter 7 < 63 →
    exec (.sweep g scope d a b k) s = .next (((s.pushOp c.warp (op z (some 7) (.cambium 1) scope)).toCambium z scope
      (siteOf (coreOf c.warp)) (.sweep (z.one a) (z.one b % 2 ^ 16) (if d = .zero then none else some (z.one64 d))
        (if z.one k = 0xFFFFFFFF then none else some (z.one k)))).advance q)) ∧
  (∀ g scope retire a b k s q c W gr, Issues { engNeeds g [rd a, rd b, rd k true] with ends := true } s q c W gr →
    let z := sees q c W gr g
    let v (l : Nat) : Nat := (W.src c.warp a l).toNat
    laneFault z.act [(3, fun l => bits (v l) 31 24 ≠ 0), (4, fun l => (tfind W.buds l).isNone),
      (5, fun l => s.nbud z ≤ bits (v l) 15 0 || 3 ≤ bits (v l) 23 16)] = none →
    exec (.byield g scope retire a b k) s = .next (((lanesOf z.act).foldl (fun s l =>
      match tfind W.buds l with
      | none => s
      | some (slot, element) => s.onCambium (siteOf (coreOf c.warp)) fun e => { e with
          ends := e.ends ++ [{ warp := c.warp, seq := W.seq, dispatch := gr.dispatch, slot := slot, element := element,
                               yielded := some (retire, bits (v l) 15 0, bits (v l) 23 16, (W.src c.warp b l).toNat,
                                 W.src64 c.warp k l),
                               clause := c.h, index := c.index, scope := scope }] })
      (s.onWarp c.warp fun _ => (lanesOf z.act).foldl (fun V l => (V.setStatus l .exited).leaveSets l)
        { W with seq := W.seq + 1, exits := if W.handler then W.exits ||| z.act else W.exits })).advance q)) ∧
  (∀ next g scope a b s q c W gr, Issues (engNeeds g [rd a, rd b]) s q c W gr →
    let z := sees q c W gr g
    s.slotFault z b = none → W.counter 7 < 63 →
    exec (if next then .bwakeNext g scope a b else .bwakeNow g scope a b) s =
      .next (((lanesOf z.act).foldl (fun s l => s.toCambium z scope (siteOf (coreOf c.warp))
        (.wake (W.src c.warp b l).toNat (W.src c.warp a l).toNat next))
        (s.pushOp c.warp (op z (some 7) (.cambium (lanesOf z.act).length) scope))).advance q)) ∧
  (∀ g d a b s q c W gr, Issues (engNeeds g [wr d, rd a, rd b]) s q c W gr →
    let z := sees q c W gr g
    s.slotFault z b = none → W.counter 0 < 63 →
    exec (.bstate g d a b) s = .next ((s.pushOp c.warp { z.op (some 0) .bud with
      dst := d
      acc := (lanesOf z.act).map fun l =>
        ({ lane := l, dest := (W.src c.warp b l).toNat, loc := .global 0, size := 0, data := [],
           cmp := (W.src c.warp a l).toNat, done := false } : Access) }).advance q))

/-! ### Engine commands -/

/-- R190, R191: arithmetic and branch commands. Each changes at most one engine register, modulo 2^64, never g0; moves to the
command after it or to the command address plus 16 × sext(IMM); counts as a started command whose address the status record
will name; and changes nothing outside its engine. -/
def Obligations.EngineArithmeticAndBranches : Prop :=
  let signed (v : Nat) : Int := if v < 2 ^ 63 then v else (v : Int) - 2 ^ 64
  let holds (c : MCond) (a b : Nat) : Bool :=
    match c with
    | .eq => a = b
    | .ne => a ≠ b
    | .ltu => a < b
    | .geu => b ≤ a
    | .lts => signed a < signed b
    | .ges => signed b ≤ signed a
  let runs (i : Instr) (value : Prog → Option (Fin 16 × Int)) (jump : Prog → Option Word) : Prop :=
    ∀ s e p, Starts s e p → ∃ t q, exec i s = .next t ∧ t.prog? e = some q ∧ q.phase = .running ∧ q.writes = p.writes ∧
      (∀ n : Fin 16, q.g n =
        match value p with
        | some (fa, v) => if n = fa ∧ n.val ≠ 0 then (v % 2 ^ 64).toNat else p.g n
        | none => p.g n) ∧
      q.pc = (match jump p with
        | some imm => ((p.pc + 16 * imm.toInt) % 2 ^ 64).toNat
        | none => (p.pc + 16) % 2 ^ 64) ∧
      (p.internal = false → q.ncmd = min (2 ^ 32 - 1) (p.ncmd + 1) ∧ q.caddr = p.pc) ∧
      t.mem = s.mem ∧ t.comp = s.comp ∧ t.ctl = s.ctl ∧ t.dies = s.dies ∧ t.mod = s.mod
  runs .cmdNop (fun _ => none) (fun _ => none) ∧
  (∀ fa x, runs (.cmdSeti fa x) (fun _ => some (fa, x.toNat)) fun _ => none) ∧
  (∀ fa fb x, runs (.cmdAddi fa fb x) (fun p => some (fa, p.g fb + x.toNat)) fun _ => none) ∧
  (∀ fa fb fc imm, runs (.cmdAdd fa fb fc imm) (fun p => some (fa, p.g fb + p.g fc + imm.toInt)) fun _ => none) ∧
  (∀ fa fb fc x, runs (.cmdMad fa fb fc x) (fun p => some (fa, p.g fb * p.g fc + x.toNat)) fun _ => none) ∧
  (∀ imm, runs (.cmdBr imm) (fun _ => none) fun _ => some imm) ∧
  (∀ fa fb c imm, runs (.cmdBrc fa fb c imm) (fun _ => none) fun p => if holds c (p.g fa) (p.g fb) then some imm else none) ∧
  (∀ fa imm, runs (.cmdLoop fa imm) (fun p => some (fa, (p.g fa : Int) - 1)) fun p =>
    if fa.val ≠ 0 ∧ p.g fa ≠ 1 then some imm else none)

/-- R191 to R193: memory commands. LDG reads 8 bytes fresh; STG holds its 8 bytes until they are performed, with .rel only
after every earlier write; ATOM adds in the home and returns the old value; MOVE and SUM hold what they write, each write at its
command's place; an access that fails ends the program with its code; FENCE waits for
earlier writes; END writes its status record once its writes are performed. Misaligned addresses end the program with code 8,
overlapping moves with code 9, opcodes from 0x19 with code 1. -/
def Obligations.EngineMemoryCommands : Prop :=
  let at' (p : Prog) (fb : Fin 16) (x : Double) : Nat := (p.g fb + x.toNat) % 2 ^ 64
  let walked (t : State) (e : EngRef) (p : Prog) (a n : Nat) : State := t.keepWalks (engDie e) p.slot a n .write
  let held (t : State) (e : EngRef) (p : Prog) (a : Nat) (b : List Byte) : State :=
    let t := walked t e p a b.length
    if b.isEmpty then t else t.onProg e fun q => { q with writes := q.writes ++ [{ place := p.issued + 1, va := a, bytes := b }] }
  (∀ fa fb (x : Double) s e p, Starts s e p false false [(at' p fb x, 8)] →
    let t := s.started e
    let a := at' p fb x
    (a % 8 ≠ 0 → exec (.cmdLdg fa fb x) s = .next (t.progFault e 8)) ∧
    (∀ b, a % 8 = 0 → t.engRead (engDie e) p.slot a 8 = .ok b →
      exec (.cmdLdg fa fb x) s = .next (t.setReg e fa (ofBytes b))) ∧
    (∀ c, a % 8 = 0 → t.engRead (engDie e) p.slot a 8 = .error c →
      exec (.cmdLdg fa fb x) s = .next (t.progError e c [(a, 8)]))) ∧
  (∀ fa fb (x : Double) rel s e p, Starts s e p rel →
    let t := s.started e
    let a := at' p fb x
    (a % 8 ≠ 0 → exec (.cmdStg fa fb x rel) s = .next (t.progFault e 8)) ∧
    (a % 8 = 0 → t.engWriteFault (engDie e) p.slot a 8 = none →
      exec (.cmdStg fa fb x rel) s = .next (held t e p a (toBytes 8 (p.g fa)))) ∧
    (∀ c, a % 8 = 0 → t.engWriteFault (engDie e) p.slot a 8 = some c →
      exec (.cmdStg fa fb x rel) s = .next ((walked t e p a 8).progFault e c))) ∧
  (∀ fa fb (x : Double) s e p b, Starts s e p false false [(p.g fb, 8)] → p.g fb % 8 = 0 →
    let t := s.started e
    t.engWriteFault (engDie e) p.slot (p.g fb) 8 = none → t.engRead (engDie e) p.slot (p.g fb) 8 = .ok b →
    exec (.cmdAtom fa fb x) s = .next ((t.engWrite (engDie e) p.dispatch p.slot (p.g fb)
      (toBytes 8 ((ofBytes b + x.toNat) % 2 ^ 64))).setReg e fa (ofBytes b))) ∧
  (∀ fa fb (imm : Word) s e p, Starts s e p false true [(p.g fb, imm.toNat)] →
    let t := s.started e true
    let n := imm.toNat
    (overlaps (p.g fa) n (p.g fb) n = true → exec (.cmdMove fa fb imm) s = .next (t.progFault e 9)) ∧
    (∀ b, overlaps (p.g fa) n (p.g fb) n = false → t.engRead (engDie e) p.slot (p.g fb) n = .ok b →
      t.engWriteFault (engDie e) p.slot (p.g fa) b.length = none →
      exec (.cmdMove fa fb imm) s = .next (held t e p (p.g fa) b)) ∧
    (∀ c, overlaps (p.g fa) n (p.g fb) n = false → t.engRead (engDie e) p.slot (p.g fb) n = .error c →
      exec (.cmdMove fa fb imm) s = .next (t.progError e c [(p.g fb, n)]))) ∧
  (∀ fa fb fc (imm : Word) bf16 s e p x y, Starts s e p false true [(p.g fa, imm.toNat), (p.g fb, imm.toNat)] →
    let t := s.started e true
    let n := imm.toNat
    let es := if bf16 then 2 else 4
    n % es = 0 → p.g fa % es = 0 → p.g fb % es = 0 → p.g fc % es = 0 →
    (p.g fc = p.g fa ∨ overlaps (p.g fc) n (p.g fa) n = false) →
    (p.g fc = p.g fb ∨ overlaps (p.g fc) n (p.g fb) n = false) →
    t.engRead (engDie e) p.slot (p.g fa) n = .ok x → t.engRead (engDie e) p.slot (p.g fb) n = .ok y →
    t.engWriteFault (engDie e) p.slot (p.g fc) (sumArrays bf16 x y).length = none →
    exec (.cmdSum fa fb fc imm bf16) s = .next (held t e p (p.g fc) (sumArrays bf16 x y))) ∧
  (∀ scope : Scope, 2 ≤ scope.level → ∀ s e p, Starts s e p true → exec (.cmdFence scope) s = .next (s.started e)) ∧
  (∀ s e p, Starts s e p true → exec .cmdEnd s =
    .next (((s.started e).onProg e fun q => { q with phase := .finishing 1 0, holdsChunk := false }).tryFinish e)) ∧
  (∀ opc s e p, Starts s e p → exec (.cmdBadOpcode opc) s = .next ((s.started e).progFault e 1))

/-- R191, R192, R237, R246, R248, R273, R275, R277, R325: PUSH and PUSHMC whose record and descriptors are good enter one transfer per
descriptor in list order; STEP moves the coordinates by one tile; SIG adds IMM to the arrived bytes of the barrier, TOK sends
its token, both after every earlier write; a barrier that cannot be corrected ends the program; RED contributes to its tree under the
next sequence number of the die, a leaf whose source fails ends its attempt or its program, and in a ring or direct collective a RED
waits for its block or starts it (that a direct collective goes in parts like a ring: log entry 62); CHUNK gives the slot up. -/
def Obligations.EnginePushAndSignalCommands : Prop :=
  let counts (s : State) (e : EngRef) (p : Prog) (comm : BitVec 8) : State :=
    (s.started e true).onDie (engDie e) fun d => { d with
      comms := tmap (fun c => { c with seq := c.seq + 1 }) d.comms (p.slot * 256 + comm.toNat) }
  (∀ fa fb fc s e p t r l, Starts s e p false true [(p.g fb, 64)] → s.descSaved p.dispatch (p.g fa) = false →
    (s.started e true).pushRecord e p.slot (p.g fb) (p.g fc) = (t, .ok r) →
    t.checkDescs (engDie e) p.dispatch (recSize r.toNat) [p.g fa] = .ok l →
    exec (.cmdPush fa fb fc) s = .next (t.startPush e p r (p.g fc) false l)) ∧
  (∀ fa fb fc (imm : Word) s e p t r ds l, Starts s e p false true [(p.g fa, 8 * imm.toNat), (p.g fb, 64)] →
    1 ≤ imm.toNat → imm.toNat ≤ 32 →
    (∀ ds, (s.passTurn e).descList e p (p.g fa) imm.toNat = .ok ds → ∀ d ∈ ds, s.descSaved p.dispatch d = false) →
    (s.started e true).pushRecord e p.slot (p.g fb) (p.g fc) = (t, .ok r) →
    t.descList e p (p.g fa) imm.toNat = .ok ds → t.checkDescs (engDie e) p.dispatch (recSize r.toNat) ds = .ok l →
    exec (.cmdPushmc fa fb fc imm) s = .next (t.startPush e p r (p.g fc) true l)) ∧
  (∀ fa fb s e p t r, Starts s e p false false [(p.g fb, 64)] →
    (s.started e).pushRecord e p.slot (p.g fb) (p.g fa) = (t, .ok r) →
    exec (.cmdStep fa fb) s = .next (t.setReg e fa (stepCoords r.toNat (p.g fa)))) ∧
  (∀ fa (imm : Word) s e p, Starts s e p true → s.signalWaits e p (p.g fa) = false →
    let t := s.started e
    let d := descOf (p.g fa)
    (bits (p.g fa) 63 58 ≠ 0 → exec (.cmdSig fa imm) s = .next (t.progFault e 4)) ∧
    (bits (p.g fa) 63 58 = 0 → t.barFault (engDie e) p.dispatch d = none → exec (.cmdSig fa imm) s = .next
      (match d.bar with
        | some o => if t.barPoison d.core o then t.progBadData e o else t.arrive d.core o imm.toNat
        | none => t))) ∧
  (∀ (imm : Word) die s e p, Starts s e p true →
    let d := if die.toNat = 0x3FF then engDie e else die.toNat
    (s.started e).dieUp d = true →
    exec (.cmdTok imm die) s = .next ((s.started e).send (engDie e) (.token p.slot imm.toNat d none))) ∧
  (∀ fa fb (imm : Word) (comm : BitVec 8) bf16 s e p c,
    Starts s e p false true (p.redReads 1024 (p.g fa) imm.toNat) → isCanopy e = true →
    tfind (s.die (engDie e)).comms (p.slot * 256 + comm.toNat) = some c →
    let key := c.seq * 256 + comm.toNat
    let node := lowestRank c.members 0 c.rank
    (∀ b, p.tree = true → (s.started e true).contributed e p c (p.g fa) imm.toNat = .ok b →
      exec (.cmdRed fa fb imm comm bf16) s = .next
        (((counts s e p comm).onProg e fun q =>
          { q with reds := tput q.reds key
                     { place := p.issued + 1, src := p.g fa, dst := p.g fb, length := imm.toNat, block := none } }).send (engDie e)
          (.child p.slot comm.toNat c.attempt c.seq 0 c.rank node (nth 0 c.members node)
            { op := p.op, bf16 := bf16, length := imm.toNat, data := elements bf16 b }))) ∧
    (∀ k, p.tree = true → (s.started e true).contributed e p c (p.g fa) imm.toNat = .error k →
      let rs := p.redReads c.members.length (p.g fa) imm.toNat
      let t := (s.started e true).engMark (engDie e) p.slot rs
      exec (.cmdRed fa fb imm comm bf16) s = .next
        (if k = 3 then (t.consume p.dispatch (engDie e) 6 (t.badPlace (engDie e) p.slot rs)).sendAbort p.slot (engDie e)
          comm.toNat c.attempt
        else t.progFault e k)) ∧
    (p.tree = false →
      let block := p.g 5
      let w : RedWait := { place := p.issued + 1, src := p.g fa, dst := p.g fb, length := imm.toNat, block := some block }
      let t := (counts s e p comm).onProg e fun q => { q with reds := tput q.reds key w }
      let first := if p.op = 0 ∨ p.op = 4 then (block + 1) % c.members.length else block
      (c.rank ≠ first → exec (.cmdRed fa fb imm comm bf16) s = .next t) ∧
      (∀ b, c.rank = first → t.engRead (engDie e) p.slot (p.g fa) imm.toNat = .ok b →
        exec (.cmdRed fa fb imm comm bf16) s =
          .next (t.passPart e p c comm.toNat key block (p.op = 0 || p.op = 4) w b)))) ∧
  (∀ s e p, Starts s e p →
    let t := (s.started e).onProg e fun q => { q with holdsChunk := false }
    (p.internal = false ∨ p.tree = true → exec .cmdChunk s = .next t) ∧
    -- how many commands the expansion of a ring or direct collective counts is a free value (log entry 62)
    (p.internal = true → p.tree = false → exec .cmdChunk s =
      .next (t.free.2.onProg e fun q => { q with ncmd := min (2 ^ 32 - 1) (q.ncmd + t.free.1) })))

/-- R228, R270, R273, R277: how a block of a ring or direct collective goes on from a rank. A sum goes from its rank to the next
until the block's own rank has added; the ranks that only add for a reduce-scatter are then done. A finished block is written at the
destination; a reduce-scatter leaves it there, ALG 2 sends it from its rank to every other member, and a ring passes it on until the
rank before the block's has it. That a block goes from engine to engine as parts, in the direct form too, is the model's choice (log
entry 62). -/
def Obligations.RingPassesBlocks : Prop :=
  ∀ (s : State) e p c comm key block w bytes,
    let n := c.members.length
    let next := (c.rank + 1) % n
    let pass (s : State) (rank : Nat) (adding : Bool) : State :=
      s.send (engDie e) (.part p.slot comm c.attempt (key / 256) block adding (nth 0 c.members rank) bytes)
    let took := s.takePart e p key w bytes
    (c.rank ≠ block → p.op ≠ 4 → s.passPart e p c comm key block true w bytes = pass s next true) ∧
    (c.rank ≠ block → p.op = 4 → s.passPart e p c comm key block true w bytes =
      ((pass s next true).onProg e fun q => { q with reds := tdel q.reds key }).tryFinish e) ∧
    (c.rank = block → p.op = 4 → s.passPart e p c comm key block true w bytes = took) ∧
    (∀ b, p.block = some b → p.op ≠ 4 → bits b.toNat 415 412 = 2 →
      (c.rank = block → ∀ adding, s.passPart e p c comm key block adding w bytes =
        ((List.range n).filter (· ≠ block)).foldl (fun t r => pass t r false) took) ∧
      (c.rank ≠ block → s.passPart e p c comm key block false w bytes = took)) ∧
    (∀ b adding, p.block = some b → p.op ≠ 4 → bits b.toNat 415 412 = 1 → (adding = true → c.rank = block) →
      s.passPart e p c comm key block adding w bytes = if next = block then took else pass took next false)

/-- R191 to R193, R278, R325: a waiting command whose condition holds lets its program run on, and WTOK with .consume takes one
token; whose condition does not hold gives its chunk slot up and waits, to be judged again (R92), until a timeout ends it with
code 5; a word or barrier whose reading fails ends the program. A push that waits for credit is charged further. -/
def Obligations.EngineWaits : Prop :=
  let deadline (s : State) (tmo : BitVec 28) : Option Nat := if tmo = 0 then none else some (s.rt + tmo.toNat)
  let waits (i : Instr) (t : State) (e : EngRef) (d : Option Nat) : State :=
    t.onProg e fun q => { q with phase := .waiting i d, holdsChunk := false }
  let resumes (t : State) (e : EngRef) : State := t.onProg e fun q => { q with phase := .running }
  (∀ (imm : Word) consume tmo s e p, Starts s e p →
    let t := s.started e
    let i : Instr := .cmdWtok imm consume tmo
    let n := t.tokens (engDie e) p.slot imm.toNat
    (1 ≤ n → exec i s = .next (if consume then (resumes t e).setTokens (engDie e) p.slot imm.toNat (n - 1)
      else resumes t e)) ∧
    (n = 0 → exec i s = .next (waits i t e (deadline s tmo)))) ∧
  (∀ fa phase tmo s e p o, Starts s e p → s.descSaved p.dispatch (p.g fa) = false → bits (p.g fa) 63 58 = 0 →
    let t := s.started e
    let i : Instr := .cmdWbar fa phase tmo
    let d := descOf (p.g fa)
    t.barFault (engDie e) p.dispatch d = none → d.bar = some o →
    (t.barPoison d.core o = true → exec i s = .next (t.progBadData e o)) ∧
    (t.barPoison d.core o = false → t.barrierPhase d.core o = b2n phase → exec i s = .next (resumes t e)) ∧
    (t.barPoison d.core o = false → t.barrierPhase d.core o ≠ b2n phase → exec i s = .next (waits i t e (deadline s tmo)))) ∧
  (∀ fa fb cmp wide tmo s e p b, Starts s e p false false [(p.g fa, if wide then 8 else 4)] → p.g fa % (if wide then 8 else 4) = 0 →
    let t := s.started e
    let i : Instr := .cmdWmem fa fb cmp wide tmo
    let met := compareAt (if wide then 64 else 32) (MCond.num cmp) (ofBytes b) (p.g fb)
    t.engRead (engDie e) p.slot (p.g fa) (if wide then 8 else 4) = .ok b →
    exec i s = .next (if met then resumes t e else waits i t e (deadline s tmo))) ∧
  (∀ s e p cmd d, s.prog? e = some p → p.phase = .waiting cmd d →
    (s.engineCond e p cmd = .ok true → exec (.engineWaitMet e) s = .next (s.waitDone e p cmd)) ∧
    (s.engineCond e p cmd = .ok false → exec (.engineWaitMet e) s = .next (waits cmd s e d)) ∧
    (∀ c, s.engineCond e p cmd = .error c →
      (∀ fa phase tmo, cmd = .cmdWbar fa phase tmo →
        exec (.engineWaitMet e) s = .next (s.progBadData e ((descOf (p.g fa)).bar.getD 0))) ∧
      (∀ fa fb cmp wide tmo, cmd = .cmdWmem fa fb cmp wide tmo →
        exec (.engineWaitMet e) s = .next (s.progError e c [(p.g fa, if wide then 8 else 4)]))) ∧
    (∀ t, d = some t → t ≤ s.rt → exec (.engineWaitTimeout e) s = .next (s.progFault e 5))) ∧
  (∀ s e p l, s.prog? e = some p → p.phase = .charging l → exec (.engineWaitMet e) s = .next (s.pushOn e l))

/-! ### Arbitration, boundaries, traps -/

/-- R88, R205, R206: a free quarter of a core that runs picks a ready warp and passes every other ready one
over; no warp of the quarter counts as having yielded after it. A warp that yielded goes after the rest, before the cap on passes is
asked (log entry 21); then a warp passed over 64 times or more, by earliest ready time; otherwise the highest priority, then without
YHINT before with it, then the earliest ready time. -/
def Obligations.ArbitrationFollowsItsOrder : Prop :=
  ∀ s q, tfind s.comp.clauses q = none → s.coreUp (coreOfQuarter q) = true →
    (s.die (dieOfCore (coreOfQuarter q))).clock.stepping = none → s.readyWarps q ≠ [] →
    ∃ w ∈ s.readyWarps q,
      (let t := (s.readyWarps q).foldl (fun s v => s.onWarp v fun V =>
        { V with passed := if v = w then 0 else V.passed + 1 }) s
       let u := ((tkeys t.comp.warps).filter fun v => quarterOf v = q).foldl (fun s v =>
        s.onWarp v fun V => { V with yielded := false }) t
       exec (.arbitrate q) s = .next ((u.progress (coreOfQuarter q) (u.ctxOfWarp w)).startClause q w)) ∧
      ∀ v ∈ s.readyWarps q,
        let W := s.warp w
        let V := s.warp v
        (W.yielded = true → V.yielded = true) ∧
        (V.yielded = W.yielded →
          (64 ≤ V.passed → 64 ≤ W.passed ∧ W.readyAt ≤ V.readyAt) ∧
          (W.passed < 64 → s.prio v ≤ s.prio w ∧
            (s.prio v = s.prio w → (W.yhint = true → V.yhint = true) ∧ (V.yhint = W.yhint → W.readyAt ≤ V.readyAt))))

/-- R79, R83: the steps of a boundary. A thread that took part moves to its branch target or the next clause, and no other
thread moves; no thread stays held at a sign of a complete convergence register; a running thread never stands at its own
meeting address; a thread stays held at a meeting only while a thread with the same mr runs or is held at a sign; the issuing
pc is the lowest among running threads; with none running but some left the warp raises the convergence fault at the lowest pc;
with none left it ends. No register, predicate, convergence register or FPST changes. -/
def Obligations.BoundaryStepsConverge : Prop :=
  ∀ (W : Warp) took next targets signed,
    let V := W.boundarySteps took next targets signed
    (∀ l, l < 32 → V.pcOf l = if inSet took l then tget next targets l else W.pcOf l) ∧
    (∀ l, l < 32 → (V.statusOf l = .exited ↔ W.statusOf l = .exited)) ∧
    (∀ l n, l < 32 → n < 8 → V.statusOf l = .sign → (tget 0 V.heldCv l).testBit n = true → W.cvComplete n = false) ∧
    (∀ l, l < 32 → V.statusOf l = .running → V.mrOf l = 0 ∨ V.pcOf l ≠ V.mrOf l) ∧
    (∀ l, l < 32 → V.statusOf l = .meeting →
      ∃ m, m < 32 ∧ V.mrOf m = V.mrOf l ∧ (V.statusOf m = .running ∨ V.statusOf m = .sign)) ∧
    ((∃ l, l < 32 ∧ V.statusOf l = .running) →
      (∃ l, l < 32 ∧ V.statusOf l = .running ∧ V.pcOf l = V.issuePc) ∧ V.faults = W.faults ∧
      ∀ l, l < 32 → V.statusOf l = .running → V.issuePc ≤ V.pcOf l) ∧
    ((∀ l, l < 32 → V.statusOf l ≠ .running) → (∃ l, l < 32 ∧ V.statusOf l ≠ .exited) →
      ∃ f, V.faults = W.faults ++ [f] ∧ f.cause = 7 ∧ f.index = 16 ∧ f.clause = V.issuePc ∧
        (∃ l, l < 32 ∧ V.statusOf l ≠ .exited ∧ V.pcOf l = f.clause) ∧
        ∀ l, l < 32 → V.statusOf l ≠ .exited → f.clause ≤ V.pcOf l) ∧
    ((∀ l, l < 32 → V.statusOf l = .exited) → V.phase = .ended ∧ V.faults = W.faults) ∧
    V.v = W.v ∧ V.k = W.k ∧ V.preds = W.preds ∧ V.cvs = W.cvs ∧ V.fpst = W.fpst

/-- R27, R56, R64, R83, R94, R209, R313: at the end of a clause its pending writes are applied, then what ended it takes effect: the
steps of R83, a wait that goes on, a bar that is about to arrive, a fault with no step 2, a return from the handler, which brings back
the ldw instructions that a deadlock fault withdrew; the quarter is free; the warp then parks, arrives at its barrier, enters its
handler, or goes on inside the clause that was cut short. -/
def Obligations.ClauseBoundaryTakesItsSteps : Prop :=
  ∀ s q c e, tfind s.comp.clauses q = some c → c.ending = some e →
    let w := c.warp
    let free : State := { s with comp := { s.comp with clauses := tdel s.comp.clauses q } }
    let applied (W : Warp) : Warp := { W.applyAll with phase := .between }
    let steps (W : Warp) : Warp := W.boundarySteps c.lanes c.next c.targets c.signed
    let settled (t : State) : Result := .next ((t.progress (coreOfQuarter q) (t.ctxOfWarp w)).wake w)
    let ends (t : State) : Result := settled ((t.afterBoundary w).tryArrive w)
    (e = .done ∨ (∃ code, e = .trap code) → exec (.clauseBoundary q) s = ends ((free.onWarp w applied).onWarp w steps)) ∧
    (e = .yield → exec (.clauseBoundary q) s =
      ends ((free.onWarp w applied).onWarp w fun W => { steps W with yielded := true })) ∧
    (∀ x, e = .barrier x → exec (.clauseBoundary q) s =
      ends ((free.onWarp w applied).onWarp w fun W => { W with phase := .arriving x })) ∧
    (e = .fault ∨ e = .withdrawn → exec (.clauseBoundary q) s =
      ends ((free.onWarp w applied).onWarp w fun W =>
        let V := (W.judgeSigns c.signed).settle
        match V.resume with
        | some (h, _) =>
          if V.phase = .between && (lanesOf V.running).any fun l => V.pcOf l = h then { V with issuePc := h } else V
        | none => V)) ∧
    (∀ y, e = .wait y → exec (.clauseBoundary q) s =
      ends ((free.onWarp w applied).onWarp w fun W => { W with phase := .waiting y })) ∧
    (∀ d lanes, e = .preempt d lanes → (s.slot (s.ctxOfWarp w)).preq = true → exec (.clauseBoundary q) s =
      ends ((free.onWarp w fun W => applied { W with resumed := some (d, lanes) }).onWarp w steps)) ∧
    (∀ d lanes, e = .preempt d lanes → (s.slot (s.ctxOfWarp w)).preq = false → exec (.clauseBoundary q) s =
      ends ((free.onWarp w fun W => applied (W.deliver (resultWrites d false lanes fun _ => some 0))).onWarp w steps)) ∧
    (e = .tret → exec (.clauseBoundary q) s =
      let u := (((free.onWarp w applied).onWarp w Warp.trapReturn).afterBoundary w).tryArrive w
      let back (W : Warp) : Warp := { W with withdrawn := W.withdrawn ++ W.onReturn, onReturn := [] }
      settled (match (u.warp w).phase with
        | .between => ((u.onWarp w back).reissue w).rejoinBar w
        | .parked => u.onWarp w back
        | .ended => u.onWarp w fun W => { W with onReturn := [] }
        | _ => u))

/-- R311 to R313: a warp with a known fault, whose awaited operations are done, enters its handler: the trap registers hold the
earliest fault in warp order, the resume point and each lane's status and pc; every thread that has not exited runs at TVEC in
trap-handler mode; mr, predicates, convergence registers, FPST and registers stand. With TVEC 0 or in trap-handler mode the
warp ends by fault. A tret restores each lane's status and pc, but of a thread that exited in the handler, and resumes at TRADDR,
TRIDX, or at a boundary where TRIDX is 16 or no running thread stands at TRADDR. -/
def Obligations.TrapEntryAndReturn : Prop :=
  (∀ s w, resident w = true → (s.warp w).phase = .entering → s.dying w = false → s.entryMet w = true →
    exec (.trapEntry w) s = .next (((s.takeTrap w).progress (coreOf w) (s.ctxOfWarp w)).wake w)) ∧
  (∀ s w, resident w = true → (s.warp w).phase = .entering → s.dying w = true →
    exec (.trapEntry w) s = .next (((s.onWarp w Warp.exitAll).progress (coreOf w) (s.ctxOfWarp w)).wake w)) ∧
  (∀ (s : State) w (W : Warp) f, s.warp? w = some W → earliest W.faults = some f →
    let tvec := (s.slot (s.ctxOfWarp w)).tvec
    (W.handler = false → tvec ≠ 0 → ∃ V, (s.takeTrap w).warp? w = some V ∧
      V.handler = true ∧ V.exits = 0 ∧ V.phase = .between ∧ V.faults = [] ∧ V.issuePc = tvec.toNat % 2 ^ 57 / 8 * 8 ∧
      V.mrs = W.mrs ∧ V.preds = W.preds ∧ V.cvs = W.cvs ∧ V.fpst = W.fpst ∧ V.v = W.v ∧ V.k = W.k ∧
      V.trap.cause.toNat = min 255 (W.faults.length - 1) * 2 ^ 16 + f.sub % 256 * 2 ^ 8 + f.cause % 256 ∧
      V.trap.clause.toNat = f.clause % 2 ^ 57 / 8 * 8 ∧
      V.trap.index.toNat = (if f.deferred then 2 ^ 8 else 0) + f.index % 32 ∧
      V.trap.addr.toNat = f.addr % 2 ^ 64 ∧ V.trap.lanes.toNat = f.lanes.toNat ∧ V.trap.code.toNat = f.code % 2 ^ 64 ∧
      V.trap.raddr.toNat = (W.resume.getD (W.issuePc, 16)).1 % 2 ^ 57 / 8 * 8 ∧
      V.trap.ridx.toNat = (W.resume.getD (W.issuePc, 16)).2 % 32 ∧
      (∀ l, l < 32 → V.trap.stat.toNat / 4 ^ l % 4 = (W.statusOf l).code ∧
        (tget 0 V.trap.pcs l).toNat = W.pcOf l % 2 ^ 57 / 8 * 8) ∧
      (∀ l, l < 32 → (W.statusOf l = .exited → V.statusOf l = .exited ∧ V.pcOf l = W.pcOf l) ∧
        (W.statusOf l ≠ .exited → V.statusOf l = .running ∧ V.pcOf l = V.issuePc))) ∧
    ((W.handler = true ∨ tvec = 0) → ∃ V, (s.takeTrap w).warp? w = some V ∧
      V.byFault = true ∧ V.phase = .ended ∧ ∀ l, V.statusOf l = .exited)) ∧
  (∀ W : Warp, (∀ l, l < 32 →
      (W.restoreThreads.statusOf l = if inSet W.exits l then .exited
        else Status.ofCode (W.trap.stat.toNat / 4 ^ l % 4)) ∧
      W.restoreThreads.pcOf l = (tget 0 W.trap.pcs l).toNat) ∧
    let stands := ∃ l, l < 32 ∧ W.restoreThreads.statusOf l = .running ∧ W.restoreThreads.pcOf l = W.trap.raddr.toNat
    ((W.trap.ridx.toNat = 16 ∨ ¬stands) → W.trapReturn = W.restoreThreads.settle) ∧
    (W.trap.ridx.toNat ≠ 16 → stands → W.trapReturn.handler = false ∧
      W.trapReturn.resume = some (W.trap.raddr.toNat, W.trap.ridx.toNat) ∧ W.trapReturn.issuePc = W.trap.raddr.toNat))

/-- R87, R92, R208 to R210, R249, R259, R325: a wait ends when its conditions hold or its time is up, with bit 4 of D set if and only
if its time is up, or when judging its barriers consumes an error, and its memory words are read again; a warp whose threads have
exited ends when its ld, st, mma and syn counters are zero and its engine has taken its byields and exits, and its group with its last
warp; the slot of a bud warp becomes empty; when every warp of a context on a core has waited on internal conditions for 2^20 clk, each
receives a deadlock fault. -/
def Obligations.WaitsAndWarpsEnd : Prop :=
  (∀ s w x, (s.warp w).phase = .waiting x → resident w = true →
    let late (s : State) : Bool := match x.deadline with
      | some t => t ≤ s.rt
      | none => false
    let ends (u : State) (y : Waiting) : State :=
      let t := (u.waitConsumes w y).onWarp w fun W =>
        ((u.waitResult w y (late u)).foldl Warp.applyPending { W with phase := .between }).boundarySteps y.took y.next [] y.signed
      ((t.afterBoundary w).progress (coreOf w) ((t.afterBoundary w).ctxOfWarp w)).wake w
    ((s.waitMet w x = true ∨ (s.waitPoison w x).isSome = true) → exec (.waitMet w) s = .next (ends s x)) ∧
    (late s = true → exec (.waitTimeout w) s = .next (ends s x)) ∧
    (∀ u conds, s.readConds w x.clause x.index (oneLane ((lowest x.lanes).getD 0)) x.conds = (u, conds) →
      let y : Waiting := { x with conds := conds }
      let u := u.onWarp w fun W => { W with phase := .waiting y }
      exec (.waitMemoryPoll w) s = .next (if u.waitMet w y then ends u y else u))) ∧
  (∀ s w, resident w = true → (s.warp w).phase = .ended → (∀ c ∈ [0, 1, 3, 5], (s.warp w).counter c = 0) →
    (∀ e ∈ (s.cambium (siteOf (coreOf w))).ends, e.warp ≠ w) →
    let t := s.onCore (coreOf w) fun c => { c with banks := c.banks.map fun (b, k) =>
      (b, if k.owner = groupOf w then Bank.leave w k else k) }
    let start := match s.group? (groupOf w) with
      | some g => g.rank = 0 && w % 64 = 0
      | none => false
    let ends (t : State) : Result :=
      let u := (t.checkBars w).progress (coreOf w) ((t.checkBars w).ctxOfWarp w)
      .next ((u.endGroup (groupOf w)).endCambium (u.dispatchOfWarp w))
    ((s.warp w).buds ≠ [] → exec (.warpEnd w) s = ends { t with comp := { t.comp with warps := tdel t.comp.warps w } }) ∧
    ((s.warp w).buds = [] → exec (.warpEnd w) s = ends
      (let u := t.onWarp w fun W => { W with phase := .gone }
       if start then u.onDispatch (u.dispatchOfWarp w) fun d => { d with startEnded := true } else u))) ∧
  (∀ s core slot,
    let ws := (s.warpsOn core slot).filter fun (_, W) => W.phase ≠ .gone
    let now := s.clk (dieOfCore core)
    ws ≠ [] → (∀ e ∈ ws, (s.stuck e.1).isSome = true) → tget now (s.core core).watch slot + 2 ^ 20 ≤ now →
    (s.die (dieOfCore core)).pause = none →
    let r := ws.foldl (fun (r : State × List Nat) e =>
      ((r.1.deadlock e.1 ((s.stuck e.1).getD 0)).1, r.2 ++ [(r.1.deadlock e.1 ((s.stuck e.1).getD 0)).2])) (s, [])
    exec (.watchdogFire core slot) s = .next ((r.1.ring (dieOfCore core) 0x10 (r.1.ident slot)
      [core, ws.length, r.2.foldl min (r.2.headD 0)]).progress core slot))

/-! ### Memory as it is read and written -/

/-- R15, R133, R137, R142, R218, R228, R323, R325, R344, R346: one write at a home or at a core's store. At a home every byte that it does
not name reads as before, to every world; a named byte of a good sector reads as the last value given for it, to the world that wrote
it; a partial write to a poisoned sector changes no byte and keeps the mark; a write of a whole sector clears the mark; in confidential
mode a write of a whole line puts it under the writer's key, and a partial write to a line whose MAC fails marks its sectors (log entry
60). At a core's store bytes that it does not name, outside register areas and uniform blocks, read as before, there and in every other
core; a named one reads as the last value given for it; its granules are full, and a granule that is written whole is not poisoned.
What is one access is performed as a whole: all lanes of a 16-byte granule of a block load or block store in one event, all bytes of a
multicast store at one destination, and with a lane of a store every lane that names a byte of it; nothing is performed twice, nor
while an older access holds it back. -/
def Obligations.MemoryKeepsWhatIsWritten : Prop :=
  (∀ (s : State) world (bytes : List (Nat × Byte)) pa,
     let t := s.hbmWrite world bytes
     let whole := covers (bytes.map Prod.fst) (pa / 32 * 32) 32
     let marked := tget false s.mem.poison (pa / 32)
     ((∀ e ∈ bytes, e.1 ≠ pa) → t.hbmByte pa = s.hbmByte pa ∧ ∀ reader, t.seenByte reader pa = s.seenByte reader pa) ∧
     (s.mod.mode = false → (marked = false ∨ whole = true) →
       ∀ b, bytes.reverse.find? (fun e => e.1 = pa) = some (pa, b) → t.hbmByte pa = b ∧ t.seenByte world pa = b) ∧
     (marked = true → whole = false → t.hbmByte pa = s.hbmByte pa ∧ tget false t.mem.poison (pa / 32) = true) ∧
     (s.mod.mode = false → whole = true → tget false t.mem.poison (pa / 32) = false) ∧
     (s.mod.mode = true → covers (bytes.map Prod.fst) (pa / 128 * 128) 128 = true → s.keyOf world ≠ 0 →
       tget 0 t.mem.lineKeys (pa / 128) = s.keyOf world ∧
       ∀ b, bytes.reverse.find? (fun e => e.1 = pa) = some (pa, b) → t.hbmByte pa = b) ∧
     ((∃ e ∈ bytes, e.1 / 128 = pa / 128) → covers (bytes.map Prod.fst) (pa / 128 * 128) 128 = false →
       s.badLine world pa = true → tget false t.mem.poison (pa / 32) = true ∧ t.hbmByte pa = s.hbmByte pa) ∧
     t.mem.host = s.mem.host ∧ t.comp = s.comp ∧ t.eng = s.eng ∧ t.ctl = s.ctl ∧ t.mod = s.mod ∧
     (s.mod.mode = false → t.dies = s.dies)) ∧
  (∀ (s : State) core (bytes : List (Nat × Byte)) o, core < 2 ^ 18 →
     (∀ g x a, s.areaAt core o = some (g, x, a) → a.isRegister = false) →
     let t := s.coreWrite core bytes
     ((∀ e ∈ bytes, e.1 ≠ o) → t.coreByte core o = s.coreByte core o) ∧
     (∀ b, bytes.reverse.find? (fun e => e.1 = o) = some (o, b) → t.coreByte core o = b) ∧
     (∀ d p, d ≠ core → (∀ g x a, s.areaAt d p = some (g, x, a) → a.isRegister = false) →
       t.coreByte d p = s.coreByte d p) ∧
     ((∃ e ∈ bytes, e.1 / 16 = o / 16) → tget false (t.core core).empty (o / 16) = false) ∧
     ((∀ e ∈ bytes, e.1 / 16 ≠ o / 16) → tget false (t.core core).empty (o / 16) = tget false (s.core core).empty (o / 16) ∧
       tget false (t.core core).poison (o / 16) = tget false (s.core core).poison (o / 16)) ∧
     (covers (bytes.map Prod.fst) (o / 16 * 16) 16 = true → tget false (t.core core).poison (o / 16) = false)) ∧
  (∀ (s : State) w (o : Op) lanes p a, a ∈ s.readyUnits w o lanes p →
    a ∈ o.acc ∧ a.done = false ∧ p a = true ∧ (0 < a.size → s.mayPerform w o a = true) ∧
    ∀ b ∈ o.acc, b.done = false → p b = true → b.dest = a.dest →
      (o.kind = .multicast → b ∈ s.readyUnits w o lanes p) ∧
      (o.kind = .blockStore ∨ (∃ fresh, o.kind = .blockLoad fresh) → b.loc.address / 16 = a.loc.address / 16 →
        b ∈ s.readyUnits w o lanes p) ∧
      (o.kind = .store → s.sameBytes w a.loc a.size b.loc b.size = true → s.mayPerform w o b = true))

/-- R94, R95, R231 to R233: an arrival of n at a barrier word adds n to ARRIVED modulo 2^32 and, when that reaches an EXPECT that is not
zero, takes EXPECT off, flips PHASE and clears the rest of its word; EXPECT and LIMIT stand. Credit saturates at 0xFFFF_FFFE, and an
unlimited LIMIT stays. A warp at its bar or cbar arrives no sooner than its release is performed: an arrival short of the target joins
the phase, the one that reaches it opens the next phase with no arrivals, and one whose COUNT differs from the phase's raises the
barrier-mismatch fault at the instruction, from which the warp resumes there. -/
def Obligations.BarriersCountArrivals : Prop :=
  (∀ (s : State) core o n, core < 2 ^ 18 → o % 16 = 0 →
    (∀ i, i < 16 → ∀ g x a, s.areaAt core (o + i) = some (g, x, a) → a.isRegister = false) →
    let t := s.arrive core o n
    let expect := s.barrierWord core o 0
    let sum := (s.barrierWord core o 1 + n) % 2 ^ 32
    t.barrierWord core o 0 = expect ∧ t.barrierWord core o 3 = s.barrierWord core o 3 ∧
    ((expect = 0 ∨ sum < expect) → t.barrierWord core o 1 = sum ∧ t.barrierWord core o 2 = s.barrierWord core o 2) ∧
    (expect ≠ 0 → expect ≤ sum → t.barrierWord core o 1 = sum - expect ∧
      t.barrierWord core o 2 = (s.barrierWord core o 2 + 1) % 2 ∧ t.barrierPhase core o ≠ s.barrierPhase core o)) ∧
  (∀ limit n, limitCredit limit n = if limit = 0xFFFFFFFF then 0xFFFFFFFF else min 0xFFFFFFFE (limit + n)) ∧
  (∀ (s : State) core off i ty x b old, (s.coreRead core off 4) = (old, false) → isAdd32 i ty = true →
    (∃ g y, s.areaAt core off = some (g, y, .barrier)) →
    (off % 16 = 4 → s.atomicStore core off i ty 4 x b = (s.arrive core (off - 4) x, old, false)) ∧
    (off % 16 = 12 → s.atomicStore core off i ty 4 x b =
      (s.putBarrier core (off - 12) 3 (limitCredit (ofBytes old) x), old, false))) ∧
  (∀ (s : State) w (x : Arriving) W, s.warp? w = some W → W.phase = .arriving x →
    let scope : Scope := if x.cluster then .cls else .grp
    let b := s.barPhase w x.cluster x.id
    let target := if x.count = 0 then (s.barWarps w x.cluster).length else x.count
    (s.released w W.seq scope = false ∨ resident w = false ∨ s.dying w = true → s.tryArrive w = s) ∧
    (s.released w W.seq scope = true → resident w = true → s.dying w = false → s.tryArrive w = s.arriveAt w x) ∧
    (b.arrived ≠ [] → b.count ≠ x.count → s.dying w = false →
      (s.arriveAt w x).barPhase w x.cluster x.id = b ∧
      ∃ V, (s.arriveAt w x).warp? w = some V ∧ V.resume = some (x.clause, x.index) ∧
        ∃ f ∈ V.faults, f.cause = 0x0A ∧ f.clause = x.clause ∧ f.index = x.index ∧ f.lanes = x.lanes) ∧
    ((b.arrived = [] ∨ b.count = x.count) → b.arrived.length + 1 < target → (s.group? (groupOf w)).isSome = true →
      (s.arriveAt w x).barPhase w x.cluster x.id =
        { count := x.count, arrived := b.arrived ++ [w], complete := b.complete }) ∧
    ((b.arrived = [] ∨ b.count = x.count) → target ≤ b.arrived.length + 1 → (s.group? (groupOf w)).isSome = true →
      (s.arriveAt w x).barPhase w x.cluster x.id = { count := 0, arrived := [], complete := b.complete + 1 }))

/-! ### Accesses as they are performed -/

/-- R64, R133 to R138, R147, R185, R216, R219: lanes of a load, block load or exact-sum read get the bytes at their address, from
the core store, from the home, or from a level-1 line that the core holds, scrambled where the line came under another world's key
(R344; log entry 79); lanes of a store write theirs after the release that it carries, as one write at the core store or in their path
to the home, whose oldest write is then applied there, a reduction by the sync engine, while a route reaches that home; bstate is
answered. What waits for an older access of its
thread or warp is not performed yet. An operation with a value in every lane writes its destination; one performed at its scope
counts down. -/
def Obligations.LoadsAndStoresArePerformed : Prop :=
  let any : Access → Bool := fun _ => true
  let result (s : State) (w seq l : Nat) (v : Nat × Flags) : State :=
    (s.setResult w seq l v.1 v.2.word).markDone w seq fun b => b.lane = l
  (∀ (s : State) w seq (o : Op) lanes level1, (s.warp w).op? seq = some o → o.done = false →
    (∀ fresh, o.kind = .load fresh ∨ o.kind = .blockLoad fresh → exec (.longLatencyResult w seq lanes level1) s =
      .next (((s.readyUnits w o lanes any).foldl (fun s a =>
        s.performLoad w o fresh level1 (fun b => (extendTo o.ty (ofBytes b), {})) a) s).deliverOp w seq)) ∧
    (∀ rnd, o.kind = .sumRead rnd → exec (.longLatencyResult w seq lanes level1) s =
      .next (((s.readyUnits w o lanes any).foldl (fun s a =>
        s.performLoad w o true false (fun b => cellRead o.ty rnd (ofBytes b)) a) s).deliverOp w seq)) ∧
    (o.kind = .bud → exec (.longLatencyResult w seq lanes level1) s =
      .next (((o.acc.filter fun a => inSet lanes a.lane && s.budReady w seq a).foldl
        (fun s a => s.answerBud w seq o a) s).deliverOp w seq))) ∧
  (∀ (s : State) w (o : Op) fresh level1 (value : List Byte → Nat × Flags) (a : Access),
    (∀ c off, a.loc = .store c off → (s.coreRead c off a.size).2 = false →
      s.performLoad w o fresh level1 value a = result s w o.seq a.lane (value (s.coreRead c off a.size).1)) ∧
    (∀ va t p u b, a.loc = .global va →
      s.coreTranslate (coreOf w) (s.ctxOfWarp w) va .read = (t, .ok p) → fresh = true ∨ o.order ≠ .plain ∨ p.home = 3 →
      ((t.dropLine (coreOf w) p.pa).homeRead (siteOf (coreOf w)) (s.slot (s.ctxOfWarp w)).world p.pa a.size) = (u, b, false) →
      s.performLoad w o fresh level1 value a = result u w o.seq a.lane (value b)) ∧
    (∀ va t p l, a.loc = .global va →
      s.coreTranslate (coreOf w) (s.ctxOfWarp w) va .read = (t, .ok p) → fresh = false → o.order = .plain → p.home ≠ 3 →
      level1 = true → t.badLine (s.slot (s.ctxOfWarp w)).world p.pa = false →
      tfind (t.core (coreOf w)).level1 (p.pa / 128) = some l → l.bad = [] →
      let seen := l.bytes.zipIdx.map fun e =>
        reseen l.world (s.slot (s.ctxOfWarp w)).world (coreOf w) (2 ^ 20 + p.pa / 128 * 128 + e.2) e.1
      s.performLoad w o fresh level1 value a = result t w o.seq a.lane (value ((seen.drop (p.pa % 128)).take a.size))) ∧
    (∀ va t c, a.loc = .global va → s.coreTranslate (coreOf w) (s.ctxOfWarp w) va .read = (t, .error c) →
      s.performLoad w o fresh level1 value a = result (t.accessError w o a c) w o.seq a.lane (poisonPair, {}))) ∧
  (∀ (s : State) w seq (o : Op) lanes dest, (s.warp w).op? seq = some o →
    o.kind = .store ∨ o.kind = .blockStore ∨ o.kind = .multicast → ∀ register, (register = true → dest = 0) →
    exec (if register then .registerWindowWriteArrive w seq lanes else .writePerformed (.issued w seq lanes dest)) s =
      .next (((s.writeAll w o (s.readyUnits w o lanes fun a => a.dest = dest && s.onWindowBytes a = register)).retire w
        seq).wake w)) ∧
  (∀ (s : State) w (o : Op) (acc : List Access),
    let done (s : State) : State := s.markDone w o.seq fun b => acc.any fun a => a.lane = b.lane && a.dest = b.dest
    let r : State := if o.order = .rel ∨ o.order = .ar then s.markRelease w o.seq o.scope else s
    (∀ c, acc ≠ [] → (∀ a ∈ acc, ∃ off, a.loc = .store c off) → s.writeAll w o acc =
      done (r.coreWrite c (acc.flatMap fun a => a.data.zipIdx.map fun e => (a.loc.address + e.2, e.1)))) ∧
    (∀ a va t p, acc = [a] → a.loc = .global va →
      r.coreTranslate (coreOf w) (r.ctxOfWarp w) va .write = (t, .ok p) →
      let bytes := a.data.zipIdx.map fun e => (p.pa + e.2, e.1)
      s.writeAll w o acc = done (((bytes.map fun e => pathKey (siteOf (coreOf w)) e.1).eraseDups).foldl
        (fun s key => s.enterPath w o bytes key) (t.dropLine (coreOf w) p.pa))) ∧
    (∀ a va t c, acc = [a] → a.loc = .global va → r.coreTranslate (coreOf w) (r.ctxOfWarp w) va .write = (t, .error c) →
      s.writeAll w o acc = done (t.accessError w o a c))) ∧
  (∀ (s : State) key (p : PathWrite) t, tget [] s.mem.paths key = p :: t →
    let source := dieOfSite (key / 32768)
    let home := key / 32 % 1024
    let u : State := { s with mem := { s.mem with paths := tset [] s.mem.paths key t } }
    (s.routeWaits source home = true → exec (.writePerformed (.home key)) s = .next s) ∧
    (s.routeWaits source home = false → u.reachable source home = true →
      (p.combine = none →
        exec (.writePerformed (.home key)) s = .next (((u.applyWrite p.dispatch p.world p.bytes).retire p.warp p.seq).wake p.warp)) ∧
      (∀ c v old bad, p.combine = some c → u.atomicHome p.dispatch p.world c.pa c.instr c.ty c.size c.operand c.cmp = (v, old, bad) →
        exec (.writePerformed (.home key)) s =
          .next (((if bad then v.consume p.dispatch source 2 c.pa else v).retire p.warp p.seq).wake p.warp))) ∧
    (s.routeWaits source home = false → u.reachable source home = false → exec (.writePerformed (.home key)) s =
      .next (((u.deferFault p.warp p.seq p.clause p.index { cause := 0x20, sub := 10, addr := p.va, lanes := p.lanes }).retire
        p.warp p.seq).wake p.warp))) ∧
  (∀ (s : State) e p i (x : EngineWrite), s.prog? e = some p → p.writes[i]? = some x →
    s.rangeWaits (engDie e) p.slot x.va x.bytes.length = false →
    let t := s.onProg e fun p => { p with writes := p.writes.eraseIdx i }
    t.engWriteFault (engDie e) p.slot x.va x.bytes.length = none →
    exec (.writePerformed (.engine e i)) s = .next ((t.engWrite (engDie e) p.dispatch p.slot x.va x.bytes).tryFinish e))

/-- R143 to R151, R181: the lanes of an atomic or reduction are performed one at a time in increasing order; a reduction of global
memory enters its path, in which the sync engine performs it at its home (R216). The old values of an atomic are then written, its ld
count completes, and its slot frees when they are written (log entry 50). A lock request is granted when the lock is free, queued when
another warp holds it, and refused when its own warp does; requests of one cycle come in the order of their warps, and one that the
routes to its word hold waits (R331, R332); an unlock by the holder, after its release, grants the oldest request, and by another warp
raises the deferred sync fault. A fence completes when its condition holds, a record fence once it has dropped the copies that it
names. -/
def Obligations.AtomicsLocksAndFencesArePerformed : Prop :=
  (∀ (s : State) w seq (o : Op) (a : Access), (s.warp w).op? seq = some o → o.acc.find? (fun a => !a.done) = some a →
    s.mayPerform w o a = true →
    (∀ i, o.kind = .atomic i → o.order ≠ .acq → o.order ≠ .ar →
      exec (.atomicPerform w seq) s = .next ((s.performAtomic w o i true a).wake w)) ∧
    (∀ i, o.kind = .atomic i → o.order = .acq ∨ o.order = .ar → exec (.atomicPerform w seq) s =
      .next ((if (o.acc.filter fun b => !b.done).length = 1 then (s.performAtomic w o i true a).acquire w o.scope
        else s.performAtomic w o i true a).wake w)) ∧
    (∀ i, o.kind = .reduce i → exec (.atomicPerform w seq) s =
      .next (((s.performAtomic w o i false a).retire w seq).wake w)) ∧
    (∀ i va t p, o.kind = .reduce i → a.loc = .global va →
      let r : State := if o.order = .rel ∨ o.order = .ar then s.markRelease w o.seq o.scope else s
      r.coreTranslate (coreOf w) (r.ctxOfWarp w) va .write = (t, .ok p) →
      let key := pathKey (siteOf (coreOf w)) p.pa
      let u := t.dropLine (coreOf w) p.pa
      s.performAtomic w o i false a = ({ u with mem := { u.mem with paths := tput u.mem.paths key (tget [] u.mem.paths key ++
        [{ warp := w, seq := o.seq, clause := o.clause, index := o.index, lanes := oneLane a.lane, va := va, dispatch := u.dispatchOfWarp w,
           world := (u.slot (u.ctxOfWarp w)).world, after := [], rels := [], cls := false, bytes := [],
           combine := some { instr := i, ty := o.ty, pa := p.pa, size := a.size, operand := ofBytes a.data, cmp := a.cmp } }]) } } : State).markDone
        w o.seq fun b => b.lane = a.lane)) ∧
  (∀ (s : State) w seq (o : Op) i, (s.warp w).op? seq = some o → o.kind = .atomic i → o.landed = false → o.done = false →
    (∀ a ∈ o.acc, a.done = true) →
    exec (.atomicReturn w seq) s = .next ((s.finish w fun W => (W.deliver o.writes).onOp seq fun x =>
      { x with landed := true, done := decide (W.phase ≠ .issuing) }).wake w)) ∧
  (∀ (s : State) w seq, ∃ l : List (Nat × Nat), l.Perm ((w, seq) :: sameCycleLocks s.sched.agenda) ∧ l.Pairwise (fun a b => a.1 ≤ b.1) ∧
    exec (.lockRequestArrive w seq) s = .next (l.foldl (fun s e => s.lockArrive e.1 e.2) s)) ∧
  (∀ (s : State) w seq (o : Op), (s.warp w).op? seq = some o → o.kind = .lock → o.done = false →
    (∀ e ∈ s.eng.locks, (w, seq) ∉ e.2.queue) →
    ((s.warp w).heldBack seq = true ∨ s.lockWaits w o = true → s.lockArrive w seq = s) ∧
    ((s.warp w).heldBack seq = false → s.lockWaits w o = false → ∀ t pa, s.lockWord w o = (t, .ok pa) →
      let t := t.reachLock w pa
      let l := t.lockAt w pa
      (l.holder = none → s.lockArrive w seq =
        (((t.writeLock pa { l with holder := some (w, seq), owner := t.dispatchOfWarp w }).acquire w o.scope).finishOp w
          seq).wake w) ∧
      (∀ n, l.holder = some (w, n) → sameRun n seq = true → s.lockArrive w seq =
        ((t.deferOp w o { cause := 0x21, sub := 2, lanes := o.lanes }).finishOp w seq).wake w) ∧
      (∀ v n, l.holder = some (v, n) → v ≠ w → s.lockArrive w seq =
        t.writeLock pa { l with queue := l.queue ++ [(w, seq)] }))) ∧
  (∀ (s : State) w seq (o : Op) (t : State) pa, (s.warp w).op? seq = some o → o.kind = .unlock → o.done = false →
    (s.warp w).heldBack seq = false → s.released w seq o.scope = true → s.lockWaits w o = false →
    (s.markRelease w seq o.scope).lockWord w o = (t, .ok pa) →
    let t := t.reachLock w pa
    let l := t.lockAt w pa
    (∀ n, l.holder = some (w, n) → sameRun n seq = true →
      (l.queue = [] → exec (.unlockArrive w seq) s =
        .next (((t.writeLock pa { l with holder := none }).finishOp w seq).wake w)) ∧
      (l.queue ≠ [] → exec (.unlockArrive w seq) s = .next (((t.freeLock pa l).finishOp w seq).wake w))) ∧
    ((∀ n, l.holder ≠ some (w, n)) → exec (.unlockArrive w seq) s = .next
      (((t.deferOp w o { cause := 0x21, sub := 1, lanes := o.lanes }).finishOp w seq).wake w))) ∧
  (∀ (s : State) w seq (o : Op), (s.warp w).op? seq = some o → o.kind = .fence → o.done = false → 4 ≤ o.scope.level →
    s.fenceMet w o = true →
    let r : State := if o.order = .rel ∨ o.order = .ar then s.markRelease w o.seq o.scope else s
    exec (.fenceAcknowledge w seq) s = .next
      (((if o.order = .acq ∨ o.order = .ar then r.acquire w o.scope else r).finishOp w seq).wake w)) ∧
  (∀ (s : State) w seq (f : RecordFence), s.fence? w seq = some f → s.handed w seq f.scope = true →
    let t : State := { s with
      dies := s.dies.map fun (e : Nat × Die) =>
        (e.1, if sameInstance f.scope e.1 f.die then
          { e.2 with records := e.2.records.filter fun x =>
            match f.record with
            | some a => x.2.1 ≠ a || x.1 ≠ f.slot
            | none => false }
        else e.2)
      eng := { s.eng with fences := s.eng.fences.filter fun g => g ≠ f } }
    exec (.recordInvalidationComplete w seq) s = .next (t.wake w))

/-- R139 to R141, R154, R233, R243 to R248, R325: one action of an ldw whose granules are all full reads every lane and with .clr
clears the set; transfers held at a barrier are charged in order; a granule of a charged copy or push lands with its bytes, a granule
of a push being read once for all its destinations; a copy that meets an error gives its charge back and leaves its window absent,
after an uncorrectable granule has landed marked as poisoned (log entry 29); the operation at the front of a core's matrix queue is
performed once its core-store writes wait for no setempty, acquire, fence or lock before it. -/
def Obligations.WindowsTransfersAndMatrixQueuesGoOn : Prop :=
  (∀ (s : State) w seq (o : Op) clr, (s.warp w).op? seq = some o → o.kind = .windowLoad clr → (w, seq) ∈ (s.core (coreOf w)).ldws →
    s.ldwReady w o = true → s.ldwOlder w seq o = false → (∀ a ∈ o.acc, ∃ c off, a.loc = .store c off) →
    (∀ a ∈ o.acc, ∀ c off, a.loc = .store c off → (s.coreRead c off a.size).2 = false) →
    exec (.ldwAction w seq) s = .next
      ((if clr then s.clearGranules (coreOf w) (granulesOf o.acc) else s).ldwFinish w seq fun o' =>
        { o' with results := o.acc.foldl (fun t a =>
            match a.loc with
            | .store c off => tput t a.lane (ofBytes (s.coreRead c off a.size).1)
            | .global _ => t) o.results })) ∧
  (∀ (s : State) core o, exec (.creditCharge core o) s = .next (s.chargeHeld core o (s.core core).held.length).pushesOn) ∧
  (∀ (s : State) core o n (h : Held) (t : Transfer), (s.core core).held.find? (fun h => h.barrier = o) = some h →
    tfind s.comp.transfers h.transfer = some t →
    let limit := s.barrierWord core o 3
    let freed (u : State) : State := (u.onCore core fun c => { c with held := c.held.filter fun x => x ≠ h }).onTransfer
      h.transfer fun t => { t with charged := true, paid := decide (limit ≠ 0xFFFFFFFF) }
    (limit = 0xFFFFFFFF → s.chargeHeld core o (n + 1) = (freed s).chargeHeld core o n) ∧
    (limit ≠ 0xFFFFFFFF → t.size ≤ limit →
      s.chargeHeld core o (n + 1) = (freed (s.putBarrier core o 3 (limit - t.size))).chargeHeld core o n) ∧
    (limit ≠ 0xFFFFFFFF → limit < t.size → s.chargeHeld core o (n + 1) = s)) ∧
  (∀ (s : State) n (t : Transfer) g w seq id, tfind s.comp.transfers n = some t → t.source = .copy w seq id → t.started = true →
    t.trouble = none →
    t.charged = true → g ∈ t.left → s.copyMayRead w t g = true →
    s.sourceWaits (siteOf t.core % 32) (dieOfCore t.core) t g = false → ∀ u,
    (∀ b, s.granuleBytes (dieOfCore t.core) (some (siteOf t.core)) t g = (u, .ok (b, false)) →
      exec (.copyGranuleLand n g) s = .next (u.landNext n t g b)) ∧
    (∀ b, s.granuleBytes (dieOfCore t.core) (some (siteOf t.core)) t g = (u, .ok (b, true)) →
      exec (.copyGranuleLand n g) s = .next ((u.landGranule t g b true).copyFails n t 7)) ∧
    (∀ c, s.granuleBytes (dieOfCore t.core) (some (siteOf t.core)) t g = (u, .error c) →
      exec (.copyGranuleLand n g) s = .next (u.copyFails n t c))) ∧
  (∀ (s : State) n (t : Transfer) w seq id o c, tfind s.comp.transfers n = some t → t.source = .copy w seq id →
    (s.warp w).op? seq = some o →
    let u := (((s.cancelTransfer n).onWindow t.group id fun x => { x with state := .absent }).poisonLdws t).deferOp w o
      { cause := 0x20, sub := c, lanes := o.lanes, code := id }
    (c ≠ 7 → s.copyFails n t c = (u.finishOp w seq).wake w) ∧
    (c = 7 → s.copyFails n t c =
      ((u.consume (u.transferDispatch t) (dieOfCore t.core) 4 t.offset).finishOp w seq).wake w) ∧
    (t.trouble = some c → exec (.windowCopyFault n) s = .next (s.copyFails n t c))) ∧
  (∀ (s : State) n (t : Transfer) g e, tfind s.comp.transfers n = some t → t.source = .push e → t.charged = true → g ∈ t.left →
    t.lands = true → (∀ p l, s.prog? e = some p → p.phase = .charging l → n ∉ l) →
    s.sourceWaits fabricUnit (engDie e) t g = false →
    (∀ v, tfind t.image g = some v → bitOf v 128 = false →
      exec (.pushGranuleLand n g) s = .next (s.landNext n t g (toBytes 16 (v % 2 ^ 128)))) ∧
    (∀ u b, tfind t.image g = none → s.granuleBytes (engDie e) none t g = (u, .ok (b, false)) →
      exec (.pushGranuleLand n g) s = .next (({ u with comp := { u.comp with
        transfers := u.comp.transfers.map fun e => (e.1, if e.2.source = t.source && e.2.batch = t.batch then
          { e.2 with image := tput e.2.image g (ofBytes b) } else e.2) } } : State).landNext n t g b))) ∧
  (∀ (s : State) core (q : Queued) t early, (s.core core).queue = q :: t →
    (∀ g ∈ granulesIn q.reads, (g ∈ early ∧ (tfind q.image g).isSome = true) ∨ s.readableNow core [] q g = true) →
    ∀ n, q.seq = some n → (s.warp q.warp).matrixHeld q = false → (s.perform core q early).2 = false →
    exec (.matrixOpPerform core early) s = .next
      (((((s.perform core q early).1.onCore core fun c => { c with queue := t }.drainQueue t.length).finishOp q.warp n)).wake
        q.warp))

/-! ### Dispatches -/

/-- R249, R293, R294, R297 to R301, R314 to R316: the mailbox that is served next gives up the entry at MBHEAD, a dispatch record to
be held, a group command to be started, or an entry to be dropped with its record, and one that is overrun sets ERR; acceptance
checks the record and binds it, or completes it as rejected with the first code, lines that fail their MAC being marked (R346); the
next group goes where placement puts it, a slot that resumes coming first (log entry 43); the groups of a cambium dispatch end
together, and what its engines hold of it goes; a dispatch whose groups, programs and writes have ended completes, a SERIAL one after
every earlier record of its mailbox; a kill stops its warps and programs and frees what it holds once nothing is in flight; a replay
restores its pages, sends the aborts of its collectives, and is accepted again when they have arrived, in its first place (log entry
55); a pre-empted context is saved with vector VEC at interface 0 (log entry 34), or killed when its save area, of
`Config.saveFrames` frames (log entry 9), is too small. -/
def Obligations.DispatchesRunTheirCourse : Prop :=
  (∀ s m slot v, s.mailboxOrder.find? (fun i => (s.takeable i).isSome) = some m → s.takeable m = some slot →
    (s.mailbox m).waiting ≤ (s.mailbox m).size → s.readEntry m slot = some v →
    let e := (s.mailbox m).head.toNat
    let t := s.onMailbox m fun x => { x with head := x.head + 1 }
    let t : State := { t with ctl := { t.ctl with nextMailbox := (m + 1) % 64 } }
    (v % 2 ^ 8 = 1 → v / 2 ^ 8 % 2 ^ 8 = 1 → bits v 575 512 % 32 = 0 →
      exec (.mailboxTakeEntry m) s = .next (t.holdDispatch m slot e (BitVec.ofNat 2048 v))) ∧
    (v % 2 ^ 8 = 2 → v / 2 ^ 8 % 2 ^ 8 = 1 → bits v 255 192 % 32 = 0 → bits v 2047 320 = 0 →
      exec (.mailboxTakeEntry m) s = .next (t.holdCommand m slot (BitVec.ofNat 320 v))) ∧
    (v % 2 ^ 8 = 1 → v / 2 ^ 8 % 2 ^ 8 ≠ 1 → bits v 575 512 % 32 = 0 →
      exec (.mailboxTakeEntry m) s = .next ((t.ring 0 0x14 (t.ident slot) [m, e]).complete m slot (bits v 575 512)
        (completionBytes (bits v 703 640) (t.ring 0 0x14 (t.ident slot) [m, e]).rt 0 0 0 9 2))) ∧
    (v % 2 ^ 8 ≠ 1 → v % 2 ^ 8 ≠ 2 → exec (.mailboxTakeEntry m) s = .next (t.ring 0 0x14 (t.ident slot) [m, e]))) ∧
  (∀ s m slot, s.mailboxOrder.find? (fun i => (s.takeable i).isSome) = some m → s.takeable m = some slot →
    ((s.mailbox m).size < (s.mailbox m).waiting → exec (.mailboxTakeEntry m) s = .next (s.mailboxError m)) ∧
    ((s.mailbox m).waiting ≤ (s.mailbox m).size → s.readEntry m slot = none →
      let a := (s.mailbox m).base.toNat / 4096 * 4096 + 256 * ((s.mailbox m).head.toNat % (s.mailbox m).size)
      exec (.mailboxTakeEntry m) s =
        .next ((if (s.mailbox m).local then s.engMark 0 slot [(a, 256)] else s).mailboxError m))) ∧
  (∀ s d x, s.dispatch? d = some x → x.phase = .held → s.serialWaits d x = false →
    (∀ c, s.checkDispatch x.slot x.record true = .error c →
      exec (.dispatchAccept d) s = .next (if s.recordWaits d x then s
        else (s.engMark 0 x.slot (s.acceptReads x.slot x.record c)).finishDispatch d 2 c 0)) ∧
    (∀ a, s.checkDispatch x.slot x.record true = .ok a →
      exec (.dispatchAccept d) s = .next (s.acceptDispatch d x a))) ∧
  (∀ s d x, s.dispatch? d = some x → (s.slot x.slot).resuming = false → s.wantsPlace x = true →
    let ds := (x.domain x.nextRank).filter fun e => !(s.ahead x d).2.contains e
    (∀ e ∈ ds, e ∉ (s.ahead x d).1) → ∀ t, s.placeNext d x ds = some t → exec (.groupPlace d) s = .next t) ∧
  (∀ s d x, s.dispatch? d = some x → (s.slot x.slot).resuming = true →
    exec (.groupPlace d) s = .next (s.resumeSlot x.slot)) ∧
  (∀ (s : State) d x, s.dispatch? d = some x → x.phase = .accepted → hdrBits x.header 64 64 = 1 → x.startEnded = true →
    s.sweeping d = false → (∀ e ∈ s.warpsOf d, e.2.phase = .gone) → s.endCambium d =
      (((s.groupsOf d).foldl (fun s e => s.freeGroup e.1) s).pruneSaves.dropCambium d).onDispatch d fun y =>
        { y with live := 0, nextRank := totalGroups y.record }) ∧
  (∀ s d x, s.dispatch? d = some x → x.phase = .accepted →
    (s.recordWaits d x = true → exec (.dispatchComplete d) s = .next s) ∧
    (s.recordWaits d x = false → hdrBits x.header 64 64 ≠ 1 → totalGroups x.record ≤ x.nextRank → s.groupsOf d = [] →
      s.hasPrograms d = false → s.pathsWait d = false →
        exec (.dispatchComplete d) s = .next ((s.closeDispatch d x).finishDispatch d 1 0 x.attempts)) ∧
    (s.recordWaits d x = false → hdrBits x.header 64 64 = 1 → let t := s.endCambium d
      ∀ y, t.dispatch? d = some y → totalGroups y.record ≤ y.nextRank → t.groupsOf d = [] → t.hasPrograms d = false →
      t.pathsWait d = false →
      exec (.dispatchComplete d) s = .next ((t.closeDispatch d y).finishDispatch d 1 0 y.attempts))) ∧
  (∀ s d x code again, s.dispatch? d = some x → x.phase = .killing code again →
    let t := s.onDispatch d fun y => { y with colls := (y.colls ++ s.collectivesOf d).eraseDups }
    let t := (((tkeys (t.warpsOf d)).foldl State.stopWarp t).abortPrograms d).dropCambium d
    let t := (tkeys (t.comp.transfers.filter fun e => t.transferDispatch e.2 = d && !(e.2.charged && e.2.lands))).foldl
      State.cancelTransfer t
    exec (.dispatchKill d) s = .next (if t.quiet d then (t.closeDispatch d x).onDispatch d fun y =>
      { y with live := 0, nextRank := totalGroups y.record, phase := .stopped code again } else t)) ∧
  (∀ s d x code again, s.dispatch? d = some x → x.phase = .stopped code again →
    let t := x.pages.foldl (fun s e =>
      match e.2 with
      | some b => s.restorePage e.1 b
      | none => s) s
    let t := x.colls.foldl (fun s e => s.sendAbort x.slot e.1 e.2.1 e.2.2) t
    (again = false → code ≠ 6 → code ≠ 7 → s.recordWaits d x = false →
      exec (.dispatchComplete d) s = .next (s.finishDispatch d 3 code x.attempts)) ∧
    (again = true ∨ code = 6 ∨ code = 7 →
      exec (.dispatchReplay d) s = .next (t.onDispatch d fun y => { y with phase := .aborting code again }))) ∧
  (∀ s d x code again, s.dispatch? d = some x → x.phase = .aborting code again →
    (s.aborting x = true → exec (.dispatchReplay d) s = .next s) ∧
    (s.aborting x = false → again = false → s.recordWaits d x = false →
      exec (.dispatchReplay d) s = .next (s.finishDispatch d 3 code x.attempts)) ∧
    (∀ a, s.aborting x = false → again = true → s.checkDispatch x.slot x.record false = .ok a →
      exec (.dispatchReplay d) s = .next (s.acceptDispatch d x a)) ∧
    (∀ c, s.aborting x = false → again = true → s.checkDispatch x.slot x.record false = .error c →
      s.recordWaits d x = false → exec (.dispatchReplay d) s =
        .next ((s.engMark 0 x.slot (s.acceptReads x.slot x.record c)).finishDispatch d 2 c 0))) ∧
  (∀ s slot, (s.slot slot).preq = true →
    let t := (tkeys (s.slotWarps slot)).foldl State.stopForSave s
    let gs := t.slotGroups slot
    (t.saveable gs = false → exec (.preemptSave slot) s = .next t) ∧
    (t.saveable gs = true → t.saveBytes slot gs ≤ Config.saveFrames slot * 65536 →
      let u := gs.foldl State.saveGroup (t.stopScans slot)
      exec (.preemptSave slot) s = .next ((u.onSlot slot fun x =>
        { x with ctxctl := (x.ctxctl &&& ~~~(1 : Word)) ||| 4, resuming := false }).output
        (.msix 0 (bits (u.slot slot).ctxctl.toNat 15 8)))) ∧
    (t.saveable gs = true → Config.saveFrames slot * 65536 < t.saveBytes slot gs →
      exec (.preemptSave slot) s = .next (t.killWhere fun d => d.slot = slot)))

/-- R292, R293, R295, R299, R304, R310, R314, R317, R342, R343, R345: writes of host registers through the right interface and
function take effect as their fields say, and are ignored otherwise; a window of BAR2 reads and writes the memory that it names, or
answers Unsupported Request. KILL also reaches a dispatch that awaits its replay. An invalidation completes once the writes of its
slot's dispatches are out of the paths (log entry 34). A host read of a line whose MAC fails gives `Config.garbled` with the poisoned
attribute (log entry 60), and of a byte that a slice keys for another world its scrambled value (R344; log entry 79). A request that
takes effect also uses its key set of the stream (`useStream`). -/
def Obligations.HostAccessesTakeEffect : Prop :=
  (∀ s p m (v : Word),
    (s.ownMailbox p m = false → exec (.mbtailWrite p m v) s = .next s) ∧
    (s.ownMailbox p m = true →
      let t := (s.useStream p).onMailbox m fun x => { x with tail := v }
      let tooMany := (t.mailbox m).size < (t.mailbox m).waiting ∧ (t.mailbox m).ctl.getLsbD 4 = false
      (tooMany → exec (.mbtailWrite p m v) s = .next (t.mailboxError m)) ∧
      (¬tooMany → exec (.mbtailWrite p m v) s = .next t))) ∧
  (∀ s p m upper id, s.ownMailbox p m = true →
    exec (.mbctxWrite p m upper id) s = .next (if p.pf = true ∧ (s.mailbox m).ctl.getLsbD 0 = false then
      (s.useStream p).onMailbox m fun x => { x with ctx := id } else s)) ∧
  (∀ s p m (v : Word), s.ownMailbox p m = true →
    let i : Nat → Bool := v.getLsbD
    ∃ t, exec (.mbctlEnable p m v) s = .next t ∧ exec (.mbctlKill p m v) s = .next t ∧
      exec (.mbctlErrClear p m v) s = .next t ∧
      let x := s.mailbox m
      let y := t.mailbox m
      (∀ b, b < 32 → y.ctl.getLsbD b =
        if b = 0 ∨ b = 2 ∨ (8 ≤ b ∧ b < 16) then i b
        else if b = 1 then (if x.ctl.getLsbD 0 then x.ctl.getLsbD 1 else i 1)
        else if b = 4 then (x.ctl.getLsbD 4 && !i 4) || decide (y.size < y.waiting)
        else if 16 ≤ b ∧ b < 20 then
          (if x.ctl.getLsbD 0 = true ∨ 13 ≤ v.toNat / 2 ^ 16 % 16 then x.ctl.getLsbD b else i b)
        else false) ∧
      y.head = (if i 4 then x.tail else x.head) ∧ y.tail = x.tail ∧ y.base = x.base ∧ y.ctx = x.ctx ∧
      ∀ d z, s.dispatch? d = some z → t.dispatch? d = some (if i 3 = true ∧ z.mailbox = m then
        { z with phase := match z.phase with
          | .accepted => .killing 5 false
          | .stopped _ true => .stopped 5 false
          | .aborting _ true => .aborting 5 false
          | p => p }
        else z)) ∧
  (∀ s p n (v : Word),
    ((p.pf = false ∨ s.portOpen p = false ∨ s.slotBusy n = true) → exec (.ctxidWrite p n v) s = .next s) ∧
    (p.pf = true → s.portOpen p = true → n < 64 → s.slotBusy n = false → (s.slot n).valid = false →
      exec (.ctxidWrite p n v) s =
        .next (((s.useStream p).onSlot n fun x => { x with ctxid := v &&& 0x803FFFFF }).updateKeys))) ∧
  (∀ s p n (v : Word), p.pf = true → s.portOpen p = true → n < 64 →
    let t := (s.useStream p).onSlot n fun x => { x with ctxctl := (x.ctxctl &&& 0xFFFF00FF) ||| (v &&& 0xFF00) }
    ((s.slot n).saved = false → exec (.ctxctlPreq p n v) s = .next (if v.getLsbD 0 then
      t.onSlot n fun x => { x with ctxctl := x.ctxctl ||| 1 } else t)) ∧
    ((s.slot n).saved = true → exec (.ctxctlResume p n v) s = .next (if v.getLsbD 3 then
      (t.onSlot n fun x => { x with resuming := true }).resumeSlot n else t))) ∧
  (∀ s p n (v : Word), p.pf = true → s.portOpen p = true → n < 64 → (s.slot n).tlbictl.getLsbD 0 = false →
    v.getLsbD 0 = true → exec (.tlbictlInvalidate p n v) s = .next
      (let t := (s.useStream p).onSlot n fun x => { x with tlbictl := v &&& 7 }
       let kept (y : TlbEntry) : Bool := !tlbMatches n (v.toNat / 2 % 4) ((s.slot n).tlbiva.toNat % 2 ^ 57) y
       { t with comp := { t.comp with cores := t.comp.cores.map fun e => (e.1, { e.2 with tlb := e.2.tlb.filter kept }) }
                dies := t.dies.map fun e => (e.1, { e.2 with walks := e.2.walks.filter kept }) })) ∧
  (∀ s slot, (s.slot slot).tlbictl.getLsbD 0 = true →
    (∀ e ∈ s.mem.paths, ∀ p ∈ e.2, ∀ x, s.dispatch? p.dispatch = some x → x.slot ≠ slot) →
    exec (.tlbInvalidateComplete slot) s = .next (s.onSlot slot fun x => { x with tlbictl := x.tlbictl &&& 6 })) ∧
  (∀ s p w en (v : Word), p.pf = true → s.portOpen p = true → w < 16 → exec (.apctlWrite p w en v) s =
    .next ((s.useStream p).onAperture p.iface w fun x => { x with
      ctl := ((if x.ctl.getLsbD 31 then x.ctl else v) &&& 0x403F003F) ||| if en then 0x80000000 else 0 })) ∧
  (∀ s p w offset n x world a, s.hostTarget p w offset = some (x, world, a) → let t := s.useStream p
    (∀ l, t.hostBytes x a n .read = some l → exec (.hostBar2Read p w offset n) s = .next
      ((l.foldl (fun s pa => s.checkMac world pa 1) t).output
        (.read p.iface (l.map fun pa => if t.badLine world pa then Config.garbled world pa
          else match tget 0 t.mem.keyed pa with
            | 0 => t.hbmByte pa
            | n + 1 => reseen n world (sliceUnit pa) pa (t.hbmByte pa))
          (l.any (t.poisoned world))))) ∧
    (t.hostBytes x a n .read = none → exec (.hostBar2Read p w offset n) s = .next (t.output (.unsupported p.iface))) ∧
    (∀ bytes l, t.hostBytes x a bytes.length .write = some l →
      exec (.hostBar2Write p w offset bytes) s = .next (t.hbmWrite world (l.zip bytes)))) ∧
  (∀ s p w offset n bytes, s.hostTarget p w offset = none →
    exec (.hostBar2Read p w offset n) s = .next (s.output (.unsupported p.iface)) ∧
    exec (.hostBar2Write p w offset bytes) s = .next s) ∧
  (∀ s p n (v : Double), p.pf = true → s.portOpen p = true → n < 64 → let t := s.useStream p
    (s.slotBusy n = false →
      exec (.registerWrite p (.ptroot n) v) s = .next (t.onSlot n fun x => { x with ptroot := v })) ∧
    exec (.registerWrite p (.tvec n) v) s = .next (t.onSlot n fun x => { x with tvec := v }) ∧
    exec (.registerWrite p (.tlbiva n) v) s = .next (t.onSlot n fun x => { x with tlbiva := v }) ∧
    exec (.registerWrite p (.ctxsave n) v) s = .next (t.onSlot n fun x => { x with ctxsave := v })) ∧
  (∀ s p m (v : Double), s.ownMailbox p m = true → exec (.registerWrite p (.mbbase m) v) s =
    .next (if (s.mailbox m).ctl.getLsbD 0 then s else (s.useStream p).onMailbox m fun x => { x with base := v })) ∧
  (∀ s p w (v : Double), p.pf = true → s.portOpen p = true → w < 16 → exec (.registerWrite p (.apbase w) v) s =
    .next (if (s.aperture p.iface w).ctl.getLsbD 31 then s
      else (s.useStream p).onAperture p.iface w fun x => { x with base := v }))

/-- R292, R295, R304, R343, R347, R353: what a host read of a register answers. Until the module is released no register answers. A
mailbox reads as zero through another interface; MBCTX reads as the identifier with the world of the valid slot that holds it; a
window number of 16 or more names no window; what was written to a slot's register reads back; KILL reads as 0 after a write, and
a write of TRUSTSTAT or MBHEAD changes nothing. Outside its stream a read in confidential mode is an Unsupported Request. That a
field with no other read value reads as it was stored, and that BAR0 answers once the module is released, is log entry 69. -/
def Obligations.HostRegistersReadBack : Prop :=
  (∀ s dt p r t, s.sched.agenda = (dt, .readRegister p r) :: t →
    step s = .next (({ s with sched := { s.sched with agenda := t } }.pass dt).readRegister p r)) ∧
  (∀ (s : State) p r,
    (s.ifaceLive p.iface = false → s.readRegister p r = s) ∧
    (s.ifaceLive p.iface = true → s.streamOk p = false → s.readRegister p r = s.output (.unsupported p.iface)) ∧
    (s.portOpen p = true → s.readRegister p r =
      (s.useStream p).output (.register p.iface (BitVec.ofNat 64 (s.registerValue p r))))) ∧
  (∀ (s : State) p m, (Config.mailboxOwner m).val ≠ p.iface → s.registerValue p (.mbbase m) = 0 ∧
    s.registerValue p (.mbctl m) = 0 ∧ s.registerValue p (.mbhead m) = 0 ∧ s.registerValue p (.mbtail m) = 0 ∧
    s.registerValue p (.mbctx m) = 0) ∧
  (∀ (s : State) p m slot, s.ownMailbox p m = true → s.slotOf (s.mailbox m).ctx.toNat = some slot →
    s.registerValue p (.mbctx m) % 2 ^ 16 = (s.mailbox m).ctx.toNat ∧
    s.registerValue p (.mbctx m) / 2 ^ 16 = (s.slot slot).world) ∧
  (∀ (s : State) p w, 16 ≤ w → s.registerValue p (.apctl w) = 0 ∧ s.registerValue p (.apbase w) = 0) ∧
  (∀ s p n (v : Double) t, p.pf = true → s.portOpen p = true → n < 64 →
    (exec (.registerWrite p (.tvec n) v) s = .next t → t.registerValue p (.tvec n) = v.toNat) ∧
    (exec (.registerWrite p (.tlbiva n) v) s = .next t → t.registerValue p (.tlbiva n) = v.toNat)) ∧
  (∀ s p m (v : Word) t, s.ownMailbox p m = true → exec (.mbctlKill p m v) s = .next t →
    (t.registerValue p (.mbctl m)).testBit 3 = false) ∧
  (∀ s p m (v : Double), exec (.registerWrite p .truststat v) s = .next s ∧ exec (.registerWrite p (.mbhead m) v) s = .next s)

/-! ### Root, canopy and cambium engines -/

/-- R176 to R179, R190, R193, R268 to R273, R278, R279, R303: a root engine accepts the next submission while its queue of 16 has
room, and its oldest program takes a free context with g1 the argument; a canopy engine takes the messages in front of it, with the
release of each; a good block waits for its tokens or enters the queue of 32, one that cannot be accepted ends with its code; a block
without room stays in front, and with 256 stored the next waits there (log entry 63). A block that fires takes its counts, and stays
ready in the store while the queue is full (log entry 63). A block that may start is judged again (log entry 36) and takes a free
context, or ends with code 11 where its fields do not fit the entry in force, with 10, or, with its version in force, with 6; a token adds
to its count and fires blocks, or is refused; a block past its timeout does not fire, and ends with code 5. -/
def Obligations.EnginesTakeTheirWork : Prop :=
  (∀ s die n p, (s.root (die * 32 + n)).aborts.find? (s.abortDue (die * 32 + n)) = none →
    s.nextSubmission (die * 32 + n) = some p → (s.root (die * 32 + n)).queue.length < 16 →
    exec (.rootProgramAccept die n) s = .next ((s.onRoot (die * 32 + n) fun x =>
      { x with front := x.front.filter fun q => q ≠ p, queue := x.queue ++ [p] }).accepted p)) ∧
  (∀ s die n a, (s.root (die * 32 + n)).aborts.find? (s.abortDue (die * 32 + n)) = some a →
    exec (.rootProgramAccept die n) s = .next (s.serveAbort (die * 32 + n) a)) ∧
  (∀ s die n p t c, (s.root (die * 32 + n)).queue = p :: t →
    (List.range 4).find? (fun c => (tfind (s.root (die * 32 + n)).ctxs c).isNone) = some c →
    exec (.rootProgramStart die n) s = .next (s.onRoot (die * 32 + n) fun x =>
      { x with queue := t, ctxs := tput x.ctxs c { (p.setG 1 p.arg.toNat) with pc := p.start, phase := .running } })) ∧
  (∀ s die n m, s.nextMessage (die * 2 + n) = some m →
    (∀ a, m.msg = .post a → exec (.canopyBlockAccept die n) s = .next (s.acceptBlock die n m a)) ∧
    (∀ id d, m.msg = .token id d → exec (.canopyBlockAccept die n) s =
      .next ((if s.dieUp d then s.send die (.token m.slot id d (some (m.warp, m.seq, m.clause, m.index)))
        else s.messageFault die m).takeMessage (die * 2 + n) m)) ∧
    (∀ c k, m.msg = .abort c k → exec (.canopyBlockAccept die n) s =
      .next ((if (s.comm? die m.slot c).isSome then s.sendAbort m.slot die c (BitVec.ofNat 16 k)
        else s.messageFault die m).takeMessage (die * 2 + n) m))) ∧
  (∀ (s : State) die n (m : CanopyFront) a bytes, s.rangeWaits die m.slot a 128 = false → s.engRead die m.slot a 128 = .ok bytes →
    let p := { blockProg m.dispatch m.slot a (ofBytes bytes) with accepted := s.rt }
    let room := (s.canopy (die * 2 + n)).queue.length < 32
    (∀ c, s.comm? die m.slot (blockComm (ofBytes bytes)) = c → s.roundHolds die m.slot (blockComm (ofBytes bytes)) = false →
      s.blockFault die m.slot (ofBytes bytes) =
        if blockMalformed (ofBytes bytes) (c.map fun x => x.members.length) then some (2, 11)
        else match c with
          | none => some (2, 10)
          | some x =>
            if bits (ofBytes bytes) 463 448 ≠ x.version.toNat then some (2, 10)
            else if bits (ofBytes bytes) 479 464 ≠ x.attempt.toNat then some (3, 6)
            else none) ∧
    (s.roundHolds die m.slot (blockComm (ofBytes bytes)) = true →
      s.blockFault die m.slot (ofBytes bytes) = if blockMalformed (ofBytes bytes) none then some (2, 11) else none) ∧
    (∀ state code, s.blockFault die m.slot (ofBytes bytes) = some (state, code) →
      (room → s.acceptBlock die n m a = (s.takeMessage (die * 2 + n) m).abortQueued (.canopy die n 0) p state code) ∧
      (¬room → s.acceptBlock die n m a = s)) ∧
    (s.blockFault die m.slot (ofBytes bytes) = none → blockTokens (ofBytes bytes) = [] →
      (room → s.acceptBlock die n m a = (s.takeMessage (die * 2 + n) m).enqueueBlock die n p) ∧
      (¬room → s.acceptBlock die n m a = s)) ∧
    (s.blockFault die m.slot (ofBytes bytes) = none → blockTokens (ofBytes bytes) ≠ [] →
      ((s.die die).waiting.length < 256 → s.acceptBlock die n m a =
        ((s.takeMessage (die * 2 + n) m).onDie die fun d => { d with waiting := d.waiting ++ [(n, p)] }).fireBlocks die) ∧
      (256 ≤ (s.die die).waiting.length → s.acceptBlock die n m a = s))) ∧
  (∀ (s : State) die n p (b : BitVec 1024), (s.die die).waiting = [(n, p)] → p.block = some b → p.phase ≠ .blocked →
    let ids := blockTokens b.toNat
    let tmo := bits b.toNat 667 640
    let fires := (∀ i ∈ ids, (ids.filter (· = i)).length ≤ s.tokens die p.slot i) ∧ (tmo = 0 ∨ s.rt < p.accepted + tmo)
    let room := (s.canopy (die * 2 + n)).queue.length < 32
    let place := (s.die die).orders
    let taken := ids.foldl (fun t i => t.setTokens die p.slot i (t.tokens die p.slot i - 1)) s
    (fires → room → s.fireBlocks die =
      (taken.onDie die fun d => { d with orders := place + 1, waiting := [] }).onCanopy (die * 2 + n) fun c =>
        { c with queue := c.queue ++ [{ p with phase := .queued, order := place }] }) ∧
    (fires → ¬room → s.fireBlocks die =
      taken.onDie die fun d => { d with orders := place + 1, waiting := [(n, { p with phase := .blocked, order := place })] }) ∧
    (¬fires → s.fireBlocks die = s)) ∧
  (∀ (s : State) die n p c b, let f := s.fireBlocks die
    let ready := (f.canopy (die * 2 + n)).queue ++ ((f.die die).waiting.filter fun x => x.1 = n && x.2.phase = .blocked).map Prod.snd
    ready.find? (f.blockFirst die) = some p → p.block = some b →
    (List.range 8).find? (fun c => (tfind (f.canopy (die * 2 + n)).ctxs c).isNone) = some c →
    let t := (f.onCanopy (die * 2 + n) fun x => { x with queue := x.queue.erase p }).onDie die fun d =>
      { d with waiting := d.waiting.erase (n, p) }
    let ends (state code : Nat) : Result := .next (t.abortQueued (.canopy die n 0) p state code)
    (∀ m, t.comm? die p.slot (blockComm b.toNat) = some m →
      (blockMalformed b.toNat (some m.members.length) = true → exec (.canopyBlockStart die n) s = ends 2 11) ∧
      (blockMalformed b.toNat (some m.members.length) = false →
        (bits b.toNat 463 448 ≠ m.version.toNat → exec (.canopyBlockStart die n) s = ends 2 10) ∧
        (bits b.toNat 463 448 = m.version.toNat →
          (bits b.toNat 479 464 = m.attempt.toNat → exec (.canopyBlockStart die n) s = .next (t.onCanopy (die * 2 + n) fun x =>
            { x with ctxs := tput x.ctxs c (if blockOp b.toNat = 7 then p.begin
              else { p.begin with script := (expansion b.toNat m.members.length).map commandWord }) })) ∧
          (bits b.toNat 479 464 ≠ m.attempt.toNat → exec (.canopyBlockStart die n) s = ends 3 6)))) ∧
    (t.comm? die p.slot (blockComm b.toNat) = none → blockMalformed b.toNat none = false →
      exec (.canopyBlockStart die n) s = ends 2 10)) ∧
  (∀ s n src slot id die owner passed, tfind s.eng.flights n = some { src := src, msg := .token slot id die owner, passed := passed } →
    s.pairWaits fabricUnit src die = false → (s.landed n).dieUp die = true →
    let t := s.landed n
    (t.refuses die slot id = false →
      exec (.tokenDeliver n) s = .next ((t.setTokens die slot id (t.tokens die slot id + 1)).fireBlocks die)) ∧
    (t.refuses die slot id = true → owner = none →
      exec (.tokenDeliver n) s = .next (t.ring die 0x13 (t.ident slot) [32, 0, id])) ∧
    (∀ w seq c k, t.refuses die slot id = true → owner = some (w, seq, c, k) → exec (.tokenDeliver n) s =
      .next ((t.ring die 0x13 (t.ident slot) [32, 0, id]).deferFault w seq c k { cause := 0x22 }))) ∧
  (∀ s die i n p b, (s.die die).waiting[i]? = some (n, p) → p.block = some b → p.phase ≠ .blocked → bits b.toNat 667 640 ≠ 0 →
    p.accepted + bits b.toNat 667 640 ≤ s.rt → exec (.blockTokenTimeout die i) s =
      .next ((s.onDie die fun d => { d with waiting := d.waiting.eraseIdx i }).abortQueued (.canopy die n 0) p 2 5))

/-- R268, R273, R275 to R277, R280 to R282, R325, R331: a contribution of the current attempt enters its tree node, which forwards
the combined data to its parent once every child is there, or, at the root, the result to the nodes below; it gives its attempt up on a
mismatch or once REDTMO has passed, and then forwards nothing (log entry 36). A packet is judged at the ingress of every member die that
its route crosses and at the die it goes to; a result goes node by node down and is written at each member once what the program's
earlier commands write is performed. A part of a ring or direct collective waits for the member's RED (log entry 62); the member adds
its own block or takes it as it is. A packet waits where its route does; one of a newer attempt advances the member's, one of an older
is dropped. -/
def Obligations.CollectivesGoOn : Prop :=
  let gives (t : State) (k : Nat) (r : RedNode) (code : Nat) (data : List Nat) : Result :=
    let u := t.putNode k (some { r with closed := true })
    .next ((u.ring r.die code (u.ident r.ctx) ([r.comm, r.attempt.toNat, r.seq] ++ data)).sendAbort r.ctx r.die r.comm r.attempt)
  (∀ s n src ctx comm attempt seq level child node die m passed t c,
    let x : Packet := { src := src, msg := .child ctx comm attempt seq level child node die m, passed := passed }
    tfind s.eng.flights n = some x →
    s.pairWaits fabricUnit src die = false →
    (s.landed n).judgeArrival x ctx comm attempt die = (t, true) → t.comm? die ctx comm = some c →
    let fresh : RedNode :=
      { ctx := ctx, comm := comm, attempt := attempt, seq := seq, level := level, die := die,
        children := treeChildren c.members level node, arrived := [], deadline := t.rt + c.redtmo, closed := false }
    let k := ((t.redNode? ctx comm attempt seq level die).getD (tnext t.eng.reds, fresh)).1
    let r := ((t.redNode? ctx comm attempt seq level die).getD (tnext t.eng.reds, fresh)).2
    let q : RedNode := { r with arrived := tput r.arrived child m }
    let late := r.arrived ≠ [] ∧ r.deadline ≤ t.rt
    let differs := ∃ x ∈ r.arrived, x.2.op ≠ m.op ∨ x.2.bf16 ≠ m.bf16 ∨ x.2.length ≠ m.length
    (r.closed = true → exec (.redChildArrive n) s = .next t) ∧
    (r.closed = false → late → exec (.redChildArrive n) s = gives t k r 0x16 [r.missing]) ∧
    (r.closed = false → ¬late → differs → exec (.redChildArrive n) s = gives t k r 0x15 []) ∧
    (r.closed = false → ¬late → ¬differs →
      ((∃ x ∈ r.children, tfind q.arrived x = none) → exec (.redChildArrive n) s = .next (t.putNode k (some q))) ∧
      ((∀ x ∈ r.children, (tfind q.arrived x).isSome = true) →
        let xs := r.children.map fun x => (tfind q.arrived x).elim [] Contribution.data
        exec (.redChildArrive n) s = .next ((t.putNode k none).forward c q node { m with data := combine m.op xs })))) ∧
  (∀ (s : State) (c : Comm) (r : RedNode) node m,
    (r.level < 2 → let up := lowestRank c.members (r.level + 1) node
      s.forward c r node m =
        s.send r.die (.child r.ctx r.comm r.attempt r.seq (r.level + 1) node up (nth 0 c.members up) m)) ∧
    (2 ≤ r.level → s.forward c r node m = (treeChildren c.members r.level node).foldl (fun s x =>
      s.send r.die (.result r.ctx r.comm r.attempt r.seq (some (r.level - 1, x)) (nth 0 c.members x) (rootRound m))) s)) ∧
  (∀ s k r, tfind s.eng.reds k = some r → (r.closed = true ∨ s.rt < r.deadline → exec (.reductionTimeout k) s = .next s) ∧
    (r.closed = false → r.deadline ≤ s.rt → exec (.reductionTimeout k) s = gives s k r 0x16 [r.missing])) ∧
  (∀ s n src ctx comm attempt seq level node die m passed t c,
    let x : Packet := { src := src, msg := .result ctx comm attempt seq (some (level, node)) die m, passed := passed }
    tfind s.eng.flights n = some x →
    s.pairWaits fabricUnit src die = false → (s.landed n).judgeArrival x ctx comm attempt die = (t, true) →
    t.comm? die ctx comm = some c → exec (.redResultDeliver n) s = .next ((treeChildren c.members level node).foldl (fun s x =>
      s.send die (.result ctx comm attempt seq (if level = 0 then none else some (level - 1, x)) (nth 0 c.members x) m)) t)) ∧
  (∀ s n src ctx comm attempt seq die m passed e p (w : RedWait),
    let x : Packet := { src := src, msg := .result ctx comm attempt seq none die m, passed := passed }
    tfind s.eng.flights n = some x →
    let key := seq * 256 + comm
    s.waiter? die ctx key = some (e, p, w) →
    let released := (∀ y ∈ p.writes, w.place ≤ y.place) ∧ (∀ y ∈ p.reds, w.place ≤ y.2.place) ∧
      ∀ k ∈ s.pushesOf e, ∀ y, tfind s.comp.transfers k = some y → w.place ≤ y.place
    (¬released ∨ s.pairWaits fabricUnit src die = true → exec (.redResultDeliver n) s = .next s) ∧
    (released → s.pairWaits fabricUnit src die = false →
      ∀ t c, (s.landed n).judgeArrival x ctx comm attempt die = (t, true) → t.comm? die ctx comm = some c →
      t.waiter? die ctx key = some (e, p, w) →
      let b := memberBytes m c.rank (match p.block with
        | some b => decide (bits b.toNat 447 438 = c.rank)
        | none => false)
      let u := t.onProg e fun p => { p with reds := tdel p.reds key }
      (u.engWriteFault (engDie e) p.slot w.dst b.length = none →
        exec (.redResultDeliver n) s = .next ((u.engWrite (engDie e) p.dispatch p.slot w.dst b).tryFinish e)) ∧
      (∀ k, u.engWriteFault (engDie e) p.slot w.dst b.length = some k →
        exec (.redResultDeliver n) s = .next ((u.progFault e k).tryFinish e)))) ∧
  (∀ s n src ctx comm attempt seq block adding die bytes passed t,
    let x : Packet := { src := src, msg := .part ctx comm attempt seq block adding die bytes, passed := passed }
    tfind s.eng.flights n = some x →
    s.pairWaits fabricUnit src die = false → s.judgeArrival x ctx comm attempt die = (t, true) →
    let key := seq * 256 + comm
    (t.waiter? die ctx key = none → exec (.redResultDeliver n) s = .next t) ∧
    (∀ c e p w, t.comm? die ctx comm = some c → t.waiter? die ctx key = some (e, p, w) → w.block = some block →
      let u := t.landed n
      (adding = false → exec (.redResultDeliver n) s = .next (u.passPart e p c comm key block false w bytes)) ∧
      (∀ own b, adding = true → p.block = some b → u.engRead (engDie e) p.slot w.src w.length = .ok own →
        exec (.redResultDeliver n) s =
          .next (u.passPart e p c comm key block true w (sumArrays (bits b.toNat 411 408 = 2) bytes own))) ∧
      (∀ k, adding = true → u.engRead (engDie e) p.slot w.src w.length = .error k → exec (.redResultDeliver n) s =
        .next (((u.onProg e fun q => { q with reds := tdel q.reds key }).progError e k [(w.src, w.length)]).tryFinish e)))) ∧
  (∀ (s : State) (x : Packet) slot comm attempt die,
    let way := ((s.pathOf x.src die).map fun h => hopTo h.1 h.2 die).filter fun d =>
      d ≠ die && !x.passed.contains d && (s.comm? d slot comm).isSome
    (way = [] → s.judgeArrival x slot comm attempt die = s.judgePacket die slot comm attempt) ∧
    (∀ d r, way = d :: r →
      ((s.judgePacket d slot comm attempt).2 = false →
        s.judgeArrival x slot comm attempt die = s.judgePacket d slot comm attempt) ∧
      ((s.judgePacket d slot comm attempt).2 = true → s.judgeArrival x slot comm attempt die =
        (s.judgePacket d slot comm attempt).1.judgeAll slot comm attempt (r ++ [die])))) ∧
  (∀ (s : State) die slot comm (attempt : BitVec 16) c, s.comm? die slot comm = some c →
    (attempt = c.attempt → s.judgePacket die slot comm attempt = (s, true)) ∧
    (attempt ≠ c.attempt → (attempt - c.attempt).toNat < 2 ^ 15 →
      s.judgePacket die slot comm attempt = (s.advanceAttempt die slot comm attempt, true)) ∧
    (2 ^ 15 ≤ (attempt - c.attempt).toNat → s.judgePacket die slot comm attempt =
      (s.onDie die fun x => { x with counts := { x.counts with
        dropped := BitVec.ofNat 32 (min (2 ^ 32 - 1) (x.counts.dropped.toNat + 1)) } }, false))) ∧
  (∀ (s : State) die slot comm (attempt : BitVec 16) n (x : Packet) goal, s.eng.flights = [(n, x)] →
    x.msg.collective = some (slot, comm, attempt, goal) → s.pairWaits fabricUnit x.src goal = false →
    (s.onTheWay x slot comm goal).head? = some die →
    ((s.judgePacket die slot comm attempt).2 = false →
      exec (.collectivePacketIngress die slot comm attempt) s = .next ((s.judgePacket die slot comm attempt).1.landed n)) ∧
    ((s.judgePacket die slot comm attempt).2 = true → let t := (s.judgePacket die slot comm attempt).1
      exec (.collectivePacketIngress die slot comm attempt) s = .next { t with
        eng := { t.eng with flights := tmap (fun x => { x with passed := x.passed ++ [die] }) t.eng.flights n } })) ∧
  (∀ (s : State) die slot comm (attempt : BitVec 16), s.eng.flights = [] →
    exec (.collectivePacketIngress die slot comm attempt) s = .next s) ∧
  (∀ s n src slot comm attempt die passed c,
    tfind s.eng.flights n = some { src := src, msg := .abort slot comm attempt die, passed := passed } →
    s.pairWaits fabricUnit src die = false → (s.landed n).comm? die slot comm = some c → exec (.attemptAbortArrive n) s =
      .next (if c.attempt = attempt then (s.landed n).advanceAttempt die slot comm (attempt + 1) else s.landed n))

/-- R302, R303: a group command is proposed to its voters, who hold new blocks from their first look at it and vote once no collective of
the communicator runs on them; with every vote yes before its timeout, judged against the last vote, the new membership is installed,
otherwise nothing changes; the first no in die order settles it, once every voter has voted (log entry 37). A proposal and a commit wait
where no route reaches a voter or one holds packets (R331, R332). Its record follows. -/
def Obligations.AgreementsGoOn : Prop :=
  (∀ s n r, tfind s.eng.rounds n = some r → r.phase = .posted → s.roundBefore n r = false →
    (r.fieldsOk = false → exec (.agreementPropose n) s = .next (s.settleRound n r false 15)) ∧
    (r.fieldsOk = true → r.opc ≠ 2 → s.memberList r = none → exec (.agreementPropose n) s =
      .next ((s.engMark 0 r.slot [(r.field 127 64, 2 * r.field 63 48)]).settleRound n r false 15)) ∧
    (∀ new, r.fieldsOk = true → (if r.opc = 2 then some [] else s.memberList r) = some new →
      r.opc ≠ 0 → s.oldMembers r = [] → exec (.agreementPropose n) s = .next (s.settleRound n r false 12)) ∧
    (∀ new, r.fieldsOk = true → (if r.opc = 2 then some [] else s.memberList r) = some new →
      (r.opc = 0 ∨ s.oldMembers r ≠ []) → exec (.agreementPropose n) s = .next (s.onRound n fun r' =>
        { r' with
          members := new, old := s.oldMembers r, proposed := s.rt, phase := .proposed
          voters := sortNat (new ++ (s.oldMembers r).filter fun d => !new.contains d &&
            s.reachable ((sortNat (if r.opc = 2 then s.oldMembers r else new)).headD 0) d) }))) ∧
  (∀ (s : State) (r : Round) die, let first := (sortNat (if r.opc = 2 then r.old else r.members)).headD 0
    s.roundWaits r die = (!s.reachable first die || !s.reachable die first || s.tripWaits fabricUnit first die)) ∧
  (∀ s n r die, tfind s.eng.rounds n = some r → r.phase = .proposed → die ∈ r.voters → tfind r.votes die = none →
    (s.roundWaits r die = true → exec (.agreementVote n die) s = .next s) ∧
    (s.roundWaits r die = false →
    let t := s.onRound n fun x => { x with holds := if x.holds.contains die then x.holds else die :: x.holds }
    (t.commRuns r die = true → exec (.agreementVote n die) s = .next t) ∧
    (t.commRuns r die = false → exec (.agreementVote n die) s =
      .next (t.onRound n fun x => { x with votes := tput x.votes die (t.ballot n r die), lastVote := s.rt })))) ∧
  (∀ s n r, tfind s.eng.rounds n = some r → r.phase = .proposed →
    ((∀ d ∈ r.voters, (tfind r.votes d).isSome = true) →
      (∀ code, (tvals r.votes).find? (fun v => v ≠ 0) = some code →
        exec (.agreementCommit n) s = .next (s.settleRound n r false code)) ∧
      ((∀ v ∈ tvals r.votes, v = 0) → r.proposed + r.timeout ≤ r.lastVote →
        exec (.agreementCommit n) s = .next (s.settleRound n r false 14)) ∧
      ((∀ v ∈ tvals r.votes, v = 0) → r.lastVote < r.proposed + r.timeout → (∃ d ∈ r.voters, s.roundWaits r d = true) →
        exec (.agreementCommit n) s = .next s) ∧
      ((∀ v ∈ tvals r.votes, v = 0) → r.lastVote < r.proposed + r.timeout → (∀ d ∈ r.voters, s.roundWaits r d = false) →
        exec (.agreementCommit n) s = .next (((r.voters.foldl (fun t d => (t.install r d).onDie d fun x =>
          { x with comms := tmap (fun c => { c with attempt := s.nextAttempt r d }) x.comms r.key }) s).dropNodes r).settleRound
            n r true 0))) ∧
    ((∃ d ∈ r.voters, tfind r.votes d = none) → r.proposed + r.timeout ≤ s.rt →
      exec (.agreementRoundTimeout n) s = .next (s.settleRound n r false 14))) ∧
  (∀ s n r ok code, tfind s.eng.rounds n = some r → r.phase = .committed ok code →
    let t : State := { s with eng := { s.eng with rounds := tdel s.eng.rounds n } }
    exec (.groupCommandComplete n) s = .next (t.complete r.mailbox r.slot (r.field 255 192)
      (completionBytes (r.field 319 256) t.rt 0 0 0 code (if ok then 1 else 2))))

/-- R182 to R184, R251 to R260: a good declaration is installed and a bad one dropped at every engine as a deferred fault (log entry 58);
a sweep request starts the sweeping of its slot on every engine of the dispatch; a scan, while no other slot of the engine gathers a
warp, takes the next element, which is passed, gathered, retired for a bad clause, or found dormant, and launches the forming warp when
it is full or its range exhausted, each thread at the clause of its bud with its element in v0 to v5; a wake makes a dormant element
ready or waits in PENDING; an ended run leaves its bud ready, waiting or retired by its wait, after the earlier commands of its warp, an
exit being taken like a wait that is met (log entry 83); an exhausted sweep clears deferrals and flushes the dispatch's writes (log entry
59), then sweeping ends, by LIMIT, the stop word or for want of a ready element, or goes on, and the barrier of the sweep is signalled;
an error ends sweeping at once. -/
def Obligations.CambiumEnginesGoOn : Prop :=
  (∀ s site m slot addr scope, s.nextCam site CamMsg.isDeclare = some m → m.msg = .declare slot addr scope →
    (∀ b, s.camRead site (s.slotOfDispatch m.dispatch) addr 64 = some b → camOk (ofBytes b) = true →
      s.slotSweeps m.dispatch slot = false → exec (.declarationAccept site) s = .next ((s.onCambium site fun c =>
        { c with
          slots := tput c.slots (camKey m.dispatch slot)
            { dispatch := m.dispatch, ctx := s.slotOfDispatch m.dispatch, descriptor := addr,
              desc := BitVec.ofNat 512 (ofBytes b), scope := scope, pending := [], sweep := none } }).takeCam site m)) ∧
    let dropped (u : State) : State := if (s.sitesOf m.dispatch).all fun e => (s.cambium e).front.contains m then
        (u.sitesOf m.dispatch).foldl (fun s e => if (s.cambium e).front.contains m then (s.camMsgFault e m).takeCam e m else s) u
      else (u.camMsgFault site m).takeCam site m
    (∀ b, s.camRead site (s.slotOfDispatch m.dispatch) addr 64 = some b → camOk (ofBytes b) = false ∨ s.slotSweeps m.dispatch slot = true →
      exec (.declarationAccept site) s = .next (dropped s)) ∧
    (s.camRead site (s.slotOfDispatch m.dispatch) addr 64 = none →
      exec (.declarationAccept site) s = .next (dropped (s.camMark site (s.slotOfDispatch m.dispatch) [(addr, 64, false)])))) ∧
  (∀ s site m slot limit stop barrier, s.nextCam site CamMsg.isSweep = some m → m.msg = .sweep slot limit stop barrier →
    ((s.camSlot? site m.dispatch slot).isNone = true ∨ s.slotSweeps m.dispatch slot = true →
      exec (.sweepRequestAccept site) s = .next ((s.camMsgFault site m).takeCam site m)) ∧
    ((s.camSlot? site m.dispatch slot).isSome = true → s.slotSweeps m.dispatch slot = false →
      exec (.sweepRequestAccept site) s = .next (((s.sitesOf m.dispatch).foldl (fun s e =>
        match s.camSlot? e m.dispatch slot with
        | none => s
        | some x => s.onCamSlot e m.dispatch slot fun y =>
            { y with
              sweep := some
                { warp := m.warp, seq := m.seq, clause := m.clause, index := m.index, limit := limit, k := 0, stop := stop,
                  barrier := barrier, cursor := none, launched := none, scanned := (s.camRange e m.dispatch (camCount x.desc.toNat)).1,
                  forming := [] } }) s).takeCam site m))) ∧
  (∀ (s : State) site key c x y w ws, s.camSlot? site (key / 4) (key % 4) = some c → c.sweep = some x →
    s.freeWarps site (key / 4) = w :: ws → s.dispatch? (key / 4) = some y → y.phase = .accepted →
    s.away (key / 4) = false → s.gathersAlone site key = true → s.enginesWait (dieOfSite site) = false →
    let hi := (s.camRange site (key / 4) (camCount c.desc.toNat)).2
    let t := if x.scanned < hi then
        (s.scanElement site (key / 4) (key % 4) c x y.buds.length x.scanned).onSweep site (key / 4) (key % 4) fun z =>
          { z with scanned := x.scanned + 1 }
      else s
    ∀ z v, (t.camSlot? site (key / 4) (key % 4)).bind CamSlot.sweep = some z → (t.freeWarps site (key / 4)).head? = some v →
    (z.forming ≠ [] → camWidth c.desc.toNat ≤ z.forming.length ∨ hi ≤ z.scanned →
      exec (.scanStep site key) s = .next (t.launch site (key / 4) (key % 4) c z v)) ∧
    (z.forming = [] ∨ (z.forming.length < camWidth c.desc.toNat ∧ z.scanned < hi) →
      exec (.scanStep site key) s = .next t)) ∧
  (∀ (s : State) site dispatch slot (c : CamSlot) x nbud i, let d := c.desc.toNat
    let map := (mapDouble (camMap d) i, 8, true)
    let bud := (budAddr d i, 16, true)
    let fault (l : List (Nat × Nat × Bool)) (u : State) : State :=
      (u.camMark site c.ctx l).camFault site dispatch x.warp x.seq x.clause x.index
    (s.mapBit site c.ctx (camMap d) i = none ∨ s.mapBit site c.ctx (camNextm d) i = none →
      s.scanElement site dispatch slot c x nbud i = fault [(map.1, 8, false), (mapDouble (camNextm d) i, 8, false)] s) ∧
    (∀ p q, s.mapBit site c.ctx (camMap d) i = some p → s.mapBit site c.ctx (camNextm d) i = some q →
      ((p || q) = true → s.scanElement site dispatch slot c x nbud i = s) ∧
      ((p || q) = false →
        (s.readBud site c.ctx d i = none → s.scanElement site dispatch slot c x nbud i = fault [bud] s) ∧
        ∀ b, s.readBud site c.ctx d i = some b →
          (b.state = 1 → b.clause < nbud →
            (∀ t, s.writeBud site dispatch c.ctx d i { b with state := 2 } = some t → s.scanElement site dispatch slot c x nbud i =
              t.onSweep site dispatch slot fun y => { y with forming := y.forming ++ [(i, b.clause, b.locals)], cursor := some i }) ∧
            (s.writeBud site dispatch c.ctx d i { b with state := 2 } = none →
              s.scanElement site dispatch slot c x nbud i = fault [bud] s)) ∧
          (b.state = 1 → nbud ≤ b.clause →
            (∀ t, s.writeBud site dispatch c.ctx d i { b with state := 3 } = some t → s.scanElement site dispatch slot c x nbud i =
              fault [map] ((t.setMapBit site dispatch c.ctx (camMap d) i true).getD t)) ∧
            (s.writeBud site dispatch c.ctx d i { b with state := 3 } = none →
              s.scanElement site dispatch slot c x nbud i = fault [bud] s)) ∧
          (b.state = 2 → s.scanElement site dispatch slot c x nbud i = s) ∧
          (b.state = 0 ∨ b.state = 3 →
            (∀ t, s.setMapBit site dispatch c.ctx (camMap d) i true = some t → s.scanElement site dispatch slot c x nbud i = t) ∧
            (s.setMapBit site dispatch c.ctx (camMap d) i true = none →
              s.scanElement site dispatch slot c x nbud i = fault [map] s))))) ∧
  (∀ (s : State) site dispatch slot (c : CamSlot) (x : Sweep) w d g, s.dispatch? dispatch = some d → s.group? (groupOf w) = some g →
    let t := s.launch site dispatch slot c x w
    (∀ y, (t.camSlot? site dispatch slot).bind CamSlot.sweep = some y → y.forming = [] ∧
      y.launched = (x.forming.getLast?).map Prod.fst) ∧
    ∃ W, t.warp? w = some W ∧ W.phase = .between ∧ W.mrs = [] ∧
      (∀ l i clause locals, l < 32 → x.forming[l]? = some (i, clause, locals) →
        let a := elemAddr c.desc.toNat i
        let reg (n : Nat) : Word := tget 0 W.v (32 * n + l)
        W.statusOf l = .running ∧ W.pcOf l = (recBits d.record 127 64 + nth 0 d.buds clause) % 2 ^ 57 ∧
        reg 0 = BitVec.ofNat 32 i ∧ reg 1 = BitVec.ofNat 32 clause ∧
        reg 2 = BitVec.ofNat 32 a ∧ reg 3 = BitVec.ofNat 32 (a / 2 ^ 32) ∧
        reg 4 = BitVec.ofNat 32 locals ∧ reg 5 = BitVec.ofNat 32 (locals / 2 ^ 32) ∧
        (∀ n, 6 ≤ n → reg n = 0) ∧ tfind W.buds l = some (slot, i)) ∧
      ∀ l, l < 32 → x.forming.length ≤ l → W.statusOf l = .exited ∧ tfind W.buds l = none ∧ ∀ n, tget 0 W.v (32 * n + l) = 0) ∧
  (∀ s site m slot i next c x, s.nextCam site CamMsg.isWake = some m → m.msg = .wake slot i next →
    s.camSlot? site m.dispatch slot = some c → i < camCount c.desc.toNat →
    let owner := s.camOwner m.dispatch (camCount c.desc.toNat) i
    s.camSlot? owner m.dispatch slot = some x →
    let bud := (budAddr c.desc.toNat i, 16, true)
    let map := (mapDouble (if next then camNextm c.desc.toNat else camMap c.desc.toNat) i, 8, true)
    (s.wakeElement owner m.dispatch slot x i next = none →
      exec (.wakeTake site) s = .next (((s.camMark owner c.ctx [bud, map]).camMsgFault site m).takeCam site m)) ∧
    (∀ t, s.wakeElement owner m.dispatch slot x i next = some t → exec (.wakeTake site) s = .next (t.takeCam site m)) ∧
    ∀ b, s.readBud owner x.ctx x.desc.toNat i = some b →
      (b.state = 2 → s.wakeElement owner m.dispatch slot x i next = some (s.onCamSlot owner m.dispatch slot fun y =>
        { y with pending := if y.pending.contains i then y.pending else y.pending ++ [i] })) ∧
      (b.state = 0 → ∀ t, s.writeBud owner m.dispatch x.ctx x.desc.toNat i { b with state := 1 } = some t →
        s.wakeElement owner m.dispatch slot x i next =
          if next then t.setMapBit owner m.dispatch x.ctx (camNextm x.desc.toNat) i true
          else t.setMapBit owner m.dispatch x.ctx (camMap x.desc.toNat) i false) ∧
      (b.state = 1 ∨ b.state = 3 → s.wakeElement owner m.dispatch slot x i next = some s)) ∧
  (∀ s site m slot i next, s.nextCam site CamMsg.isWake = some m → m.msg = .wake slot i next →
    (s.camSlot? site m.dispatch slot = none ∨
      ∃ c, s.camSlot? site m.dispatch slot = some c ∧ camCount c.desc.toNat ≤ i) →
    exec (.wakeTake site) s = .next ((s.camMsgFault site m).takeCam site m)) ∧
  (∀ (s : State) site e c, (s.cambium site).ends.find? (fun e =>
      !s.enginesWait (dieOfSite site) && s.camFirst e.dispatch e.warp e.seq && match e.yielded with
      | some _ => s.handed e.warp e.seq e.scope
      | none => true) = some e →
    let t := (s.markRelease e.warp e.seq e.scope).onCambium site fun c => { c with ends := c.ends.erase e }
    t.camSlot? site e.dispatch e.slot = some c → exec (.byieldTake site) s = .next (t.endRun site e c)) ∧
  (∀ (s : State) site (e : BudEnd) (c : CamSlot) b, s.readBud site c.ctx c.desc.toNat e.element = some b → let d := c.desc.toNat
    let ends (b : Bud) (dormant : Bool) : Prop := ∀ t u, s.writeBud site e.dispatch c.ctx d e.element b = some t →
      t.setMapBit site e.dispatch c.ctx (camMap d) e.element dormant = some u → s.endRun site e c =
        u.onCamSlot site e.dispatch e.slot fun x => { x with pending := x.pending.filter fun i => i ≠ e.element }
    (e.yielded = none → ends { b with state := 1 } false) ∧
    ∀ retire clause kind opnd (locals : Double), e.yielded = some (retire, clause, kind, opnd, locals) →
      let b := { b with clause := clause, wkind := kind, wopnd := opnd, locals := locals.toNat }
      (retire = true → ends { b with state := 3 } true) ∧
      ∀ met, s.budWait site c.ctx d e.element kind opnd = some met → retire = false →
        (e.element ∈ c.pending ∨ met = true → ends { b with state := 1 } false) ∧
        (e.element ∉ c.pending → met = false → ends { b with state := 0 } true)) ∧
  (∀ (s : State) site ctx d i kind opnd,
    (kind = 0 → s.budWait site ctx d i kind opnd = some true) ∧
    (kind ≠ 0 → kind ≠ 2 → s.budWait site ctx d i kind opnd = some false) ∧
    (kind = 2 → camLevel d = 0 → s.budWait site ctx d i kind opnd = none) ∧
    (kind = 2 → camLevel d ≠ 0 →
      (s.camRead site ctx (camNbr d + 32 * i) 32 = none → s.budWait site ctx d i kind opnd = none) ∧
      ∀ b, s.camRead site ctx (camNbr d + 32 * i) 32 = some b →
        let near (j : Nat) : Prop := j ∈ (chunks 4 8 b).map ofBytes ∧ j ≠ 0xFFFFFFFF ∧ j < camCount d
        ((∀ j, near j → (s.camRead site ctx (camLevel d + 4 * j) 4).isSome = true) → ∃ met,
          s.budWait site ctx d i kind opnd = some met ∧
          (met = true ↔ ∀ j v, near j → s.camRead site ctx (camLevel d + 4 * j) 4 = some v → opnd ≤ ofBytes v)))) ∧
  (∀ (s : State) site dispatch (c : CamSlot), let d := c.desc.toNat
    let r := s.camRange site dispatch (camCount d)
    s.clearDeferrals site dispatch c = (List.range (r.2 - r.1)).foldl (fun acc n => acc.bind fun s =>
      (s.mapBit site c.ctx (camNextm d) (r.1 + n)).bind fun deferred =>
        if deferred then (s.setMapBit site dispatch c.ctx (camMap d) (r.1 + n) false).bind fun s =>
          s.setMapBit site dispatch c.ctx (camNextm d) (r.1 + n) false
        else some s) (some s)) ∧
  (∀ (s : State) site (c : CamSlot) (x : Sweep), let d := c.desc.toNat
    (∀ i, i < camCount d → (s.mapBit site c.ctx (camMap d) i).isSome = true) →
    let ready := ∃ i, i < camCount d ∧ s.mapBit site c.ctx (camMap d) i = some false
    (x.stop = none → ∃ ended, s.sweepDone site c x = some ended ∧ (ended = true ↔ (x.limit ≠ 0 ∧ x.k = x.limit) ∨ ¬ready)) ∧
    (∀ a b, x.stop = some a → s.camRead site c.ctx a 8 = some b → ∃ ended, s.sweepDone site c x = some ended ∧
      (ended = true ↔ (x.limit ≠ 0 ∧ x.k = x.limit) ∨ ofBytes b ≠ 0 ∨ ¬ready)) ∧
    (∀ a, x.stop = some a → s.camRead site c.ctx a 8 = none → s.sweepDone site c x = none)) ∧
  (∀ (s : State) site dispatch (x : Sweep),
    (x.barrier = none → s.sweepSignal site dispatch x = s) ∧
    (∀ o g, x.barrier = some o → s.group? (groupOf x.warp) = some g →
      (g.holds o 16 = true → g.meetsRegisters o 16 = false → s.sweepSignal site dispatch x = s.arrive (coreOf x.warp) o 1) ∧
      (g.holds o 16 = false ∨ g.meetsRegisters o 16 = true → s.sweepSignal site dispatch x =
        s.camFault site dispatch x.warp x.seq x.clause x.index))) ∧
  (∀ (s : State) dispatch slot c x,
    let site := ((s.sitesOf dispatch).find? fun e =>
      match s.camSlot? e dispatch slot with
      | some c => match c.sweep with
        | some x => siteOf (coreOf x.warp) = e
        | none => false
      | none => false).getD 0
    s.camSlot? site dispatch slot = some c → c.sweep = some x → s.away dispatch = false → s.sweepExhausted dispatch slot = true →
    (x.barrier.isSome = true → resident x.warp = true) → s.pathsWait dispatch = false →
    let y := { x with k := x.k + 1 }
    let word := toBytes 4 (2 ^ 31 + y.k % 2 ^ 31)
    let finish (u : State) : Result :=
      .next (((u.eachSweep dispatch slot fun _ _ _ => none).sweepSignal site dispatch y).endCambium dispatch)
    ∀ t ok, (s.sitesOf dispatch).foldl (fun (acc : State × Bool) e =>
      match acc.2, s.camSlot? e dispatch slot with
      | true, some c => match acc.1.clearDeferrals e dispatch c with
        | some s => (s, true)
        | none => (acc.1, false)
      | _, _ => acc) (s, true) = (t, ok) →
    (ok = true → t.sweepDone site c y = some false → exec (.sweepEnd dispatch slot) s =
      .next (((t.flushDispatch dispatch).eachSweep dispatch slot fun lo _ z =>
        some { z with k := y.k, cursor := none, launched := none, scanned := lo, forming := [] }).sweepSignal site dispatch y)) ∧
    (ok = true → t.sweepDone site c y = some true →
      (∀ u, (t.flushDispatch dispatch).camWrite site dispatch c.ctx (c.descriptor + 60) word = some u →
        exec (.sweepEnd dispatch slot) s = finish u)) ∧
    (ok = false ∨ t.sweepDone site c y = none →
      ∀ u, (((t.sweepMarks dispatch slot site c y).camFault site dispatch y.warp y.seq y.clause y.index).flushDispatch dispatch).camWrite
        site dispatch c.ctx (c.descriptor + 60) word = some u → exec (.sweepEnd dispatch slot) s = finish u))

/-! ### Reliability, resets and trust -/

/-- R324 to R328: the scrubber reads a sector of a frame in use and corrects or marks what it finds; the oldest correction on its way back
never writes over a newer version; a retired core's groups move, each once it can be saved, at the retirement or at a later turn of it,
to another core of their instance, a save area that is too small killing the dispatches of their context (R316); where the saved state
is not intact their dispatches are killed as by a consumed error (R301), with a replay while fewer than three attempts have run. -/
def Obligations.ScrubbingAndRetirement : Prop :=
  (∀ s die sector, homeDie (sector * 32) = die → tget false (s.die die).scrub.retired (sector / 2048) = false →
    s.dieUp die = true →
    let corrected := s.correctedError sector
    exec (.scrubSector die sector 0) s = .next s ∧
    exec (.scrubSector die sector 1) s = .next (corrected.onDie die fun d =>
      { d with scrub := { d.scrub with inFlight := d.scrub.inFlight ++ [(sector, tget 0 s.mem.versions sector)] } }) ∧
    ∃ t, exec (.scrubSector die sector 2) s = .next t ∧ t.mem.poison = tset false s.mem.poison sector true ∧
      tget false (t.die die).scrub.retired (sector / 2048) = true ∧
      t.mem.hbm = s.mem.hbm ∧ t.comp = s.comp ∧ t.ctl = s.ctl) ∧
  (∀ s die sector v l, (s.die die).scrub.inFlight = (sector, v) :: l →
    let t := s.onDie die fun d => { d with scrub := { d.scrub with inFlight := l } }
    exec (.scrubWriteback die) s = .next (if tget 0 s.mem.versions sector = v then t else t.ring die 0x04 0 [sector * 32])) ∧
  (∀ s core intact, s.coreUp core = true →
    let t := (s.onDie (dieOfCore core) fun d =>
      { d with cores := d.cores &&& ~~~(BitVec.ofNat 144 (2 ^ (core % 256)))
               counts := { d.counts with retCores := d.counts.retCores + 1 } }).ring (dieOfCore core) 0x06 0
        [core, b2n intact]
    let moved := (tkeys (t.comp.warps.filter fun e => coreOf e.1 = core && !t.dying e.1)).foldl State.stopForSave t
    exec (.coreRetire core intact) s = .next (if (t.groupsOn core).isEmpty then t
      else if intact then moved.migrate core
      else ((t.groupsOn core).map fun e => e.2.dispatch).eraseDups.foldl State.killForRepair t)) ∧
  (∀ s core intact, s.coreUp core = false →
    let moved := (tkeys (s.comp.warps.filter fun e => coreOf e.1 = core && !s.dying e.1)).foldl State.stopForSave s
    exec (.coreRetire core intact) s = .next (if (s.groupsOn core).isEmpty then s else moved.migrate core)) ∧
  (∀ (s : State) core g x, tkeys (s.groupsOn core) = [g] → s.group? g = some x →
    (s.saveable [g] = false → s.migrate core = s) ∧
    (s.saveable [g] = true → Config.saveFrames x.slot * 65536 < s.saveBytes x.slot [g] →
      s.migrate core = s.killWhere fun d => d.slot = x.slot) ∧
    (s.saveable [g] = true → s.saveBytes x.slot [g] ≤ Config.saveFrames x.slot * 65536 →
      s.migrate core = ((s.saveGroup g).onSlot x.slot fun y => { y with resuming := true }).resumeSlot x.slot)) ∧
  (∀ (s : State) d x, s.dispatch? d = some x →
    let replay := bitOf x.record.toNat 18
    (x.phase = .accepted → (s.killForRepair d).dispatch? d = some { x with
      phase := .killing (if replay then 6 else 7) (replay && decide (x.attempts < 3)) }) ∧
    (x.phase ≠ .accepted → (s.killForRepair d).dispatch? d = some x) ∧
    (∀ e, e ≠ d → (s.killForRepair d).dispatch? e = s.dispatch? e))

/-- R289, R331 to R333: a replay is counted, and more than 16 of a link within 2^16 rt, in both directions, make it retrain; a link in use
may retrain at any time, and then carries packets again with its count of replays empty, or tries again (log entry 42), or has failed
after three failed attempts within 2^24 rt, when a reroute begins; a route generation gives every pair whose route used the failed link
another route by links that work, holds it, and leaves the other pairs theirs, a pair being a cluster site or the die's engines with a
die (log entry 61); a held pair moves when its requests are acknowledged, and the dies that no reroute involves any more go on. -/
def Obligations.LinksRetrainAndRoutesChange : Prop :=
  (∀ s die link, (s.link die link).inUse = true → (s.link die link).failed = false →
    let counted := (linkEnds die link).foldl (fun t e => t.onLink e.1 e.2 fun l =>
        { l with replays := (l.replays.filter fun u => s.rt < u + 2 ^ 16) ++ [s.rt] })
      (s.onDie die fun d => { d with counts := { d.counts with replays := BitVec.ofNat 32 (bump 32 d.counts.replays.toNat) } })
    ((counted.link die link).replays.length ≤ 16 → exec (.linkReplay die link) s = .next counted) ∧
    (16 < (counted.link die link).replays.length → exec (.linkReplay die link) s = exec (.linkRetrain die link) counted) ∧
    ((s.link die link).retraining = none →
      let t := s.ringLink die link 0x08 [(s.link die link).failures.length + 1]
      let t := (linkEnds die link).foldl (fun t e => t.onLink e.1 e.2 fun l => { l with retraining := some s.rt }) t
      exec (.linkRetrain die link) s = .next ((linkEnds die link).foldl (fun t e => t.updatePause e.1) t))) ∧
  (∀ s die link since, (s.link die link).retraining = some since →
    let tries := ((s.link die link).failures.filter fun t => s.rt < t + 2 ^ 24) ++ [s.rt]
    let set (f : Link → Link) := (linkEnds die link).foldl (fun t e => t.onLink e.1 e.2 f) s
    let up := set fun l => { l with retraining := none, replays := [], failures := (s.link die link).failures, failed := false }
    let again := set fun l => { l with retraining := none, failures := tries, failed := false }
    let dead := set fun l => { l with retraining := none, failures := tries, failed := true }
    let told (t : State) := (linkEnds die link).foldl (fun t e => t.updatePause e.1) t
    exec (.linkRetrainEnd die link true) s = .next (told up) ∧
    (tries.length < 3 → exec (.linkRetrainEnd die link false) s = exec (.linkRetrain die link) (told again)) ∧
    (3 ≤ tries.length → exec (.linkRetrainEnd die link false) s =
      .next (((tkeys dead.dies).filter fun d => 5 ≤ link || d / 32 = die / 32).foldl
        (fun t d => (t.onDie d fun x => { x with inReroute := true }).updatePause d) (dead.ringLink die link 0x09 [])))) ∧
  (∀ s die link routes, (s.link die link).failed = true → (s.link die link).rerouted = false →
    let gen := (s.die die).counts.routeGen + 1
    let t := ((tkeys s.dies).filter fun d => 5 ≤ link || d / 32 = die / 32).foldl
      (fun t d => t.reroute routes (linkEnds die link) d) s
    let t := (linkEnds die link).foldl (fun t e => t.onLink e.1 e.2 fun l => { l with rerouted := true }) t
    exec (.routeGenerationInstall die link routes) s =
      .next ((linkEnds die link).foldl (fun t e => t.ring e.1 0x0A 0 [gen.toNat, e.2]) t)) ∧
  (∀ (s : State) routes links d x, tfind s.dies d = some x → ∃ y, tfind (s.reroute routes links d).dies d = some y ∧
    y.counts.routeGen = x.counts.routeGen + 1 ∧
    (∀ t, t ∉ s.affected d links → tfind y.routes t = tfind x.routes t) ∧
    (∀ t path, t ∈ s.affected d links → s.newRoute routes d t = some path →
      tfind y.routes t = some path ∧ ∀ u ∈ pairUnits, tfind y.rerouting (pairKey u t) =
        some (2 * (x.counts.routeGen + 1).toNat + if ∃ e ∈ links, 5 ≤ e.2 then 1 else 0)) ∧
    ∀ e, e ≠ d → tfind (s.reroute routes links d).dies e = tfind s.dies e) ∧
  (∀ (s : State) routes d t path, s.newRoute routes d t = some path → routeLeads s.linkUp t d path = true) ∧
  (∀ s home site, s.acknowledged site home = true →
    exec (.routePairSwitch home site) s = .next ((s.onDie (dieOfSite site) fun d =>
      { d with rerouting := tdel d.rerouting (pairKey site home) }).settleReroute)) ∧
  (∀ (s : State) d x, tfind s.dies d = some x → ∃ y, tfind s.settleReroute.dies d = some y ∧
    (y.inReroute = true ↔ x.inReroute = true ∧
      ∃ e ∈ s.dies, e.2.reroutes true = true ∨ (e.1 / 32 = d / 32 ∧ e.2.reroutes false = true)))

/-- R9, R329, R330, R358: LATECNT of a core's die counts a replay, by core in its window; a die's clock steps down by 100 MHz after a
loud window, not below 1,200 MHz, where instead the core whose latches report most is retired, and up by 100 MHz after quiet ones, not
above its highest; heat steps it down and back; a step that completes leaves the count of its clk going on at the new frequency and a
ring entry, windows beginning every 2^20 rt from reset (log entry 39); a reading above the limits cuts the module's power, which clears
what is volatile, HBM with it (log entries 6, 45). -/
def Obligations.ClocksFollowTheirWindows : Prop :=
  (∀ (c : Clock) core, c.worstCore = some core → (∃ n, (core, n) ∈ c.lateCores ∧ ∀ e ∈ c.lateCores, e.2 ≤ n)) ∧
  (∀ s core d, tfind s.dies (dieOfCore core) = some d → let die := dieOfCore core
    ∃ t, exec (.lateTransitionReplay core) s = .next t ∧
    tget 0 (t.die die).clock.lateCores core = tget 0 ((s.die die).clock.roll s.rt).lateCores core + 1 ∧
    (∀ c, c ≠ core → tget 0 (t.die die).clock.lateCores c = tget 0 ((s.die die).clock.roll s.rt).lateCores c) ∧
    (t.die die).counts.late.toNat = bump 32 (s.die die).counts.late.toNat ∧
    (t.die die).clock.windowLate = ((s.die die).clock.roll s.rt).windowLate + 1 ∧
    ((s.die die).lthr < 4 * (t.die die).clock.windowLate →
      (t.die die).clock.quietSince = ((s.die die).clock.roll s.rt).windowStart + 2 ^ 20) ∧
    t.mem = s.mem ∧ t.comp = s.comp ∧ t.eng = s.eng ∧ t.ctl = s.ctl ∧ t.mod = s.mod) ∧
  (∀ s die, (s.die die).clock.stepping = none →
    let c := (s.die die).clock
    let stepTo (mhz : Nat) (f : Clock → Clock) := s.onDie die fun d =>
      { d with clock := { f d.clock with stepping := some mhz } }
    ((s.die die).lthr < (c.roll s.rt).windowLate → 1300 ≤ c.fmhz →
      exec (.clockStepDown die) s = .next (stepTo (c.fmhz - 100) fun _ =>
        { c.roll s.rt with windowLate := 0, lateCores := [] })) ∧
    ((c.roll s.rt).windowLate ≤ (s.die die).lthr → exec (.clockStepDown die) s = .next s) ∧
    (∀ core, (s.die die).lthr < (c.roll s.rt).windowLate → c.fmhz < 1300 → (c.roll s.rt).worstCore = some core →
      exec (.clockStepDown die) s = exec (.coreRetire core true) (s.onDie die fun d =>
        { d with clock := { c.roll s.rt with windowLate := 0, lateCores := [] } })) ∧
    (c.quietSince + 2 ^ 24 ≤ s.rt → c.fmhz + 100 ≤ c.fmax → c.hot = false →
      exec (.clockStepUp die) s = .next (stepTo (c.fmhz + 100) id)) ∧
    (c.fmax < c.fmhz + 100 → exec (.clockStepUp die) s = .next s) ∧
    (105 < tget 0 s.mod.sensors.junction die → 1300 ≤ c.fmhz →
      exec (.thermalClockStep die false) s = .next (stepTo (c.fmhz - 100) fun c => { c with hot := true })) ∧
    (tget 0 s.mod.sensors.junction die < 95 → c.hot = true → c.coolSince + 2 ^ 24 ≤ s.rt → c.fmhz + 100 ≤ c.fmax →
      exec (.thermalClockStep die true) s = .next (stepTo (c.fmhz + 100) fun c =>
        { c with hot := decide (c.fmhz + 100 < c.fmax), coolSince := s.rt }))) ∧
  (∀ s die mhz, (s.die die).clock.stepping = some mhz →
    let t := s.onDie die fun d =>
      { d with
        clock :=
          { d.clock with
            fmhz := mhz, base := s.clk die, since := s.time.now, stepping := none,
            quietSince := max d.clock.quietSince s.rt } }
    exec (.clockStepComplete die) s = .next (t.ring die 0x07 0 [(s.die die).clock.fmhz, mhz]) ∧
    ∀ r, exec (.clockStepComplete die) s = .next r → r.clk die = s.clk die) ∧
  (∀ s, s.mod.power = true →
    (∃ e ∈ s.mod.sensors.junction, 115 < e.2) ∨ 45 < s.mod.sensors.inlet ∨ s.mod.sensors.flow < 18 →
    ∃ t, exec .thermalPowerCut s = .next t ∧ t.mod.power = false ∧ t.mem.hbm = [] ∧ t.comp = State.reset.comp ∧
      t.eng = State.reset.eng ∧ t.ctl = State.reset.ctl ∧ t.mod.flash = s.mod.flash)

/-- R16, R30, R336, R347 to R349, R352, R353, R359: what a full reset leaves: cores, engines and the controller's tables as at
reset, SCRUB set, the start sequence at step 0, flash kept, MODE with the mode of PEND to come at the scrub (log entry 44), the units of
the start record absent, and by a cold reset, or one that changes the mode, no byte of HBM, which a warm one keeps (log entry 6); a warm
reset keeps the ring record. The dies stand as the record that was in force gives them, without the absent units, until step 1 (log
entry 44). That an activated runtime stays is the model's choice (log entry 70). A module held failed takes no reset (log entry 45), and
one without power no warm reset. -/
def Obligations.ResetsLeaveTheirState : Prop :=
  (∀ s fails, s.mod.heldFailed = true → exec (.coldReset fails) s = .next s ∧ exec (.warmReset fails) s = .next s) ∧
  (∀ s fails, s.mod.power = false → exec (.warmReset fails) s = .next s) ∧
  (∀ s fails (cold : Bool), s.mod.heldFailed = false → (cold = false → s.mod.power = true) →
    let clears := cold || decide (s.mod.flash.pend ≠ s.mod.mode)
    let record : StartRecord := { s.mod.flash.start with nstart := s.mod.flash.start.nstart + 1, stat := [] }
    ∃ t, exec (if cold then .coldReset fails else .warmReset fails) s = .next t ∧
      t.mod.power = true ∧ t.mod.startAt = some 0 ∧ t.mod.scrub = true ∧ t.mod.act = false ∧ t.mod.mode = s.mod.mode ∧
      t.mod.newMode = s.mod.flash.pend ∧ t.mod.absent = s.mod.flash.start.units ∧
      t.mod.fails = fails ∧ t.mod.receipt = none ∧ t.mod.activations = 0 ∧ t.mod.responders = [] ∧
      t.mod.ide = [] ∧ t.mod.worldKeys = [] ∧ t.mod.pod = [] ∧ t.mod.runtime = s.mod.runtime ∧
      t.mod.record = record ∧ t.mod.flash = { s.mod.flash with resets := s.mod.flash.resets + 1 } ∧
      (t.mod.scrubbing = true ↔ s.mod.flash.pend ≠ s.mod.mode ∨ s.mod.flash.pend = true) ∧
      t.comp = State.reset.comp ∧ t.eng = State.reset.eng ∧ t.ctl = State.reset.ctl ∧ t.time.now = 0 ∧ t.rt = 0 ∧
      t.mem.host = s.mem.host ∧ (clears = true → t.mem.hbm = [] ∧ t.mem.poison = []) ∧
      (clears = false → t.mem.hbm = s.mem.hbm ∧ t.mem.poison = s.mem.poison) ∧
      t.dies = s.startDies s.mod.config s.mod.flash.start.units (!clears)) ∧
  (∀ (s : State) (c : ConfigRecord) units keep d x, c.dies[d]? = some x →
    let gone (kind i : Nat) : Prop := ∃ e ∈ units, unitKind e = kind ∧ unitDie e = d ∧ unitNumber e = i
    ∃ y, tfind (s.startDies c units keep) d = some y ∧
      (y.enabled = true ↔ c.dieMask.toNat.testBit d = true ∧ ¬∃ e ∈ units, unitKind e = 3 ∧ unitDie e = d) ∧
      (∀ i, i < 144 → (y.cores.getLsbD i = true ↔ x.cores.getLsbD i = true ∧ ¬gone 1 i)) ∧
      (∀ i, i < 32 → (y.slices.getLsbD i = true ↔ x.slices.getLsbD i = true ∧ ¬gone 2 i)) ∧
      (∀ i, i < 2 → (y.hbmStacks.getLsbD i = true ↔ x.hbmStacks.getLsbD i = true ∧ ¬gone 4 i)) ∧
      (∀ i, i < 7 → ((tget (Link.reset false) y.links i).inUse = true ↔ x.links.getLsbD i = true ∧ ¬gone 5 i)) ∧
      y.clock.fmhz = min c.fmax 1800 ∧ y.clock.fmax = min c.fmax 1800 ∧
      y.lthr = (if c.lthr = 0 then 64 else c.lthr.toNat) ∧ y.scrub.period = 2 ^ c.scrubp ∧
      y.ring = (if keep then (s.die d).ring else []) ∧ y.ringSeq = if keep then (s.die d).ringSeq else 0)

/-- R349, R353 to R355: one step with a start in progress and an empty agenda (log entry 1) runs the next of the steps 0 to 11. It passes
when nothing it covers fails: STAT records 1, or 2 with its alternative, the next step follows, and step 11 releases the module with
SCRUB clear and the start record written (log entry 6). Step 1 puts the record that it accepts in force (log entry 44), step 2 on its
alternative holds the clocks at 1,500 MHz, and the scrub of step 5 takes the new MODE, zeroes HBM, draws a key and retires what it finds
failing without failing itself (log entry 44). A step fails when something that it covers and that is not yet absent does: STAT 3 and
LASTFAIL, and a warm reset follows, with the alternative of a step that has one, a second failure of step 4 listing its stacks as any
later optional step lists its units, those of step 10 by their interfaces (log entry 6); where a unit finds no room among the sixteen,
or nothing else is left to take, the module is held failed. -/
def Obligations.StartSequenceRunsItsSteps : Prop :=
  (∀ (s : State) k, s.mod.startAt = some k → s.sched.agenda = [] → s.on = true → step s = .next ((s.pass 1).startSequence k)) ∧
  (∀ (s : State) k, (∀ f t, s.mod.fails = f :: t → f.step ≠ k) → (k = 1 → configOk (s.mod.flash.inForce s.mod.record) = true) →
    let r := s.mod.record.setStat k (if s.mod.record.onAlt k then 2 else 1)
    let dies (f : Die → Die) (l : Table Die) : Table Die := l.map fun e =>
      let y := f e.2
      (e.1, { y with clock := { y.clock with base := s.clk e.1, since := s.time.now } })
    (k < 11 → k ≠ 1 → (k = 2 → s.mod.record.onAlt 2 = false) → k ≠ 5 ∨ s.mod.scrubbing = false →
      s.startSequence k = { s with mod := { s.mod with record := r, startAt := some (k + 1) } }) ∧
    (k = 1 → let c := s.mod.flash.inForce s.mod.record
      s.startSequence k = { s with
        dies := dies id (s.startDies c s.mod.absent true), mod := { s.mod with config := c, record := r, startAt := some 2 } }) ∧
    (k = 2 → s.mod.record.onAlt 2 = true → s.startSequence k = { s with
      dies := dies (fun d => { d with clock := { d.clock with fmhz := min d.clock.fmhz 1500, fmax := min d.clock.fmax 1500 } }) s.dies
      mod := { s.mod with record := r, startAt := some 3 } }) ∧
    (k = 5 → s.mod.scrubbing = true → ∃ t, s.startSequence k = t ∧ t.mem.hbm = [] ∧ t.mem.poison = [] ∧
      t.mod.worldKeys = [] ∧ t.mod.keySerial = s.mod.keySerial + 1 ∧ t.mod.startAt = some 6 ∧ t.mod.mode = s.mod.newMode ∧
      (t.mod.receipt.map fun r => (r.oldMode, r.newMode, r.failed)) = some (b2n s.mod.mode, b2n s.mod.newMode, [])) ∧
    (k = 11 → ∃ t, s.startSequence k = t ∧ t.mod.startAt = none ∧ t.mod.scrub = false ∧ t.mod.scrubbing = false ∧
      t.mod.flash.start = r ∧ t.mod.power = s.mod.power ∧ t.mod.heldFailed = s.mod.heldFailed)) ∧
  (∀ (s : State) units t, s.mod.fails = { step := 5, whole := false, units := units } :: t → s.mod.scrubbing = true →
    let found := (units.filter fun e => !s.mod.absent.contains e).eraseDups
    ∃ u, s.startSequence 5 = u ∧ u.mod.startAt = some 6 ∧ u.mod.fails = t ∧ u.mod.heldFailed = s.mod.heldFailed ∧
      (u.mod.receipt.map fun r => (r.oldMode, r.newMode, r.failed)) = some (b2n s.mod.mode, b2n s.mod.newMode, sortUnits found)) ∧
  (∀ (s : State) k whole units t, s.mod.fails = { step := k, whole := whole, units := units } :: t →
    let named := if k = 10 then units.map fun e => Config.interfaceUnit (unitNumber e) else units
    let fresh := (named.filter fun e => !s.mod.absent.contains e).eraseDups
    let r := { s.mod.record.setStat k 3 with lastFail := BitVec.ofNat 8 k }
    let kept : State := { s with mod := { s.mod with fails := t } }
    let restart (r : StartRecord) : State :=
      ({ kept with mod := { kept.mod with flash := { kept.mod.flash with start := r } } }).fullReset false t
    let held (units : List Double) : State := { kept with mod := { kept.mod with
      heldFailed := true, startAt := none, record := { r with units := units.take 16 }
      flash := { kept.mod.flash with start := { r with units := units.take 16 } } } }
    whole = true ∨ (k ≠ 5 ∧ fresh ≠ []) →
    ((k = 1 ∨ k = 2 ∨ k = 3 ∨ k = 9) → s.mod.record.onAlt k = false →
      s.startSequence k = restart { r with alt := r.alt ||| BitVec.ofNat 12 (2 ^ k) }) ∧
    (k = 4 → s.mod.record.onAlt 4 = false → s.startSequence k = restart { r with alt := r.alt ||| 0x010 }) ∧
    ((k = 4 ∧ s.mod.record.onAlt 4 = true) ∨ k = 6 ∨ k = 7 ∨ k = 10 →
      (r.units.length + fresh.length ≤ 16 → s.startSequence k = restart { r with units := r.units ++ fresh }) ∧
      (16 < r.units.length + fresh.length → s.startSequence k = held (r.units ++ fresh))) ∧
    (k = 0 ∨ k = 5 ∨ k = 8 ∨ k = 11 ∨ ((k = 1 ∨ k = 2 ∨ k = 3 ∨ k = 9) ∧ s.mod.record.onAlt k = true) →
      s.startSequence k = held r.units)) ∧
  (∀ (s : State), (∀ f t, s.mod.fails = f :: t → f.step ≠ 1) → configOk (s.mod.flash.inForce s.mod.record) = false →
    s.mod.record.onAlt 1 = false →
    let r := { s.mod.record.setStat 1 3 with lastFail := 1, alt := s.mod.record.alt ||| 0x002 }
    s.startSequence 1 = ({ s with mod := { s.mod with flash := { s.mod.flash with start := r } } }).fullReset false s.mod.fails)

/-- R336, R354, R355, R357 to R359: the controller installs only a configuration record that verifies, in both copies, and the
start record is reset with it; clearing the start record ends a hold; realigning the rt count moves it by at most one tick in
each 1,024 rt and never backwards; it reads the ring record, the start record and the sensors. -/
def Obligations.ControllerRequestsTakeEffect : Prop :=
  (∀ s : State, ∃ t, exec .clearStartRecord s = .next t ∧
    t = { s with mod := { s.mod with
      heldFailed := false, record := StartRecord.reset, flash := { s.mod.flash with start := StartRecord.reset } } } ∧
    t.mod.record.nstart = 0 ∧ t.mod.record.lastFail = 0xFF ∧ t.mod.record.alt = 0 ∧ t.mod.record.units = []) ∧
  (∀ s r, (configOk r = false → exec (.installConfigurationRecord r) s = .next s) ∧
    (configOk r = true → exec (.installConfigurationRecord r) s = .next { s with mod := { s.mod with
      heldFailed := false, record := StartRecord.reset
      flash := { s.mod.flash with config := r, config2 := r, start := StartRecord.reset } } })) ∧
  (∀ s up ticks t, exec (.rtRealign up ticks) s = .next t → s.rt ≤ t.rt ∧ t.rt ≤ s.rt + 1 ∧
    (s.rt < s.time.lastMove + 1024 → t = s)) ∧
  (∀ s ticks, s.live = true → 0 < ticks → s.time.lastMove + 1024 ≤ s.rt → ∀ up,
    exec (.rtRealign up ticks) s = .next { s with time := { s.time with
      adjust := if up then s.time.adjust + 1 else s.time.adjust - 1
      floor := if up then s.time.floor else s.rt
      lastMove := s.rt } }) ∧
  (∀ s die, exec (.readRingRecord die) s =
    .next (s.output (.controller ((List.range 4096).map fun i => (tget 0 (s.die die).ring i).toNat)))) ∧
  (∀ s, exec .readStartRecord s = .next (s.output (.controller s.mod.flash.start.value))) ∧
  (∀ s, exec .readSensors s = .next (s.output (.controller
    ((List.range 32).map (tget 0 s.mod.sensors.junction) ++
      [s.mod.sensors.inlet, s.mod.sensors.flow, s.mod.sensors.power]))))

/-- R337, R339 to R342, R348, R350, R351: requests on a channel that is answered: measurements of one snapshot, Busy while an
activation runs, RequestResynch over a transcript that an activation ended in, a refusal of an absent index; certificate, challenge,
sessions, keys and heartbeats, a session opened only for what R339 lists; SET_MODE inside a session alone, or from the controller; a
receipt once SCRUB has cleared. The queries of version, capabilities and algorithms are answered with what R339 lists, and another
request is refused. A request on a channel that is not answered, or in a session under other keys than its own, changes nothing; one of
another version is refused. Which message answers an offer, an index, a version or a request that R339 does not list, and one outside
its session, is log entry 69. A session whose heartbeats stop ends after a free time. Signatures and keys are free values (log entry
8). -/
def Obligations.TrustRequestsAreAnswered : Prop :=
  (∀ (s : State) ch, s.channel ch = none →
    (∀ index sign, exec (.getMeasurements ch index sign) s = .next s) ∧ exec (.getCertificate ch) s = .next s ∧
    (∀ nonce, exec (.challenge ch nonce) s = .next s ∧ exec (.getReceipt ch nonce) s = .next s) ∧
    (∀ v, exec (.setMode (some ch) v) s = .next s) ∧ exec (.keyUpdate ch) s = .next s ∧ exec (.heartbeat ch) s = .next s ∧
    (∀ keys world, exec (.ideKeyProgram ch keys world) s = .next s) ∧ ∀ q, s.spdm ch q = s) ∧
  (∀ (s : State) (ch : Channel), s.channel ch = if s.answers ch.iface = true then
      match ch.session with
      | none => some (s.responder ch.iface).conn
      | some n => (tfind (s.responder ch.iface).sessions n).bind fun x => if ch.key = x.keys then some x else none
    else none) ∧
  (∀ (s : State) ch x, s.channel ch = some x → ch.version ≠ 0x12 → ch.version ≠ 0x13 →
    let refused := s.output (.notSupported ch.iface)
    (∀ index sign, exec (.getMeasurements ch index sign) s = .next refused) ∧ exec (.getCertificate ch) s = .next refused ∧
    (∀ nonce, exec (.challenge ch nonce) s = .next refused ∧ exec (.getReceipt ch nonce) s = .next refused) ∧
    (∀ v, exec (.setMode (some ch) v) s = .next refused) ∧ exec (.keyUpdate ch) s = .next refused ∧
    exec (.heartbeat ch) s = .next refused ∧ (∀ keys world, exec (.ideKeyProgram ch keys world) s = .next refused) ∧
    s.spdm ch .versions = s.output (.versions ch.iface [0x12, 0x13])) ∧
  (∀ (s : State) ch x, s.channel ch = some x → ch.version = 0x12 ∨ ch.version = 0x13 →
    let set (s : State) (y : Session) := s.onResponder ch.iface fun r => r.onChannel ch.session fun _ => y
    let signed (v : Nat) : BitVec 768 := Config.signature (Config.digest v).toNat s.time.fresh
    let drawn : State := { s with time := { s.time with fresh := s.time.fresh + 1 } }
    (∀ index sign, s.mod.act = true → exec (.getMeasurements ch index sign) s = .next (s.output (.busy ch.iface))) ∧
    (∀ index sign, s.mod.act = false → x.stale = true → exec (.getMeasurements ch index sign) s =
      .next ((set s { x with transcript := [], stale := false }).output (.resynch ch.iface))) ∧
    (∀ index sign, s.mod.act = false → x.stale = false → s.blocks index = [] → exec (.getMeasurements ch index sign) s =
      .next (s.output (.notSupported ch.iface))) ∧
    (∀ index, s.mod.act = false → x.stale = false → s.blocks index ≠ [] →
      let t := x.transcript ++ (index :: (s.blocks index).map Prod.snd)
      exec (.getMeasurements ch index false) s =
        .next ((set s { x with transcript := t, stale := false }).output (.measurements ch.iface (s.blocks index) none)) ∧
      exec (.getMeasurements ch index true) s =
        .next ((set drawn { x with transcript := [], stale := false }).output
          (.measurements ch.iface (s.blocks index) (some (signed (packList t)))))) ∧
    exec (.getCertificate ch) s = .next (s.output (.certificate ch.iface Config.certificate)) ∧
    s.spdm ch .versions = s.output (.versions ch.iface [0x12, 0x13]) ∧
    s.spdm ch .capabilities = s.output (.capabilities ch.iface [.cert, .chal, .measSig, .keyEx, .encrypt, .mac, .keyUpd, .hbeat]) ∧
    (∀ o : KeyOffer, let listed := o.asym = 0 ∧ o.hash = 0 ∧ o.group = 0 ∧ o.aead = 0
      (listed → s.spdm ch (.algorithms o) = s.output (.algorithms ch.iface Config.vendorId 0 0 0 0)) ∧
      (¬listed → s.spdm ch (.algorithms o) = s.output (.notSupported ch.iface))) ∧
    (∀ q, (∃ n, q = .other n) ∨ (∃ id code, q = .vendor id code) → s.spdm ch q = s.output (.notSupported ch.iface)) ∧
    (∀ nonce, exec (.challenge ch nonce) s = .next (drawn.output (.challenge ch.iface nonce (signed nonce.toNat)))) ∧
    (ch.session.isSome = true →
      exec (.keyUpdate ch) s = .next ((set { s with mod := { s.mod with keySerial := s.mod.keySerial + 1 } }
        { x with keys := s.mod.keySerial + 1 }).output (.ack ch.iface)) ∧
      exec (.heartbeat ch) s = .next ((set s { x with beat := s.rt }).output (.ack ch.iface)) ∧
      ∀ v : Byte, v.toNat < 2 → exec (.setMode (some ch) v) s = .next ({ s with mod := { s.mod with
        flash := { s.mod.flash with pend := decide (v = 1) } } }.output (.ack ch.iface))) ∧
    (ch.session = none → (∀ v, exec (.setMode (some ch) v) s = .next (s.output (.unexpected ch.iface))) ∧
      exec (.keyUpdate ch) s = .next (s.output (.unexpected ch.iface)) ∧
      exec (.heartbeat ch) s = .next (s.output (.unexpected ch.iface))) ∧
    (∀ nonce, (s.mod.scrub = true → exec (.getReceipt ch nonce) s = .next (s.output (.busy ch.iface))) ∧
      (s.mod.scrub = false → s.mod.receipt = none →
        exec (.getReceipt ch nonce) s = .next (s.output (.unexpected ch.iface))) ∧
      (∀ r, s.mod.scrub = false → s.mod.receipt = some r →
        let b := r.body nonce s.mod.flash.resets
        exec (.getReceipt ch nonce) s =
          .next (drawn.output (.receipt ch.iface (b ++ signatureBytes (signed (ofBytes b)))))))) ∧
  (∀ (s : State) iface offer, s.answers iface = true →
    let listed := (offer.version = 0x12 ∨ offer.version = 0x13) ∧ offer.asym = 0 ∧ offer.hash = 0 ∧ offer.group = 0 ∧
      offer.aead = 0 ∧ offer.psk = false ∧ offer.auth = false
    let n := tfresh (s.responder iface).sessions 0 4
    let key := s.mod.keySerial + 1
    (¬ listed → exec (.keyExchange iface offer) s = .next (s.output (.notSupported iface))) ∧
    (listed → n < 4 → exec (.keyExchange iface offer) s = .next
      ((({ s with mod := { s.mod with keySerial := key } } : State).onResponder iface fun r =>
        { r with sessions := tput r.sessions n { transcript := [], stale := false, keys := key, beat := s.rt } }).output
          (.session iface (some n)))) ∧
    (listed → 4 ≤ n → exec (.keyExchange iface offer) s = .next (s.output (.session iface none)))) ∧
  (∀ (s : State) iface session x, tfind (s.responder iface).sessions session = some x →
    (x.beat + Config.heartbeat < s.rt → s.sessionLapse iface session = s.onResponder iface fun r =>
      { r with sessions := tdel r.sessions session }) ∧
    (s.rt ≤ x.beat + Config.heartbeat → s.sessionLapse iface session = s)) ∧
  (∀ (s : State) (v : Byte), v.toNat < 2 → exec (.setMode none v) s = .next { s with mod := { s.mod with
    flash := { s.mod.flash with pend := decide (v = 1) } } })

/-- R338, R341 to R343: an image that verifies is activated with no reset, its measurement and the count changing together, and every
transcript that held entries is ended over; a stream is keyed inside a session and bound to a world, one for each interface and none of
a link (log entry 69), takes its next keys when they are first used, is Insecure after an integrity failure, which in confidential mode
kills the dispatches of its interface, and ends with its interface's reset. -/
def Obligations.ActivationsAndStreams : Prop :=
  (∀ (s : State) digest, exec (.liveActivation false digest) s = .next s ∧
    (s.mod.act = false → s.live = true → exec (.liveActivation true digest) s = .next { s with mod := { s.mod with
      act := true, actSince := s.rt, newRuntime := digest + 1 } })) ∧
  (∀ s : State, s.mod.act = true → ∃ t, exec .liveActivationEnd s = .next t ∧ t.mod.act = false ∧
    t.mod.runtime = s.mod.newRuntime ∧ t.mod.activations = s.mod.activations + 1 ∧
    (∀ n r, tfind s.mod.responders n = some r → ∃ q, tfind t.mod.responders n = some q ∧
      q.conn = { r.conn with stale := r.conn.stale || !r.conn.transcript.isEmpty } ∧
      ∀ k x, tfind r.sessions k = some x →
        tfind q.sessions k = some { x with stale := x.stale || !x.transcript.isEmpty }) ∧
    t.comp = s.comp ∧ t.eng = s.eng ∧ t.ctl = s.ctl ∧ t.mem = s.mem ∧ t.dies = s.dies) ∧
  (∀ (s : State) ch x (keys : IdeKeys) world, s.channel ch = some x → ch.version = 0x12 ∨ ch.version = 0x13 →
    let other := keys.link = true ∨ ((s.ideOf ch.iface).state ≠ 0 ∧ keys.stream ≠ (s.ideOf ch.iface).keys.stream) ∨ 64 ≤ world
    let stream (y : Ide) : State := { s with mod := { s.mod with ide := tset Ide.reset s.mod.ide ch.iface y } }
    (ch.session = none → exec (.ideKeyProgram ch keys world) s = .next (s.output (.unexpected ch.iface))) ∧
    (ch.session.isSome = true → other → exec (.ideKeyProgram ch keys world) s =
      .next (s.output (.notSupported ch.iface))) ∧
    (ch.session.isSome = true → ¬other →
      ((s.ideOf ch.iface).state ≠ 1 → exec (.ideKeyProgram ch keys world) s =
        .next ((stream { state := 1, set := false, keys := keys, next := none, world := world }).output (.ack ch.iface))) ∧
      ((s.ideOf ch.iface).state = 1 → exec (.ideKeyProgram ch keys world) s =
        .next ((stream { s.ideOf ch.iface with next := some keys, world := world }).output (.ack ch.iface))))) ∧
  (∀ (s : State) iface,
    let stream (y : Ide) : State := { s with mod := { s.mod with ide := tset Ide.reset s.mod.ide iface y } }
    (∀ k, (s.ideOf iface).state = 1 → (s.ideOf iface).next = some k →
      exec (.ideKeySetSwitch iface) s = .next (stream { s.ideOf iface with set := !(s.ideOf iface).set, keys := k, next := none })) ∧
    ((s.ideOf iface).next = none ∨ (s.ideOf iface).state ≠ 1 → exec (.ideKeySetSwitch iface) s = .next s) ∧
    ((s.ideOf iface).state = 1 →
      let t := stream { s.ideOf iface with state := 2, next := none }
      exec (.ideIntegrityFailure iface) s = .next (if s.mod.mode then
        t.killWhere fun d => (Config.mailboxOwner d.mailbox).val = iface else t)) ∧
    exec (.interfaceReset iface) s = .next (stream Ide.reset))
end

