-- ==== Sys2Proof/Laws/Encoding.lean ====
section
/-! SUPPORT. The fields of the words that the encoder writes (R66, R68, R69, R190), and the codes of operands and modifiers
read back (R19, R38, R68, R70, R107). -/

namespace Sys2Proof

/-! ### Codes read back -/

theorem Opnd.code_lt (o : Opnd) : o.code < 256 := by cases o <;> simp [Opnd.code] <;> omega

@[simp] theorem Opnd.ofCode_code (o : Opnd) : Opnd.ofCode o.code = o := by
  cases o with
  | v n => simp [Opnd.ofCode, Opnd.code, n.isLt]
  | k n =>
    have := n.isLt
    simp [Opnd.ofCode, Opnd.code, show 192 + n.val < 248 by omega]
  | bad c => revert c; decide
  | _ => rfl

theorem Ty.code_lt (t : Ty) : t.code < 16 := by cases t <;> decide
@[simp] theorem Ty.ofCode_code (t : Ty) : Ty.ofCode t.code = t := by cases t <;> rfl
theorem Rnd.code_lt (r : Rnd) : r.code < 4 := by cases r <;> decide
theorem Rnd.ofCode_add (r : Rnd) (n : Nat) : Rnd.ofCode (r.code + 4 * n) = r := by
  cases r <;> simp [Rnd.ofCode, Rnd.code, Nat.add_mod]
@[simp] theorem Rnd.ofCode_code (r : Rnd) : Rnd.ofCode r.code = r := by cases r <;> rfl
theorem Scope.level_lt (s : Scope) : s.level < 8 := by cases s <;> decide
@[simp] theorem Scope.ofCode_level (s : Scope) : Scope.ofCode s.level = s := by cases s <;> rfl
theorem Order.code_lt (o : Order) : o.code < 4 := by cases o <;> decide
@[simp] theorem Order.ofCode_code (o : Order) : Order.ofCode o.code = o := by cases o <;> rfl
theorem Space.code_lt (s : Space) : s.code < 8 := by cases s <;> decide
@[simp] theorem Space.ofCode_code (s : Space) : Space.ofCode s.code = some s := by cases s <;> rfl
theorem ICond.code_lt (c : ICond) : c.code < 6 := by cases c <;> decide
@[simp] theorem ICond.ofCode_code (c : ICond) : ICond.ofCode c.code = some c := by cases c <;> rfl
theorem FCond.code_lt (c : FCond) : c.code < 12 := by cases c <;> decide
@[simp] theorem FCond.ofCode_code (c : FCond) : FCond.ofCode c.code = some c := by cases c <;> rfl
theorem MCond.code_lt (c : MCond) : c.code < 6 := by cases c <;> decide
@[simp] theorem MCond.ofCode_code (c : MCond) : MCond.ofCode c.code = some c := by cases c <;> rfl
theorem XMode.code_lt (c : XMode) : c.code < 4 := by cases c <;> decide
@[simp] theorem XMode.ofCode_code (c : XMode) : XMode.ofCode c.code = c := by cases c <;> rfl
theorem WMode.code_lt (c : WMode) : c.code < 3 := by cases c <;> decide
@[simp] theorem WMode.ofCode_code (c : WMode) : WMode.ofCode c.code = some c := by cases c <;> rfl
theorem RedOp.code_lt (c : RedOp) : c.code < 6 := by cases c <;> decide
@[simp] theorem RedOp.ofCode_code (c : RedOp) : RedOp.ofCode c.code = some c := by cases c <;> rfl
theorem Axis.code_lt (c : Axis) : c.code < 3 := by cases c <;> decide
@[simp] theorem Axis.ofCode_code (c : Axis) : Axis.ofCode c.code = some c := by cases c <;> rfl
theorem bit_lt (b : Bool) : bit b < 2 := by cases b <;> decide

/-- A flag read from its bit. -/
@[simp] theorem flag_bit (b : Bool) : flag (bit b) 0 = b := by cases b <;> rfl

/-- Bit `i` of a sum: the bits below do not matter, those above add even multiples. -/
theorem flag_of {m lo hi i : Nat} {b : Bool} (h : m = lo + 2 ^ i * bit b + 2 ^ (i + 1) * hi) (hlo : lo < 2 ^ i) :
    flag m i = b := by
  have h2 : m / 2 ^ i = bit b + 2 * hi := by
    rw [h, show lo + 2 ^ i * bit b + 2 ^ (i + 1) * hi = lo + 2 ^ i * (bit b + 2 * hi) by rw [Nat.pow_succ]; ring,
      Nat.add_mul_div_left _ _ (Nat.two_pow_pos i), Nat.div_eq_of_lt hlo, Nat.zero_add]
  unfold flag
  rw [h2, Nat.add_mul_mod_self_left]
  cases b <;> rfl

@[simp] theorem fin3_val (n : Fin 8) : fin3 n.val = n := Fin.ext (Nat.mod_eq_of_lt n.isLt)
theorem fin3_add (n : Fin 8) (k : Nat) : fin3 (n.val + 8 * k) = n :=
  Fin.ext (by simp [fin3])

/-! ### Modifiers read back -/

@[simp] theorem Rnd.ofCode_mul4 (r : Rnd) (n : Nat) : Rnd.ofCode (r.code + 4 * n) = r := r.ofCode_add n
@[simp] theorem Rnd.ofCode_mul8 (r : Rnd) (n : Nat) : Rnd.ofCode (r.code + 8 * n) = r := by
  rw [show 8 * n = 4 * (2 * n) by omega]; exact r.ofCode_add _
@[simp] theorem Rnd.ofCode_mul16 (r : Rnd) (n : Nat) : Rnd.ofCode (r.code + 16 * n) = r := by
  rw [show 16 * n = 4 * (4 * n) by omega]; exact r.ofCode_add _
@[simp] theorem flag_rnd4 (r : Rnd) (b : Bool) : flag (r.code + 4 * bit b) 2 = b := by cases r <;> cases b <;> rfl
@[simp] theorem flag_rnd8 (r : Rnd) (b : Bool) : flag (r.code + 8 * bit b) 3 = b := by cases r <;> cases b <;> rfl
@[simp] theorem fin3_rnd (r : Rnd) (e : Fin 8) : fin3 ((r.code + 4 * e.val) / 4) = e := by
  have := r.code_lt
  rw [show (r.code + 4 * e.val) / 4 = e.val by omega, fin3_val]
@[simp] theorem FCond.ofCode_rnd (r : Rnd) (c : FCond) : FCond.ofCode ((r.code + 16 * c.code) / 16 % 16) = some c := by
  cases r <;> cases c <;> rfl
@[simp] theorem fin3_cond (n : Fin 8) (k : Nat) : fin3 (n.val + 8 * k) = n := fin3_add n k
@[simp] theorem ICond.ofCode_pred (n : Fin 8) (c : ICond) : ICond.ofCode ((n.val + 8 * c.code) / 8) = some c := by
  rw [show (n.val + 8 * c.code) / 8 = c.code by omega, ICond.ofCode_code]
@[simp] theorem FCond.ofCode_pred (n : Fin 8) (c : FCond) : FCond.ofCode ((n.val + 8 * c.code) / 8 % 16) = some c := by
  have := c.code_lt
  rw [show (n.val + 8 * c.code) / 8 % 16 = c.code by omega, FCond.ofCode_code]
@[simp] theorem slotOf_slotCode (s : Option (Fin 8)) : slotOf (slotCode s) = s := by
  cases s with
  | none => rfl
  | some n => revert n; decide
theorem slotCode_lt (s : Option (Fin 8)) : slotCode s < 16 := by
  cases s with
  | none => decide
  | some n => simp [slotCode]; omega
theorem FMod.code_lt (m : FMod) : m.code < 64 := by
  have := m.rnd.code_lt
  have := bit_lt m.na
  have := bit_lt m.nb
  have := bit_lt m.nc
  simp only [FMod.code]; omega
@[simp] theorem FMod.ofCode_code (m : FMod) : FMod.ofCode m.code = m := by
  obtain ⟨r, a, b, c⟩ := m
  cases r <;> cases a <;> cases b <;> cases c <;> rfl
theorem CvMod.code_lt (m : CvMod) : m.code < 65536 := by
  have := m.rnd.code_lt
  have := m.sty.code_lt
  have := m.sidx.isLt
  have := m.didx.isLt
  have := bit_lt m.sat
  simp only [CvMod.code]; omega
@[simp] theorem CvMod.ofCode_code (m : CvMod) : CvMod.ofCode m.code = m := by
  obtain ⟨r, t, i, j, b⟩ := m
  have hr := r.code_lt
  have ht := t.code_lt
  have hb := bit_lt b
  have e1 : CvMod.code ⟨r, t, i, j, b⟩ = r.code + 4 * (bit b + 4 * t.code + 64 * i.val + 512 * j.val) := by
    simp only [CvMod.code]; omega
  have e2 : CvMod.code ⟨r, t, i, j, b⟩ / 16 % 16 = t.code := by simp only [CvMod.code]; omega
  have e3 : CvMod.code ⟨r, t, i, j, b⟩ / 256 = i.val + 8 * j.val := by simp only [CvMod.code]; omega
  have e4 : CvMod.code ⟨r, t, i, j, b⟩ / 2048 = j.val := by simp only [CvMod.code]; omega
  have e5 : flag (CvMod.code ⟨r, t, i, j, b⟩) 2 = b :=
    flag_of (lo := r.code) (hi := 2 * t.code + 32 * i.val + 256 * j.val) (by simp only [CvMod.code]; omega) hr
  unfold CvMod.ofCode
  rw [e2, e3, e4, e5, e1, Rnd.ofCode_add]
  simp

@[simp] theorem MCond.ofCode_mod (c : MCond) : MCond.ofCode (c.code % 8) = some c := by cases c <;> rfl
@[simp] theorem flag_cond (c : MCond) (b : Bool) : flag (c.code + 8 * bit b) 3 = b := by cases c <;> cases b <;> rfl
@[simp] theorem byte_add (x : BitVec 8) (b : Bool) : BitVec.ofNat 8 (x.toNat + 256 * bit b) = x := by
  apply BitVec.eq_of_toNat_eq
  have := x.isLt
  rw [BitVec.toNat_ofNat]; omega
@[simp] theorem flag_add (x : BitVec 8) (b : Bool) : flag (x.toNat + 256 * bit b) 8 = b :=
  flag_of (lo := x.toNat) (hi := 0) (by omega) x.isLt

/-! ### The modifier field of the matrix instructions -/

theorem cvCode_lt (cv : Option (Fin 8)) : cvCode cv < 65536 := by
  cases cv with
  | none => decide
  | some n => simp [cvCode]; omega

/-- The convergence check above any lower bits. -/
theorem cvOf_add (cv : Option (Fin 8)) {k : Nat} (h : k < 4096) : cvOf (cvCode cv + k) = cv := by
  cases cv with
  | none =>
    have : flag (cvCode none + k) 15 = false := by
      have : (0 + k) / 2 ^ 15 % 2 = 0 := by omega
      unfold flag cvCode
      rw [this]; rfl
    simp [cvOf, this]
  | some n =>
    have hn := n.isLt
    have h1 : flag (cvCode (some n) + k) 15 = true := by
      have : (32768 + 4096 * n.val + k) / 2 ^ 15 % 2 = 1 := by omega
      unfold flag cvCode
      rw [this]; rfl
    have h2 : (cvCode (some n) + k) / 4096 = n.val + 8 * 1 := by simp only [cvCode]; omega
    simp only [cvOf, h1, h2, fin3_add, if_true]

/-- A flag below the convergence check. -/
theorem flag_cv (cv : Option (Fin 8)) (k : Nat) {i : Nat} (hi : i < 12) : flag (cvCode cv + k) i = flag k i := by
  have h : cvCode cv = 2 ^ i * (2 * (2 ^ (11 - i) * (cvCode cv / 4096))) := by
    have : cvCode cv = 4096 * (cvCode cv / 4096) := by
      cases cv with
      | none => rfl
      | some n => simp only [cvCode]; omega
    rw [show 2 ^ i * (2 * (2 ^ (11 - i) * (cvCode cv / 4096))) = 2 ^ i * 2 ^ (11 - i) * 2 * (cvCode cv / 4096) by ring,
      ← pow_add, show i + (11 - i) = 11 by omega]
    exact this
  unfold flag
  rw [h, Nat.mul_add_div (Nat.two_pow_pos i), Nat.mul_add_mod]

theorem cvCode_div (cv : Option (Fin 8)) (k : Nat) {d m : Nat} (h : 4096 % (d * m) = 0) (hd : 0 < d) :
    (cvCode cv + k) / d % m = k / d % m := by
  obtain ⟨q, hq⟩ := Nat.dvd_of_mod_eq_zero h
  have : cvCode cv = d * (m * (q * (cvCode cv / 4096))) := by
    have h1 : cvCode cv = 4096 * (cvCode cv / 4096) := by
      cases cv with
      | none => rfl
      | some n => simp only [cvCode]; omega
    rw [hq] at h1
    rw [show d * (m * (q * (cvCode cv / 4096))) = d * m * q * (cvCode cv / 4096) by ring, hq]
    exact h1
  rw [this, Nat.mul_add_div hd, Nat.mul_add_mod]

theorem cvCode_le (cv : Option (Fin 8)) : cvCode cv ≤ 61440 := by
  cases cv with
  | none => decide
  | some n => simp only [cvCode]; omega

/-- The modifier field of a product (R166). -/
theorem product_mod (cv : Option (Fin 8)) (zc u : Bool) (t : Fin 64) :
    tile (cvCode cv + 2048 * bit zc + 4 * t.val + bit u) = t ∧ flag (cvCode cv + 2048 * bit zc + 4 * t.val + bit u) 11 = zc ∧
    cvOf (cvCode cv + 2048 * bit zc + 4 * t.val + bit u) = cv ∧ flag (cvCode cv + 2048 * bit zc + 4 * t.val + bit u) 0 = u := by
  have ht := t.isLt
  have hz := bit_lt zc
  have hu := bit_lt u
  rw [Nat.add_assoc, Nat.add_assoc, ← Nat.add_assoc (2048 * bit zc)]
  refine ⟨Fin.ext ?_, ?_, cvOf_add cv (by omega), ?_⟩
  · show (cvCode cv + (2048 * bit zc + 4 * t.val + bit u)) / 4 % 64 = t.val
    rw [cvCode_div cv _ (by decide) (by decide)]; omega
  · rw [flag_cv cv _ (by decide)]
    exact flag_of (lo := 4 * t.val + bit u) (hi := 0) (by omega) (by omega)
  · rw [flag_cv cv _ (by decide)]
    exact flag_of (lo := 0) (hi := 1024 * bit zc + 2 * t.val) (by omega) (by decide)

/-- The modifier field of sfpush (R166). -/
theorem sfpush_mod (cv : Option (Fin 8)) (k : Bool) :
    flag (cvCode cv + bit k) 1 = false ∧ flag (cvCode cv + bit k) 0 = k ∧ cvOf (cvCode cv + bit k) = cv := by
  have hk := bit_lt k
  refine ⟨?_, ?_, cvOf_add cv (by omega)⟩
  · rw [flag_cv cv _ (by decide)]; cases k <;> rfl
  · rw [flag_cv cv _ (by decide), flag_bit]

/-- The modifier field of amv (R166). -/
theorem amv_mod (cv : Option (Fin 8)) (k : Fin 4) (t : Fin 64) :
    (cvCode cv + 1024 * k.val + 4 * t.val) / 1024 % 4 = k.val ∧ tile (cvCode cv + 1024 * k.val + 4 * t.val) = t ∧
    cvOf (cvCode cv + 1024 * k.val + 4 * t.val) = cv := by
  have ht := t.isLt
  have hk := k.isLt
  rw [Nat.add_assoc]
  refine ⟨?_, Fin.ext ?_, cvOf_add cv (by omega)⟩
  · rw [cvCode_div cv _ (by decide) (by decide)]; omega
  · show (cvCode cv + (1024 * k.val + 4 * t.val)) / 4 % 64 = t.val
    rw [cvCode_div cv _ (by decide) (by decide)]; omega

/-- The modifier field of tcon8 (R166). -/
theorem tcon8_mod (cv : Option (Fin 8)) (acc tr : Bool) (ax : Axis) :
    (cvCode cv + 2048 * bit acc + 1024 * bit tr + 256 * ax.code) / 256 % 4 = ax.code ∧
    flag (cvCode cv + 2048 * bit acc + 1024 * bit tr + 256 * ax.code) 10 = tr ∧
    flag (cvCode cv + 2048 * bit acc + 1024 * bit tr + 256 * ax.code) 11 = acc ∧
    cvOf (cvCode cv + 2048 * bit acc + 1024 * bit tr + 256 * ax.code) = cv := by
  have ha := bit_lt acc
  have ht := bit_lt tr
  have hx := ax.code_lt
  rw [Nat.add_assoc, Nat.add_assoc, ← Nat.add_assoc (2048 * bit acc)]
  refine ⟨?_, ?_, ?_, cvOf_add cv (by omega)⟩
  · rw [cvCode_div cv _ (by decide) (by decide)]; omega
  · rw [flag_cv cv _ (by decide)]
    exact flag_of (lo := 256 * ax.code) (hi := bit acc) (by omega) (by omega)
  · rw [flag_cv cv _ (by decide)]
    exact flag_of (lo := 1024 * bit tr + 256 * ax.code) (hi := 0) (by omega) (by omega)

/-! ### Scopes of the engine instructions -/

@[simp] theorem Scope.ofCode_add8 (s : Scope) (n : Nat) : Scope.ofCode (s.level + 8 * n) = s := by
  cases s <;> simp [Scope.ofCode, Scope.level, Nat.add_mod]
@[simp] theorem Scope.ofCode_add (s : Scope) : Scope.ofCode (s.level + 8) = s := s.ofCode_add8 1
@[simp] theorem flag_scope (s : Scope) : flag s.level 3 = false := by cases s <;> rfl
@[simp] theorem flag_scope8 (s : Scope) : flag (s.level + 8) 3 = true := by cases s <;> rfl
@[simp] theorem flag_scope_bit (s : Scope) (b : Bool) : flag (s.level + 8 * bit b) 3 = b := by cases s <;> cases b <;> rfl

/-! ### The fields of the words -/

theorem fld_def (w lo n : Nat) : fld w lo n = w / 2 ^ lo % 2 ^ n := rfl

theorem flag_fld_bit (w lo : Nat) : flag (fld w lo 1) 0 = decide (w / 2 ^ lo % 2 = 1) := by
  simp [flag, fld]

theorem Guard.eq_of {g : Guard} {n : Bool} {p : Fin 8} (hn : n = g.neg) (hp : p = g.pred) : (⟨n, p⟩ : Guard) = g := by
  subst hn hp; rfl

theorem bit_eq_one (b : Bool) : decide (bit b = 1) = b := by cases b <;> rfl

/-- The fields of an F-R word (R66). -/
theorem frWord_fields {op d a b c : Nat} {g : Guard} {ty mod : Nat} (ho : op < 256) (hd : d < 256) (ha : a < 256)
    (hb : b < 256) (hc : c < 256) (ht : ty < 16) (hm : mod < 65536) :
    fld (frWord op d a b c g ty mod) 0 8 = op ∧ fld (frWord op d a b c g ty mod) 8 8 = d ∧
    fld (frWord op d a b c g ty mod) 16 8 = a ∧ fld (frWord op d a b c g ty mod) 24 8 = b ∧
    fld (frWord op d a b c g ty mod) 32 8 = c ∧ guardR (frWord op d a b c g ty mod) = g ∧
    fld (frWord op d a b c g ty mod) 44 4 = ty ∧ fld (frWord op d a b c g ty mod) 48 16 = mod := by
  have hp := g.pred.isLt
  have hn := bit_lt g.neg
  refine ⟨?_, ?_, ?_, ?_, ?_, Guard.eq_of ?_ (Fin.ext ?_), ?_, ?_⟩
  case refine_6 =>
    rw [flag_fld_bit, show frWord op d a b c g ty mod / 2 ^ 43 % 2 = bit g.neg by simp only [frWord]; omega, bit_eq_one]
  all_goals simp only [frWord, fld, fin3]; omega

/-- The fields of an F-I or F-B word (R66, R69). -/
theorem fiWord_fields {op d a : Nat} {g : Guard} {ty imm : Nat} (ho : op < 256) (hd : d < 256) (ha : a < 256)
    (ht : ty < 16) (hi : imm < 2 ^ 32) :
    fld (fiWord op d a g ty imm) 0 8 = op ∧ fld (fiWord op d a g ty imm) 8 8 = d ∧
    fld (fiWord op d a g ty imm) 16 8 = a ∧ fld (fiWord op d a g ty imm) 24 4 = ty ∧
    guardI (fiWord op d a g ty imm) = g ∧ fld (fiWord op d a g ty imm) 32 32 = imm := by
  have hp := g.pred.isLt
  have hn := bit_lt g.neg
  refine ⟨?_, ?_, ?_, ?_, Guard.eq_of ?_ (Fin.ext ?_), ?_⟩
  case refine_5 =>
    rw [flag_fld_bit, show fiWord op d a g ty imm / 2 ^ 31 % 2 = bit g.neg by simp only [fiWord]; omega, bit_eq_one]
  all_goals simp only [fiWord, fld, fin3]; omega

/-- The fields of an F-M word (R68). -/
theorem mWord_fields {op b mm : Nat} {x : MForm} (ho : op < 256) (hb : b < 256) (hm : mm < 16) :
    fld (mWord op b mm x) 0 8 = op ∧ fld (mWord op b mm x) 24 8 = b ∧ fld (mWord op b mm x) 48 4 = mm ∧
    mf (mWord op b mm x) = some x := by
  have hp := x.g.pred.isLt
  have hn := bit_lt x.g.neg
  have hd := x.d.code_lt
  have ha := x.a.code_lt
  have hs := x.space.code_lt
  have hc := x.scope.level_lt
  have hr := x.order.code_lt
  have ht := x.ty.code_lt
  have hf := x.ofs.isLt
  refine ⟨?_, ?_, ?_, ?_⟩
  case refine_4 =>
    have e1 : fld (mWord op b mm x) 32 3 = x.space.code := by simp only [mWord, fld]; omega
    have e2 : fld (mWord op b mm x) 44 4 = x.ty.code := by simp only [mWord, fld]; omega
    have e3 : fld (mWord op b mm x) 52 12 = x.ofs.toNat := by simp only [mWord, fld]; omega
    have e4 : fld (mWord op b mm x) 16 8 = x.a.code := by simp only [mWord, fld]; omega
    have e5 : fld (mWord op b mm x) 8 8 = x.d.code := by simp only [mWord, fld]; omega
    have e6 : fld (mWord op b mm x) 38 2 = x.order.code := by simp only [mWord, fld]; omega
    have e7 : fld (mWord op b mm x) 35 3 = x.scope.level := by simp only [mWord, fld]; omega
    have e8 : guardR (mWord op b mm x) = x.g := by
      refine Guard.eq_of ?_ (Fin.ext ?_)
      · rw [flag_fld_bit, show mWord op b mm x / 2 ^ 43 % 2 = bit x.g.neg by simp only [mWord]; omega, bit_eq_one]
      · simp only [mWord, fld, fin3]; omega
    simp [mf, e1, e2, e3, e4, e5, e6, e7, e8]
  all_goals simp only [mWord, fld]; omega

theorem cmdWords_fields {opc fa fb fc fl imm : Nat} (h0 : opc < 256) (h1 : fa < 16) (h2 : fb < 16) (h3 : fc < 16)
    (h4 : fl < 256) (h5 : imm < 2 ^ 32) :
    let h := opc + 2 ^ 12 * fa + 2 ^ 16 * fb + 2 ^ 20 * fc + 2 ^ 24 * fl + 2 ^ 32 * imm
    fld h 0 8 = opc ∧ fld h 12 4 = fa ∧ fld h 16 4 = fb ∧ fld h 20 4 = fc ∧ fld h 24 8 = fl ∧ fld h 32 32 = imm := by
  intro h
  refine ⟨?_, ?_, ?_, ?_, ?_, ?_⟩ <;> simp only [h, fld] <;> omega

/-! ### Decoding what was encoded -/

theorem decode_word {w : Nat} {i : Instr} (ha : opAssigned (fld w 0 8) = true) (hr : rawInstr w = some i)
    (hw : i.wf = true) (he : encode i = [w]) : decode [w] = .ok i := by
  simp [decode, decodeInstr, ha, hr, hw, he]

theorem decode_command {h x : Nat} {i : Instr} (ha : fld h 0 8 < 0x19) (hr : rawCommand h x = some i)
    (hw : i.wf = true) (he : encode i = [h, x]) : decode [h, x] = .ok i := by
  simp [decode, decodeCommand, Nat.not_le.mpr ha, hr, hw, he]

/-- A word of format F-R decodes to what the fields read as. -/
theorem decode_fr {i : Instr} {op d a b c : Nat} {g : Guard} {ty mod : Nat} (he : encode i = [frWord op d a b c g ty mod])
    (ho : op < 256 ∧ opAssigned op = true) (hd : d < 256) (ha : a < 256) (hb : b < 256) (hc : c < 256) (ht : ty < 16)
    (hm : mod < 65536) (hw : i.wf = true)
    (hr : ∀ w, fld w 0 8 = op → fld w 8 8 = d → fld w 16 8 = a → fld w 24 8 = b → fld w 32 8 = c → guardR w = g →
      fld w 44 4 = ty → fld w 48 16 = mod → rawInstr w = some i) : decode (encode i) = .ok i := by
  obtain ⟨h0, h1, h2, h3, h4, h5, h6, h7⟩ := frWord_fields (g := g) ho.1 hd ha hb hc ht hm
  rw [he]
  exact decode_word (by rw [h0]; exact ho.2) (hr _ h0 h1 h2 h3 h4 h5 h6 h7) hw he

/-- The same of format F-I and F-B. -/
theorem decode_fi {i : Instr} {op d a : Nat} {g : Guard} {ty imm : Nat} (he : encode i = [fiWord op d a g ty imm])
    (ho : op < 256 ∧ opAssigned op = true) (hd : d < 256) (ha : a < 256) (ht : ty < 16) (hi : imm < 2 ^ 32)
    (hw : i.wf = true)
    (hr : ∀ w, fld w 0 8 = op → fld w 8 8 = d → fld w 16 8 = a → fld w 24 4 = ty → guardI w = g → fld w 32 32 = imm →
      rawInstr w = some i) : decode (encode i) = .ok i := by
  obtain ⟨h0, h1, h2, h3, h4, h5⟩ := fiWord_fields (g := g) ho.1 hd ha ht hi
  rw [he]
  exact decode_word (by rw [h0]; exact ho.2) (hr _ h0 h1 h2 h3 h4 h5) hw he

/-- The same of format F-M. -/
theorem decode_fm {i : Instr} {op b mm : Nat} {x : MForm} (he : encode i = [mWord op b mm x])
    (ho : op < 256 ∧ opAssigned op = true) (hb : b < 256) (hm : mm < 16) (hw : i.wf = true)
    (hr : ∀ w, fld w 0 8 = op → fld w 24 8 = b → fld w 48 4 = mm → mf w = some x → rawInstr w = some i) :
    decode (encode i) = .ok i := by
  obtain ⟨h0, h1, h2, h3⟩ := mWord_fields (x := x) ho.1 hb hm
  rw [he]
  exact decode_word (by rw [h0]; exact ho.2) (hr _ h0 h1 h2 h3) hw he

/-- The same of an engine command. -/
theorem decode_cmd {i : Instr} {opc fa fb fc fl imm x : Nat} (he : encode i = cmdWords opc fa fb fc fl imm x)
    (ho : opc < 0x19) (ha : fa < 16) (hb : fb < 16) (hc : fc < 16) (hf : fl < 256) (hi : imm < 2 ^ 32) (hw : i.wf = true)
    (hr : ∀ h, fld h 0 8 = opc → fld h 12 4 = fa → fld h 16 4 = fb → fld h 20 4 = fc → fld h 24 8 = fl →
      fld h 32 32 = imm → rawCommand h x = some i) : decode (encode i) = .ok i := by
  obtain ⟨h0, h1, h2, h3, h4, h5⟩ := cmdWords_fields (opc := opc) (by omega) ha hb hc hf hi
  rw [he]
  exact decode_command (by rw [h0]; exact ho) (hr _ h0 h1 h2 h3 h4 h5) hw he

end Sys2Proof
end

