-- ==== Sys2Proof/Laws/Tables.lean ====
section
/-! SUPPORT. What the tables answer after a write, and that every operation keeps their canonical form. -/

namespace Sys2Proof.Machine

variable {β : Type}

/-! ### Read after write -/

@[simp] theorem tfind_tput_same (t : Table β) (a : Nat) (v : β) : tfind (tput t a v) a = some v := by
  induction t with
  | nil => simp [tput, tfind]
  | cons e t ih =>
    obtain ⟨k, w⟩ := e
    simp only [tput]
    split
    · simp [tfind]
    · split
      · simp [tfind]
      · simp [tfind, ih, Ne.symm ‹¬a = k›]

theorem tfind_tput_other (t : Table β) {a b : Nat} (v : β) (h : a ≠ b) : tfind (tput t a v) b = tfind t b := by
  induction t with
  | nil => simp [tput, tfind, h]
  | cons e t ih =>
    obtain ⟨k, w⟩ := e
    simp only [tput]
    split
    · simp [tfind, h]
    · split
      · subst_vars
        simp [tfind, h]
      · simp [tfind, ih]

theorem tfind_tput (t : Table β) (a b : Nat) (v : β) : tfind (tput t a v) b = if a = b then some v else tfind t b := by
  split
  · subst_vars; simp
  · exact tfind_tput_other t v ‹_›

theorem tget_eq (d : β) (t : Table β) (a : Nat) : tget d t a = (tfind t a).getD d := by
  induction t with
  | nil => rfl
  | cons e t ih => simp only [tget, tfind, ih]; split <;> rfl

theorem mem_of_tfind {t : Table β} {a : Nat} {v : β} (h : tfind t a = some v) : (a, v) ∈ t := by
  induction t with
  | nil => cases h
  | cons e t ih =>
    obtain ⟨k, w⟩ := e
    simp only [tfind] at h
    split at h
    · subst_vars
      cases h
      exact List.mem_cons_self
    · exact List.mem_cons_of_mem _ (ih h)

theorem tget_tput (d : β) (t : Table β) (a b : Nat) (v : β) :
    tget d (tput t a v) b = if a = b then v else tget d t b := by
  simp only [tget_eq, tfind_tput]; split <;> rfl

@[simp] theorem tget_tput_same (d : β) (t : Table β) (a : Nat) (v : β) : tget d (tput t a v) a = v := by
  simp [tget_tput]

theorem tfind_tdel (t : Table β) (a b : Nat) : tfind (tdel t a) b = if a = b then none else tfind t b := by
  induction t with
  | nil => simp [tdel, tfind]
  | cons e t ih =>
    obtain ⟨k, w⟩ := e
    by_cases hk : k = a <;> by_cases hb : a = b <;> by_cases hkb : k = b <;> simp_all [tdel, tfind]

@[simp] theorem tfind_tdel_same (t : Table β) (a : Nat) : tfind (tdel t a) a = none := by simp [tfind_tdel]

theorem tget_tset [DecidableEq β] (d : β) (t : Table β) (a b : Nat) (v : β) :
    tget d (tset d t a v) b = if a = b then v else tget d t b := by
  unfold tset
  split
  · subst_vars
    rw [tget_eq, tfind_tdel]
    split <;> simp [tget_eq]
  · exact tget_tput d t a b v

@[simp] theorem tget_tset_same [DecidableEq β] (d : β) (t : Table β) (a : Nat) (v : β) : tget d (tset d t a v) a = v := by
  simp [tget_tset]

theorem tfind_tmap (f : β → β) (t : Table β) (a b : Nat) :
    tfind (tmap f t a) b = if a = b then (tfind t b).map f else tfind t b := by
  induction t with
  | nil => simp [tmap, tfind]
  | cons e t ih =>
    obtain ⟨k, w⟩ := e
    by_cases hk : k = a <;> by_cases hb : a = b <;> by_cases hkb : k = b <;> simp_all [tmap, tfind]

@[simp] theorem tfind_tmap_same (f : β → β) (t : Table β) (a : Nat) : tfind (tmap f t a) a = (tfind t a).map f := by
  simp [tfind_tmap]

/-- Two changes of one entry are one. -/
theorem tmap_tmap (f g : β → β) (t : Table β) (a : Nat) : tmap g (tmap f t a) a = tmap (fun x => g (f x)) t a := by
  induction t with
  | nil => rfl
  | cons e t ih =>
    obtain ⟨k, w⟩ := e
    by_cases h : k = a <;> simp [tmap, h, ih]

/-! ### The canonical form -/

/-- Keys rise strictly, as a predicate on pairs of entries. -/
theorem tcanon_iff [DecidableEq β] (d : β) (t : Table β) :
    tcanon d t = true ↔ (t.Pairwise fun x y => x.1 < y.1) ∧ ∀ e ∈ t, e.2 ≠ d := by
  induction t with
  | nil => simp [tcanon]
  | cons e t ih =>
    obtain ⟨k, v⟩ := e
    cases t with
    | nil => simp [tcanon]
    | cons f t =>
      obtain ⟨j, w⟩ := f
      simp only [tcanon, Bool.and_eq_true, decide_eq_true_eq, ih, List.pairwise_cons, List.mem_cons]
      constructor
      · rintro ⟨⟨hv, hk⟩, ⟨h1, h2⟩, h3⟩
        refine ⟨⟨?_, h1, h2⟩, ?_⟩
        · rintro x (rfl | hx)
          · exact hk
          · exact Nat.lt_trans hk (h1 x hx)
        · rintro x (rfl | hx)
          · exact hv
          · exact h3 x hx
      · rintro ⟨⟨h1, h2⟩, h3⟩
        exact ⟨⟨h3 _ (.inl rfl), h1 _ (.inl rfl)⟩, h2, fun x hx => h3 x (.inr hx)⟩

theorem mem_tput {t : Table β} {a : Nat} {v : β} {e : Nat × β} (h : e ∈ tput t a v) : e = (a, v) ∨ e ∈ t := by
  induction t with
  | nil => simpa [tput] using h
  | cons f t ih =>
    obtain ⟨k, w⟩ := f
    simp only [tput] at h
    split at h
    · simpa using h
    · split at h
      · rcases List.mem_cons.1 h with h | h
        · exact .inl h
        · exact .inr (List.mem_cons_of_mem _ h)
      · rcases List.mem_cons.1 h with h | h
        · exact .inr (h ▸ List.mem_cons_self)
        · rcases ih h with h | h
          · exact .inl h
          · exact .inr (List.mem_cons_of_mem _ h)

theorem mem_tdel {t : Table β} {a : Nat} {e : Nat × β} (h : e ∈ tdel t a) : e ∈ t := by
  induction t with
  | nil => simp [tdel] at h
  | cons f t ih =>
    obtain ⟨k, w⟩ := f
    simp only [tdel] at h
    split at h
    · exact List.mem_cons_of_mem _ (ih h)
    · rcases List.mem_cons.1 h with h | h
      · exact h ▸ List.mem_cons_self
      · exact List.mem_cons_of_mem _ (ih h)

theorem mem_tmap {f : β → β} {t : Table β} {a : Nat} {e : Nat × β} (h : e ∈ tmap f t a) :
    e ∈ t ∨ ∃ v, (a, v) ∈ t ∧ e = (a, f v) := by
  induction t with
  | nil => simp [tmap] at h
  | cons g t ih =>
    obtain ⟨k, w⟩ := g
    simp only [tmap] at h
    split at h
    · subst_vars
      rcases List.mem_cons.1 h with h | h
      · exact .inr ⟨w, List.mem_cons_self, h⟩
      · exact .inl (List.mem_cons_of_mem _ h)
    · rcases List.mem_cons.1 h with h | h
      · exact .inl (h ▸ List.mem_cons_self)
      · rcases ih h with h | ⟨v, hv, he⟩
        · exact .inl (List.mem_cons_of_mem _ h)
        · exact .inr ⟨v, List.mem_cons_of_mem _ hv, he⟩

theorem tdel_sublist (t : Table β) (a : Nat) : (tdel t a).Sublist t := by
  induction t with
  | nil => simp [tdel]
  | cons e t ih =>
    obtain ⟨k, w⟩ := e
    simp only [tdel]
    split
    · exact ih.cons _
    · exact ih.cons_cons _

theorem tput_rising {t : Table β} (a : Nat) (v : β) (h : t.Pairwise fun x y => x.1 < y.1) :
    (tput t a v).Pairwise fun x y => x.1 < y.1 := by
  induction t with
  | nil => simp [tput]
  | cons e t ih =>
    obtain ⟨k, w⟩ := e
    rw [List.pairwise_cons] at h
    simp only [tput]
    split
    · rename_i ha
      refine List.pairwise_cons.2 ⟨?_, List.pairwise_cons.2 h⟩
      intro x hx
      rcases List.mem_cons.1 hx with rfl | hx
      · exact ha
      · exact Nat.lt_trans ha (h.1 x hx)
    · split
      · subst_vars
        exact List.pairwise_cons.2 h
      · refine List.pairwise_cons.2 ⟨?_, ih h.2⟩
        intro x hx
        rcases mem_tput hx with rfl | hx
        · show k < a
          omega
        · exact h.1 x hx

theorem tcanon_tput [DecidableEq β] {d v : β} {t : Table β} (a : Nat) (hv : v ≠ d) (h : tcanon d t = true) :
    tcanon d (tput t a v) = true := by
  rw [tcanon_iff] at *
  refine ⟨tput_rising a v h.1, fun e he => ?_⟩
  rcases mem_tput he with rfl | he
  · exact hv
  · exact h.2 e he

theorem tcanon_sublist [DecidableEq β] {d : β} {t u : Table β} (hs : u.Sublist t) (h : tcanon d t = true) :
    tcanon d u = true := by
  rw [tcanon_iff] at *
  exact ⟨h.1.sublist hs, fun e he => h.2 e (hs.subset he)⟩

theorem tcanon_tdel [DecidableEq β] {d : β} {t : Table β} (a : Nat) (h : tcanon d t = true) :
    tcanon d (tdel t a) = true :=
  tcanon_sublist (tdel_sublist t a) h

theorem tcanon_filter [DecidableEq β] {d : β} {t : Table β} (p : Nat × β → Bool) (h : tcanon d t = true) :
    tcanon d (t.filter p) = true :=
  tcanon_sublist List.filter_sublist h

theorem tcanon_tset [DecidableEq β] {d : β} {t : Table β} (a : Nat) (v : β) (h : tcanon d t = true) :
    tcanon d (tset d t a v) = true := by
  unfold tset
  split
  · exact tcanon_tdel a h
  · exact tcanon_tput a ‹_› h

@[simp] theorem tcanon_nil [DecidableEq β] (d : β) : tcanon d ([] : Table β) = true := rfl

/-- A fold of operations that each keep a property keeps it. -/
theorem foldl_keeps {α γ : Type} (P : γ → Prop) (f : γ → α → γ) (hf : ∀ x e, P x → P (f x e)) (l : List α) (x : γ)
    (h : P x) : P (l.foldl f x) := by
  induction l generalizing x with
  | nil => exact h
  | cons e l ih => exact ih _ (hf x e h)

end Sys2Proof.Machine
end

