-- ==== Sys2Proof/Laws/Engine.lean ====
section
/-! SUPPORT. What the shared operation `command` answers (R190 to R193), and how engine contexts read after a write. -/

namespace Sys2Proof.Machine

@[simp] theorem State.root_onRoot (s : State) (r : Nat) (f : Root → Root) : (s.onRoot r f).root r = f (s.root r) := by
  simp [State.root, State.onRoot]

@[simp] theorem State.canopy_onCanopy (s : State) (r : Nat) (f : Canopy → Canopy) :
    (s.onCanopy r f).canopy r = f (s.canopy r) := by
  simp [State.canopy, State.onCanopy]

/-- A context's program reads as changed. -/
@[simp] theorem State.prog_onProg (s : State) (e : EngRef) (f : Prog → Prog) :
    (s.onProg e f).prog? e = (s.prog? e).map f := by
  cases e <;> simp [State.prog?, State.onProg]

/-- Passing the turn changes no program. -/
@[simp] theorem State.prog_passTurn (s : State) (e : EngRef) : (s.passTurn e).prog? e = s.prog? e := by
  cases e <;> simp [State.prog?, State.passTurn]

@[simp] theorem State.passTurn_ctl (s : State) (e : EngRef) : (s.passTurn e).ctl = s.ctl := by cases e <;> rfl
@[simp] theorem State.passTurn_comp (s : State) (e : EngRef) : (s.passTurn e).comp = s.comp := by cases e <;> rfl
@[simp] theorem State.passTurn_mem (s : State) (e : EngRef) : (s.passTurn e).mem = s.mem := by cases e <;> rfl
@[simp] theorem State.passTurn_dies (s : State) (e : EngRef) : (s.passTurn e).dies = s.dies := by cases e <;> rfl
@[simp] theorem State.passTurn_mod (s : State) (e : EngRef) : (s.passTurn e).mod = s.mod := by cases e <;> rfl
@[simp] theorem State.onProg_ctl (s : State) (e : EngRef) (f) : (s.onProg e f).ctl = s.ctl := by cases e <;> rfl
@[simp] theorem State.onProg_comp (s : State) (e : EngRef) (f) : (s.onProg e f).comp = s.comp := by cases e <;> rfl
@[simp] theorem State.onProg_mem (s : State) (e : EngRef) (f) : (s.onProg e f).mem = s.mem := by cases e <;> rfl
@[simp] theorem State.onProg_dies (s : State) (e : EngRef) (f) : (s.onProg e f).dies = s.dies := by cases e <;> rfl
@[simp] theorem State.onProg_mod (s : State) (e : EngRef) (f) : (s.onProg e f).mod = s.mod := by cases e <;> rfl

@[simp] theorem State.progReleased_passTurn (s : State) (e : EngRef) :
    (s.passTurn e).progReleased e = s.progReleased e := by
  simp [State.progReleased, State.pushesOf]

@[simp] theorem State.chunkTaken_passTurn (s : State) (e : EngRef) (p : Prog) :
    (s.passTurn e).chunkTaken e p = s.chunkTaken e p := by
  cases e <;> rfl

@[simp] theorem State.descSaved_passTurn (s : State) (e : EngRef) (n d : Nat) :
    (s.passTurn e).descSaved n d = s.descSaved n d := by
  cases e <;> rfl

/-- A walk looks at memory, dies, context slots and the module alone. -/
theorem State.walkFrom_congr {s t : State} (hd : t.dies = s.dies) (hm : t.mem = s.mem) (hc : t.ctl = s.ctl) (ho : t.mod = s.mod)
    (cache : List TlbEntry) (die slot va level table : Nat) :
    t.walkFrom cache die slot va level table = s.walkFrom cache die slot va level table := by
  obtain ⟨t1, t2, m, t4, d, t6, c, o⟩ := t
  obtain ⟨s1, s2, m', s4, d', s6, c', o'⟩ := s
  cases hd; cases hm; cases hc; cases ho
  have he : ∀ l a, State.tableEntry ⟨t1, t2, m, t4, d, t6, c, o⟩ cache die slot va l a =
      State.tableEntry ⟨s1, s2, m, s4, d, s6, c, o⟩ cache die slot va l a := fun _ _ => rfl
  induction level generalizing table with
  | zero =>
    unfold State.walkFrom
    simp only [he]
  | succ n ih =>
    unfold State.walkFrom
    simp only [ih, he]

theorem State.translate_congr {s t : State} (hd : t.dies = s.dies) (hm : t.mem = s.mem) (hc : t.ctl = s.ctl) (ho : t.mod = s.mod)
    (die slot va : Nat) (need : Need) : t.translate die slot va need = s.translate die slot va need := by
  have hw := State.walkFrom_congr hd hm hc ho
  unfold State.translate State.walkCached State.walk
  simp only [hw, hd, hc, State.die, State.slot]
  obtain ⟨t1, t2, m, t4, d, t6, c, o⟩ := t
  obtain ⟨s1, s2, m', s4, d', s6, c', o'⟩ := s
  cases hd; cases hm; cases hc; cases ho
  rfl

@[simp] theorem State.translate_passTurn (s : State) (e : EngRef) (d n v : Nat) (k : Need) :
    (s.passTurn e).translate d n v k = s.translate d n v k := by
  apply State.translate_congr <;> simp

@[simp] theorem State.rangeWaits_passTurn (s : State) (e : EngRef) (d n v k : Nat) :
    (s.passTurn e).rangeWaits d n v k = s.rangeWaits d n v k := by
  unfold State.rangeWaits
  simp only [State.translate_passTurn]
  cases e <;> rfl

/-- A command that starts and is not held by its destination gives its effect in the started state. -/
theorem command_of_starts {c : CmdSpec} {run : EngRef → Prog → State → State} {s : State} {e : EngRef} {p : Prog}
    (h : Starts s e p c.releases c.data (c.reads p)) (hb : c.blocked e p (s.passTurn e) = false) :
    command c run s = .next (run e p ((s.passTurn e).onProg e fun p =>
      { p.startCmd c.counted with holdsChunk := p.holdsChunk || (c.data && isCanopy e) })) := by
  obtain ⟨h1, h2, h3, h4, h5, h6, h7⟩ := h
  have hr : (c.releases && !(s.passTurn e).progReleased e) = false := by
    cases hc : c.releases <;> simp [hc] at h5 ⊢; exact h5
  have hd : (c.data && (s.passTurn e).chunkTaken e p) = false := by
    cases hc : c.data <;> simp [hc] at h6 ⊢; exact h6
  have hw : (c.reads p).any (fun r => (s.passTurn e).rangeWaits (engDie e) p.slot r.1 r.2) = false := by
    simpa using fun a b hm => h7 (a, b) hm
  simp only [command, h1, h2, h3, h4, hr, hd, hb, hw]
  simp

/-- The same in the state that statements name. -/
theorem command_started {c : CmdSpec} {run : EngRef → Prog → State → State} {s : State} {e : EngRef} {p : Prog}
    (h : Starts s e p c.releases c.data (c.reads p)) (hb : c.blocked e p (s.passTurn e) = false) (hc : c.counted = true) :
    command c run s = .next (run e p (s.started e c.data)) := by
  rw [command_of_starts h hb, hc]; rfl

@[simp] theorem Prog.g_setG (p : Prog) (a n : Fin 16) (v : Nat) :
    (p.setG a v).g n = if n = a ∧ n.val ≠ 0 then v % 2 ^ 64 else p.g n := by
  unfold Prog.setG Prog.g
  by_cases hn : n.val = 0
  · simp [hn]
  · by_cases ha : a.val = 0
    · have : n ≠ a := fun h => hn (h ▸ ha)
      simp [hn, ha, this]
    · by_cases hna : n = a
      · subst hna; simp [hn]
      · have hv : a.val ≠ n.val := fun h => hna (Fin.ext h.symm)
        simp [hn, ha, hna, tget_tset, hv]

end Sys2Proof.Machine
end

