-- ==== Sys2Proof/Laws/State.lean ====
section
/-! SUPPORT. Beside State: what each update of one part leaves of every other part, and what the part that it changes reads as
afterwards. -/

namespace Sys2Proof.Machine

variable (s : State)

/-! ### onCore -/

@[simp] theorem State.onCore_time (c : Nat) (f : Core → Core) : (s.onCore c f).time = s.time := by unfold State.onCore; split <;> rfl
@[simp] theorem State.onCore_sched (c : Nat) (f : Core → Core) : (s.onCore c f).sched = s.sched := by unfold State.onCore; split <;> rfl
@[simp] theorem State.onCore_mem (c : Nat) (f : Core → Core) : (s.onCore c f).mem = s.mem := by unfold State.onCore; split <;> rfl
@[simp] theorem State.onCore_dies (c : Nat) (f : Core → Core) : (s.onCore c f).dies = s.dies := by unfold State.onCore; split <;> rfl
@[simp] theorem State.onCore_eng (c : Nat) (f : Core → Core) : (s.onCore c f).eng = s.eng := by unfold State.onCore; split <;> rfl
@[simp] theorem State.onCore_ctl (c : Nat) (f : Core → Core) : (s.onCore c f).ctl = s.ctl := by unfold State.onCore; split <;> rfl
@[simp] theorem State.onCore_mod (c : Nat) (f : Core → Core) : (s.onCore c f).mod = s.mod := by unfold State.onCore; split <;> rfl
@[simp] theorem State.onCore_comp_clauses (c : Nat) (f : Core → Core) : (s.onCore c f).comp.clauses = s.comp.clauses := by unfold State.onCore; split <;> rfl
@[simp] theorem State.onCore_comp_groups (c : Nat) (f : Core → Core) : (s.onCore c f).comp.groups = s.comp.groups := by unfold State.onCore; split <;> rfl
@[simp] theorem State.onCore_comp_cbars (c : Nat) (f : Core → Core) : (s.onCore c f).comp.cbars = s.comp.cbars := by unfold State.onCore; split <;> rfl
@[simp] theorem State.onCore_comp_warps (c : Nat) (f : Core → Core) : (s.onCore c f).comp.warps = s.comp.warps := by unfold State.onCore; split <;> rfl
@[simp] theorem State.onCore_comp_transfers (c : Nat) (f : Core → Core) : (s.onCore c f).comp.transfers = s.comp.transfers := by unfold State.onCore; split <;> rfl
@[simp] theorem State.onCore_comp_launched (c : Nat) (f : Core → Core) : (s.onCore c f).comp.launched = s.comp.launched := by unfold State.onCore; split <;> rfl

/-! ### onGroup -/

@[simp] theorem State.onGroup_time (g : Nat) (f : Group → Group) : (s.onGroup g f).time = s.time := rfl
@[simp] theorem State.onGroup_sched (g : Nat) (f : Group → Group) : (s.onGroup g f).sched = s.sched := rfl
@[simp] theorem State.onGroup_mem (g : Nat) (f : Group → Group) : (s.onGroup g f).mem = s.mem := rfl
@[simp] theorem State.onGroup_dies (g : Nat) (f : Group → Group) : (s.onGroup g f).dies = s.dies := rfl
@[simp] theorem State.onGroup_eng (g : Nat) (f : Group → Group) : (s.onGroup g f).eng = s.eng := rfl
@[simp] theorem State.onGroup_ctl (g : Nat) (f : Group → Group) : (s.onGroup g f).ctl = s.ctl := rfl
@[simp] theorem State.onGroup_mod (g : Nat) (f : Group → Group) : (s.onGroup g f).mod = s.mod := rfl
@[simp] theorem State.onGroup_comp_cores (g : Nat) (f : Group → Group) : (s.onGroup g f).comp.cores = s.comp.cores := rfl
@[simp] theorem State.onGroup_comp_clauses (g : Nat) (f : Group → Group) : (s.onGroup g f).comp.clauses = s.comp.clauses := rfl
@[simp] theorem State.onGroup_comp_cbars (g : Nat) (f : Group → Group) : (s.onGroup g f).comp.cbars = s.comp.cbars := rfl
@[simp] theorem State.onGroup_comp_warps (g : Nat) (f : Group → Group) : (s.onGroup g f).comp.warps = s.comp.warps := rfl
@[simp] theorem State.onGroup_comp_transfers (g : Nat) (f : Group → Group) : (s.onGroup g f).comp.transfers = s.comp.transfers := rfl
@[simp] theorem State.onGroup_comp_launched (g : Nat) (f : Group → Group) : (s.onGroup g f).comp.launched = s.comp.launched := rfl

/-! ### onWarp -/

@[simp] theorem State.onWarp_time (w : Nat) (f : Warp → Warp) : (s.onWarp w f).time = s.time := rfl
@[simp] theorem State.onWarp_sched (w : Nat) (f : Warp → Warp) : (s.onWarp w f).sched = s.sched := rfl
@[simp] theorem State.onWarp_mem (w : Nat) (f : Warp → Warp) : (s.onWarp w f).mem = s.mem := rfl
@[simp] theorem State.onWarp_dies (w : Nat) (f : Warp → Warp) : (s.onWarp w f).dies = s.dies := rfl
@[simp] theorem State.onWarp_eng (w : Nat) (f : Warp → Warp) : (s.onWarp w f).eng = s.eng := rfl
@[simp] theorem State.onWarp_ctl (w : Nat) (f : Warp → Warp) : (s.onWarp w f).ctl = s.ctl := rfl
@[simp] theorem State.onWarp_mod (w : Nat) (f : Warp → Warp) : (s.onWarp w f).mod = s.mod := rfl
@[simp] theorem State.onWarp_comp_cores (w : Nat) (f : Warp → Warp) : (s.onWarp w f).comp.cores = s.comp.cores := rfl
@[simp] theorem State.onWarp_comp_clauses (w : Nat) (f : Warp → Warp) : (s.onWarp w f).comp.clauses = s.comp.clauses := rfl
@[simp] theorem State.onWarp_comp_groups (w : Nat) (f : Warp → Warp) : (s.onWarp w f).comp.groups = s.comp.groups := rfl
@[simp] theorem State.onWarp_comp_cbars (w : Nat) (f : Warp → Warp) : (s.onWarp w f).comp.cbars = s.comp.cbars := rfl
@[simp] theorem State.onWarp_comp_transfers (w : Nat) (f : Warp → Warp) : (s.onWarp w f).comp.transfers = s.comp.transfers := rfl
@[simp] theorem State.onWarp_comp_launched (w : Nat) (f : Warp → Warp) : (s.onWarp w f).comp.launched = s.comp.launched := rfl

/-! ### onClause -/

@[simp] theorem State.onClause_time (q : Nat) (f : Clause → Clause) : (s.onClause q f).time = s.time := rfl
@[simp] theorem State.onClause_sched (q : Nat) (f : Clause → Clause) : (s.onClause q f).sched = s.sched := rfl
@[simp] theorem State.onClause_mem (q : Nat) (f : Clause → Clause) : (s.onClause q f).mem = s.mem := rfl
@[simp] theorem State.onClause_dies (q : Nat) (f : Clause → Clause) : (s.onClause q f).dies = s.dies := rfl
@[simp] theorem State.onClause_eng (q : Nat) (f : Clause → Clause) : (s.onClause q f).eng = s.eng := rfl
@[simp] theorem State.onClause_ctl (q : Nat) (f : Clause → Clause) : (s.onClause q f).ctl = s.ctl := rfl
@[simp] theorem State.onClause_mod (q : Nat) (f : Clause → Clause) : (s.onClause q f).mod = s.mod := rfl
@[simp] theorem State.onClause_comp_cores (q : Nat) (f : Clause → Clause) : (s.onClause q f).comp.cores = s.comp.cores := rfl
@[simp] theorem State.onClause_comp_groups (q : Nat) (f : Clause → Clause) : (s.onClause q f).comp.groups = s.comp.groups := rfl
@[simp] theorem State.onClause_comp_cbars (q : Nat) (f : Clause → Clause) : (s.onClause q f).comp.cbars = s.comp.cbars := rfl
@[simp] theorem State.onClause_comp_warps (q : Nat) (f : Clause → Clause) : (s.onClause q f).comp.warps = s.comp.warps := rfl
@[simp] theorem State.onClause_comp_transfers (q : Nat) (f : Clause → Clause) : (s.onClause q f).comp.transfers = s.comp.transfers := rfl
@[simp] theorem State.onClause_comp_launched (q : Nat) (f : Clause → Clause) : (s.onClause q f).comp.launched = s.comp.launched := rfl

/-! ### onTransfer -/

@[simp] theorem State.onTransfer_time (t : Nat) (f : Transfer → Transfer) : (s.onTransfer t f).time = s.time := rfl
@[simp] theorem State.onTransfer_sched (t : Nat) (f : Transfer → Transfer) : (s.onTransfer t f).sched = s.sched := rfl
@[simp] theorem State.onTransfer_mem (t : Nat) (f : Transfer → Transfer) : (s.onTransfer t f).mem = s.mem := rfl
@[simp] theorem State.onTransfer_dies (t : Nat) (f : Transfer → Transfer) : (s.onTransfer t f).dies = s.dies := rfl
@[simp] theorem State.onTransfer_eng (t : Nat) (f : Transfer → Transfer) : (s.onTransfer t f).eng = s.eng := rfl
@[simp] theorem State.onTransfer_ctl (t : Nat) (f : Transfer → Transfer) : (s.onTransfer t f).ctl = s.ctl := rfl
@[simp] theorem State.onTransfer_mod (t : Nat) (f : Transfer → Transfer) : (s.onTransfer t f).mod = s.mod := rfl
@[simp] theorem State.onTransfer_comp_cores (t : Nat) (f : Transfer → Transfer) : (s.onTransfer t f).comp.cores = s.comp.cores := rfl
@[simp] theorem State.onTransfer_comp_clauses (t : Nat) (f : Transfer → Transfer) : (s.onTransfer t f).comp.clauses = s.comp.clauses := rfl
@[simp] theorem State.onTransfer_comp_groups (t : Nat) (f : Transfer → Transfer) : (s.onTransfer t f).comp.groups = s.comp.groups := rfl
@[simp] theorem State.onTransfer_comp_cbars (t : Nat) (f : Transfer → Transfer) : (s.onTransfer t f).comp.cbars = s.comp.cbars := rfl
@[simp] theorem State.onTransfer_comp_warps (t : Nat) (f : Transfer → Transfer) : (s.onTransfer t f).comp.warps = s.comp.warps := rfl
@[simp] theorem State.onTransfer_comp_launched (t : Nat) (f : Transfer → Transfer) : (s.onTransfer t f).comp.launched = s.comp.launched := rfl

/-! ### dropTransfer -/

@[simp] theorem State.dropTransfer_time (t : Nat) : (s.dropTransfer t).time = s.time := rfl
@[simp] theorem State.dropTransfer_sched (t : Nat) : (s.dropTransfer t).sched = s.sched := rfl
@[simp] theorem State.dropTransfer_mem (t : Nat) : (s.dropTransfer t).mem = s.mem := rfl
@[simp] theorem State.dropTransfer_dies (t : Nat) : (s.dropTransfer t).dies = s.dies := rfl
@[simp] theorem State.dropTransfer_eng (t : Nat) : (s.dropTransfer t).eng = s.eng := rfl
@[simp] theorem State.dropTransfer_ctl (t : Nat) : (s.dropTransfer t).ctl = s.ctl := rfl
@[simp] theorem State.dropTransfer_mod (t : Nat) : (s.dropTransfer t).mod = s.mod := rfl
@[simp] theorem State.dropTransfer_comp_cores (t : Nat) : (s.dropTransfer t).comp.cores = s.comp.cores := rfl
@[simp] theorem State.dropTransfer_comp_clauses (t : Nat) : (s.dropTransfer t).comp.clauses = s.comp.clauses := rfl
@[simp] theorem State.dropTransfer_comp_groups (t : Nat) : (s.dropTransfer t).comp.groups = s.comp.groups := rfl
@[simp] theorem State.dropTransfer_comp_cbars (t : Nat) : (s.dropTransfer t).comp.cbars = s.comp.cbars := rfl
@[simp] theorem State.dropTransfer_comp_warps (t : Nat) : (s.dropTransfer t).comp.warps = s.comp.warps := rfl
@[simp] theorem State.dropTransfer_comp_launched (t : Nat) : (s.dropTransfer t).comp.launched = s.comp.launched := rfl

/-! ### onDie -/

@[simp] theorem State.onDie_time (d : Nat) (f : Die → Die) : (s.onDie d f).time = s.time := rfl
@[simp] theorem State.onDie_sched (d : Nat) (f : Die → Die) : (s.onDie d f).sched = s.sched := rfl
@[simp] theorem State.onDie_mem (d : Nat) (f : Die → Die) : (s.onDie d f).mem = s.mem := rfl
@[simp] theorem State.onDie_comp (d : Nat) (f : Die → Die) : (s.onDie d f).comp = s.comp := rfl
@[simp] theorem State.onDie_eng (d : Nat) (f : Die → Die) : (s.onDie d f).eng = s.eng := rfl
@[simp] theorem State.onDie_ctl (d : Nat) (f : Die → Die) : (s.onDie d f).ctl = s.ctl := rfl
@[simp] theorem State.onDie_mod (d : Nat) (f : Die → Die) : (s.onDie d f).mod = s.mod := rfl

/-! ### onRoot -/

@[simp] theorem State.onRoot_time (r : Nat) (f : Root → Root) : (s.onRoot r f).time = s.time := rfl
@[simp] theorem State.onRoot_sched (r : Nat) (f : Root → Root) : (s.onRoot r f).sched = s.sched := rfl
@[simp] theorem State.onRoot_mem (r : Nat) (f : Root → Root) : (s.onRoot r f).mem = s.mem := rfl
@[simp] theorem State.onRoot_comp (r : Nat) (f : Root → Root) : (s.onRoot r f).comp = s.comp := rfl
@[simp] theorem State.onRoot_dies (r : Nat) (f : Root → Root) : (s.onRoot r f).dies = s.dies := rfl
@[simp] theorem State.onRoot_ctl (r : Nat) (f : Root → Root) : (s.onRoot r f).ctl = s.ctl := rfl
@[simp] theorem State.onRoot_mod (r : Nat) (f : Root → Root) : (s.onRoot r f).mod = s.mod := rfl
@[simp] theorem State.onRoot_eng_fences (r : Nat) (f : Root → Root) : (s.onRoot r f).eng.fences = s.eng.fences := rfl
@[simp] theorem State.onRoot_eng_canopies (r : Nat) (f : Root → Root) : (s.onRoot r f).eng.canopies = s.eng.canopies := rfl
@[simp] theorem State.onRoot_eng_cambiums (r : Nat) (f : Root → Root) : (s.onRoot r f).eng.cambiums = s.eng.cambiums := rfl
@[simp] theorem State.onRoot_eng_reds (r : Nat) (f : Root → Root) : (s.onRoot r f).eng.reds = s.eng.reds := rfl
@[simp] theorem State.onRoot_eng_flights (r : Nat) (f : Root → Root) : (s.onRoot r f).eng.flights = s.eng.flights := rfl
@[simp] theorem State.onRoot_eng_locks (r : Nat) (f : Root → Root) : (s.onRoot r f).eng.locks = s.eng.locks := rfl
@[simp] theorem State.onRoot_eng_rounds (r : Nat) (f : Root → Root) : (s.onRoot r f).eng.rounds = s.eng.rounds := rfl

/-! ### onCanopy -/

@[simp] theorem State.onCanopy_time (e : Nat) (f : Canopy → Canopy) : (s.onCanopy e f).time = s.time := rfl
@[simp] theorem State.onCanopy_sched (e : Nat) (f : Canopy → Canopy) : (s.onCanopy e f).sched = s.sched := rfl
@[simp] theorem State.onCanopy_mem (e : Nat) (f : Canopy → Canopy) : (s.onCanopy e f).mem = s.mem := rfl
@[simp] theorem State.onCanopy_comp (e : Nat) (f : Canopy → Canopy) : (s.onCanopy e f).comp = s.comp := rfl
@[simp] theorem State.onCanopy_dies (e : Nat) (f : Canopy → Canopy) : (s.onCanopy e f).dies = s.dies := rfl
@[simp] theorem State.onCanopy_ctl (e : Nat) (f : Canopy → Canopy) : (s.onCanopy e f).ctl = s.ctl := rfl
@[simp] theorem State.onCanopy_mod (e : Nat) (f : Canopy → Canopy) : (s.onCanopy e f).mod = s.mod := rfl
@[simp] theorem State.onCanopy_eng_fences (e : Nat) (f : Canopy → Canopy) : (s.onCanopy e f).eng.fences = s.eng.fences := rfl
@[simp] theorem State.onCanopy_eng_roots (e : Nat) (f : Canopy → Canopy) : (s.onCanopy e f).eng.roots = s.eng.roots := rfl
@[simp] theorem State.onCanopy_eng_cambiums (e : Nat) (f : Canopy → Canopy) : (s.onCanopy e f).eng.cambiums = s.eng.cambiums := rfl
@[simp] theorem State.onCanopy_eng_reds (e : Nat) (f : Canopy → Canopy) : (s.onCanopy e f).eng.reds = s.eng.reds := rfl
@[simp] theorem State.onCanopy_eng_flights (e : Nat) (f : Canopy → Canopy) : (s.onCanopy e f).eng.flights = s.eng.flights := rfl
@[simp] theorem State.onCanopy_eng_locks (e : Nat) (f : Canopy → Canopy) : (s.onCanopy e f).eng.locks = s.eng.locks := rfl
@[simp] theorem State.onCanopy_eng_rounds (e : Nat) (f : Canopy → Canopy) : (s.onCanopy e f).eng.rounds = s.eng.rounds := rfl

/-! ### onCambium -/

@[simp] theorem State.onCambium_time (n : Nat) (f : Cambium → Cambium) : (s.onCambium n f).time = s.time := rfl
@[simp] theorem State.onCambium_sched (n : Nat) (f : Cambium → Cambium) : (s.onCambium n f).sched = s.sched := rfl
@[simp] theorem State.onCambium_mem (n : Nat) (f : Cambium → Cambium) : (s.onCambium n f).mem = s.mem := rfl
@[simp] theorem State.onCambium_comp (n : Nat) (f : Cambium → Cambium) : (s.onCambium n f).comp = s.comp := rfl
@[simp] theorem State.onCambium_dies (n : Nat) (f : Cambium → Cambium) : (s.onCambium n f).dies = s.dies := rfl
@[simp] theorem State.onCambium_ctl (n : Nat) (f : Cambium → Cambium) : (s.onCambium n f).ctl = s.ctl := rfl
@[simp] theorem State.onCambium_mod (n : Nat) (f : Cambium → Cambium) : (s.onCambium n f).mod = s.mod := rfl
@[simp] theorem State.onCambium_eng_fences (n : Nat) (f : Cambium → Cambium) : (s.onCambium n f).eng.fences = s.eng.fences := rfl
@[simp] theorem State.onCambium_eng_roots (n : Nat) (f : Cambium → Cambium) : (s.onCambium n f).eng.roots = s.eng.roots := rfl
@[simp] theorem State.onCambium_eng_canopies (n : Nat) (f : Cambium → Cambium) : (s.onCambium n f).eng.canopies = s.eng.canopies := rfl
@[simp] theorem State.onCambium_eng_reds (n : Nat) (f : Cambium → Cambium) : (s.onCambium n f).eng.reds = s.eng.reds := rfl
@[simp] theorem State.onCambium_eng_flights (n : Nat) (f : Cambium → Cambium) : (s.onCambium n f).eng.flights = s.eng.flights := rfl
@[simp] theorem State.onCambium_eng_locks (n : Nat) (f : Cambium → Cambium) : (s.onCambium n f).eng.locks = s.eng.locks := rfl
@[simp] theorem State.onCambium_eng_rounds (n : Nat) (f : Cambium → Cambium) : (s.onCambium n f).eng.rounds = s.eng.rounds := rfl

/-! ### onDispatch -/

@[simp] theorem State.onDispatch_time (d : Nat) (f : Dispatch → Dispatch) : (s.onDispatch d f).time = s.time := rfl
@[simp] theorem State.onDispatch_sched (d : Nat) (f : Dispatch → Dispatch) : (s.onDispatch d f).sched = s.sched := rfl
@[simp] theorem State.onDispatch_mem (d : Nat) (f : Dispatch → Dispatch) : (s.onDispatch d f).mem = s.mem := rfl
@[simp] theorem State.onDispatch_comp (d : Nat) (f : Dispatch → Dispatch) : (s.onDispatch d f).comp = s.comp := rfl
@[simp] theorem State.onDispatch_dies (d : Nat) (f : Dispatch → Dispatch) : (s.onDispatch d f).dies = s.dies := rfl
@[simp] theorem State.onDispatch_eng (d : Nat) (f : Dispatch → Dispatch) : (s.onDispatch d f).eng = s.eng := rfl
@[simp] theorem State.onDispatch_mod (d : Nat) (f : Dispatch → Dispatch) : (s.onDispatch d f).mod = s.mod := rfl
@[simp] theorem State.onDispatch_ctl_mailboxes (d : Nat) (f : Dispatch → Dispatch) : (s.onDispatch d f).ctl.mailboxes = s.ctl.mailboxes := rfl
@[simp] theorem State.onDispatch_ctl_nextMailbox (d : Nat) (f : Dispatch → Dispatch) : (s.onDispatch d f).ctl.nextMailbox = s.ctl.nextMailbox := rfl
@[simp] theorem State.onDispatch_ctl_slots (d : Nat) (f : Dispatch → Dispatch) : (s.onDispatch d f).ctl.slots = s.ctl.slots := rfl
@[simp] theorem State.onDispatch_ctl_apertures (d : Nat) (f : Dispatch → Dispatch) : (s.onDispatch d f).ctl.apertures = s.ctl.apertures := rfl
@[simp] theorem State.onDispatch_ctl_saves (d : Nat) (f : Dispatch → Dispatch) : (s.onDispatch d f).ctl.saves = s.ctl.saves := rfl

/-! ### onSlot -/

@[simp] theorem State.onSlot_time (n : Nat) (f : Slot → Slot) : (s.onSlot n f).time = s.time := rfl
@[simp] theorem State.onSlot_sched (n : Nat) (f : Slot → Slot) : (s.onSlot n f).sched = s.sched := rfl
@[simp] theorem State.onSlot_mem (n : Nat) (f : Slot → Slot) : (s.onSlot n f).mem = s.mem := rfl
@[simp] theorem State.onSlot_comp (n : Nat) (f : Slot → Slot) : (s.onSlot n f).comp = s.comp := rfl
@[simp] theorem State.onSlot_dies (n : Nat) (f : Slot → Slot) : (s.onSlot n f).dies = s.dies := rfl
@[simp] theorem State.onSlot_eng (n : Nat) (f : Slot → Slot) : (s.onSlot n f).eng = s.eng := rfl
@[simp] theorem State.onSlot_mod (n : Nat) (f : Slot → Slot) : (s.onSlot n f).mod = s.mod := rfl
@[simp] theorem State.onSlot_ctl_mailboxes (n : Nat) (f : Slot → Slot) : (s.onSlot n f).ctl.mailboxes = s.ctl.mailboxes := rfl
@[simp] theorem State.onSlot_ctl_nextMailbox (n : Nat) (f : Slot → Slot) : (s.onSlot n f).ctl.nextMailbox = s.ctl.nextMailbox := rfl
@[simp] theorem State.onSlot_ctl_apertures (n : Nat) (f : Slot → Slot) : (s.onSlot n f).ctl.apertures = s.ctl.apertures := rfl
@[simp] theorem State.onSlot_ctl_dispatches (n : Nat) (f : Slot → Slot) : (s.onSlot n f).ctl.dispatches = s.ctl.dispatches := rfl
@[simp] theorem State.onSlot_ctl_saves (n : Nat) (f : Slot → Slot) : (s.onSlot n f).ctl.saves = s.ctl.saves := rfl

/-! ### onMailbox -/

@[simp] theorem State.onMailbox_time (m : Nat) (f : Mailbox → Mailbox) : (s.onMailbox m f).time = s.time := rfl
@[simp] theorem State.onMailbox_sched (m : Nat) (f : Mailbox → Mailbox) : (s.onMailbox m f).sched = s.sched := rfl
@[simp] theorem State.onMailbox_mem (m : Nat) (f : Mailbox → Mailbox) : (s.onMailbox m f).mem = s.mem := rfl
@[simp] theorem State.onMailbox_comp (m : Nat) (f : Mailbox → Mailbox) : (s.onMailbox m f).comp = s.comp := rfl
@[simp] theorem State.onMailbox_dies (m : Nat) (f : Mailbox → Mailbox) : (s.onMailbox m f).dies = s.dies := rfl
@[simp] theorem State.onMailbox_eng (m : Nat) (f : Mailbox → Mailbox) : (s.onMailbox m f).eng = s.eng := rfl
@[simp] theorem State.onMailbox_mod (m : Nat) (f : Mailbox → Mailbox) : (s.onMailbox m f).mod = s.mod := rfl
@[simp] theorem State.onMailbox_ctl_nextMailbox (m : Nat) (f : Mailbox → Mailbox) : (s.onMailbox m f).ctl.nextMailbox = s.ctl.nextMailbox := rfl
@[simp] theorem State.onMailbox_ctl_slots (m : Nat) (f : Mailbox → Mailbox) : (s.onMailbox m f).ctl.slots = s.ctl.slots := rfl
@[simp] theorem State.onMailbox_ctl_apertures (m : Nat) (f : Mailbox → Mailbox) : (s.onMailbox m f).ctl.apertures = s.ctl.apertures := rfl
@[simp] theorem State.onMailbox_ctl_dispatches (m : Nat) (f : Mailbox → Mailbox) : (s.onMailbox m f).ctl.dispatches = s.ctl.dispatches := rfl
@[simp] theorem State.onMailbox_ctl_saves (m : Nat) (f : Mailbox → Mailbox) : (s.onMailbox m f).ctl.saves = s.ctl.saves := rfl

/-! ### onAperture -/

@[simp] theorem State.onAperture_time (i w : Nat) (f : Aperture → Aperture) : (s.onAperture i w f).time = s.time := rfl
@[simp] theorem State.onAperture_sched (i w : Nat) (f : Aperture → Aperture) : (s.onAperture i w f).sched = s.sched := rfl
@[simp] theorem State.onAperture_mem (i w : Nat) (f : Aperture → Aperture) : (s.onAperture i w f).mem = s.mem := rfl
@[simp] theorem State.onAperture_comp (i w : Nat) (f : Aperture → Aperture) : (s.onAperture i w f).comp = s.comp := rfl
@[simp] theorem State.onAperture_dies (i w : Nat) (f : Aperture → Aperture) : (s.onAperture i w f).dies = s.dies := rfl
@[simp] theorem State.onAperture_eng (i w : Nat) (f : Aperture → Aperture) : (s.onAperture i w f).eng = s.eng := rfl
@[simp] theorem State.onAperture_mod (i w : Nat) (f : Aperture → Aperture) : (s.onAperture i w f).mod = s.mod := rfl
@[simp] theorem State.onAperture_ctl_mailboxes (i w : Nat) (f : Aperture → Aperture) : (s.onAperture i w f).ctl.mailboxes = s.ctl.mailboxes := rfl
@[simp] theorem State.onAperture_ctl_nextMailbox (i w : Nat) (f : Aperture → Aperture) : (s.onAperture i w f).ctl.nextMailbox = s.ctl.nextMailbox := rfl
@[simp] theorem State.onAperture_ctl_slots (i w : Nat) (f : Aperture → Aperture) : (s.onAperture i w f).ctl.slots = s.ctl.slots := rfl
@[simp] theorem State.onAperture_ctl_dispatches (i w : Nat) (f : Aperture → Aperture) : (s.onAperture i w f).ctl.dispatches = s.ctl.dispatches := rfl
@[simp] theorem State.onAperture_ctl_saves (i w : Nat) (f : Aperture → Aperture) : (s.onAperture i w f).ctl.saves = s.ctl.saves := rfl

/-! ### onRound -/

@[simp] theorem State.onRound_time (n : Nat) (f : Round → Round) : (s.onRound n f).time = s.time := rfl
@[simp] theorem State.onRound_sched (n : Nat) (f : Round → Round) : (s.onRound n f).sched = s.sched := rfl
@[simp] theorem State.onRound_mem (n : Nat) (f : Round → Round) : (s.onRound n f).mem = s.mem := rfl
@[simp] theorem State.onRound_comp (n : Nat) (f : Round → Round) : (s.onRound n f).comp = s.comp := rfl
@[simp] theorem State.onRound_dies (n : Nat) (f : Round → Round) : (s.onRound n f).dies = s.dies := rfl
@[simp] theorem State.onRound_ctl (n : Nat) (f : Round → Round) : (s.onRound n f).ctl = s.ctl := rfl
@[simp] theorem State.onRound_mod (n : Nat) (f : Round → Round) : (s.onRound n f).mod = s.mod := rfl
@[simp] theorem State.onRound_eng_fences (n : Nat) (f : Round → Round) : (s.onRound n f).eng.fences = s.eng.fences := rfl
@[simp] theorem State.onRound_eng_roots (n : Nat) (f : Round → Round) : (s.onRound n f).eng.roots = s.eng.roots := rfl
@[simp] theorem State.onRound_eng_canopies (n : Nat) (f : Round → Round) : (s.onRound n f).eng.canopies = s.eng.canopies := rfl
@[simp] theorem State.onRound_eng_cambiums (n : Nat) (f : Round → Round) : (s.onRound n f).eng.cambiums = s.eng.cambiums := rfl
@[simp] theorem State.onRound_eng_reds (n : Nat) (f : Round → Round) : (s.onRound n f).eng.reds = s.eng.reds := rfl
@[simp] theorem State.onRound_eng_flights (n : Nat) (f : Round → Round) : (s.onRound n f).eng.flights = s.eng.flights := rfl
@[simp] theorem State.onRound_eng_locks (n : Nat) (f : Round → Round) : (s.onRound n f).eng.locks = s.eng.locks := rfl

/-! ### onResponder -/

@[simp] theorem State.onResponder_time (i : Nat) (f : Responder → Responder) : (s.onResponder i f).time = s.time := rfl
@[simp] theorem State.onResponder_sched (i : Nat) (f : Responder → Responder) : (s.onResponder i f).sched = s.sched := rfl
@[simp] theorem State.onResponder_mem (i : Nat) (f : Responder → Responder) : (s.onResponder i f).mem = s.mem := rfl
@[simp] theorem State.onResponder_comp (i : Nat) (f : Responder → Responder) : (s.onResponder i f).comp = s.comp := rfl
@[simp] theorem State.onResponder_dies (i : Nat) (f : Responder → Responder) : (s.onResponder i f).dies = s.dies := rfl
@[simp] theorem State.onResponder_eng (i : Nat) (f : Responder → Responder) : (s.onResponder i f).eng = s.eng := rfl
@[simp] theorem State.onResponder_ctl (i : Nat) (f : Responder → Responder) : (s.onResponder i f).ctl = s.ctl := rfl
@[simp] theorem State.onResponder_mod_power (i : Nat) (f : Responder → Responder) : (s.onResponder i f).mod.power = s.mod.power := rfl
@[simp] theorem State.onResponder_mod_heldFailed (i : Nat) (f : Responder → Responder) : (s.onResponder i f).mod.heldFailed = s.mod.heldFailed := rfl
@[simp] theorem State.onResponder_mod_startAt (i : Nat) (f : Responder → Responder) : (s.onResponder i f).mod.startAt = s.mod.startAt := rfl
@[simp] theorem State.onResponder_mod_flash (i : Nat) (f : Responder → Responder) : (s.onResponder i f).mod.flash = s.mod.flash := rfl
@[simp] theorem State.onResponder_mod_scrub (i : Nat) (f : Responder → Responder) : (s.onResponder i f).mod.scrub = s.mod.scrub := rfl
@[simp] theorem State.onResponder_mod_mode (i : Nat) (f : Responder → Responder) : (s.onResponder i f).mod.mode = s.mod.mode := rfl
@[simp] theorem State.onResponder_mod_act (i : Nat) (f : Responder → Responder) : (s.onResponder i f).mod.act = s.mod.act := rfl
@[simp] theorem State.onResponder_mod_worldKeys (i : Nat) (f : Responder → Responder) : (s.onResponder i f).mod.worldKeys = s.mod.worldKeys := rfl
@[simp] theorem State.onResponder_mod_ide (i : Nat) (f : Responder → Responder) : (s.onResponder i f).mod.ide = s.mod.ide := rfl
@[simp] theorem State.onResponder_mod_sensors (i : Nat) (f : Responder → Responder) : (s.onResponder i f).mod.sensors = s.mod.sensors := rfl
@[simp] theorem State.onResponder_mod_receipt (i : Nat) (f : Responder → Responder) : (s.onResponder i f).mod.receipt = s.mod.receipt := rfl
@[simp] theorem State.onResponder_mod_outbox (i : Nat) (f : Responder → Responder) : (s.onResponder i f).mod.outbox = s.mod.outbox := rfl
@[simp] theorem State.onResponder_mod_record (i : Nat) (f : Responder → Responder) : (s.onResponder i f).mod.record = s.mod.record := rfl
@[simp] theorem State.onResponder_mod_runtime (i : Nat) (f : Responder → Responder) : (s.onResponder i f).mod.runtime = s.mod.runtime := rfl
@[simp] theorem State.onResponder_mod_activations (i : Nat) (f : Responder → Responder) : (s.onResponder i f).mod.activations = s.mod.activations := rfl
@[simp] theorem State.onResponder_mod_keySerial (i : Nat) (f : Responder → Responder) : (s.onResponder i f).mod.keySerial = s.mod.keySerial := rfl
@[simp] theorem State.onResponder_mod_pod (i : Nat) (f : Responder → Responder) : (s.onResponder i f).mod.pod = s.mod.pod := rfl
@[simp] theorem State.onResponder_mod_config (i : Nat) (f : Responder → Responder) : (s.onResponder i f).mod.config = s.mod.config := rfl

/-! ### onIde -/

@[simp] theorem State.onIde_time (i : Nat) (f : Ide → Ide) : (s.onIde i f).time = s.time := rfl
@[simp] theorem State.onIde_sched (i : Nat) (f : Ide → Ide) : (s.onIde i f).sched = s.sched := rfl
@[simp] theorem State.onIde_mem (i : Nat) (f : Ide → Ide) : (s.onIde i f).mem = s.mem := rfl
@[simp] theorem State.onIde_comp (i : Nat) (f : Ide → Ide) : (s.onIde i f).comp = s.comp := rfl
@[simp] theorem State.onIde_dies (i : Nat) (f : Ide → Ide) : (s.onIde i f).dies = s.dies := rfl
@[simp] theorem State.onIde_eng (i : Nat) (f : Ide → Ide) : (s.onIde i f).eng = s.eng := rfl
@[simp] theorem State.onIde_ctl (i : Nat) (f : Ide → Ide) : (s.onIde i f).ctl = s.ctl := rfl
@[simp] theorem State.onIde_mod_power (i : Nat) (f : Ide → Ide) : (s.onIde i f).mod.power = s.mod.power := rfl
@[simp] theorem State.onIde_mod_heldFailed (i : Nat) (f : Ide → Ide) : (s.onIde i f).mod.heldFailed = s.mod.heldFailed := rfl
@[simp] theorem State.onIde_mod_startAt (i : Nat) (f : Ide → Ide) : (s.onIde i f).mod.startAt = s.mod.startAt := rfl
@[simp] theorem State.onIde_mod_flash (i : Nat) (f : Ide → Ide) : (s.onIde i f).mod.flash = s.mod.flash := rfl
@[simp] theorem State.onIde_mod_scrub (i : Nat) (f : Ide → Ide) : (s.onIde i f).mod.scrub = s.mod.scrub := rfl
@[simp] theorem State.onIde_mod_mode (i : Nat) (f : Ide → Ide) : (s.onIde i f).mod.mode = s.mod.mode := rfl
@[simp] theorem State.onIde_mod_act (i : Nat) (f : Ide → Ide) : (s.onIde i f).mod.act = s.mod.act := rfl
@[simp] theorem State.onIde_mod_worldKeys (i : Nat) (f : Ide → Ide) : (s.onIde i f).mod.worldKeys = s.mod.worldKeys := rfl
@[simp] theorem State.onIde_mod_responders (i : Nat) (f : Ide → Ide) : (s.onIde i f).mod.responders = s.mod.responders := rfl
@[simp] theorem State.onIde_mod_receipt (i : Nat) (f : Ide → Ide) : (s.onIde i f).mod.receipt = s.mod.receipt := rfl
@[simp] theorem State.onIde_mod_outbox (i : Nat) (f : Ide → Ide) : (s.onIde i f).mod.outbox = s.mod.outbox := rfl
@[simp] theorem State.onIde_mod_record (i : Nat) (f : Ide → Ide) : (s.onIde i f).mod.record = s.mod.record := rfl
@[simp] theorem State.onIde_mod_config (i : Nat) (f : Ide → Ide) : (s.onIde i f).mod.config = s.mod.config := rfl
@[simp] theorem State.onIde_mod_pod (i : Nat) (f : Ide → Ide) : (s.onIde i f).mod.pod = s.mod.pod := rfl

/-! ### pass -/

@[simp] theorem State.pass_sched (n : Nat) : (s.pass n).sched = s.sched := rfl
@[simp] theorem State.pass_mem (n : Nat) : (s.pass n).mem = s.mem := rfl
@[simp] theorem State.pass_comp (n : Nat) : (s.pass n).comp = s.comp := rfl
@[simp] theorem State.pass_dies (n : Nat) : (s.pass n).dies = s.dies := rfl
@[simp] theorem State.pass_eng (n : Nat) : (s.pass n).eng = s.eng := rfl
@[simp] theorem State.pass_ctl (n : Nat) : (s.pass n).ctl = s.ctl := rfl
@[simp] theorem State.pass_mod (n : Nat) : (s.pass n).mod = s.mod := rfl
@[simp] theorem State.pass_time_adjust (n : Nat) : (s.pass n).time.adjust = s.time.adjust := rfl
@[simp] theorem State.pass_time_floor (n : Nat) : (s.pass n).time.floor = s.time.floor := rfl
@[simp] theorem State.pass_time_lastMove (n : Nat) : (s.pass n).time.lastMove = s.time.lastMove := rfl
@[simp] theorem State.pass_time_fresh (n : Nat) : (s.pass n).time.fresh = s.time.fresh := rfl

/-! ### output -/

@[simp] theorem State.output_time (o : Output) : (s.output o).time = s.time := rfl
@[simp] theorem State.output_sched (o : Output) : (s.output o).sched = s.sched := rfl
@[simp] theorem State.output_mem (o : Output) : (s.output o).mem = s.mem := rfl
@[simp] theorem State.output_comp (o : Output) : (s.output o).comp = s.comp := rfl
@[simp] theorem State.output_dies (o : Output) : (s.output o).dies = s.dies := rfl
@[simp] theorem State.output_eng (o : Output) : (s.output o).eng = s.eng := rfl
@[simp] theorem State.output_ctl (o : Output) : (s.output o).ctl = s.ctl := rfl
@[simp] theorem State.output_mod_power (o : Output) : (s.output o).mod.power = s.mod.power := rfl
@[simp] theorem State.output_mod_heldFailed (o : Output) : (s.output o).mod.heldFailed = s.mod.heldFailed := rfl
@[simp] theorem State.output_mod_startAt (o : Output) : (s.output o).mod.startAt = s.mod.startAt := rfl
@[simp] theorem State.output_mod_flash (o : Output) : (s.output o).mod.flash = s.mod.flash := rfl
@[simp] theorem State.output_mod_scrub (o : Output) : (s.output o).mod.scrub = s.mod.scrub := rfl
@[simp] theorem State.output_mod_mode (o : Output) : (s.output o).mod.mode = s.mod.mode := rfl
@[simp] theorem State.output_mod_act (o : Output) : (s.output o).mod.act = s.mod.act := rfl
@[simp] theorem State.output_mod_worldKeys (o : Output) : (s.output o).mod.worldKeys = s.mod.worldKeys := rfl
@[simp] theorem State.output_mod_ide (o : Output) : (s.output o).mod.ide = s.mod.ide := rfl
@[simp] theorem State.output_mod_responders (o : Output) : (s.output o).mod.responders = s.mod.responders := rfl
@[simp] theorem State.output_mod_sensors (o : Output) : (s.output o).mod.sensors = s.mod.sensors := rfl
@[simp] theorem State.output_mod_receipt (o : Output) : (s.output o).mod.receipt = s.mod.receipt := rfl
@[simp] theorem State.output_mod_record (o : Output) : (s.output o).mod.record = s.mod.record := rfl
@[simp] theorem State.output_mod_runtime (o : Output) : (s.output o).mod.runtime = s.mod.runtime := rfl
@[simp] theorem State.output_mod_activations (o : Output) : (s.output o).mod.activations = s.mod.activations := rfl
@[simp] theorem State.output_mod_keySerial (o : Output) : (s.output o).mod.keySerial = s.mod.keySerial := rfl
@[simp] theorem State.output_mod_pod (o : Output) : (s.output o).mod.pod = s.mod.pod := rfl
@[simp] theorem State.output_mod_config (o : Output) : (s.output o).mod.config = s.mod.config := rfl

/-! ### ring -/

@[simp] theorem State.ring_time (d c x : Nat) (l : List Nat) : (s.ring d c x l).time = s.time := rfl
@[simp] theorem State.ring_sched (d c x : Nat) (l : List Nat) : (s.ring d c x l).sched = s.sched := rfl
@[simp] theorem State.ring_mem (d c x : Nat) (l : List Nat) : (s.ring d c x l).mem = s.mem := rfl
@[simp] theorem State.ring_comp (d c x : Nat) (l : List Nat) : (s.ring d c x l).comp = s.comp := rfl
@[simp] theorem State.ring_eng (d c x : Nat) (l : List Nat) : (s.ring d c x l).eng = s.eng := rfl
@[simp] theorem State.ring_ctl (d c x : Nat) (l : List Nat) : (s.ring d c x l).ctl = s.ctl := rfl
@[simp] theorem State.ring_mod (d c x : Nat) (l : List Nat) : (s.ring d c x l).mod = s.mod := rfl

/-! ### putHbm -/

@[simp] theorem State.putHbm_time (a : Nat) (b : Byte) : (s.putHbm a b).time = s.time := rfl
@[simp] theorem State.putHbm_sched (a : Nat) (b : Byte) : (s.putHbm a b).sched = s.sched := rfl
@[simp] theorem State.putHbm_comp (a : Nat) (b : Byte) : (s.putHbm a b).comp = s.comp := rfl
@[simp] theorem State.putHbm_dies (a : Nat) (b : Byte) : (s.putHbm a b).dies = s.dies := rfl
@[simp] theorem State.putHbm_eng (a : Nat) (b : Byte) : (s.putHbm a b).eng = s.eng := rfl
@[simp] theorem State.putHbm_ctl (a : Nat) (b : Byte) : (s.putHbm a b).ctl = s.ctl := rfl
@[simp] theorem State.putHbm_mod (a : Nat) (b : Byte) : (s.putHbm a b).mod = s.mod := rfl
@[simp] theorem State.putHbm_mem_poison (a : Nat) (b : Byte) : (s.putHbm a b).mem.poison = s.mem.poison := rfl
@[simp] theorem State.putHbm_mem_versions (a : Nat) (b : Byte) : (s.putHbm a b).mem.versions = s.mem.versions := rfl
@[simp] theorem State.putHbm_mem_lineKeys (a : Nat) (b : Byte) : (s.putHbm a b).mem.lineKeys = s.mem.lineKeys := rfl
@[simp] theorem State.putHbm_mem_host (a : Nat) (b : Byte) : (s.putHbm a b).mem.host = s.mem.host := rfl
@[simp] theorem State.putHbm_mem_hostBad (a : Nat) (b : Byte) : (s.putHbm a b).mem.hostBad = s.mem.hostBad := rfl
@[simp] theorem State.putHbm_mem_paths (a : Nat) (b : Byte) : (s.putHbm a b).mem.paths = s.mem.paths := rfl

/-! ### giveTurn -/

@[simp] theorem State.giveTurn_time (a : Agent) : (s.giveTurn a).time = s.time := rfl
@[simp] theorem State.giveTurn_mem (a : Agent) : (s.giveTurn a).mem = s.mem := rfl
@[simp] theorem State.giveTurn_comp (a : Agent) : (s.giveTurn a).comp = s.comp := rfl
@[simp] theorem State.giveTurn_dies (a : Agent) : (s.giveTurn a).dies = s.dies := rfl
@[simp] theorem State.giveTurn_eng (a : Agent) : (s.giveTurn a).eng = s.eng := rfl
@[simp] theorem State.giveTurn_ctl (a : Agent) : (s.giveTurn a).ctl = s.ctl := rfl
@[simp] theorem State.giveTurn_mod (a : Agent) : (s.giveTurn a).mod = s.mod := rfl
@[simp] theorem State.giveTurn_sched_agenda (a : Agent) : (s.giveTurn a).sched.agenda = s.sched.agenda := rfl

/-! ### What a part reads as after its update -/

@[simp] theorem State.core_onCore {c : Nat} (f : Core → Core) (h : c < 2 ^ 18) : (s.onCore c f).core c = f (s.core c) := by
  unfold State.onCore
  rw [if_neg (by omega)]
  exact tget_tput_same ..

/-- Another core stays as it was. -/
theorem State.core_onCore_other {c e : Nat} (f : Core → Core) (h : c ≠ e) : (s.onCore c f).core e = s.core e := by
  unfold State.onCore State.core
  split
  · rfl
  · simp [tget_tput, h]

@[simp] theorem State.group_onGroup (g : Nat) (f : Group → Group) : (s.onGroup g f).group? g = (s.group? g).map f := by
  simp [State.onGroup, State.group?]

@[simp] theorem State.warp_onWarp (w : Nat) (f : Warp → Warp) : (s.onWarp w f).warp? w = (s.warp? w).map f := by
  simp [State.onWarp, State.warp?]

@[simp] theorem State.clause_onClause (q : Nat) (f : Clause → Clause) :
    tfind (s.onClause q f).comp.clauses q = (tfind s.comp.clauses q).map f := by
  simp [State.onClause]

@[simp] theorem State.cambium_onCambium (n : Nat) (f : Cambium → Cambium) : (s.onCambium n f).cambium n = f (s.cambium n) := by
  simp [State.onCambium, State.cambium]

@[simp] theorem State.dispatch_onDispatch (d : Nat) (f : Dispatch → Dispatch) :
    (s.onDispatch d f).dispatch? d = (s.dispatch? d).map f := by
  simp [State.onDispatch, State.dispatch?]

@[simp] theorem State.slot_onSlot (n : Nat) (f : Slot → Slot) : (s.onSlot n f).slot n = f (s.slot n) := by
  simp [State.onSlot, State.slot]

@[simp] theorem State.mailbox_onMailbox (m : Nat) (f : Mailbox → Mailbox) : (s.onMailbox m f).mailbox m = f (s.mailbox m) := by
  simp [State.onMailbox, State.mailbox]

@[simp] theorem State.aperture_onAperture (i w : Nat) (f : Aperture → Aperture) :
    (s.onAperture i w f).aperture i w = f (s.aperture i w) := by
  simp [State.onAperture, State.aperture]

@[simp] theorem State.responder_onResponder (i : Nat) (f : Responder → Responder) :
    (s.onResponder i f).responder i = f (s.responder i) := by
  simp [State.onResponder, State.responder]

@[simp] theorem State.ideOf_onIde (i : Nat) (f : Ide → Ide) : (s.onIde i f).ideOf i = f (s.ideOf i) := by
  simp [State.onIde, State.ideOf]

/-- A die that the module holds reads as changed. -/
theorem State.die_onDie {d : Nat} {x : Die} (f : Die → Die) (h : tfind s.dies d = some x) :
    (s.onDie d f).die d = f (s.die d) := by
  simp [State.onDie, State.die, tget_eq, h]

/-- Another die stays as it was. -/
theorem State.die_onDie_other {d e : Nat} (f : Die → Die) (h : d ≠ e) : (s.onDie d f).die e = s.die e := by
  simp [State.onDie, State.die, tget_eq, tfind_tmap, h]

end Sys2Proof.Machine
end

