-- ==== Sys2Proof/Laws/Memory.lean ====
section
/-! SUPPORT. Memory and core stores: what a read gives after a write, and that every operation that writes them keeps the
canonical form; reset memory has it. -/

namespace Sys2Proof.Machine

/-! ### Reset -/

theorem Memory.wf_reset : Memory.wf State.reset.mem = true := by decide

theorem Core.wf_reset : Core.wf Core.reset = true := by decide

theorem State.reset_inv : State.reset.Inv :=
  ⟨Memory.wf_reset, fun _ h => absurd h List.not_mem_nil, by decide +kernel⟩

/-! ### The parts of the invariant -/

theorem State.Inv.mem {s : State} (h : s.Inv) : Memory.wf s.mem = true := h.1
theorem State.Inv.cores {s : State} (h : s.Inv) : ∀ e ∈ s.comp.cores, Core.wf e.2 = true := h.2.1
theorem State.Inv.flash {s : State} (h : s.Inv) : s.mod.flash.verified = true := h.2.2

/-- The invariant of a state that is written out. -/
theorem State.inv_mk {t sc m c d e l o} :
    State.Inv (State.mk t sc m c d e l o) ↔
      Memory.wf m = true ∧ (∀ e ∈ c.cores, Core.wf e.2 = true) ∧ o.flash.verified = true := Iff.rfl

/-- It speaks of memory, cores and flash alone. -/
theorem State.Inv.congr {s t : State} (h : s.Inv) (hm : t.mem = s.mem) (hc : t.comp.cores = s.comp.cores)
    (hf : t.mod.flash = s.mod.flash) : t.Inv := by
  unfold State.Inv
  rw [hm, hc, hf]
  exact h

/-- Every core of a state that meets the invariant has its store in canonical form. -/
theorem State.Inv.core {s : State} (h : s.Inv) (c : Nat) : Core.wf (s.core c) = true := by
  unfold State.core
  rw [tget_eq]
  cases hf : tfind s.comp.cores c with
  | none => exact Core.wf_reset
  | some x => exact h.cores _ (mem_of_tfind hf)

/-- The parts of a memory in canonical form. -/
theorem Memory.wf_iff {m : Mem} : Memory.wf m = true ↔
    tcanon 0 m.hbm = true ∧ tcanon 0 m.host = true ∧ tcanon false m.poison = true ∧ tcanon 0 m.versions = true ∧
      tcanon 0 m.lineKeys = true ∧ tcanon false m.hostBad = true ∧ tcanon 0 m.keyed = true := by
  simp [Memory.wf, and_assoc]

theorem Core.wf_iff {c : Core} : Core.wf c = true ↔
    tcanon 0 c.store = true ∧ tcanon false c.empty = true ∧ tcanon false c.poison = true := by
  simp [Core.wf, and_assoc]

/-- A fold over a table that only sets entries keeps its form. -/
theorem tcanon_foldl {β α : Type} [DecidableEq β] {d : β} (f : Table β → α → Table β)
    (hf : ∀ t e, tcanon d t = true → tcanon d (f t e) = true) (l : List α) {t : Table β} (h : tcanon d t = true) :
    tcanon d (l.foldl f t) = true :=
  foldl_keeps (fun t => tcanon d t = true) f hf l t h

/-! ### Updates -/

/-- A change of a core that keeps its store's form keeps the invariant. -/
theorem State.onCore_inv {s : State} {c : Nat} {f : Core → Core} (h : s.Inv)
    (hf : Core.wf (s.core c) = true → Core.wf (f (s.core c)) = true) : (s.onCore c f).Inv := by
  unfold State.onCore
  split
  · exact h
  · refine ⟨h.mem, fun e he => ?_, h.flash⟩
    rcases mem_tput he with rfl | he
    · exact hf (h.core c)
    · exact h.cores e he

theorem State.onWarp_inv {s : State} {w : Nat} {f : Warp → Warp} (h : s.Inv) : (s.onWarp w f).Inv := h
theorem State.onGroup_inv {s : State} {g : Nat} {f : Group → Group} (h : s.Inv) : (s.onGroup g f).Inv := h
theorem State.onClause_inv {s : State} {q : Nat} {f : Clause → Clause} (h : s.Inv) : (s.onClause q f).Inv := h
theorem State.onTransfer_inv {s : State} {t : Nat} {f : Transfer → Transfer} (h : s.Inv) : (s.onTransfer t f).Inv := h
theorem State.dropTransfer_inv {s : State} {t : Nat} (h : s.Inv) : (s.dropTransfer t).Inv := h
theorem State.onDie_inv {s : State} {d : Nat} {f : Die → Die} (h : s.Inv) : (s.onDie d f).Inv := h
theorem State.onRoot_inv {s : State} {r : Nat} {f : Root → Root} (h : s.Inv) : (s.onRoot r f).Inv := h
theorem State.onCanopy_inv {s : State} {e : Nat} {f : Canopy → Canopy} (h : s.Inv) : (s.onCanopy e f).Inv := h
theorem State.onCambium_inv {s : State} {n : Nat} {f : Cambium → Cambium} (h : s.Inv) : (s.onCambium n f).Inv := h
theorem State.onDispatch_inv {s : State} {d : Nat} {f : Dispatch → Dispatch} (h : s.Inv) : (s.onDispatch d f).Inv := h
theorem State.onSlot_inv {s : State} {n : Nat} {f : Slot → Slot} (h : s.Inv) : (s.onSlot n f).Inv := h
theorem State.onMailbox_inv {s : State} {m : Nat} {f : Mailbox → Mailbox} (h : s.Inv) : (s.onMailbox m f).Inv := h
theorem State.onAperture_inv {s : State} {i w : Nat} {f : Aperture → Aperture} (h : s.Inv) : (s.onAperture i w f).Inv := h
theorem State.onResponder_inv {s : State} {i : Nat} {f : Responder → Responder} (h : s.Inv) : (s.onResponder i f).Inv := h
theorem State.onIde_inv {s : State} {i : Nat} {f : Ide → Ide} (h : s.Inv) : (s.onIde i f).Inv := h
theorem State.useStream_inv {s : State} {p : HostPort} (h : s.Inv) : (s.useStream p).Inv := by
  unfold State.useStream
  split
  · split
    · exact h
    · exact State.onIde_inv h
  · exact h
theorem State.onRound_inv {s : State} {n : Nat} {f : Round → Round} (h : s.Inv) : (s.onRound n f).Inv := h
theorem State.pass_inv {s : State} {n : Nat} (h : s.Inv) : (s.pass n).Inv := h
theorem State.output_inv {s : State} {o : Output} (h : s.Inv) : (s.output o).Inv := h
theorem State.ring_inv {s : State} {d c x : Nat} {l : List Nat} (h : s.Inv) : (s.ring d c x l).Inv := h
theorem State.giveTurn_inv {s : State} {a : Agent} (h : s.Inv) : (s.giveTurn a).Inv := h

/-! ### HBM -/

@[simp] theorem State.hbmByte_putHbm (s : State) (a b : Nat) (x : Byte) :
    (s.putHbm a x).hbmByte b = if a = b then x else s.hbmByte b := tget_tset ..

theorem State.putHbm_inv {s : State} {a : Nat} {b : Byte} (h : s.Inv) : (s.putHbm a b).Inv := by
  have hm := Memory.wf_iff.mp h.mem
  exact ⟨Memory.wf_iff.mpr ⟨tcanon_tset _ _ hm.1, hm.2⟩, h.cores, h.flash⟩

/-- Writes of bytes of HBM keep the invariant. -/
theorem State.putHbms_inv {α : Type} {a : α → Nat} {b : α → Byte} (l : List α) {s : State} (h : s.Inv) :
    (l.foldl (fun s e => s.putHbm (a e) (b e)) s).Inv :=
  foldl_keeps State.Inv _ (fun _ _ h => State.putHbm_inv h) l s h

theorem State.retireFrame_inv {s : State} {die frame : Nat} (h : s.Inv) : (s.retireFrame die frame).Inv := by
  unfold State.retireFrame
  split
  · exact h
  · exact State.ring_inv (State.onDie_inv h)

theorem State.setMark_inv {s : State} {n : Nat} {b : Bool} (h : s.Inv) :
    State.Inv { s with mem := { s.mem with poison := tset false s.mem.poison n b } } := by
  have hm := Memory.wf_iff.mp h.mem
  exact ⟨Memory.wf_iff.mpr ⟨hm.1, hm.2.1, tcanon_tset _ _ hm.2.2.1, hm.2.2.2⟩, h.cores, h.flash⟩

theorem State.markSector_inv {s : State} {sector : Nat} (h : s.Inv) : (s.markSector sector).Inv :=
  State.retireFrame_inv (State.ring_inv (State.setMark_inv h))

theorem State.checkMac_inv {s : State} {world pa n : Nat} (h : s.Inv) : (s.checkMac world pa n).Inv := by
  unfold State.checkMac
  split
  · refine foldl_keeps State.Inv _ (fun s k h => ?_) _ _ h
    split
    · exact State.markSector_inv h
    · exact h
  · exact h

theorem State.setKey_inv {s : State} {n k : Nat} (h : s.Inv) :
    State.Inv { s with mem := { s.mem with lineKeys := tset 0 s.mem.lineKeys n k } } := by
  have hm := Memory.wf_iff.mp h.mem
  exact ⟨Memory.wf_iff.mpr ⟨hm.1, hm.2.1, hm.2.2.1, hm.2.2.2.1, tcanon_tset _ _ hm.2.2.2.2.1, hm.2.2.2.2.2⟩, h.cores,
    h.flash⟩

/-- A write of one sector: its version moves on and its mark may clear. -/
theorem State.setVersion_inv {s : State} {n v : Nat} {c : Bool} (h : s.Inv) :
    State.Inv { s with mem := { s.mem with
      versions := tset 0 s.mem.versions n v
      poison := if c = true then tset false s.mem.poison n false else s.mem.poison } } := by
  have hm := Memory.wf_iff.mp h.mem
  refine ⟨Memory.wf_iff.mpr ⟨hm.1, hm.2.1, ?_, tcanon_tset _ _ hm.2.2.2.1, hm.2.2.2.2⟩, h.cores, h.flash⟩
  dsimp only
  split
  · exact tcanon_tset _ _ hm.2.2.1
  · exact hm.2.2.1

theorem State.setKeyed_inv {s : State} {t : Table Nat} (h : s.Inv) (ht : tcanon 0 t = true) :
    State.Inv { s with mem := { s.mem with keyed := t } } := by
  have hm := Memory.wf_iff.mp h.mem
  exact ⟨Memory.wf_iff.mpr ⟨hm.1, hm.2.1, hm.2.2.1, hm.2.2.2.1, hm.2.2.2.2.1, hm.2.2.2.2.2.1, ht⟩, h.cores, h.flash⟩

/-- The slice keys of a state that meets the invariant are in canonical form. -/
theorem State.Inv.keyed {s : State} (h : s.Inv) : tcanon 0 s.mem.keyed = true := (Memory.wf_iff.mp h.mem).2.2.2.2.2.2

theorem State.keySlices_inv {s : State} {world : Nat} {l : List Nat} (h : s.Inv) : (s.keySlices world l).Inv := by
  unfold State.keySlices
  split
  · exact h
  · exact State.setKeyed_inv h (tcanon_foldl _ (fun _ _ => tcanon_tset _ _) _ h.keyed)

theorem State.evictSlice_inv {s : State} {sector : Nat} (h : s.Inv) : (s.evictSlice sector).Inv :=
  State.setKeyed_inv h (tcanon_filter _ h.keyed)

theorem State.hbmWrite_inv {s : State} {world : Nat} {bytes : List (Nat × Byte)} (h : s.Inv) : (s.hbmWrite world bytes).Inv := by
  unfold State.hbmWrite
  dsimp only
  refine foldl_keeps State.Inv _ (fun s n h => ?_) _ _ (foldl_keeps State.Inv _ (fun s n h => ?_) _ _ h)
  · split
    · exact State.setVersion_inv h
    · exact State.putHbms_inv _ (State.keySlices_inv (State.setVersion_inv h))
  · split
    · exact State.setKey_inv h
    · exact State.checkMac_inv h

theorem State.snapshot_inv {s : State} {d : Nat} {l : List Nat} (h : s.Inv) : (s.snapshot d l).Inv := by
  unfold State.snapshot
  refine foldl_keeps State.Inv _ (fun s n h => ?_) _ _ h
  dsimp only
  repeat' split
  all_goals exact h

theorem State.applyWrite_inv {s : State} {d w : Nat} {l : List (Nat × Byte)} (h : s.Inv) : (s.applyWrite d w l).Inv :=
  State.hbmWrite_inv (State.snapshot_inv h)

theorem State.atomicHome_inv {s : State} {d w pa : Nat} {i : Instr} {ty : Ty} {n x b : Nat} (h : s.Inv) :
    (s.atomicHome d w pa i ty n x b).1.Inv := by
  unfold State.atomicHome
  dsimp only
  split
  · exact State.checkMac_inv h
  · exact State.applyWrite_inv (State.checkMac_inv h)

theorem State.consume_inv {s : State} {dispatch die unit addr : Nat} (h : s.Inv) : (s.consume dispatch die unit addr).Inv := by
  unfold State.consume
  split
  · exact h
  · split
    · exact State.onDispatch_inv (State.ring_inv h)
    · exact h

theorem State.applyPathWrite_inv {s : State} {die : Nat} {p : PathWrite} (h : s.Inv) : (s.applyPathWrite die p).Inv := by
  unfold State.applyPathWrite
  split
  · exact State.applyWrite_inv h
  · dsimp only
    split
    · exact State.consume_inv (State.atomicHome_inv h)
    · exact State.atomicHome_inv h

theorem State.applyPath_inv {s : State} {key : Nat} (h : s.Inv) : (s.applyPath key).Inv := by
  unfold State.applyPath
  split
  · exact h
  · dsimp only
    split
    · exact State.applyPathWrite_inv h
    · exact State.onWarp_inv h

theorem State.flushPath_inv {s : State} {key : Nat} (h : s.Inv) : (s.flushPath key).Inv :=
  foldl_keeps State.Inv _ (fun _ _ h => State.applyPath_inv h) _ _ h

theorem State.flushWhere_inv {s : State} {p : PathWrite → Bool} (h : s.Inv) : (s.flushWhere p).Inv := by
  refine foldl_keeps State.Inv _ (fun s key h => ?_) _ _ h
  split
  · exact State.flushPath_inv h
  · exact h

theorem State.flushDispatch_inv {s : State} {d : Nat} (h : s.Inv) : (s.flushDispatch d).Inv := State.flushWhere_inv h

theorem State.homeRead_inv {s : State} {site w pa n : Nat} (h : s.Inv) : (s.homeRead site w pa n).1.Inv :=
  State.checkMac_inv (State.flushPath_inv h)

/-- A page's entries put back in a table keep its form. -/
theorem tcanon_pageBack {α : Type} [DecidableEq α] {zero : α} {t image : Table α} {here : Nat → Bool} (h : tcanon zero t = true) :
    tcanon zero (pageBack zero t image here) = true :=
  tcanon_foldl _ (fun _ _ => tcanon_tset _ _) _ (tcanon_filter _ h)

/-- A snapshot page written back whole keeps the invariant. -/
theorem State.restorePage_inv {s : State} {page : Nat} {image : PageImage} (h : s.Inv) :
    (s.restorePage page image).Inv := by
  unfold State.restorePage
  generalize List.range 2048 = l
  have hm := Memory.wf_iff.mp h.mem
  refine ⟨Memory.wf_iff.mpr ⟨?_, hm.2.1, ?_, tcanon_foldl _ (fun _ _ => tcanon_tset _ _) _ hm.2.2.2.1, ?_, hm.2.2.2.2.2.1, ?_⟩,
    h.cores, h.flash⟩
  · dsimp only; exact tcanon_pageBack hm.1
  · dsimp only; exact tcanon_pageBack hm.2.2.1
  · dsimp only; exact tcanon_pageBack hm.2.2.2.2.1
  · dsimp only; exact tcanon_pageBack hm.2.2.2.2.2.2

/-! ### Host memory -/

theorem State.hostWrite_inv {s : State} {a : Nat} {b : List Byte} (h : s.Inv) : (s.hostWrite a b).Inv := by
  have hm := Memory.wf_iff.mp h.mem
  exact ⟨Memory.wf_iff.mpr ⟨hm.1, tcanon_foldl _ (fun _ _ => tcanon_tset _ _) _ hm.2.1, hm.2.2⟩, h.cores, h.flash⟩

theorem State.hostStore_inv {s : State} {a : Nat} {b : List Byte} (h : s.Inv) : (s.hostStore a b).Inv := by
  refine foldl_keeps State.Inv _ (fun s e h => ?_) _ _ h
  have hm := Memory.wf_iff.mp h.mem
  exact ⟨Memory.wf_iff.mpr ⟨hm.1, tcanon_tset _ _ hm.2.1, hm.2.2⟩, h.cores, h.flash⟩

theorem State.setHostBad_inv {s : State} {n : Nat} {b : Bool} (h : s.Inv) :
    State.Inv { s with mem := { s.mem with hostBad := tset false s.mem.hostBad n b } } := by
  have hm := Memory.wf_iff.mp h.mem
  exact ⟨Memory.wf_iff.mpr ⟨hm.1, hm.2.1, hm.2.2.1, hm.2.2.2.1, hm.2.2.2.2.1, tcanon_tset _ _ hm.2.2.2.2.2.1,
    hm.2.2.2.2.2.2⟩, h.cores, h.flash⟩

/-! ### Core stores -/

theorem State.windowStore_inv {s : State} {w : Nat} {p : Pending} (h : s.Inv) : (s.windowStore w p).Inv := h

theorem State.progress_inv {s : State} {c n : Nat} (h : s.Inv) : (s.progress c n).Inv := State.onCore_inv h fun h => h

theorem State.putCore_inv {s : State} {c o : Nat} {b : Byte} (h : s.Inv) : (s.putCore c o b).Inv := by
  unfold State.putCore
  split
  · exact h
  · split
    · exact h
    · exact h
  · refine State.onCore_inv h fun hc => ?_
    have := Core.wf_iff.mp hc
    exact Core.wf_iff.mpr ⟨tcanon_tset _ _ this.1, this.2⟩

theorem State.setEmpty_inv {s : State} {c g : Nat} {b : Bool} (h : s.Inv) :
    (s.onCore c fun c => { c with empty := tset false c.empty g b }).Inv :=
  State.onCore_inv h fun hc => Core.wf_iff.mpr ⟨(Core.wf_iff.mp hc).1, tcanon_tset _ _ (Core.wf_iff.mp hc).2.1, (Core.wf_iff.mp hc).2.2⟩

theorem State.setPoison_inv {s : State} {c g : Nat} {b : Bool} (h : s.Inv) :
    (s.onCore c fun c => { c with poison := tset false c.poison g b }).Inv :=
  State.onCore_inv h fun hc => Core.wf_iff.mpr ⟨(Core.wf_iff.mp hc).1, (Core.wf_iff.mp hc).2.1, tcanon_tset _ _ (Core.wf_iff.mp hc).2.2⟩

theorem State.fill_inv {s : State} {c g : Nat} (h : s.Inv) : (s.fill c g).Inv := State.setEmpty_inv h

theorem State.coreWrite_inv {s : State} {c : Nat} {l : List (Nat × Byte)} (h : s.Inv) : (s.coreWrite c l).Inv := by
  unfold State.coreWrite
  dsimp only
  refine foldl_keeps State.Inv _ (fun s g h => ?_) _ _ (foldl_keeps State.Inv _ (fun _ _ h => State.putCore_inv h) _ _ h)
  have h1 : (if covers (l.map Prod.fst) (g * 16) 16 = true then
      (s.fill c g).onCore c fun c => { c with poison := tset false c.poison g false } else s.fill c g).Inv := by
    split
    · exact State.setPoison_inv (State.fill_inv h)
    · exact State.fill_inv h
  split
  · exact State.progress_inv h1
  · exact h1

end Sys2Proof.Machine
end

