-- ==== Sys2Proof/Laws/Keeps.lean ====
section
/-! SUPPORT. How the invariant of Safety.lean is carried through the shapes that definitions have: a let, a fold, a record
update, a pair, an option, an outcome. -/

namespace Sys2Proof.Machine

/-- The next state of an outcome, if there is one, meets the invariant. -/
def Keeps : Result → Prop
  | .next t => t.Inv
  | _ => True

/-- The state of a turn meets the invariant. -/
def TurnKeeps : Turn → Prop
  | .run _ s => s.Inv
  | .go s => s.Inv
  | .stop _ => True

/-- The state after an effect meets the invariant. -/
def OutKeeps : Out → Prop
  | .done s => s.Inv
  | _ => True

/-- The state that an operation answers, if any, meets the invariant. -/
def OptKeeps (o : Option State) : Prop := ∀ t, o = some t → t.Inv

/-- The state that an operation answers beside a result meets the invariant. -/
def PairKeeps {α : Type} (p : State × α) : Prop := p.1.Inv

/-- The same of a result that comes first. -/
def ValKeeps {α : Type} (p : α × State) : Prop := p.2.Inv

theorem keeps_next {s : State} (h : s.Inv) : Keeps (.next s) := h
theorem keeps_fault {f : Fault} : Keeps (.fault f) := trivial
theorem turn_run {i : Instr} {s : State} (h : s.Inv) : TurnKeeps (.run i s) := h
theorem turn_go {s : State} (h : s.Inv) : TurnKeeps (.go s) := h
theorem turn_stop {f : Fault} : TurnKeeps (.stop f) := trivial
theorem out_done {s : State} (h : s.Inv) : OutKeeps (.done s) := h
theorem out_fault {t : Trouble} : OutKeeps (.fault t) := trivial
theorem out_stall : OutKeeps .stall := trivial
theorem opt_some {s : State} (h : s.Inv) : OptKeeps (some s) := fun _ e => Option.some.inj e ▸ h
theorem opt_none : OptKeeps none := fun _ e => nomatch e
theorem pair_mk {α : Type} {s : State} {a : α} (h : s.Inv) : PairKeeps (s, a) := h

theorem opt_getD {o : Option State} {s : State} (ho : OptKeeps o) (h : s.Inv) : (o.getD s).Inv := by
  cases o with
  | none => exact h
  | some t => exact ho t rfl

theorem pair_eq {α : Type} {p : State × α} {t : State} {a : α} (e : p = (t, a)) (h : PairKeeps p) : t.Inv := by
  subst e; exact h

theorem val_mk {α : Type} {s : State} {a : α} (h : s.Inv) : ValKeeps (a, s) := h

theorem val_eq {α : Type} {p : α × State} {t : State} {a : α} (e : p = (a, t)) (h : ValKeeps p) : t.Inv := by
  subst e; exact h

theorem val_ite {α : Type} {c : Prop} [Decidable c] {a b : α × State} (ha : ValKeeps a) (hb : ValKeeps b) :
    ValKeeps (if c then a else b) := by
  split <;> assumption

theorem out_eq {o : Out} {t : State} (e : o = .done t) (h : OutKeeps o) : t.Inv := by
  subst e; exact h

theorem turn_eq_go {r : Turn} {t : State} (e : r = .go t) (h : TurnKeeps r) : t.Inv := by
  subst e; exact h

theorem turn_eq_run {r : Turn} {i : Instr} {t : State} (e : r = .run i t) (h : TurnKeeps r) : t.Inv := by
  subst e; exact h

theorem opt_eq {o : Option State} {t : State} (e : o = some t) (h : OptKeeps o) : t.Inv := h t e

theorem inv_ite {c : Prop} [Decidable c] {a b : State} (ha : State.Inv a) (hb : State.Inv b) : State.Inv (if c then a else b) := by
  split <;> assumption
theorem keeps_ite {c : Prop} [Decidable c] {a b : Result} (ha : Keeps a) (hb : Keeps b) : Keeps (if c then a else b) := by
  split <;> assumption
theorem turn_ite {c : Prop} [Decidable c] {a b : Turn} (ha : TurnKeeps a) (hb : TurnKeeps b) : TurnKeeps (if c then a else b) := by
  split <;> assumption
theorem out_ite {c : Prop} [Decidable c] {a b : Out} (ha : OutKeeps a) (hb : OutKeeps b) : OutKeeps (if c then a else b) := by
  split <;> assumption
theorem opt_ite {c : Prop} [Decidable c] {a b : Option State} (ha : OptKeeps a) (hb : OptKeeps b) : OptKeeps (if c then a else b) := by
  split <;> assumption
theorem pair_ite {α : Type} {c : Prop} [Decidable c] {a b : State × α} (ha : PairKeeps a) (hb : PairKeeps b) : PairKeeps (if c then a else b) := by
  split <;> assumption
theorem pair_fst {α : Type} {p : State × α} (h : PairKeeps p) : p.1.Inv := h

theorem inv_foldl {α : Type} {f : State → α → State} {l : List α} {s : State} (h : s.Inv)
    (hf : ∀ s e, s.Inv → (f s e).Inv) : (l.foldl f s).Inv := foldl_keeps State.Inv f hf l s h
theorem pair_foldl {α β : Type} {f : State × β → α → State × β} {l : List α} {p : State × β} (h : PairKeeps p)
    (hf : ∀ p e, PairKeeps p → PairKeeps (f p e)) : PairKeeps (l.foldl f p) := foldl_keeps PairKeeps f hf l p h
theorem opt_foldl {α : Type} {f : Option State → α → Option State} {l : List α} {o : Option State} (h : OptKeeps o)
    (hf : ∀ o e, OptKeeps o → OptKeeps (f o e)) : OptKeeps (l.foldl f o) := foldl_keeps OptKeeps f hf l o h
theorem opt_foldlM {α : Type} {f : State → α → Option State} {l : List α} {s : State} (h : s.Inv)
    (hf : ∀ s e, s.Inv → OptKeeps (f s e)) : OptKeeps (l.foldlM f s) := by
  induction l generalizing s with
  | nil => exact opt_some h
  | cons e l ih =>
    rw [List.foldlM_cons]
    cases he : f s e with
    | none => exact opt_none
    | some t => exact ih (hf s e h t he)

/-- A change of a core that leaves its store, its empty granules and its poison marks as they are. -/
theorem State.onCore_same {s : State} {c : Nat} {f : Core → Core} (h : s.Inv) (hs : ∀ c, (f c).store = c.store := by intro; rfl)
    (he : ∀ c, (f c).empty = c.empty := by intro; rfl) (hp : ∀ c, (f c).poison = c.poison := by intro; rfl) : (s.onCore c f).Inv :=
  State.onCore_inv h fun hc => by rw [Core.wf, hs, he, hp]; exact hc

/-- A record update that leaves memory, cores and flash as they are. -/
theorem inv_upd {t sc m c d e l o} {s : State} (h : s.Inv) (hm : m = s.mem) (hc : c.cores = s.comp.cores)
    (hf : o.flash = s.mod.flash) : State.Inv (State.mk t sc m c d e l o) := h.congr (t := State.mk t sc m c d e l o) hm hc hf

/-- The same of one that writes the paths to home slices. -/
theorem inv_paths {t sc p c d e l o} {s : State} (h : s.Inv) (hc : c.cores = s.comp.cores) (hf : o.flash = s.mod.flash) :
    State.Inv (State.mk t sc (Mem.mk s.mem.hbm s.mem.keyed s.mem.poison s.mem.versions s.mem.lineKeys s.mem.host s.mem.hostBad p) c d e l o) :=
  ⟨h.mem, fun x hx => h.cores x (by rw [← hc]; exact hx), by rw [← h.flash, ← hf]⟩

theorem State.free_keeps {s : State} (h : s.Inv) : ValKeeps s.free := h

theorem State.homeRead_keeps {s : State} {site w pa n : Nat} (h : s.Inv) : PairKeeps (s.homeRead site w pa n) :=
  State.homeRead_inv h

end Sys2Proof.Machine
end

