-- ==== Sys2Proof/Laws/InvWarps.lean ====
section
/-! SUPPORT. What keeps the invariant of Safety.lean: shared operations of cores, warps and memory, and the instructions that a warp issues. One lemma for each operation,
which proofs cite instead of unfolding it. -/

namespace Sys2Proof.Machine

/-! ### Memory.lean -/

theorem State.fillWalks_inv {s : State} {die slot va : Nat} {l : List Leaf} (h : s.Inv) : State.Inv
    (State.fillWalks s die slot va l) := by
  unfold State.fillWalks
  extract_lets s1
  exact State.onDie_inv h

theorem State.dropRefused_inv {s : State} {die slot va : Nat} {need : Need} (h : s.Inv) : State.Inv
    (State.dropRefused s die slot va need) := by
  unfold State.dropRefused
  exact State.onDie_inv h

theorem State.markWalk_inv {s : State} {die slot va : Nat} (h : s.Inv) : State.Inv (State.markWalk s die slot va)
    := by
  unfold State.markWalk
  refine inv_ite h ?_
  split
  · exact State.checkMac_inv h
  · exact h

theorem State.keepWalk_inv {s : State} {die slot va : Nat} {need : Need} (h : s.Inv) : State.Inv (State.keepWalk s
    die slot va need) := by
  unfold State.keepWalk
  extract_lets s1
  have h2 : s1.Inv := State.dropRefused_inv h
  split
  · exact State.markWalk_inv h2
  · exact State.fillWalks_inv h2

theorem State.coreTranslate_keeps {s : State} {core slot va : Nat} {need : Need} (h : s.Inv) : PairKeeps
    (State.coreTranslate s core slot va need) := by
  unfold State.coreTranslate
  extract_lets s1 s2 s3 s4
  have h5 : s4.Inv := State.dropRefused_inv (State.onCore_same h)
  clear_value s1 s2 s3 s4
  split
  · exact pair_mk h
  · split
    · exact pair_mk (State.markWalk_inv h5)
    · exact pair_mk (State.onCore_same (State.fillWalks_inv h5))

theorem State.takeStore_inv {s : State} {core base n world : Nat} (h : s.Inv) : State.Inv (State.takeStore s core
    base n world) := by
  unfold State.takeStore
  refine State.onCore_inv h fun hc => ?_
  have hc := Core.wf_iff.mp hc
  refine Core.wf_iff.mpr ⟨?_, hc.2⟩
  dsimp only
  split
  · exact hc.1
  · refine tcanon_foldl _ (fun t e h => ?_) _ hc.1
    split
    · exact h
    · exact tcanon_tset _ _ h

theorem State.putBarrier_inv {s : State} {core o i v : Nat} (h : s.Inv) : State.Inv (State.putBarrier s core o i
    v) := by
  unfold State.putBarrier
  exact State.coreWrite_inv h

theorem State.arrive_inv {s : State} {core o n : Nat} (h : s.Inv) : State.Inv (State.arrive s core o n) := by
  unfold State.arrive
  extract_lets s1 s2 s3
  exact inv_ite (State.putBarrier_inv (State.putBarrier_inv h)) (State.putBarrier_inv h)

theorem State.creditBack_inv {s : State} {t : Transfer} (h : s.Inv) : State.Inv (State.creditBack s t) := by
  unfold State.creditBack
  extract_lets s1 s2 s3
  split
  · exact h
  · exact inv_ite h (inv_ite (State.putBarrier_inv h) (inv_upd h rfl rfl rfl))

theorem State.chargeHeld_inv {s : State} {core o n : Nat} (h : s.Inv) : (s.chargeHeld core o n).Inv := by
  induction n generalizing s with
  | zero => exact h
  | succ n ih =>
    unfold State.chargeHeld
    extract_lets s1
    split
    · exact h
    · extract_lets s2 s3 s4 s5
      have h6 : s3.Inv := inv_ite h (State.putBarrier_inv h)
      have h7 : s4.Inv := State.onCore_same h6 (fun _ => rfl) (fun _ => rfl) fun _ => rfl
      exact inv_ite (ih (State.onTransfer_inv h7)) h

theorem State.toBarrier_inv {s : State} {t : Nat} (h : s.Inv) : State.Inv (State.toBarrier s t) := by
  unfold State.toBarrier
  split
  · exact h
  · extract_lets s1
    split
    · exact State.onTransfer_inv h
    · extract_lets s2
      have h3 : s2.Inv := State.onCore_same h
      exact State.chargeHeld_inv h3

/-! ### Ops.lean -/

theorem State.fetchWord_keeps {s : State} {core slot va : Nat} (h : s.Inv) : PairKeeps (State.fetchWord s core
    slot va) := by
  unfold State.fetchWord
  split
  · rename_i e1
    have h2 := pair_eq e1 (State.coreTranslate_keeps h)
    exact pair_mk h2
  · rename_i e3
    have h4 := pair_eq e3 (State.coreTranslate_keeps h)
    extract_lets s5
    have h6 : s5.Inv := State.checkMac_inv h4
    split
    exact pair_ite (pair_mk h6) (pair_mk h6)

theorem State.fetchWords_keeps {s : State} {core slot a n : Nat} (h : s.Inv) : PairKeeps (s.fetchWords core slot a
    n) := by
  induction n generalizing s a with
  | zero => exact h
  | succ n ih =>
    unfold State.fetchWords
    have h1 : PairKeeps (s.fetchWord core slot a) := State.fetchWord_keeps h
    split
    · exact pair_mk (pair_eq ‹_› h1)
    · rename_i s1 w e
      have h2 : PairKeeps (s1.fetchWords core slot (a + 8) n) := ih (pair_eq e h1)
      split
      · exact pair_mk (pair_eq ‹_› h2)
      · exact pair_mk (pair_eq ‹_› h2)

theorem State.fetchClause_keeps {s : State} {w x1 : Nat} (h : s.Inv) : PairKeeps (State.fetchClause s w x1) := by
  unfold State.fetchClause
  extract_lets s1 s2
  split
  · rename_i e3
    have h4 := pair_eq e3 (State.fetchWord_keeps h)
    exact pair_mk h4
  · rename_i e5
    have h6 := pair_eq e5 (State.fetchWord_keeps h)
    refine pair_ite (pair_mk h6) ?_
    split
    · rename_i e7
      have h8 := pair_eq e7 (State.fetchWords_keeps h6)
      exact pair_mk h8
    · rename_i e9
      have h10 := pair_eq e9 (State.fetchWords_keeps h6)
      extract_lets s11
      split
      · exact pair_mk h10
      · exact pair_ite (pair_mk h10) (pair_ite (pair_mk h10) (pair_mk h10))

theorem State.touch_inv {s : State} {w : Nat} (h : s.Inv) : State.Inv (State.touch s w) := by
  unfold State.touch
  extract_lets s1
  exact inv_ite h (State.onWarp_inv h)

theorem State.finish_inv {s : State} {w : Nat} {f : Warp → Warp} (h : s.Inv) : State.Inv (State.finish s w f) := by
  unfold State.finish
  extract_lets s1 s2
  have h3 : s1.Inv := State.touch_inv h
  have h4 : s2.Inv := State.onWarp_inv h3
  exact State.progress_inv h4

theorem State.finishOp_inv {s : State} {w seq : Nat} (h : s.Inv) : State.Inv (State.finishOp s w seq) := by
  unfold State.finishOp
  exact State.finish_inv h

theorem State.deferFault_inv {s : State} {w order clause index : Nat} {t : Trouble} (h : s.Inv) : State.Inv
    (State.deferFault s w order clause index t) := by
  unfold State.deferFault
  exact State.onWarp_inv h

theorem State.deferOp_inv {s : State} {w : Nat} {o : Op} {t : Trouble} (h : s.Inv) : State.Inv (State.deferOp s w
    o t) := by
  unfold State.deferOp
  exact State.deferFault_inv h

theorem State.atomicHome_keeps {s : State} {dispatch world pa : Nat} {i : Instr} {ty : Ty} {n x b : Nat} (h :
    s.Inv) : PairKeeps (State.atomicHome s dispatch world pa i ty n x b) := by
  unfold State.atomicHome
  extract_lets s1
  have h2 : s1.Inv := State.checkMac_inv h
  split
  exact pair_ite (pair_mk h2) (pair_mk (State.applyWrite_inv h2))

theorem State.precise_inv {s : State} {q : Nat} {c : Clause} {t : Trouble} (h : s.Inv) : State.Inv (State.precise
    s q c t) := by
  unfold State.precise
  extract_lets s1
  have h2 : s1.Inv := State.onWarp_inv h
  exact State.onClause_inv h2

theorem State.advance_inv {s : State} {q : Nat} (h : s.Inv) : State.Inv (State.advance s q) := by
  unfold State.advance
  exact State.onClause_inv h

theorem State.wrote_inv {s : State} {q : Nat} {c : Clause} {x3 : Warp} (h : s.Inv) : State.Inv (State.wrote s q c
    x3) := by
  unfold State.wrote
  exact State.advance_inv (State.onWarp_inv h)

theorem issue_keeps {p : Spec} {body : Ctx → State → Out} {s : State} (h : s.Inv) (hb : ∀ x, OutKeeps (body x s)) :
    Keeps (issue p body s) := by
  unfold issue
  split
  · exact h
  · split
    · exact State.precise_inv h
    · refine keeps_ite (State.advance_inv h) ?_
      split
      · rename_i e
        exact State.advance_inv (out_eq e (hb _))
      · exact State.precise_inv h
      · exact State.onClause_inv (inv_ite h (State.progress_inv h))

theorem State.endWith_inv {s : State} {q : Nat} {e : Ending} (h : s.Inv) : State.Inv (State.endWith s q e) := by
  unfold State.endWith
  exact State.onClause_inv h

theorem alu_keeps {p : Spec} {f : Ctx → Warp} {s : State} (h : s.Inv) : Keeps (alu p f s) := by
  unfold alu
  exact issue_keeps h fun x1 => out_done (State.onWarp_inv h)

theorem State.pushOp_inv {s : State} {w : Nat} {o : Op} (h : s.Inv) : State.Inv (State.pushOp s w o) := by
  unfold State.pushOp
  exact State.progress_inv (State.onWarp_inv h)

theorem State.dropLine_inv {s : State} {core pa : Nat} (h : s.Inv) : State.Inv (State.dropLine s core pa) := by
  unfold State.dropLine
  exact State.onCore_same h

theorem State.dropLevel1_inv {s : State} {core : Nat} (h : s.Inv) : State.Inv (State.dropLevel1 s core) := by
  unfold State.dropLevel1
  exact State.onCore_same h

theorem State.onSitePaths_inv {s : State} {site : Nat} {f : PathWrite → PathWrite} (h : s.Inv) : State.Inv
    (State.onSitePaths s site f) := by
  unfold State.onSitePaths
  extract_lets s1
  exact inv_paths h rfl rfl

theorem State.markRelease_inv {s : State} {w seq : Nat} {scope : Scope} (h : s.Inv) : State.Inv (State.markRelease
    s w seq scope) := by
  unfold State.markRelease
  exact inv_ite (State.onSitePaths_inv h) h

theorem State.orderAfter_inv {s : State} {w : Nat} (h : s.Inv) : State.Inv (State.orderAfter s w) := by
  unfold State.orderAfter
  exact State.onSitePaths_inv h

theorem State.acquire_inv {s : State} {w : Nat} {scope : Scope} (h : s.Inv) : State.Inv (State.acquire s w scope)
    := by
  unfold State.acquire
  exact inv_ite (State.orderAfter_inv (State.dropLevel1_inv h)) h

theorem State.retire_inv {s : State} {w seq : Nat} (h : s.Inv) : State.Inv (State.retire s w seq) := by
  unfold State.retire
  split
  · exact inv_ite (State.finishOp_inv h) h
  · exact h

theorem State.makeFence_inv {s : State} {w : Nat} {o : Op} (h : s.Inv) : State.Inv (State.makeFence s w o) := by
  unfold State.makeFence
  extract_lets s1
  have h2 : s1.Inv := by
    unfold s1
    split
    · exact State.markRelease_inv h
    · exact State.markRelease_inv h
    · exact h
  split
  · exact State.acquire_inv h2
  · exact State.acquire_inv h2
  · exact h2

theorem State.narrowFences_inv {s : State} {w n : Nat} (h : s.Inv) : (s.narrowFences w n).Inv := by
  induction n generalizing s with
  | zero => exact h
  | succ n ih =>
    unfold State.narrowFences
    split
    · exact h
    · exact inv_ite (ih (State.onWarp_inv (State.makeFence_inv h))) h

theorem State.budExit_inv {s : State} {w l seq clause index : Nat} (h : s.Inv) : State.Inv (State.budExit s w l
    seq clause index) := by
  unfold State.budExit
  extract_lets s1
  split
  · exact h
  · exact State.onCambium_inv h

theorem State.endByFault_inv {s : State} {w clause : Nat} (h : s.Inv) : State.Inv (State.endByFault s w clause) :=
    by
  unfold State.endByFault
  extract_lets s1 s2
  have h3 : s1.Inv := State.onDispatch_inv h
  have h7 : s2.Inv := inv_foldl h3 fun s4 e5 h6 => State.budExit_inv h6
  exact State.onWarp_inv h7

theorem State.takeTrap_inv {s : State} {w : Nat} (h : s.Inv) : State.Inv (State.takeTrap s w) := by
  unfold State.takeTrap
  extract_lets s1 s2 s3
  split
  · exact State.onWarp_inv h
  · extract_lets s4 s5 s6
    have h7 : s4.Inv := State.ring_inv h
    have h8 : s5.Inv := State.onWarp_inv h
    exact inv_ite (State.endByFault_inv h7) (inv_ite (State.endByFault_inv h8) (State.onWarp_inv h8))

/-! ### Control.lean -/

theorem execNop_keeps {g : Guard} {s : State} (h : s.Inv) : Keeps (execNop g s) := by
  unfold execNop
  exact issue_keeps h fun x1 => out_done h

theorem branchTo_keeps {p : Spec} {target : Ctx → Nat → Nat} {link : Option Opnd} {s : State} (h : s.Inv) : Keeps
    (branchTo p target link s) := by
  unfold branchTo
  refine issue_keeps h fun x1 => ?_
  extract_lets s2
  have h3 : s2.Inv := by
    unfold s2
    split
    · exact State.onWarp_inv h
    · exact h
  split
  · exact out_fault
  · exact out_done (State.onClause_inv h3)

theorem execBra_keeps {g : Guard} {disp : Word} {s : State} (h : s.Inv) : Keeps (execBra g disp s) := by
  unfold execBra
  exact branchTo_keeps h

theorem execBrx_keeps {g : Guard} {a : Opnd} {disp : Word} {s : State} (h : s.Inv) : Keeps (execBrx g a disp s) :=
    by
  unfold execBrx
  exact branchTo_keeps h

theorem execCall_keeps {g : Guard} {d : Opnd} {disp : Word} {s : State} (h : s.Inv) : Keeps (execCall g d disp s)
    := by
  unfold execCall
  exact branchTo_keeps h

theorem execCallx_keeps {g : Guard} {d a : Opnd} {disp : Word} {s : State} (h : s.Inv) : Keeps (execCallx g d a
    disp s) := by
  unfold execCallx
  exact branchTo_keeps h

theorem execRet_keeps {g : Guard} {a : Opnd} {s : State} (h : s.Inv) : Keeps (execRet g a s) := by
  unfold execRet
  exact branchTo_keeps h

theorem execExit_keeps {g : Guard} {s : State} (h : s.Inv) : Keeps (execExit g s) := by
  unfold execExit
  refine issue_keeps h fun x1 => ?_
  extract_lets s2
  have h3 : s2.Inv := State.onWarp_inv h
  exact out_done (inv_foldl h3 fun s4 e5 h6 => State.budExit_inv h6)

theorem execMeet_keeps {g : Guard} {form : MeetForm} {d : Opnd} {s : State} (h : s.Inv) : Keeps (execMeet g form d
    s) := by
  unfold execMeet
  extract_lets s1 s2
  refine issue_keeps h fun x3 => ?_
  split
  · exact out_fault
  · exact out_done (State.onWarp_inv h)

theorem execSign_keeps {g : Guard} {n : Fin 8} {s : State} (h : s.Inv) : Keeps (execSign g n s) := by
  unfold execSign
  refine issue_keeps h fun x1 => ?_
  extract_lets s2 s3
  have h4 : s3.Inv := State.onWarp_inv h
  exact out_done (State.onClause_inv h4)

theorem execCvset_keeps {g : Guard} {n : Fin 8} {a : Opnd} {s : State} (h : s.Inv) : Keeps (execCvset g n a s) := by
  unfold execCvset
  refine issue_keeps h fun x1 => ?_
  extract_lets s2
  have h3 : s2.Inv := State.onWarp_inv h
  exact out_done (State.onClause_inv h3)

theorem State.warpConsumes_inv {s : State} {w unit addr : Nat} (h : s.Inv) : State.Inv (State.warpConsumes s w
    unit addr) := by
  unfold State.warpConsumes
  exact State.consume_inv h

theorem State.waitConsumes_inv {s : State} {w : Nat} {x : Waiting} (h : s.Inv) : State.Inv (State.waitConsumes s w
    x) := by
  unfold State.waitConsumes
  split
  · exact State.warpConsumes_inv h
  · exact h

theorem State.readCond_keeps {s : State} {w clause index : Nat} {lanes : LaneSet} {c : WaitCond} (h : s.Inv) :
    PairKeeps (State.readCond s w clause index lanes c) := by
  unfold State.readCond
  extract_lets s1 s2 s3 s4
  refine pair_ite (pair_mk h) ?_
  split
  · rename_i e5
    have h6 := pair_eq e5 (State.coreTranslate_keeps h)
    exact pair_mk (State.deferFault_inv h6)
  · rename_i e7
    have h8 := pair_eq e7 (State.coreTranslate_keeps h)
    extract_lets s9
    have h10 : s9.Inv := State.dropLine_inv h8
    refine pair_ite (pair_mk h8) ?_
    split
    rename_i e11
    have h12 := pair_eq e11 (State.homeRead_keeps h10)
    exact pair_ite (pair_mk (State.consume_inv h12)) (pair_mk h12)

theorem State.readConds_keeps {s : State} {w clause index : Nat} {lanes : LaneSet} {l : List WaitCond} (h : s.Inv) :
    PairKeeps (s.readConds w clause index lanes l) := by
  induction l generalizing s with
  | nil => exact h
  | cons c t ih => exact pair_mk (ih (State.readCond_keeps h))

theorem State.placeConds_keeps {s : State} {w : Nat} {l : List Nat} (h : s.Inv) : PairKeeps (s.placeConds w l) := by
  induction l generalizing s with
  | nil => exact h
  | cons e t ih =>
    unfold State.placeConds
    refine pair_ite ?_ (ih h)
    have h1 := State.coreTranslate_keeps (core := coreOf w) (slot := s.ctxOfWarp w) (va := bits e 56 0) (need := .read) h
    split
    · exact pair_mk (pair_eq ‹_› h1)
    · exact ih (pair_eq ‹_› h1)

theorem execWait_keeps {g : Guard} {d a : Opnd} {i : WaitImm} {s : State} (h : s.Inv) : Keeps (execWait g d a i s)
    := by
  unfold execWait
  extract_lets s1
  refine issue_keeps h fun x2 => ?_
  extract_lets s3 s4 s5 s6
  refine out_ite out_fault (out_ite out_fault (out_ite (out_done (State.warpConsumes_inv (State.onWarp_inv h)))
      (out_ite out_fault ?_)))
  split
  · rename_i e7
    have h8 := pair_eq e7 (State.placeConds_keeps h)
    exact out_fault
  · rename_i e9
    have h10 := pair_eq e9 (State.placeConds_keeps h)
    split
    rename_i e11
    have h12 := pair_eq e11 (State.readConds_keeps h10)
    extract_lets s13 s14
    exact out_ite (out_done (State.waitConsumes_inv (State.onWarp_inv h12))) (out_done (State.endWith_inv h12))

theorem State.afterBoundary_inv {s : State} {w : Nat} (h : s.Inv) : State.Inv (State.afterBoundary s w) := by
  unfold State.afterBoundary
  extract_lets s1
  exact inv_ite (State.onWarp_inv h) (State.onWarp_inv h)

theorem State.putBar_inv {s : State} {w : Nat} {cluster : Bool} {id : Nat} {b : BarPhase} (h : s.Inv) : State.Inv
    (State.putBar s w cluster id b) := by
  unfold State.putBar
  extract_lets s1 s2
  exact inv_ite (inv_upd h rfl rfl rfl) (State.onGroup_inv h)

theorem State.leaveBar_inv {s : State} {cluster : Bool} {id n v : Nat} (h : s.Inv) : State.Inv (State.leaveBar s
    cluster id n v) := by
  unfold State.leaveBar
  extract_lets s1 s2
  have h3 : s1.Inv := State.acquire_inv h
  exact inv_ite (State.progress_inv (State.onWarp_inv h3)) h3

theorem State.checkBar_inv {s : State} {w : Nat} {cluster : Bool} {id : Nat} (h : s.Inv) : State.Inv
    (State.checkBar s w cluster id) := by
  unfold State.checkBar
  extract_lets s1 s2 s3
  have h4 : s3.Inv := State.putBar_inv h
  exact inv_ite (inv_foldl h4 fun s5 e6 h7 => State.leaveBar_inv h7) h

theorem State.checkBars_inv {s : State} {w : Nat} (h : s.Inv) : State.Inv (State.checkBars s w) := by
  unfold State.checkBars
  extract_lets s1
  have h5 : s1.Inv := by
    unfold s1
    split
    · exact inv_foldl h fun s2 e3 h4 => State.checkBar_inv h4
    · exact h
  exact inv_foldl h5 fun s6 e7 h8 => State.checkBar_inv h8

theorem State.arriveAt_inv {s : State} {w : Nat} {x : Arriving} (h : s.Inv) : State.Inv (State.arriveAt s w x) := by
  unfold State.arriveAt
  extract_lets s1 s2 s3
  have h4 : s2.Inv := State.putBar_inv (State.markRelease_inv h)
  have h5 : s3.Inv := State.onWarp_inv h4
  exact inv_ite (State.afterBoundary_inv (State.onWarp_inv h)) (State.checkBar_inv (State.progress_inv h5))

theorem State.tryArrive_inv {s : State} {w : Nat} (h : s.Inv) : State.Inv (State.tryArrive s w) := by
  unfold State.tryArrive
  split
  · exact inv_ite (State.arriveAt_inv h) h
  · exact h

theorem arriveBar_keeps {p : Spec} {cluster : Bool} {id : Fin 16} {count : Nat} {s : State} (h : s.Inv) : Keeps
    (arriveBar p cluster id count s) := by
  unfold arriveBar
  exact issue_keeps h fun x1 => out_done (State.endWith_inv h)

theorem execBar_keeps {g : Guard} {id : Fin 16} {count : Nat} {s : State} (h : s.Inv) : Keeps (execBar g id count
    s) := by
  unfold execBar
  exact arriveBar_keeps h

theorem execCbar_keeps {g : Guard} {id : Fin 16} {count : Nat} {s : State} (h : s.Inv) : Keeps (execCbar g id
    count s) := by
  unfold execCbar
  exact arriveBar_keeps h

theorem execYield_keeps {g : Guard} {s : State} (h : s.Inv) : Keeps (execYield g s) := by
  unfold execYield
  exact issue_keeps h fun x1 => out_done (State.endWith_inv h)

theorem execTrap_keeps {g : Guard} {code : Word} {s : State} (h : s.Inv) : Keeps (execTrap g code s) := by
  unfold execTrap
  refine issue_keeps h fun x1 => ?_
  extract_lets s2
  have h3 : s2.Inv := State.onWarp_inv h
  exact out_done (State.endWith_inv h3)

/-! ### Windows.lean -/

theorem State.virtRead_keeps {s : State} {die : Nat} {site : Option Nat} {slot va n : Nat} (h : s.Inv) : PairKeeps
    (State.virtRead s die site slot va n) := by
  unfold State.virtRead
  extract_lets s1
  have h2 : s1.Inv := State.keepWalk_inv h
  split
  · exact pair_mk (State.keepWalk_inv h)
  · extract_lets s3 s4
    have h5 : s3.Inv := by
      unfold s3
      split
      · exact State.flushPath_inv h2
      · exact h2
    have h6 : s4.Inv := State.checkMac_inv h5
    split
    exact pair_ite (pair_mk h6) (pair_mk h6)

theorem State.readRecord_keeps {s : State} {die : Nat} {site : Option Nat} {slot addr : Nat} (h : s.Inv) :
    PairKeeps (State.readRecord s die site slot addr) := by
  unfold State.readRecord
  split
  · exact pair_mk (State.onDie_inv h)
  · split
    · rename_i e1
      have h2 := pair_eq e1 (State.virtRead_keeps h)
      exact pair_mk h2
    · rename_i e3
      have h4 := pair_eq e3 (State.virtRead_keeps h)
      extract_lets s5
      exact pair_mk (State.onDie_inv h4)

theorem State.onWindow_inv {s : State} {g id : Nat} {f : Window → Window} (h : s.Inv) : State.Inv (State.onWindow
    s g id f) := by
  unfold State.onWindow
  exact State.onGroup_inv h

theorem State.rearm_inv {s : State} {g id : Nat} {w : Window} (h : s.Inv) : State.Inv (State.rearm s g id w) := by
  unfold State.rearm
  extract_lets s1 s2 s3 s4
  refine inv_ite ?_ h
  split
  · exact State.onWindow_inv h
  · split
    · rename_i e5
      have h6 := pair_eq e5 (State.readRecord_keeps h)
      exact State.onWindow_inv h6
    · rename_i e7
      have h8 := pair_eq e7 (State.readRecord_keeps h)
      extract_lets s9
      exact State.onWindow_inv h8
  · exact h

theorem State.clearGranules_inv {s : State} {core : Nat} {granules : List Nat} (h : s.Inv) : State.Inv
    (State.clearGranules s core granules) := by
  unfold State.clearGranules
  extract_lets s1
  have h5 : s1.Inv := by
    refine inv_foldl h fun s2 e3 h4 => ?_
    split
    · exact inv_ite h4 (State.setEmpty_inv h4)
    · exact h4
  split
  · exact h5
  · split
    · exact h5
    · refine inv_foldl h5 fun s6 e7 h8 => ?_
      split
      exact inv_ite (State.rearm_inv h8) h8

theorem State.startTransfer_keeps {s : State} {t : Transfer} (h : s.Inv) : PairKeeps (State.startTransfer s t) := by
  unfold State.startTransfer
  extract_lets s1 s2 s3
  have h4 : s3.Inv := inv_upd h rfl rfl rfl
  exact pair_mk (State.toBarrier_inv h4)

theorem State.granuleBytes_keeps {s : State} {die : Nat} {site : Option Nat} {t : Transfer} {n : Nat} (h : s.Inv)
    : PairKeeps (State.granuleBytes s die site t n) := by
  unfold State.granuleBytes
  extract_lets s1 s2
  refine pair_foldl (pair_mk h) fun s3 e4 h5 => ?_
  extract_lets s6
  split
  · exact pair_mk h5
  · split
    · rename_i e13
      have h14 := pair_eq e13 <| by
        unfold s2
        split
        · exact pair_mk h5
        · split
          · rename_i e7
            have h8 := pair_eq e7 (State.virtRead_keeps h5)
            exact pair_mk h8
          · rename_i e9
            have h10 := pair_eq e9 (State.virtRead_keeps h5)
            exact pair_mk h10
          · rename_i e11
            have h12 := pair_eq e11 (State.virtRead_keeps h5)
            exact pair_mk h12
      exact pair_mk h14
    · rename_i e15
      have h16 := pair_eq e15 <| by
        unfold s2
        split
        · exact pair_mk h5
        · split
          · rename_i e7
            have h8 := pair_eq e7 (State.virtRead_keeps h5)
            exact pair_mk h8
          · rename_i e9
            have h10 := pair_eq e9 (State.virtRead_keeps h5)
            exact pair_mk h10
          · rename_i e11
            have h12 := pair_eq e11 (State.virtRead_keeps h5)
            exact pair_mk h12
      split
      · rename_i e23
        have h24 := pair_eq e23 <| by
          unfold s2
          split
          · exact pair_mk h16
          · split
            · rename_i e17
              have h18 := pair_eq e17 (State.virtRead_keeps h16)
              exact pair_mk h18
            · rename_i e19
              have h20 := pair_eq e19 (State.virtRead_keeps h16)
              exact pair_mk h20
            · rename_i e21
              have h22 := pair_eq e21 (State.virtRead_keeps h16)
              exact pair_mk h22
        exact pair_mk h24
      · rename_i e25
        have h26 := pair_eq e25 <| by
          unfold s2
          split
          · exact pair_mk h16
          · split
            · rename_i e17
              have h18 := pair_eq e17 (State.virtRead_keeps h16)
              exact pair_mk h18
            · rename_i e19
              have h20 := pair_eq e19 (State.virtRead_keeps h16)
              exact pair_mk h20
            · rename_i e21
              have h22 := pair_eq e21 (State.virtRead_keeps h16)
              exact pair_mk h22
        exact pair_mk h26

theorem State.landGranule_inv {s : State} {t : Transfer} {n : Nat} {bytes : List Byte} {bad : Bool} (h : s.Inv) :
    State.Inv (State.landGranule s t n bytes bad) := by
  unfold State.landGranule
  extract_lets s1 s2
  have h3 : s1.Inv := State.coreWrite_inv h
  have h4 : s2.Inv := inv_ite (State.setPoison_inv h3) h3
  split
  · exact State.arrive_inv h4
  · exact h4

theorem State.closeWindow_inv {s : State} {id : Nat} {t : Transfer} (h : s.Inv) : State.Inv (State.closeWindow s
    id t) := by
  unfold State.closeWindow
  split
  · exact h
  · exact State.onWindow_inv h

theorem State.beginCopy_inv {s : State} {n : Nat} (h : s.Inv) : State.Inv (State.beginCopy s n) := by
  unfold State.beginCopy
  split
  · exact h
  · split
    · exact h
    · extract_lets s1
      refine inv_ite (State.onTransfer_inv h) ?_
      split
      · rename_i e2
        have h3 := pair_eq e2 (State.readRecord_keeps h)
        exact State.onTransfer_inv h3
      · rename_i e4
        have h5 := pair_eq e4 (State.readRecord_keeps h)
        exact State.onTransfer_inv h5
      · rename_i e6
        have h7 := pair_eq e6 (State.readRecord_keeps h)
        extract_lets s8 s9
        have h10 : s9.Inv := State.onTransfer_inv h7
        exact inv_ite (State.toBarrier_inv h10) h10

theorem State.beginHeldCopies_inv {s : State} {w : Nat} (h : s.Inv) : State.Inv (State.beginHeldCopies s w) := by
  unfold State.beginHeldCopies
  refine inv_foldl h fun s1 e2 h3 => ?_
  split
  split
  · exact inv_ite (State.beginCopy_inv h3) h3
  · exact h3

theorem State.unclaim_inv {s : State} {g id : Nat} (h : s.Inv) : State.Inv (State.unclaim s g id) := by
  unfold State.unclaim
  extract_lets s1
  exact inv_upd h rfl rfl rfl

theorem State.startCopy_inv {s : State} {w : Nat} {o : Op} {id : Nat} {x : Window} (h : s.Inv) : State.Inv
    (State.startCopy s w o id x) := by
  unfold State.startCopy
  extract_lets s1 s2 s3 s4 s5 s6 s7 s8 s9
  have h10 : s5.Inv := State.unclaim_inv h
  have h11 : s7.Inv := inv_upd h10 rfl rfl rfl
  have h12 : s8.Inv := State.pushOp_inv h11
  have h13 : s9.Inv := State.onWindow_inv h12
  exact inv_ite h13 (State.beginCopy_inv h13)

/-! ### LoadStore.lean -/

theorem memory_keeps {p : Spec} {m : MForm} {f : Form} {data : Ctx → Nat → List Byte} {cmp : Ctx → Nat → Nat}
    {after : Ctx → State → State} {s : State} (h : s.Inv) (ha : ∀ x s, s.Inv → (after x s).Inv) :
    Keeps (memory p m f data cmp after s) := by
  unfold memory
  refine issue_keeps h fun x => ?_
  split
  · trivial
  · refine out_ite trivial ?_
    extract_lets acc
    split
    · exact ha _ _ (State.pushOp_inv h)
    · split
      · trivial
      · exact ha _ _ (State.pushOp_inv h)

theorem noMore_inv {x1 : Ctx} {s : State} (h : s.Inv) : State.Inv (noMore x1 s) := by
  unfold noMore
  exact h

theorem execLd_keeps {m : MForm} {fresh : Bool} {s : State} (h : s.Inv) : Keeps (execLd m fresh s) := by
  unfold execLd
  extract_lets s1
  exact memory_keeps h fun e2 s3 h4 => noMore_inv h4

theorem execSt_keeps {m : MForm} {s : State} (h : s.Inv) : Keeps (execSt m s) := by
  unfold execSt
  extract_lets s1
  exact memory_keeps h fun e2 s3 h4 => noMore_inv h4

theorem execLdb_keeps {m : MForm} {fresh : Bool} {s : State} (h : s.Inv) : Keeps (execLdb m fresh s) := by
  unfold execLdb
  extract_lets s1
  exact memory_keeps h fun e2 s3 h4 => noMore_inv h4

theorem execStb_keeps {m : MForm} {s : State} (h : s.Inv) : Keeps (execStb m s) := by
  unfold execStb
  extract_lets s1
  exact memory_keeps h fun e2 s3 h4 => noMore_inv h4

theorem execLdw_keeps {m : MForm} {clr : Bool} {s : State} (h : s.Inv) : Keeps (execLdw m clr s) := by
  unfold execLdw
  extract_lets s1 s2
  refine issue_keeps h fun x3 => ?_
  extract_lets s4 s5 s6 s7 s8
  have h9 : s7.Inv := State.pushOp_inv h
  have h10 : s8.Inv := State.onCore_same h9
  split
  · exact out_fault
  · refine out_ite out_stall (out_done (inv_foldl h10 fun s11 e12 h13 => ?_))
    split
    exact State.startCopy_inv h13

theorem State.drainEmpty_inv {s : State} {w n : Nat} (h : s.Inv) : (s.drainEmpty w n).Inv := by
  induction n generalizing s with
  | zero => exact h
  | succ n ih =>
    unfold State.drainEmpty
    split
    · exact h
    · exact inv_ite h (ih (State.clearGranules_inv (State.onWarp_inv h)))

theorem State.reissueSome_inv {s : State} {w x1 : Nat} (h : s.Inv) : State.Inv (State.reissueSome s w x1) := by
  unfold State.reissueSome
  extract_lets s1
  split
  · exact h
  · split
    · extract_lets s2 s3 s4 s5
      have h6 : s4.Inv := State.pushOp_inv (State.onWarp_inv h)
      have h7 : s5.Inv := State.onCore_same h6
      refine inv_ite h (State.reissueSome_inv (inv_foldl h7 fun s8 e9 h10 => ?_))
      split
      exact State.startCopy_inv h10
    · exact h

theorem State.reissue_inv {s : State} {w : Nat} (h : s.Inv) : State.Inv (State.reissue s w) := by
  unfold State.reissue
  exact State.reissueSome_inv h

theorem State.wake_inv {s : State} {w : Nat} (h : s.Inv) : State.Inv (State.wake s w) := by
  unfold State.wake
  extract_lets s1 s2 s3 s4 s5
  have h6 : s1.Inv := State.narrowFences_inv h
  have h7 : s2.Inv := State.beginHeldCopies_inv (State.drainEmpty_inv h6)
  have h8 : s3.Inv := inv_ite (State.reissue_inv h7) h7
  have h9 : s5.Inv := State.onWarp_inv h8
  exact State.checkBars_inv (State.tryArrive_inv h9)

theorem execSetempty_keeps {m : MForm} {s : State} (h : s.Inv) : Keeps (execSetempty m s) := by
  unfold execSetempty
  extract_lets s1
  refine issue_keeps h fun x2 => ?_
  extract_lets s3 s4 s5
  have h6 : s5.Inv := State.pushOp_inv h
  split
  · exact out_fault
  · exact out_done (State.drainEmpty_inv h6)

/-! ### Sync.lean -/

theorem lockOp_keeps {kind : OpKind} {m : MForm} {s : State} (h : s.Inv) : Keeps (lockOp kind m s) := by
  unfold lockOp
  refine issue_keeps h fun x1 => ?_
  extract_lets s2
  split
  · exact out_fault
  · exact out_ite out_stall (out_done (State.pushOp_inv h))

theorem execLock_keeps {m : MForm} {s : State} (h : s.Inv) : Keeps (execLock m s) := by
  unfold execLock
  exact lockOp_keeps h

theorem execUnlock_keeps {m : MForm} {s : State} (h : s.Inv) : Keeps (execUnlock m s) := by
  unfold execUnlock
  exact lockOp_keeps h

theorem execFence_keeps {m : MForm} {s : State} (h : s.Inv) : Keeps (execFence m s) := by
  unfold execFence
  extract_lets s1
  refine issue_keeps h fun x2 => ?_
  extract_lets s3 s4 s5
  have h6 : s5.Inv := State.pushOp_inv h
  exact out_ite out_stall (out_done (State.narrowFences_inv h6))

/-! ### EngineInstr.lean -/

theorem engineOp_keeps {p : Spec} {cls : Option Nat} {kind : OpKind} {scope : Scope}
    {checks : Ctx → List (Nat × Nat × Bool)} {send : Ctx → State → State} {s : State} (h : s.Inv)
    (hs : ∀ x s, s.Inv → (send x s).Inv) : Keeps (engineOp p cls kind scope checks send s) := by
  unfold engineOp
  refine issue_keeps h fun x => ?_
  split
  · trivial
  · exact out_ite trivial (hs _ _ (State.pushOp_inv h))

theorem execRsub_keeps {g : Guard} {scope : Scope} {d a b c : Opnd} {s : State} (h : s.Inv) : Keeps (execRsub g
    scope d a b c s) := by
  unfold execRsub
  exact engineOp_keeps h fun e1 s2 h3 => State.onRoot_inv h3

theorem execAbortRoot_keeps {g : Guard} {scope : Scope} {a : Opnd} {s : State} (h : s.Inv) : Keeps (execAbortRoot
    g scope a s) := by
  unfold execAbortRoot
  exact engineOp_keeps h fun e1 s2 h3 => State.onRoot_inv h3

theorem State.toCanopy_inv {s : State} {x : Ctx} {scope : Scope} {engine : Nat} {msg : CanopyMsg} (h : s.Inv) :
    State.Inv (State.toCanopy s x scope engine msg) := by
  unfold State.toCanopy
  exact State.onCanopy_inv h

theorem execCpost_keeps {g : Guard} {scope : Scope} {a b : Opnd} {s : State} (h : s.Inv) : Keeps (execCpost g
    scope a b s) := by
  unfold execCpost
  exact engineOp_keeps h fun e1 s2 h3 => State.toCanopy_inv h3

theorem execCtok_keeps {g : Guard} {scope : Scope} {a b : Opnd} {s : State} (h : s.Inv) : Keeps (execCtok g scope
    a b s) := by
  unfold execCtok
  exact engineOp_keeps h fun e1 s2 h3 => State.toCanopy_inv h3

theorem execAbort_keeps {g : Guard} {scope : Scope} {a b : Opnd} {s : State} (h : s.Inv) : Keeps (execAbort g
    scope a b s) := by
  unfold execAbort
  exact engineOp_keeps h fun e1 s2 h3 => State.toCanopy_inv h3

theorem execMcst_keeps {m : MForm} {blk : Bool} {b : Opnd} {s : State} (h : s.Inv) : Keeps (execMcst m blk b s) :=
    by
  unfold execMcst
  extract_lets s1 s2
  refine issue_keeps h fun x3 => ?_
  extract_lets s4 s5 s6
  split
  · exact out_fault
  · extract_lets s7
    split
    · exact out_fault
    · exact out_ite out_stall (out_done (State.pushOp_inv h))

theorem State.addFence_inv {s : State} {f : RecordFence} (h : s.Inv) : State.Inv (State.addFence s f) := by
  unfold State.addFence
  extract_lets s1
  exact inv_upd h rfl rfl rfl

theorem execRfence_keeps {g : Guard} {scope : Scope} {a : Opnd} {s : State} (h : s.Inv) : Keeps (execRfence g
    scope a s) := by
  unfold execRfence
  refine issue_keeps h fun x1 => ?_
  extract_lets s2 s3
  have h4 : s3.Inv := State.onWarp_inv h
  split
  · exact out_fault
  · exact out_done (State.addFence_inv h4)

theorem State.toCambium_inv {s : State} {x : Ctx} {scope : Scope} {site : Nat} {msg : CamMsg} (h : s.Inv) :
    State.Inv (State.toCambium s x scope site msg) := by
  unfold State.toCambium
  exact State.onCambium_inv h

theorem execCdecl_keeps {g : Guard} {scope : Scope} {a b : Opnd} {s : State} (h : s.Inv) : Keeps (execCdecl g
    scope a b s) := by
  unfold execCdecl
  refine engineOp_keeps h fun e1 s2 h3 => ?_
  extract_lets s4 s5 s6 s7
  have h8 : s5.Inv := State.onDispatch_inv h3
  have h9 : s7.Inv := State.onWarp_inv h8
  exact inv_foldl h9 fun s10 e11 h12 => State.toCambium_inv h12

theorem execSweep_keeps {g : Guard} {scope : Scope} {d a b c : Opnd} {s : State} (h : s.Inv) : Keeps (execSweep g
    scope d a b c s) := by
  unfold execSweep
  exact engineOp_keeps h fun e1 s2 h3 => State.toCambium_inv h3

theorem execByield_keeps {g : Guard} {scope : Scope} {retire : Bool} {a b c : Opnd} {s : State} (h : s.Inv) :
    Keeps (execByield g scope retire a b c s) := by
  unfold execByield
  refine issue_keeps h fun x1 => ?_
  extract_lets s2 s3
  have h4 : s3.Inv := State.onWarp_inv h
  split
  · exact out_fault
  · refine out_done (inv_foldl h4 fun s5 e6 h7 => ?_)
    split
    · exact h7
    · exact State.onCambium_inv h7

theorem wakeOp_keeps {g : Guard} {scope : Scope} {next : Bool} {a b : Opnd} {s : State} (h : s.Inv) : Keeps
    (wakeOp g scope next a b s) := by
  unfold wakeOp
  refine issue_keeps h fun x1 => ?_
  extract_lets s2 s3
  have h4 : s3.Inv := State.pushOp_inv h
  split
  · exact out_fault
  · exact out_ite out_stall (out_done (inv_foldl h4 fun s5 e6 h7 => State.toCambium_inv h7))

theorem execBwakeNow_keeps {g : Guard} {scope : Scope} {a b : Opnd} {s : State} (h : s.Inv) : Keeps (execBwakeNow
    g scope a b s) := by
  unfold execBwakeNow
  exact wakeOp_keeps h

theorem execBwakeNext_keeps {g : Guard} {scope : Scope} {a b : Opnd} {s : State} (h : s.Inv) : Keeps
    (execBwakeNext g scope a b s) := by
  unfold execBwakeNext
  exact wakeOp_keeps h

theorem execBstate_keeps {g : Guard} {d a b : Opnd} {s : State} (h : s.Inv) : Keeps (execBstate g d a b s) := by
  unfold execBstate
  refine issue_keeps h fun x1 => ?_
  extract_lets s2 s3
  split
  · exact out_fault
  · exact out_ite out_stall (out_done (State.pushOp_inv h))

/-! ### Integer.lean -/

theorem unary_keeps {x : R1} {wd wa : Bool} {f : Nat → Nat} {s : State} (h : s.Inv) : Keeps (unary x wd wa f s) :=
    by
  unfold unary
  exact alu_keeps h

theorem binary_keeps {x : R2} {wd wa wb : Bool} {f : Nat → Nat → Nat} {s : State} (h : s.Inv) : Keeps (binary x wd
    wa wb f s) := by
  unfold binary
  exact alu_keeps h

theorem ternary_keeps {x : R3} {wd wa wb wc : Bool} {f : Nat → Nat → Nat → Nat} {s : State} (h : s.Inv) : Keeps
    (ternary x wd wa wb wc f s) := by
  unfold ternary
  exact alu_keeps h

theorem arith_keeps {x : R2} {sat : Bool} {f : Int → Int → Int} {s : State} (h : s.Inv) : Keeps (arith x sat f s) := by
  unfold arith
  exact binary_keeps h

theorem execIadd_keeps {x : R2} {sat : Bool} {s : State} (h : s.Inv) : Keeps (execIadd x sat s) := by
  unfold execIadd
  exact arith_keeps h

theorem execIsub_keeps {x : R2} {sat : Bool} {s : State} (h : s.Inv) : Keeps (execIsub x sat s) := by
  unfold execIsub
  exact arith_keeps h

theorem execImul_keeps {x : R2} {s : State} (h : s.Inv) : Keeps (execImul x s) := by
  unfold execImul
  exact arith_keeps h

theorem execImulhi_keeps {x : R2} {s : State} (h : s.Inv) : Keeps (execImulhi x s) := by
  unfold execImulhi
  exact binary_keeps h

theorem execImad_keeps {x : R3} {s : State} (h : s.Inv) : Keeps (execImad x s) := by
  unfold execImad
  exact ternary_keeps h

theorem execImadw_keeps {x : R3} {s : State} (h : s.Inv) : Keeps (execImadw x s) := by
  unfold execImadw
  exact ternary_keeps h

theorem execIadd64_keeps {x : R2} {sat : Bool} {s : State} (h : s.Inv) : Keeps (execIadd64 x sat s) := by
  unfold execIadd64
  exact arith_keeps h

theorem execIsub64_keeps {x : R2} {sat : Bool} {s : State} (h : s.Inv) : Keeps (execIsub64 x sat s) := by
  unfold execIsub64
  exact arith_keeps h

theorem execImul64_keeps {x : R2} {s : State} (h : s.Inv) : Keeps (execImul64 x s) := by
  unfold execImul64
  exact arith_keeps h

theorem execImad64_keeps {x : R3} {s : State} (h : s.Inv) : Keeps (execImad64 x s) := by
  unfold execImad64
  exact ternary_keeps h

theorem execImin_keeps {x : R2} {s : State} (h : s.Inv) : Keeps (execImin x s) := by
  unfold execImin
  exact arith_keeps h

theorem execImax_keeps {x : R2} {s : State} (h : s.Inv) : Keeps (execImax x s) := by
  unfold execImax
  exact arith_keeps h

theorem execIabs_keeps {x : R1} {sat : Bool} {s : State} (h : s.Inv) : Keeps (execIabs x sat s) := by
  unfold execIabs
  exact unary_keeps h

theorem execIaddi_keeps {x : R1} {imm : Word} {s : State} (h : s.Inv) : Keeps (execIaddi x imm s) := by
  unfold execIaddi
  exact unary_keeps h

theorem execImuli_keeps {x : R1} {imm : Word} {s : State} (h : s.Inv) : Keeps (execImuli x imm s) := by
  unfold execImuli
  exact unary_keeps h

theorem execShl_keeps {x : R2} {s : State} (h : s.Inv) : Keeps (execShl x s) := by
  unfold execShl
  exact binary_keeps h

theorem execShr_keeps {x : R2} {s : State} (h : s.Inv) : Keeps (execShr x s) := by
  unfold execShr
  exact binary_keeps h

theorem execSar_keeps {x : R2} {s : State} (h : s.Inv) : Keeps (execSar x s) := by
  unfold execSar
  exact binary_keeps h

theorem execWext_keeps {x : R3} {mode : WMode} {s : State} (h : s.Inv) : Keeps (execWext x mode s) := by
  unfold execWext
  exact ternary_keeps h

theorem execBfe_keeps {x : R2} {s : State} (h : s.Inv) : Keeps (execBfe x s) := by
  unfold execBfe
  exact binary_keeps h

theorem execBfi_keeps {x : R3} {s : State} (h : s.Inv) : Keeps (execBfi x s) := by
  unfold execBfi
  exact ternary_keeps h

theorem execPopc_keeps {x : R1} {s : State} (h : s.Inv) : Keeps (execPopc x s) := by
  unfold execPopc
  exact unary_keeps h

theorem execClz_keeps {x : R1} {s : State} (h : s.Inv) : Keeps (execClz x s) := by
  unfold execClz
  exact unary_keeps h

theorem execBrev_keeps {x : R1} {s : State} (h : s.Inv) : Keeps (execBrev x s) := by
  unfold execBrev
  exact unary_keeps h

theorem execMix3_keeps {x : R3} {t : BitVec 8} {s : State} (h : s.Inv) : Keeps (execMix3 x t s) := by
  unfold execMix3
  exact ternary_keeps h

theorem execMixi_keeps {g : Guard} {t : BitVec 4} {d a : Opnd} {imm : Word} {s : State} (h : s.Inv) : Keeps
    (execMixi g t d a imm s) := by
  unfold execMixi
  exact unary_keeps h

theorem execPmix3_keeps {g : Guard} {pd pa pb pc : Fin 8} {t : BitVec 8} {s : State} (h : s.Inv) : Keeps
    (execPmix3 g pd pa pb pc t s) := by
  unfold execPmix3
  exact alu_keeps h

theorem execIcmp_keeps {g : Guard} {ty : Ty} {pd : Fin 8} {cc : ICond} {a b : Opnd} {s : State} (h : s.Inv) :
    Keeps (execIcmp g ty pd cc a b s) := by
  unfold execIcmp
  exact alu_keeps h

theorem execIcmpi_keeps {g : Guard} {ty : Ty} {pd : Fin 8} {cc : ICond} {a : Opnd} {imm : Word} {s : State} (h :
    s.Inv) : Keeps (execIcmpi g ty pd cc a imm s) := by
  unfold execIcmpi
  exact alu_keeps h

theorem execSel_keeps {x : R2} {pc : Fin 8} {s : State} (h : s.Inv) : Keeps (execSel x pc s) := by
  unfold execSel
  exact alu_keeps h

theorem execMov_keeps {x : R1} {s : State} (h : s.Inv) : Keeps (execMov x s) := by
  unfold execMov
  exact unary_keeps h

theorem execMovi_keeps {g : Guard} {ty : Ty} {d : Opnd} {imm : Word} {s : State} (h : s.Inv) : Keeps (execMovi g
    ty d imm s) := by
  unfold execMovi
  exact alu_keeps h

theorem execPget_keeps {g : Guard} {d : Opnd} {s : State} (h : s.Inv) : Keeps (execPget g d s) := by
  unfold execPget
  exact alu_keeps h

theorem execPset_keeps {g : Guard} {mask : BitVec 7} {a : Opnd} {s : State} (h : s.Inv) : Keeps (execPset g mask a
    s) := by
  unfold execPset
  exact alu_keeps h

/-! ### Lanes.lean -/

theorem packedArith_keeps {x : R2} {sat : Bool} {f : Int → Int → Int} {s : State} (h : s.Inv) : Keeps (packedArith x sat
    f s) := by
  unfold packedArith
  exact binary_keeps h

theorem execIaddp_keeps {x : R2} {sat : Bool} {s : State} (h : s.Inv) : Keeps (execIaddp x sat s) := by
  unfold execIaddp
  exact packedArith_keeps h

theorem execIsubp_keeps {x : R2} {sat : Bool} {s : State} (h : s.Inv) : Keeps (execIsubp x sat s) := by
  unfold execIsubp
  exact packedArith_keeps h

theorem execIminp_keeps {x : R2} {s : State} (h : s.Inv) : Keeps (execIminp x s) := by
  unfold execIminp
  exact packedArith_keeps h

theorem execImaxp_keeps {x : R2} {s : State} (h : s.Inv) : Keeps (execImaxp x s) := by
  unfold execImaxp
  exact packedArith_keeps h

theorem execIabsp_keeps {x : R1} {sat : Bool} {s : State} (h : s.Inv) : Keeps (execIabsp x sat s) := by
  unfold execIabsp
  exact unary_keeps h

theorem execIdp4_keeps {x : R3} {sat : Bool} {s : State} (h : s.Inv) : Keeps (execIdp4 x sat s) := by
  unfold execIdp4
  exact ternary_keeps h

theorem execXlane_keeps {x : R3} {mode : XMode} {s : State} (h : s.Inv) : Keeps (execXlane x mode s) := by
  unfold execXlane
  exact alu_keeps h

theorem execLpoll_keeps {g : Guard} {form : PollForm} {q : Fin 8} {s : State} (h : s.Inv) : Keeps (execLpoll g
    form q s) := by
  unfold execLpoll
  extract_lets s1 s2
  exact alu_keeps h

theorem execWred_keeps {x : R1} {op : RedOp} {s : State} (h : s.Inv) : Keeps (execWred x op s) := by
  unfold execWred
  exact alu_keeps h

/-! ### FloatArith.lean -/

theorem flUnary_keeps {x : R1} {wd wa : Bool} {f : Nat → Nat × Flags} {s : State} (h : s.Inv) : Keeps (flUnary x
    wd wa f s) := by
  unfold flUnary
  exact alu_keeps h

theorem flBinary_keeps {x : R2} {wide : Bool} {f : Nat → Nat → Nat × Flags} {s : State} (h : s.Inv) : Keeps
    (flBinary x wide f s) := by
  unfold flBinary
  exact alu_keeps h

theorem flTernary_keeps {x : R3} {wide : Bool} {f : Nat → Nat → Nat → Nat × Flags} {s : State} (h : s.Inv) : Keeps
    (flTernary x wide f s) := by
  unfold flTernary
  exact alu_keeps h

theorem execFadd_keeps {x : R2} {m : FMod} {s : State} (h : s.Inv) : Keeps (execFadd x m s) := by
  unfold execFadd
  exact flBinary_keeps h

theorem execFmul_keeps {x : R2} {m : FMod} {s : State} (h : s.Inv) : Keeps (execFmul x m s) := by
  unfold execFmul
  exact flBinary_keeps h

theorem execFfma_keeps {x : R3} {m : FMod} {s : State} (h : s.Inv) : Keeps (execFfma x m s) := by
  unfold execFfma
  exact flTernary_keeps h

theorem execDadd_keeps {x : R2} {m : FMod} {s : State} (h : s.Inv) : Keeps (execDadd x m s) := by
  unfold execDadd
  exact flBinary_keeps h

theorem execDmul_keeps {x : R2} {m : FMod} {s : State} (h : s.Inv) : Keeps (execDmul x m s) := by
  unfold execDmul
  exact flBinary_keeps h

theorem execDfma_keeps {x : R3} {m : FMod} {s : State} (h : s.Inv) : Keeps (execDfma x m s) := by
  unfold execDfma
  exact flTernary_keeps h

theorem execFaddi_keeps {x : R1} {imm : Word} {s : State} (h : s.Inv) : Keeps (execFaddi x imm s) := by
  unfold execFaddi
  exact flUnary_keeps h

theorem execFmuli_keeps {x : R1} {imm : Word} {s : State} (h : s.Inv) : Keeps (execFmuli x imm s) := by
  unfold execFmuli
  exact flUnary_keeps h

theorem execFmin_keeps {x : R2} {_rnd : Rnd} {nan : Bool} {s : State} (h : s.Inv) : Keeps (execFmin x _rnd nan s)
    := by
  unfold execFmin
  exact flBinary_keeps h

theorem execFmax_keeps {x : R2} {_rnd : Rnd} {nan : Bool} {s : State} (h : s.Inv) : Keeps (execFmax x _rnd nan s)
    := by
  unfold execFmax
  exact flBinary_keeps h

theorem execDmin_keeps {x : R2} {_rnd : Rnd} {nan : Bool} {s : State} (h : s.Inv) : Keeps (execDmin x _rnd nan s)
    := by
  unfold execDmin
  exact flBinary_keeps h

theorem execDmax_keeps {x : R2} {_rnd : Rnd} {nan : Bool} {s : State} (h : s.Inv) : Keeps (execDmax x _rnd nan s)
    := by
  unfold execDmax
  exact flBinary_keeps h

theorem flCompare_keeps {g : Guard} {wide : Bool} {f : Fmt} {pd : Fin 8} {cc : FCond} {a b : Opnd} {s : State} (h
    : s.Inv) : Keeps (flCompare g wide f pd cc a b s) := by
  unfold flCompare
  exact alu_keeps h

theorem execFcmp_keeps {g : Guard} {pd : Fin 8} {cc : FCond} {a b : Opnd} {_rnd : Rnd} {s : State} (h : s.Inv) :
    Keeps (execFcmp g pd cc a b _rnd s) := by
  unfold execFcmp
  exact flCompare_keeps h

theorem execDcmp_keeps {g : Guard} {pd : Fin 8} {cc : FCond} {a b : Opnd} {_rnd : Rnd} {s : State} (h : s.Inv) :
    Keeps (execDcmp g pd cc a b _rnd s) := by
  unfold execDcmp
  exact flCompare_keeps h

theorem execFabs_keeps {x : R1} {_rnd : Rnd} {neg : Bool} {s : State} (h : s.Inv) : Keeps (execFabs x _rnd neg s)
    := by
  unfold execFabs
  exact unary_keeps h

theorem execFclass_keeps {x : R1} {_rnd : Rnd} {e : Fin 8} {s : State} (h : s.Inv) : Keeps (execFclass x _rnd e s)
    := by
  unfold execFclass
  exact unary_keeps h

theorem execDclass_keeps {x : R1} {_rnd : Rnd} {s : State} (h : s.Inv) : Keeps (execDclass x _rnd s) := by
  unfold execDclass
  exact unary_keeps h

theorem execHadd2_keeps {x : R2} {m : FMod} {s : State} (h : s.Inv) : Keeps (execHadd2 x m s) := by
  unfold execHadd2
  exact flBinary_keeps h

theorem execHmul2_keeps {x : R2} {m : FMod} {s : State} (h : s.Inv) : Keeps (execHmul2 x m s) := by
  unfold execHmul2
  exact flBinary_keeps h

theorem execHfma2_keeps {x : R3} {m : FMod} {s : State} (h : s.Inv) : Keeps (execHfma2 x m s) := by
  unfold execHfma2
  exact flTernary_keeps h

theorem execHmin2_keeps {x : R2} {_rnd : Rnd} {nan : Bool} {s : State} (h : s.Inv) : Keeps (execHmin2 x _rnd nan
    s) := by
  unfold execHmin2
  exact flBinary_keeps h

theorem execHmax2_keeps {x : R2} {_rnd : Rnd} {nan : Bool} {s : State} (h : s.Inv) : Keeps (execHmax2 x _rnd nan
    s) := by
  unfold execHmax2
  exact flBinary_keeps h

theorem execHcmp2_keeps {x : R2} {_rnd : Rnd} {cc : FCond} {s : State} (h : s.Inv) : Keeps (execHcmp2 x _rnd cc s)
    := by
  unfold execHcmp2
  exact flBinary_keeps h

theorem execFrcp_keeps {x : R1} {rnd : Rnd} {s : State} (h : s.Inv) : Keeps (execFrcp x rnd s) := by
  unfold execFrcp
  exact flUnary_keeps h

theorem execFsqrt_keeps {x : R1} {rnd : Rnd} {s : State} (h : s.Inv) : Keeps (execFsqrt x rnd s) := by
  unfold execFsqrt
  exact flUnary_keeps h

theorem execDrcp_keeps {x : R1} {rnd : Rnd} {s : State} (h : s.Inv) : Keeps (execDrcp x rnd s) := by
  unfold execDrcp
  exact flUnary_keeps h

theorem execDsqrt_keeps {x : R1} {rnd : Rnd} {s : State} (h : s.Inv) : Keeps (execDsqrt x rnd s) := by
  unfold execDsqrt
  exact flUnary_keeps h

theorem execFrsq_keeps {x : R1} {_rnd : Rnd} {s : State} (h : s.Inv) : Keeps (execFrsq x _rnd s) := by
  unfold execFrsq
  exact flUnary_keeps h

theorem execFex2_keeps {x : R1} {_rnd : Rnd} {s : State} (h : s.Inv) : Keeps (execFex2 x _rnd s) := by
  unfold execFex2
  exact flUnary_keeps h

theorem execFlg2_keeps {x : R1} {_rnd : Rnd} {s : State} (h : s.Inv) : Keeps (execFlg2 x _rnd s) := by
  unfold execFlg2
  exact flUnary_keeps h

theorem execFsin_keeps {x : R1} {_rnd : Rnd} {s : State} (h : s.Inv) : Keeps (execFsin x _rnd s) := by
  unfold execFsin
  exact flUnary_keeps h

theorem execFcos_keeps {x : R1} {_rnd : Rnd} {s : State} (h : s.Inv) : Keeps (execFcos x _rnd s) := by
  unfold execFcos
  exact flUnary_keeps h

theorem execFtanh_keeps {x : R1} {_rnd : Rnd} {s : State} (h : s.Inv) : Keeps (execFtanh x _rnd s) := by
  unfold execFtanh
  exact flUnary_keeps h

/-! ### Convert.lean -/

theorem convert_keeps {x : R1} {m : CvMod} {f : Nat → Nat × Flags} {s : State} (h : s.Inv) : Keeps (convert x m f
    s) := by
  unfold convert
  extract_lets s1 s2 s3 s4
  exact alu_keeps h

theorem execCvff_keeps {x : R1} {m : CvMod} {s : State} (h : s.Inv) : Keeps (execCvff x m s) := by
  unfold execCvff
  exact convert_keeps h

theorem execCvfi_keeps {x : R1} {m : CvMod} {s : State} (h : s.Inv) : Keeps (execCvfi x m s) := by
  unfold execCvfi
  exact convert_keeps h

theorem execCvif_keeps {x : R1} {m : CvMod} {s : State} (h : s.Inv) : Keeps (execCvif x m s) := by
  unfold execCvif
  exact convert_keeps h

theorem execCvii_keeps {x : R1} {m : CvMod} {s : State} (h : s.Inv) : Keeps (execCvii x m s) := by
  unfold execCvii
  exact convert_keeps h

theorem execPkf8_keeps {x : R2} {rnd : Rnd} {sat : Bool} {s : State} (h : s.Inv) : Keeps (execPkf8 x rnd sat s) :=
    by
  unfold execPkf8
  extract_lets s1
  exact alu_keeps h

theorem execMxsc_keeps {x : R1} {_rnd : Rnd} {inv : Bool} {s : State} (h : s.Inv) : Keeps (execMxsc x _rnd inv s)
    := by
  unfold execMxsc
  exact alu_keeps h

theorem execPkf4_keeps {x : R2} {rnd : Rnd} {q : Fin 8} {s : State} (h : s.Inv) : Keeps (execPkf4 x rnd q s) := by
  unfold execPkf4
  exact alu_keeps h

/-! ### Atomics.lean -/

theorem State.atomicStore_keeps {s : State} {core off : Nat} {i : Instr} {ty : Ty} {n x b : Nat} (h : s.Inv) :
    PairKeeps (State.atomicStore s core off i ty n x b) := by
  unfold State.atomicStore
  extract_lets s1
  split
  exact pair_ite (pair_mk h) (pair_ite (pair_mk (State.arrive_inv h)) (pair_ite (pair_mk (State.putBarrier_inv h))
      (pair_mk (State.coreWrite_inv h))))

theorem atomicOp_keeps {i : Instr} {arrives : Bool} {m : MForm} {slot : Option (Fin 8)} {b : Option Opnd} {s :
    State} (h : s.Inv) : Keeps (atomicOp i arrives m slot b s) := by
  unfold atomicOp
  extract_lets s1 s2
  exact memory_keeps h fun e3 s4 h5 => noMore_inv h5

theorem reduceOp_keeps {i : Instr} {arrives : Bool} {m : MForm} {s : State} (h : s.Inv) : Keeps (reduceOp i
    arrives m s) := by
  unfold reduceOp
  extract_lets s1
  exact memory_keeps h fun e2 s3 h4 => noMore_inv h4

theorem execAtadd_keeps {m : MForm} {slot : Option (Fin 8)} {s : State} (h : s.Inv) : Keeps (execAtadd m slot s)
    := by
  unfold execAtadd
  exact atomicOp_keeps h

theorem execAtmin_keeps {m : MForm} {slot : Option (Fin 8)} {s : State} (h : s.Inv) : Keeps (execAtmin m slot s)
    := by
  unfold execAtmin
  exact atomicOp_keeps h

theorem execAtmax_keeps {m : MForm} {slot : Option (Fin 8)} {s : State} (h : s.Inv) : Keeps (execAtmax m slot s)
    := by
  unfold execAtmax
  exact atomicOp_keeps h

theorem execAtand_keeps {m : MForm} {slot : Option (Fin 8)} {s : State} (h : s.Inv) : Keeps (execAtand m slot s)
    := by
  unfold execAtand
  exact atomicOp_keeps h

theorem execAtor_keeps {m : MForm} {slot : Option (Fin 8)} {s : State} (h : s.Inv) : Keeps (execAtor m slot s) := by
  unfold execAtor
  exact atomicOp_keeps h

theorem execAtxor_keeps {m : MForm} {slot : Option (Fin 8)} {s : State} (h : s.Inv) : Keeps (execAtxor m slot s)
    := by
  unfold execAtxor
  exact atomicOp_keeps h

theorem execAtexch_keeps {m : MForm} {slot : Option (Fin 8)} {s : State} (h : s.Inv) : Keeps (execAtexch m slot s)
    := by
  unfold execAtexch
  exact atomicOp_keeps h

theorem execAtcas_keeps {m : MForm} {slot : Option (Fin 8)} {b : Opnd} {s : State} (h : s.Inv) : Keeps (execAtcas
    m slot b s) := by
  unfold execAtcas
  exact atomicOp_keeps h

theorem execRedadd_keeps {m : MForm} {s : State} (h : s.Inv) : Keeps (execRedadd m s) := by
  unfold execRedadd
  exact reduceOp_keeps h

theorem execRedmin_keeps {m : MForm} {s : State} (h : s.Inv) : Keeps (execRedmin m s) := by
  unfold execRedmin
  exact reduceOp_keeps h

theorem execRedmax_keeps {m : MForm} {s : State} (h : s.Inv) : Keeps (execRedmax m s) := by
  unfold execRedmax
  exact reduceOp_keeps h

theorem execRedand_keeps {m : MForm} {s : State} (h : s.Inv) : Keeps (execRedand m s) := by
  unfold execRedand
  exact reduceOp_keeps h

theorem execRedor_keeps {m : MForm} {s : State} (h : s.Inv) : Keeps (execRedor m s) := by
  unfold execRedor
  exact reduceOp_keeps h

theorem execRedxor_keeps {m : MForm} {s : State} (h : s.Inv) : Keeps (execRedxor m s) := by
  unfold execRedxor
  exact reduceOp_keeps h

theorem execFxadd_keeps {m : MForm} {s : State} (h : s.Inv) : Keeps (execFxadd m s) := by
  unfold execFxadd
  refine memory_keeps h fun e1 s2 h3 => ?_
  extract_lets s4 s5
  have h6 : s5.Inv := State.onWarp_inv h3
  exact inv_ite h3 (inv_ite (State.retire_inv h6) h6)

theorem execFxrd_keeps {m : MForm} {rnd : Rnd} {s : State} (h : s.Inv) : Keeps (execFxrd m rnd s) := by
  unfold execFxrd
  exact memory_keeps h fun e1 s2 h3 => noMore_inv h3

theorem execNins_keeps {m : MForm} {b : Opnd} {s : State} (h : s.Inv) : Keeps (execNins m b s) := by
  unfold execNins
  exact memory_keeps h fun e1 s2 h3 => noMore_inv h3

/-! ### Engines.lean -/

theorem State.onProg_inv {s : State} {e : EngRef} {f : Prog → Prog} (h : s.Inv) : State.Inv (State.onProg s e f)
    := by
  unfold State.onProg
  split
  · exact State.onRoot_inv h
  · exact State.onCanopy_inv h

theorem State.dropProg_inv {s : State} {e : EngRef} (h : s.Inv) : State.Inv (State.dropProg s e) := by
  unfold State.dropProg
  split
  · exact State.onRoot_inv h
  · exact State.onCanopy_inv h

theorem State.keepWalks_inv {s : State} {die slot va n : Nat} {need : Need} (h : s.Inv) : State.Inv
    (State.keepWalks s die slot va n need) := by
  unfold State.keepWalks
  exact inv_foldl h fun s1 e2 h3 => State.keepWalk_inv h3

theorem State.engMark_inv {s : State} {die slot : Nat} {rs : List (Nat × Nat)} (h : s.Inv) : State.Inv
    (State.engMark s die slot rs) := by
  unfold State.engMark
  refine inv_foldl h fun s1 e2 h3 => ?_
  extract_lets s4
  have h5 : s4.Inv := State.keepWalk_inv h3
  split
  · exact h5
  · exact State.checkMac_inv h5

theorem State.engWrite_inv {s : State} {die dispatch slot va : Nat} {bytes : List Byte} (h : s.Inv) : State.Inv
    (State.engWrite s die dispatch slot va bytes) := by
  unfold State.engWrite
  refine inv_foldl h fun s1 e2 h3 => ?_
  extract_lets s4
  have h5 : s4.Inv := State.keepWalk_inv h3
  split
  · exact h5
  · exact State.applyWrite_inv h5

theorem State.statusRecord_inv {s : State} {e : EngRef} {p : Prog} {state code : Nat} (h : s.Inv) : State.Inv
    (State.statusRecord s e p state code) := by
  unfold State.statusRecord
  extract_lets s1 s2
  have h3 : s2.Inv := State.keepWalk_inv h
  refine inv_ite h (inv_ite (State.ring_inv h) ?_)
  split
  · exact State.ring_inv h3
  · extract_lets s4
    have h5 : s4.Inv := State.checkMac_inv h3
    exact inv_ite (State.ring_inv h5) (State.engWrite_inv h5)

theorem State.abortsServed_inv {s : State} {r c : Nat} (h : s.Inv) : State.Inv (State.abortsServed s r c) := by
  unfold State.abortsServed
  extract_lets s1 s2
  have h3 : s2.Inv := State.onRoot_inv h
  exact inv_foldl h3 fun s4 e5 h6 => State.wake_inv (State.finishOp_inv h6)

theorem State.tryFinish_inv {s : State} {e : EngRef} (h : s.Inv) : State.Inv (State.tryFinish s e) := by
  unfold State.tryFinish
  split
  · exact h
  · split
    · extract_lets s1
      have h2 : s1.Inv := State.dropProg_inv (State.statusRecord_inv h)
      refine inv_ite ?_ h
      split
      · exact State.abortsServed_inv h2
      · exact h2
    · exact h

theorem State.claim_inv {s : State} {n : Nat} (h : s.Inv) : State.Inv (State.claim s n) := by
  unfold State.claim
  split
  · exact h
  · split
    · exact h
    · split
      · exact h
      · exact State.onTransfer_inv (State.onWindow_inv (State.unclaim_inv h))

theorem State.chargeInOrder_inv {s : State} {l : List Nat} (h : s.Inv) : (s.chargeInOrder l).Inv := by
  induction l generalizing s with
  | nil => exact h
  | cons n t ih =>
    unfold State.chargeInOrder
    extract_lets s1 s2 s3
    have h4 : s2.Inv := inv_ite h (State.toBarrier_inv h)
    exact inv_ite (ih h4) h4

theorem State.pushCharged_inv {s : State} {e : EngRef} {l : List Nat} (h : s.Inv) : State.Inv (State.pushCharged s
    e l) := by
  unfold State.pushCharged
  exact State.onProg_inv (inv_foldl h fun s1 e2 h3 => State.claim_inv h3)

theorem State.pushOn_inv {s : State} {e : EngRef} {l : List Nat} (h : s.Inv) : State.Inv (State.pushOn s e l) := by
  unfold State.pushOn
  extract_lets s1
  have h2 : s1.Inv := State.chargeInOrder_inv h
  exact inv_ite (State.pushCharged_inv h2) (State.onProg_inv h2)

theorem State.pushesOn_inv {s : State} (h : s.Inv) : State.Inv (State.pushesOn s) := by
  unfold State.pushesOn
  refine inv_foldl h fun s1 e2 h3 => ?_
  split
  · exact State.pushOn_inv h3
  · exact h3

theorem State.ringEngine_inv {s : State} {e : EngRef} {p : Prog} {code : Nat} (h : s.Inv) : State.Inv
    (State.ringEngine s e p code) := by
  unfold State.ringEngine
  exact State.ring_inv h

theorem State.dropHold_inv {s : State} {n core : Nat} (h : s.Inv) : State.Inv (State.dropHold s n core) := by
  unfold State.dropHold
  extract_lets s1 s2 s3
  have h4 : s2.Inv := State.onCore_same h
  exact inv_upd h4 rfl rfl rfl

theorem State.cancelTransfer_inv {s : State} {n : Nat} (h : s.Inv) : State.Inv (State.cancelTransfer s n) := by
  unfold State.cancelTransfer
  split
  · exact h
  · extract_lets s1 s2
    have h3 : s2.Inv := State.creditBack_inv (State.dropTransfer_inv (State.dropHold_inv h))
    split
    · exact inv_ite (State.chargeHeld_inv h3) h3
    · exact h3

theorem State.stopPush_inv {s : State} {e : EngRef} (h : s.Inv) : State.Inv (State.stopPush s e) := by
  unfold State.stopPush
  split
  · exact h
  · exact inv_ite (State.pushCharged_inv h) (inv_foldl h fun s1 e2 h3 => State.cancelTransfer_inv h3)

theorem State.progFault_inv {s : State} {e : EngRef} {code : Nat} (h : s.Inv) : State.Inv (State.progFault s e
    code) := by
  unfold State.progFault
  extract_lets s1
  have h2 : s1.Inv := State.onProg_inv (State.stopPush_inv h)
  split
  · exact h
  · split
    · exact h
    · exact State.tryFinish_inv (State.ringEngine_inv h2)

theorem State.progBadData_inv {s : State} {e : EngRef} {place : Nat} (h : s.Inv) : State.Inv (State.progBadData s
    e place) := by
  unfold State.progBadData
  split
  · exact h
  · exact State.consume_inv (State.progFault_inv h)

theorem State.progError_inv {s : State} {e : EngRef} {code : Nat} {rs : List (Nat × Nat)} (h : s.Inv) : State.Inv
    (State.progError s e code rs) := by
  unfold State.progError
  split
  · exact h
  · extract_lets s1
    have h2 : s1.Inv := State.engMark_inv h
    exact inv_ite (State.progBadData_inv h2) (State.progFault_inv h2)

theorem State.abortProg_inv {s : State} {e : EngRef} {code : Nat} (h : s.Inv) : State.Inv (State.abortProg s e
    code) := by
  unfold State.abortProg
  extract_lets s1
  have h2 : s1.Inv := State.onProg_inv (State.stopPush_inv h)
  split
  · exact h
  · split
    · exact h
    · exact State.tryFinish_inv (State.ringEngine_inv h2)

theorem State.abortQueued_inv {s : State} {e : EngRef} {p : Prog} {state code : Nat} (h : s.Inv) : State.Inv
    (State.abortQueued s e p state code) := by
  unfold State.abortQueued
  exact State.statusRecord_inv (State.ringEngine_inv h)

theorem State.accepted_inv {s : State} {p : Prog} (h : s.Inv) : State.Inv (State.accepted s p) := by
  unfold State.accepted
  split
  · exact State.wake_inv (State.finishOp_inv (State.markRelease_inv h))
  · exact h

theorem State.pushRecord_keeps {s : State} {e : EngRef} {slot addr coords : Nat} (h : s.Inv) : PairKeeps
    (State.pushRecord s e slot addr coords) := by
  unfold State.pushRecord
  refine pair_ite (pair_mk h) ?_
  split
  · rename_i e1
    have h2 := pair_eq e1 (State.readRecord_keeps h)
    exact pair_mk h2
  · rename_i e3
    have h4 := pair_eq e3 (State.readRecord_keeps h)
    exact pair_mk h4
  · rename_i e5
    have h6 := pair_eq e5 (State.readRecord_keeps h)
    exact pair_ite (pair_mk h6) (pair_mk h6)

theorem State.startPush_inv {s : State} {e : EngRef} {p : Prog} {r : BitVec 512} {coords : Nat} {many : Bool}
    {dests : List (Desc × Nat)} (h : s.Inv) : State.Inv (State.startPush s e p r coords many dests) := by
  unfold State.startPush
  extract_lets s1
  split
  rename_i e8
  have h9 := pair_eq e8 <| by
    refine pair_foldl (pair_mk h) fun s2 e3 h4 => ?_
    split
    extract_lets s5 s6
    split
    extract_lets s7
    exact pair_mk (inv_upd h4 rfl rfl rfl)
  exact State.pushOn_inv h9

/-! ### Buds.lean -/

theorem State.onCamSlot_inv {s : State} {site dispatch slot : Nat} {f : CamSlot → CamSlot} (h : s.Inv) : State.Inv
    (State.onCamSlot s site dispatch slot f) := by
  unfold State.onCamSlot
  exact State.onCambium_inv h

theorem State.camWrite_keeps {s : State} {site dispatch slot va : Nat} {bytes : List Byte} (h : s.Inv) : OptKeeps
    (State.camWrite s site dispatch slot va bytes) := by
  unfold State.camWrite
  extract_lets s1 s2
  have h3 : s1.Inv := State.keepWalk_inv h
  split
  · exact opt_none
  · exact opt_ite opt_none (opt_some (State.applyWrite_inv (State.flushPath_inv h3)))

theorem State.camMark_inv {s : State} {site slot : Nat} {x1 : List (Nat × Nat × Bool)} (h : s.Inv) : State.Inv
    (State.camMark s site slot x1) := by
  unfold State.camMark
  split
  · exact h
  · exact inv_ite (pair_fst (State.virtRead_keeps h)) (inv_ite (State.keepWalk_inv h) (State.camMark_inv h))

theorem State.setMapBit_keeps {s : State} {site dispatch slot map i : Nat} {v : Bool} (h : s.Inv) : OptKeeps
    (State.setMapBit s site dispatch slot map i v) := by
  unfold State.setMapBit
  split
  · exact opt_none
  · extract_lets s1 s2
    exact State.camWrite_keeps h

theorem State.writeBud_keeps {s : State} {site dispatch slot d i : Nat} {b : Bud} (h : s.Inv) : OptKeeps
    (State.writeBud s site dispatch slot d i b) := by
  unfold State.writeBud
  exact State.camWrite_keeps h

theorem State.camFault_inv {s : State} {site dispatch w seq clause index : Nat} (h : s.Inv) : State.Inv
    (State.camFault s site dispatch w seq clause index) := by
  unfold State.camFault
  extract_lets s1 s2
  have h3 : s2.Inv := State.ring_inv h
  exact State.deferFault_inv h3

theorem State.camTaken_inv {s : State} {w seq : Nat} (h : s.Inv) : State.Inv (State.camTaken s w seq) := by
  unfold State.camTaken
  split
  · exact h
  · split
    · exact inv_ite (State.wake_inv (State.finishOp_inv h)) (State.onWarp_inv h)
    · exact h

/-! ### Matrix.lean -/

theorem State.matrixRead_inv {s : State} {core place : Nat} {granules : List Nat} (h : s.Inv) : State.Inv
    (State.matrixRead s core place granules) := by
  unfold State.matrixRead
  extract_lets s1
  split
  · exact h
  · extract_lets s2 s3
    exact State.onCore_same h

theorem Core.drainQueue_wf {c : Core} {n : Nat} (h : Core.wf c = true) : Core.wf (c.drainQueue n) = true := by
  induction n generalizing c with
  | zero => exact h
  | succ n ih =>
    unfold Core.drainQueue
    split
    · exact ih h
    · exact ih h
    · exact h

theorem State.enqueue_inv {s : State} {core : Nat} {q : Queued} (h : s.Inv) : (s.enqueue core q).Inv :=
  State.onCore_inv h fun hc => Core.drainQueue_wf hc

theorem State.queueOp_inv {s : State} {x : Ctx} {cv : Option (Fin 8)} {d : Opnd} {q : Queued} (h : s.Inv) :
    State.Inv (State.queueOp s x cv d q) := by
  unfold State.queueOp
  extract_lets s1 s2 s3 s4
  have h5 : s2.Inv := State.onWarp_inv h
  have h6 : s4.Inv := State.pushOp_inv h5
  exact State.enqueue_inv h6

theorem product_keeps {i : Instr} {p : Prod} {gather : Option Opnd} {s : State} (h : s.Inv) : Keeps (product i p
    gather s) := by
  unfold product
  extract_lets s1 s2 s3
  refine issue_keeps h fun x4 => ?_
  extract_lets s5 s6 s7 s8 s9 s10 s11
  have h12 : s11.Inv := inv_ite (State.onWarp_inv h) h
  split
  · exact out_fault
  · refine out_ite out_fault ?_
    split
    · exact out_fault
    · exact out_ite out_stall (out_done (State.queueOp_inv h12))

theorem execMma_keeps {p : Prod} {s : State} (h : s.Inv) : Keeps (execMma p s) := by
  unfold execMma
  exact product_keeps h

theorem execMmag_keeps {p : Prod} {c : Opnd} {s : State} (h : s.Inv) : Keeps (execMmag p c s) := by
  unfold execMmag
  exact product_keeps h

theorem execMmas_keeps {p : Prod} {s : State} (h : s.Inv) : Keeps (execMmas p s) := by
  unfold execMmas
  exact product_keeps h

theorem execMmx_keeps {p : Prod} {unsignedA : Bool} {s : State} (h : s.Inv) : Keeps (execMmx p unsignedA s) := by
  unfold execMmx
  exact product_keeps h

theorem execSfpush_keeps {g : Guard} {ty : Ty} {a : Opnd} {kindB : Bool} {cv : Option (Fin 8)} {s : State} (h :
    s.Inv) : Keeps (execSfpush g ty a kindB cv s) := by
  unfold execSfpush
  extract_lets s1
  refine issue_keeps h fun x2 => ?_
  split
  · exact out_fault
  · exact out_ite out_fault (out_done (State.onWarp_inv h))

theorem execSfpushFlush_keeps {g : Guard} {s : State} (h : s.Inv) : Keeps (execSfpushFlush g s) := by
  unfold execSfpushFlush
  exact issue_keeps h fun x1 => out_done (State.onWarp_inv h)

theorem execAalloc_keeps {g : Guard} {d : Opnd} {mask : Word} {s : State} (h : s.Inv) : Keeps (execAalloc g d mask
    s) := by
  unfold execAalloc
  refine issue_keeps h fun x1 => ?_
  extract_lets s2 s3 s4 s5 s6 s7 s8
  have h9 : s6.Inv := State.onCore_same h
  have h10 : s8.Inv := inv_ite h9 (State.enqueue_inv h9)
  exact out_ite out_fault (out_ite (out_done (State.onWarp_inv h10)) (out_done (State.onWarp_inv h)))

theorem execAfree_keeps {g : Guard} {mask : Word} {s : State} (h : s.Inv) : Keeps (execAfree g mask s) := by
  unfold execAfree
  refine issue_keeps h fun x1 => ?_
  extract_lets s2 s3
  have h4 : s3.Inv := State.onCore_same h
  split
  · exact out_fault
  · exact out_done (inv_ite h4 (State.enqueue_inv h4))

theorem execAcqa_keeps {g : Guard} {a : Opnd} {mask : Word} {s : State} (h : s.Inv) : Keeps (execAcqa g a mask s)
    := by
  unfold execAcqa
  refine issue_keeps h fun x1 => ?_
  extract_lets s2
  split
  · exact out_fault
  · exact out_ite (out_done (State.onCore_same h)) out_fault

theorem execRela_keeps {g : Guard} {mask : Word} {s : State} (h : s.Inv) : Keeps (execRela g mask s) := by
  unfold execRela
  refine issue_keeps h fun x1 => ?_
  split
  · exact out_fault
  · exact out_done (State.onCore_same h)

theorem execAmv_keeps {g : Guard} {mode : AmvMode} {spec : Opnd} {tile : Fin 64} {cv : Option (Fin 8)} {s : State}
    (h : s.Inv) : Keeps (execAmv g mode spec tile cv s) := by
  unfold execAmv
  extract_lets s1
  refine issue_keeps h fun x2 => ?_
  extract_lets s3 s4 s5 s6 s7
  split
  · exact out_fault
  · refine out_ite out_fault (out_ite out_fault ?_)
    split
    · exact out_fault
    · exact out_ite out_stall (out_done (State.queueOp_inv h))

theorem execTcon8_keeps {g : Guard} {u m o : Opnd} {axis : Axis} {tr acc : Bool} {cv : Option (Fin 8)} {s : State}
    (h : s.Inv) : Keeps (execTcon8 g u m o axis tr acc cv s) := by
  unfold execTcon8
  refine issue_keeps h fun x1 => ?_
  split
  · exact out_fault
  · exact out_ite out_stall (out_done (State.queueOp_inv h))

theorem State.putWords_inv {s : State} {core off : Nat} {ws : List Word} {bad : Bool} (h : s.Inv) :
    (s.putWords core off ws bad).Inv := by
  unfold State.putWords
  have h1 := State.coreWrite_inv (c := core) (l := storeWords off ws) h
  refine inv_ite (State.onCore_inv h1 fun hc => ?_) h1
  have hc := Core.wf_iff.mp hc
  exact Core.wf_iff.mpr ⟨hc.1, hc.2.1, tcanon_foldl _ (fun _ _ => tcanon_tset _ _) _ hc.2.2⟩

theorem Core.putRow_wf {c : Core} {tile i : Nat} {lanes : LaneSet} {row : Nat → Word} {bad : Bool} (h : Core.wf c =
    true) :
    Core.wf (c.putRow tile i lanes row bad) = true := by
  unfold Core.putRow
  extract_lets c1
  have h1 : Core.wf c1 = true := by
    unfold c1
    refine foldl_keeps (fun c => Core.wf c = true) _ ?_ _ _ h
    exact fun _ _ h => h
  refine foldl_keeps (fun c => Core.wf c = true) _ ?_ _ _ h1
  intro c g h
  dsimp only
  split
  · exact h
  · split
    · exact h
    · exact h

theorem State.perform_keeps {s : State} {core : Nat} {q : Queued} {early : List Nat} (h : s.Inv) :
    PairKeeps (s.perform core q early) := by
  unfold State.perform
  extract_lets r c lanes
  split
  · split
    exact pair_mk (State.onCore_inv h fun hc =>
      foldl_keeps (fun c => Core.wf c = true) _ (fun _ _ h => Core.putRow_wf h) _ _ hc)
  · split
    exact pair_mk (State.putWords_inv h)
  · exact pair_mk h
  · exact pair_mk (State.onWarp_inv h)
  · exact pair_mk (State.onCore_inv h fun hc =>
      foldl_keeps (fun c => Core.wf c = true) _ (fun _ _ h => Core.putRow_wf h) _ _ hc)
  · exact pair_mk (State.putWords_inv h)
  · exact pair_mk (State.onCore_inv h fun hc =>
      foldl_keeps (fun c => Core.wf c = true) _ (fun _ _ h => Core.putRow_wf h) _ _ hc)
  · exact pair_mk (State.onCore_inv h fun h => h)
  · exact pair_mk (State.onCore_inv h fun h => h)

theorem execMatrixOpPerform_keeps {core : Nat} {early : List Nat} {s : State} (h : s.Inv) :
    Keeps (execMatrixOpPerform core early s) := by
  unfold execMatrixOpPerform
  split
  · exact h
  · refine keeps_ite ?_ h
    extract_lets done rest
    split
    rename_i e
    have h1 := pair_eq e (State.perform_keeps h)
    extract_lets s1 s2
    have h2 : s1.Inv := State.onCore_inv h1 fun hc => Core.drainQueue_wf hc
    have h3 : s2.Inv := inv_ite (State.consume_inv h2) h2
    split
    · exact h3
    · exact State.wake_inv (State.finishOp_inv h3)

/-! ### System.lean -/

theorem execSget_keeps {g : Guard} {ty : Ty} {d : Opnd} {n : BitVec 16} {s : State} (h : s.Inv) : Keeps (execSget
    g ty d n s) := by
  unfold execSget
  refine issue_keeps h fun x1 => ?_
  extract_lets s2
  exact out_done (State.onWarp_inv h)

theorem execSset_keeps {g : Guard} {ty : Ty} {a : Opnd} {n : BitVec 16} {s : State} (h : s.Inv) : Keeps (execSset
    g ty a n s) := by
  unfold execSset
  extract_lets s1
  refine issue_keeps h fun x2 => ?_
  extract_lets s3 s4
  exact out_ite (out_done (inv_ite (State.onCore_same h) h)) (out_done (State.onWarp_inv h))

theorem execTret_keeps {g : Guard} {s : State} (h : s.Inv) : Keeps (execTret g s) := by
  unfold execTret
  exact issue_keeps h fun x1 => out_done (State.endWith_inv h)

theorem execClkrd_keeps {g : Guard} {ty : Ty} {d : Opnd} {rt : Bool} {s : State} (h : s.Inv) : Keeps (execClkrd g
    ty d rt s) := by
  unfold execClkrd
  refine issue_keeps h fun x1 => ?_
  extract_lets s2
  exact out_done (State.onWarp_inv h)

theorem execPreempt_keeps {g : Guard} {d : Opnd} {s : State} (h : s.Inv) : Keeps (execPreempt g d s) := by
  unfold execPreempt
  exact issue_keeps h fun x1 => out_done (State.endWith_inv h)

theorem State.illegal_inv {s : State} (h : s.Inv) : State.Inv (State.illegal s) := by
  unfold State.illegal
  split
  · exact h
  · exact State.precise_inv h

theorem execUnassignedOpcode_keeps {_op : BitVec 8} {s : State} (h : s.Inv) : Keeps (execUnassignedOpcode _op s)
    := by
  unfold execUnassignedOpcode
  exact keeps_next (State.illegal_inv h)

end Sys2Proof.Machine
end

