-- ==== Sys2Proof/Laws/InvEvents.lean ====
section
/-! SUPPORT. What keeps the invariant of Safety.lean: clause boundaries, performed accesses, placement and replay of dispatches. One lemma for each operation,
which proofs cite instead of unfolding it. -/

namespace Sys2Proof.Machine

/-! ### ClauseEvents.lean -/

theorem State.startClause_inv {s : State} {q w : Nat} (h : s.Inv) : State.Inv (State.startClause s q w) := by
  unfold State.startClause
  extract_lets s1
  split
  · rename_i e2
    have h3 := pair_eq e2 (State.fetchClause_keeps h)
    extract_lets s4
    have h5 : s4.Inv := State.onWarp_inv h3
    exact inv_ite (State.consume_inv h5) h5
  · rename_i e6
    have h7 := pair_eq e6 (State.fetchClause_keeps h)
    extract_lets s8 s9 s10 s11 s12
    have h13 : s11.Inv := State.onWarp_inv h7
    exact inv_upd h13 rfl rfl rfl

theorem execArbitrate_keeps {q : Nat} {s : State} (h : s.Inv) : Keeps (execArbitrate q s) := by
  unfold execArbitrate
  extract_lets s1
  refine keeps_ite (keeps_next h) ?_
  split
  · exact keeps_next h
  · extract_lets s2 s3
    have h7 : s2.Inv := inv_foldl h fun s4 e5 h6 => State.onWarp_inv h6
    have h11 : s3.Inv := inv_foldl h7 fun s8 e9 h10 => State.onWarp_inv h10
    exact keeps_next (State.startClause_inv (State.progress_inv h11))

theorem State.rejoinBar_inv {s : State} {w : Nat} (h : s.Inv) : State.Inv (State.rejoinBar s w) := by
  unfold State.rejoinBar
  extract_lets s1
  have h2 : s1.Inv := State.onWarp_inv h
  split
  · exact h
  · exact inv_ite (State.onWarp_inv h2) (State.acquire_inv h2)

theorem State.handlerLeft_inv {s : State} {w : Nat} (h : s.Inv) : State.Inv (State.handlerLeft s w) := by
  unfold State.handlerLeft
  split
  · exact State.rejoinBar_inv (State.reissue_inv (State.onWarp_inv h))
  · exact State.onWarp_inv h
  · exact State.onWarp_inv h
  · exact h

theorem execClauseBoundary_keeps {q : Nat} {s : State} (h : s.Inv) : Keeps (execClauseBoundary q s) := by
  unfold execClauseBoundary
  extract_lets s1 s2
  have h3 : s2.Inv := inv_upd h rfl rfl rfl
  split
  · exact keeps_next h
  · extract_lets s4 s5 s6
    split
    · exact keeps_next h
    · extract_lets s7 s8 s9 s10
      have h11 : s7.Inv := State.onWarp_inv h3
      have h12 : s8.Inv := by
        unfold s8
        split
        · exact State.onWarp_inv h11
        · exact State.onWarp_inv h11
        · exact State.onWarp_inv h11
        · exact State.onWarp_inv h11
        · exact State.onWarp_inv h11
        · exact State.onWarp_inv h11
        · exact State.onWarp_inv h11
      have h13 : s9.Inv := State.tryArrive_inv (State.afterBoundary_inv h12)
      have h14 : s10.Inv := by
        unfold s10
        split
        · exact State.handlerLeft_inv h13
        · exact h13
      exact keeps_next (State.wake_inv (State.progress_inv h14))

theorem State.endWait_inv {s : State} {w : Nat} {x : Waiting} (h : s.Inv) : State.Inv (State.endWait s w x) := by
  unfold State.endWait
  extract_lets s1 s2
  have h3 : s2.Inv := State.onWarp_inv (State.waitConsumes_inv h)
  exact State.wake_inv (State.progress_inv (State.afterBoundary_inv h3))

theorem execWaitMet_keeps {w : Nat} {s : State} (h : s.Inv) : Keeps (execWaitMet w s) := by
  unfold execWaitMet
  split
  · exact keeps_next (inv_ite (State.endWait_inv h) h)
  · exact keeps_next h

theorem execWaitTimeout_keeps {w : Nat} {s : State} (h : s.Inv) : Keeps (execWaitTimeout w s) := by
  unfold execWaitTimeout
  split
  · exact keeps_next (inv_ite (State.endWait_inv h) h)
  · exact keeps_next h

theorem execWaitMemoryPoll_keeps {w : Nat} {s : State} (h : s.Inv) : Keeps (execWaitMemoryPoll w s) := by
  unfold execWaitMemoryPoll
  split
  · refine keeps_ite (keeps_next h) ?_
    split
    rename_i e1
    have h2 := pair_eq e1 (State.readConds_keeps h)
    extract_lets s3 s4
    have h5 : s4.Inv := State.onWarp_inv h2
    exact keeps_next (inv_ite (State.endWait_inv h5) h5)
  · exact keeps_next h

theorem State.writeLock_inv {s : State} {pa : Nat} {l : Lock} (h : s.Inv) : State.Inv (State.writeLock s pa l) := by
  unfold State.writeLock
  extract_lets s1 s2 s3
  have h4 : s3.Inv := inv_upd h rfl rfl rfl
  exact State.applyWrite_inv h4

theorem State.dropRequests_inv {s : State} {w : Nat} (h : s.Inv) : State.Inv (State.dropRequests s w) := by
  unfold State.dropRequests
  extract_lets s1
  have h5 : s1.Inv := by
    unfold s1
    refine inv_foldl h fun s2 e3 h4 => ?_
    split
    exact inv_ite (State.writeLock_inv h4) h4
  exact State.onWarp_inv h5

theorem State.copySize_inv {s : State} {core : Nat} (h : s.Inv) : State.Inv (State.copySize s core) := by
  unfold State.copySize
  exact inv_ite h (State.onCore_same h)

theorem Core.settleDrops_same {c : Core} {g : Nat} : (c.settleDrops g).store = c.store ∧
    (c.settleDrops g).empty = c.empty ∧ (c.settleDrops g).poison = c.poison := by
  unfold Core.settleDrops
  generalize hq : c.queue = l
  clear hq
  induction l generalizing c with
  | nil => exact ⟨rfl, rfl, rfl⟩
  | cons q t ih =>
    rw [List.foldl_cons]
    split
    · split
      · exact ih (c := c.zeroBanks _)
      · exact ih (c := c.zeroBanks _)
      · exact ih
    · exact ih

theorem State.freeGroup_inv {s : State} {g : Nat} (h : s.Inv) : State.Inv (State.freeGroup s g) := by
  unfold State.freeGroup
  extract_lets s1 s2 s3 s4 s5 s6
  have h7 : s3.Inv := State.onCore_same h (fun _ => Core.settleDrops_same.1) (fun _ => Core.settleDrops_same.2.1)
    (fun _ => Core.settleDrops_same.2.2)
  have h8 : s6.Inv := inv_upd h7 rfl rfl rfl
  exact State.copySize_inv h8

theorem State.endGroup_inv {s : State} {g : Nat} (h : s.Inv) : State.Inv (State.endGroup s g) := by
  unfold State.endGroup
  extract_lets s1
  split
  · exact h
  · extract_lets s2
    exact inv_ite (State.onDispatch_inv (State.freeGroup_inv h)) h

theorem State.pruneSaves_inv {s : State} (h : s.Inv) : State.Inv (State.pruneSaves s) := by
  unfold State.pruneSaves
  extract_lets s1
  exact inv_upd h rfl rfl rfl

theorem State.dropCambium_inv {s : State} {d : Nat} (h : s.Inv) : State.Inv (State.dropCambium s d) := by
  unfold State.dropCambium
  extract_lets s1
  exact inv_upd h rfl rfl rfl

theorem State.endCambium_inv {s : State} {d : Nat} (h : s.Inv) : State.Inv (State.endCambium s d) := by
  unfold State.endCambium
  extract_lets s1
  have h5 : s1.Inv := by
    unfold s1
    refine State.dropCambium_inv (State.pruneSaves_inv (inv_foldl h fun s2 e3 h4 => ?_))
    split
    exact State.freeGroup_inv h4
  split
  · exact h
  · exact inv_ite (State.onDispatch_inv h5) h

theorem execWarpEnd_keeps {w : Nat} {s : State} (h : s.Inv) : Keeps (execWarpEnd w s) := by
  unfold execWarpEnd
  extract_lets s1 s2 s3 s4 s5 s6 s7 s8 s9 s10 s11
  have h12 : s4.Inv := State.onCore_same h
  have h13 : s8.Inv := inv_ite (inv_upd h12 rfl rfl rfl) (State.onWarp_inv h12)
  have h14 : s9.Inv := inv_ite (State.onDispatch_inv h13) h13
  have h15 : s10.Inv := State.progress_inv (State.checkBars_inv h14)
  exact keeps_ite (keeps_next (State.endCambium_inv (State.endGroup_inv h15))) (keeps_next h)

theorem State.withdrawLdws_inv {s : State} {w : Nat} (h : s.Inv) : State.Inv (State.withdrawLdws s w) := by
  unfold State.withdrawLdws
  extract_lets s1 s2 s3
  have h4 : s2.Inv := State.onWarp_inv h
  have h5 : s3.Inv := State.onCore_same h4
  exact inv_ite h (State.progress_inv h5)

theorem State.setLdwsAside_inv {s : State} {w : Nat} (h : s.Inv) : State.Inv (State.setLdwsAside s w) := by
  unfold State.setLdwsAside
  exact State.onWarp_inv (State.withdrawLdws_inv h)

theorem State.deadlockFault_inv {s : State} {w x1 index sub code : Nat} (h : s.Inv) : State.Inv
    (State.deadlockFault s w x1 index sub code) := by
  unfold State.deadlockFault
  exact State.onWarp_inv h

theorem State.deadlock_keeps {s : State} {w sub : Nat} (h : s.Inv) : PairKeeps (State.deadlock s w sub) := by
  unfold State.deadlock
  extract_lets s1 s2 s3 s4
  have h5 : s4.Inv := inv_ite h (State.onDispatch_inv h)
  split
  · split
    · exact pair_mk h
    · split
      extract_lets s6
      have h7 : s6.Inv := State.onWarp_inv (State.deadlockFault_inv h)
      exact pair_mk (State.setLdwsAside_inv (State.onClause_inv h7))
  · extract_lets s8
    have h9 : s8.Inv := State.onWarp_inv (State.deadlockFault_inv h)
    exact pair_mk (State.setLdwsAside_inv (State.onWarp_inv h9))
  · extract_lets s10
    have h11 : s10.Inv := State.onWarp_inv (State.deadlockFault_inv h)
    exact pair_mk (State.setLdwsAside_inv (State.onWarp_inv h11))
  · extract_lets s12
    have h13 : s12.Inv := State.onWarp_inv (State.deadlockFault_inv h)
    exact pair_mk (State.setLdwsAside_inv (State.onWarp_inv h13))
  · exact pair_mk (State.setLdwsAside_inv (State.onWarp_inv (State.deadlockFault_inv h)))
  · exact pair_mk (State.dropRequests_inv (State.onWarp_inv h5))
  · split
    extract_lets s14
    exact pair_mk (State.setLdwsAside_inv (State.onWarp_inv (State.deadlockFault_inv h)))

theorem execWatchdogFire_keeps {core slot : Nat} {s : State} (h : s.Inv) : Keeps (execWatchdogFire core slot s) :=
    by
  unfold execWatchdogFire
  extract_lets s1 s2 s3 s4
  refine keeps_ite ?_ (keeps_next h)
  split
  rename_i e10
  have h11 := pair_eq e10 <| by
    refine pair_foldl (pair_mk h) fun s5 e6 h7 => ?_
    split
    split
    split
    rename_i e8
    have h9 := pair_eq e8 (State.deadlock_keeps h7)
    exact pair_mk h9
  extract_lets s12 s13
  have h14 : s13.Inv := State.ring_inv h11
  exact keeps_next (State.progress_inv h14)

theorem execTrapEntry_keeps {w : Nat} {s : State} (h : s.Inv) : Keeps (execTrapEntry w s) := by
  unfold execTrapEntry
  exact keeps_ite (keeps_ite (keeps_next (State.wake_inv (State.progress_inv (State.onWarp_inv h)))) (keeps_ite
      (keeps_next (State.wake_inv (State.progress_inv (State.takeTrap_inv h)))) (keeps_next h))) (keeps_next h)

/-! ### MemEvents.lean -/

theorem State.markDone_inv {s : State} {w seq : Nat} {p : Access → Bool} (h : s.Inv) : State.Inv (State.markDone s
    w seq p) := by
  unfold State.markDone
  exact State.onWarp_inv h

theorem State.setResult_inv {s : State} {w seq lane value : Nat} {flags : Word} (h : s.Inv) : State.Inv
    (State.setResult s w seq lane value flags) := by
  unfold State.setResult
  exact State.onWarp_inv h

theorem State.accessError_inv {s : State} {w : Nat} {o : Op} {a : Access} {sub : Nat} (h : s.Inv) : State.Inv
    (State.accessError s w o a sub) := by
  unfold State.accessError
  exact State.deferOp_inv h

theorem State.fillLine_inv {s : State} {core world pa home : Nat} (h : s.Inv) : State.Inv (State.fillLine s core
    world pa home) := by
  unfold State.fillLine
  split
  refine inv_ite h (State.onCore_inv h fun hc => ?_)
  extract_lets room pins t
  split
  · exact hc
  · split
    · exact hc
    · exact hc

theorem State.loadGlobal_keeps {s : State} {w : Nat} {o : Op} {fresh level1 : Bool} {va n : Nat} (h : s.Inv) :
    PairKeeps (State.loadGlobal s w o fresh level1 va n) := by
  unfold State.loadGlobal
  extract_lets s1 s2 s3
  split
  · rename_i e4
    have h5 := pair_eq e4 (State.coreTranslate_keeps h)
    exact pair_mk h5
  · rename_i e6
    have h7 := pair_eq e6 (State.coreTranslate_keeps h)
    extract_lets s8 s9
    have h10 : s9.Inv := State.dropLine_inv h7
    split
    · extract_lets s11
      exact pair_mk h7
    · split
      rename_i e12
      have h13 := pair_eq e12 (State.homeRead_keeps h10)
      exact pair_mk (inv_ite (State.fillLine_inv h13) h13)

theorem State.loadAccess_keeps {s : State} {w : Nat} {o : Op} {fresh level1 : Bool} {a : Access} (h : s.Inv) :
    PairKeeps (State.loadAccess s w o fresh level1 a) := by
  unfold State.loadAccess
  split
  · split
    exact pair_mk h
  · exact State.loadGlobal_keeps h

theorem State.performLoad_inv {s : State} {w : Nat} {o : Op} {fresh level1 : Bool} {value : List Byte → Nat ×
    Flags} {a : Access} (h : s.Inv) : State.Inv (State.performLoad s w o fresh level1 value a) := by
  unfold State.performLoad
  extract_lets s1
  split
  · rename_i e2
    have h3 := pair_eq e2 (State.loadAccess_keeps h)
    exact State.markDone_inv (State.setResult_inv (State.accessError_inv h3))
  · rename_i e4
    have h5 := pair_eq e4 (State.loadAccess_keeps h)
    extract_lets s6
    have h7 : s6.Inv := inv_ite (State.setResult_inv (State.warpConsumes_inv h5)) (State.setResult_inv h5)
    exact State.markDone_inv h7

theorem State.performLoads_inv {s : State} {w : Nat} {o : Op} {lanes : LaneSet} {fresh level1 : Bool} {value :
    List Byte → Nat × Flags} (h : s.Inv) : State.Inv (State.performLoads s w o lanes fresh level1 value) := by
  unfold State.performLoads
  exact inv_foldl h fun s1 e2 h3 => State.performLoad_inv h3

theorem State.deliverOp_inv {s : State} {w seq : Nat} (h : s.Inv) : State.Inv (State.deliverOp s w seq) := by
  unfold State.deliverOp
  split
  · exact h
  · extract_lets s1 s2
    have h3 : s1.Inv := State.onWarp_inv h
    have h4 : s2.Inv := by
      unfold s2
      split
      · exact State.acquire_inv h3
      · exact State.acquire_inv h3
      · exact h3
    exact inv_ite (State.wake_inv (State.finishOp_inv h4)) (State.wake_inv h)

theorem State.answerBud_inv {s : State} {w seq : Nat} {o : Op} {a : Access} (h : s.Inv) : State.Inv
    (State.answerBud s w seq o a) := by
  unfold State.answerBud
  extract_lets s1 s2 s3 s4 s5
  split
  · exact State.markDone_inv (State.setResult_inv (State.camFault_inv h))
  · extract_lets s6 s7
    refine inv_ite (State.markDone_inv (State.setResult_inv (State.camFault_inv h))) ?_
    split
    · exact State.markDone_inv (State.setResult_inv (State.camFault_inv h))
    · extract_lets s8 s9 s10
      have h11 : s10.Inv := State.camMark_inv h
      split
      · exact State.markDone_inv (State.setResult_inv h)
      · split
        · exact State.markDone_inv (State.setResult_inv (State.warpConsumes_inv h11))
        · exact State.markDone_inv (State.setResult_inv (State.camFault_inv h11))

theorem execLongLatencyResult_keeps {w seq : Nat} {lanes : LaneSet} {level1 : Bool} {s : State} (h : s.Inv) :
    Keeps (execLongLatencyResult w seq lanes level1 s) := by
  unfold execLongLatencyResult
  split
  · exact keeps_next h
  · refine keeps_ite (keeps_next h) ?_
    split
    · exact keeps_next (State.deliverOp_inv (State.performLoads_inv h))
    · exact keeps_next (State.deliverOp_inv (State.performLoads_inv h))
    · exact keeps_next (State.deliverOp_inv (State.performLoads_inv h))
    · exact keeps_next (State.deliverOp_inv (inv_foldl h fun s1 e2 h3 => State.answerBud_inv h3))
    · exact keeps_next h

theorem State.placeWrites_keeps {s : State} {w : Nat} {o : Op} {x1 : List Access} (h : s.Inv) : PairKeeps
    (State.placeWrites s w o x1) := by
  unfold State.placeWrites
  split
  · exact pair_mk h
  · split
    · exact State.placeWrites_keeps h
    · split
      · rename_i e1
        have h2 := pair_eq e1 (State.coreTranslate_keeps h)
        exact State.placeWrites_keeps (State.accessError_inv h2)
      · rename_i e3
        have h4 := pair_eq e3 (State.coreTranslate_keeps h)
        split
        rename_i e5
        have h6 := pair_eq e5 (State.placeWrites_keeps (State.dropLine_inv h4))
        exact pair_mk h6

theorem State.addToPath_inv {s : State} {key : Nat} {p : PathWrite} (h : s.Inv) : State.Inv (State.addToPath s key
    p) := by
  unfold State.addToPath
  extract_lets s1
  exact inv_paths h rfl rfl

theorem State.enterPath_inv {s : State} {w : Nat} {o : Op} {bytes : List (Nat × Byte)} {key : Nat} (h : s.Inv) :
    State.Inv (State.enterPath s w o bytes key) := by
  unfold State.enterPath
  extract_lets s1
  exact State.addToPath_inv h

theorem State.releaseOf_inv {s : State} {w : Nat} {o : Op} (h : s.Inv) : State.Inv (State.releaseOf s w o) := by
  unfold State.releaseOf
  split
  · exact State.markRelease_inv h
  · exact State.markRelease_inv h
  · exact h

theorem State.writeAll_inv {s : State} {w : Nat} {o : Op} {acc : List Access} (h : s.Inv) : State.Inv
    (State.writeAll s w o acc) := by
  unfold State.writeAll
  extract_lets s1 s2
  have h3 : s1.Inv := inv_ite h (State.releaseOf_inv h)
  have h7 : s2.Inv := inv_foldl h3 fun s4 e5 h6 => State.coreWrite_inv h6
  split
  rename_i e8
  have h9 := pair_eq e8 (State.placeWrites_keeps h7)
  extract_lets s10
  have h14 : s10.Inv := inv_foldl h9 fun s11 e12 h13 => State.enterPath_inv h13
  exact State.markDone_inv h14

theorem State.performStores_inv {s : State} {w seq : Nat} {lanes : LaneSet} {dest : Nat} {register : Bool} (h :
    s.Inv) : State.Inv (State.performStores s w seq lanes dest register) := by
  unfold State.performStores
  split
  · exact h
  · split
    · exact State.wake_inv (State.retire_inv (State.writeAll_inv h))
    · exact State.wake_inv (State.retire_inv (State.writeAll_inv h))
    · exact State.wake_inv (State.retire_inv (State.writeAll_inv h))
    · exact h

theorem execRegisterWindowWriteArrive_keeps {w seq : Nat} {lanes : LaneSet} {s : State} (h : s.Inv) : Keeps
    (execRegisterWindowWriteArrive w seq lanes s) := by
  unfold execRegisterWindowWriteArrive
  exact keeps_next (State.performStores_inv h)

theorem State.pathArrive_inv {s : State} {key : Nat} (h : s.Inv) : State.Inv (State.pathArrive s key) := by
  unfold State.pathArrive
  split
  · exact h
  · exact inv_ite h (State.wake_inv (State.retire_inv (State.applyPath_inv h)))

theorem State.engineWrite_inv {s : State} {e : EngRef} {i : Nat} (h : s.Inv) : State.Inv (State.engineWrite s e i)
    := by
  unfold State.engineWrite
  extract_lets s1
  have h2 : s1.Inv := State.onProg_inv h
  split
  · exact h
  · split
    · exact h
    · refine inv_ite h ?_
      split
      · exact State.tryFinish_inv (State.progFault_inv (State.keepWalks_inv h2))
      · exact State.tryFinish_inv (State.engWrite_inv h2)

theorem execWritePerformed_keeps {r : WriteRef} {s : State} (h : s.Inv) : Keeps (execWritePerformed r s) := by
  unfold execWritePerformed
  split
  · exact keeps_next (State.performStores_inv h)
  · exact keeps_next (State.pathArrive_inv h)
  · exact keeps_next (State.engineWrite_inv h)

theorem State.performAtomic_inv {s : State} {w : Nat} {o : Op} {i : Instr} {returns : Bool} {a : Access} (h :
    s.Inv) : State.Inv (State.performAtomic s w o i returns a) := by
  unfold State.performAtomic
  extract_lets s1 s2 s3
  have h4 : s2.Inv := State.releaseOf_inv h
  split
  rename_i e18
  have h19 := pair_eq e18 <| by
    split
    · split
      rename_i e5
      have h6 := pair_eq e5 (State.atomicStore_keeps h4)
      exact pair_mk h6
    · split
      · rename_i e7
        have h8 := pair_eq e7 (State.coreTranslate_keeps h4)
        exact pair_mk h8
      · rename_i e9
        have h10 := pair_eq e9 (State.coreTranslate_keeps h4)
        extract_lets s11 s12 s13 s14
        have h15 : s11.Inv := State.dropLine_inv h10
        refine pair_ite ?_ (pair_mk (State.addToPath_inv h15))
        split
        rename_i e16
        have h17 := pair_eq e16 (State.atomicHome_keeps (State.flushPath_inv h15))
        exact pair_mk h17
  split
  rename_i e20
  have h21 := pair_eq e20 <| by
    split
    · exact pair_mk (State.accessError_inv h19)
    · exact pair_ite (pair_mk (State.warpConsumes_inv h19)) (pair_mk h19)
  extract_lets s22
  have h23 : s22.Inv := inv_ite (State.setResult_inv h21) h21
  exact State.markDone_inv h23

theorem execAtomicPerform_keeps {w seq : Nat} {s : State} (h : s.Inv) : Keeps (execAtomicPerform w seq s) := by
  unfold execAtomicPerform
  split
  · exact keeps_next h
  · extract_lets s1
    split
    · exact keeps_next h
    · refine keeps_ite (keeps_next h) ?_
      split
      · extract_lets s2 s3
        have h4 : s2.Inv := State.performAtomic_inv h
        have h5 : s3.Inv := by
          unfold s3
          split
          · exact inv_ite (State.acquire_inv h4) h4
          · exact inv_ite (State.acquire_inv h4) h4
          · exact h4
        exact keeps_next (State.wake_inv h5)
      · exact keeps_next (State.wake_inv (State.retire_inv (State.performAtomic_inv h)))
      · exact keeps_next h

theorem execAtomicReturn_keeps {w seq : Nat} {s : State} (h : s.Inv) : Keeps (execAtomicReturn w seq s) := by
  unfold execAtomicReturn
  split
  · exact keeps_next h
  · split
    · exact keeps_ite (keeps_next (State.wake_inv (State.finish_inv h))) (keeps_next h)
    · exact keeps_next h

theorem execCreditCharge_keeps {core offset : Nat} {s : State} (h : s.Inv) : Keeps (execCreditCharge core offset
    s) := by
  unfold execCreditCharge
  exact keeps_next (State.pushesOn_inv (State.chargeHeld_inv h))

theorem State.lockWord_keeps {s : State} {w : Nat} {o : Op} (h : s.Inv) : PairKeeps (State.lockWord s w o) := by
  unfold State.lockWord
  split
  · split
    · rename_i e1
      have h2 := pair_eq e1 (State.coreTranslate_keeps h)
      exact pair_mk h2
    · rename_i e3
      have h4 := pair_eq e3 (State.coreTranslate_keeps h)
      extract_lets s5
      have h6 : s5.Inv := State.checkMac_inv h4
      exact pair_ite (pair_mk h6) (pair_mk h6)
  · exact pair_mk h

theorem State.lockLost_inv {s : State} {w : Nat} {o : Op} {c : Nat ⊕ Nat} (h : s.Inv) : State.Inv (State.lockLost
    s w o c) := by
  unfold State.lockLost
  extract_lets s1
  have h2 : s1.Inv := by
    unfold s1
    split
    · exact State.deferOp_inv h
    · exact State.consume_inv h
  exact State.wake_inv (State.finishOp_inv h2)

theorem State.reachLock_inv {s : State} {w pa : Nat} (h : s.Inv) : State.Inv (State.reachLock s w pa) := by
  unfold State.reachLock
  exact State.flushPath_inv (State.dropLine_inv h)

theorem State.lockArrive_inv {s : State} {w seq : Nat} (h : s.Inv) : State.Inv (State.lockArrive s w seq) := by
  unfold State.lockArrive
  split
  · exact h
  · refine inv_ite h ?_
    split
    · rename_i e1
      have h2 := pair_eq e1 (State.lockWord_keeps h)
      exact State.lockLost_inv h2
    · rename_i e3
      have h4 := pair_eq e3 (State.lockWord_keeps h)
      extract_lets s5 s6
      have h7 : s5.Inv := State.reachLock_inv h4
      split
      · exact State.wake_inv (State.finishOp_inv (State.acquire_inv (State.writeLock_inv h7)))
      · exact inv_ite (State.wake_inv (State.finishOp_inv (State.deferOp_inv h7))) (State.writeLock_inv h7)

theorem execLockRequestArrive_keeps {w seq : Nat} {s : State} (h : s.Inv) : Keeps (execLockRequestArrive w seq s)
    := by
  unfold execLockRequestArrive
  exact keeps_next (inv_foldl h fun s1 e2 h3 => State.lockArrive_inv h3)

theorem State.freeLock_inv {s : State} {pa : Nat} {l : Lock} (h : s.Inv) : State.Inv (State.freeLock s pa l) := by
  unfold State.freeLock
  split
  · exact State.writeLock_inv h
  · extract_lets s1 s2
    have h3 : s1.Inv := State.writeLock_inv h
    exact State.wake_inv (State.finishOp_inv (State.acquire_inv h3))

theorem execUnlockArrive_keeps {w seq : Nat} {s : State} (h : s.Inv) : Keeps (execUnlockArrive w seq s) := by
  unfold execUnlockArrive
  split
  · exact keeps_next h
  · refine keeps_ite (keeps_next h) ?_
    split
    · rename_i e1
      have h2 := pair_eq e1 (State.lockWord_keeps (State.markRelease_inv h))
      exact keeps_next (State.lockLost_inv h2)
    · rename_i e3
      have h4 := pair_eq e3 (State.lockWord_keeps (State.markRelease_inv h))
      extract_lets s5 s6
      have h7 : s5.Inv := State.reachLock_inv h4
      exact keeps_ite (keeps_next (State.wake_inv (State.finishOp_inv (State.freeLock_inv h7)))) (keeps_next
          (State.wake_inv (State.finishOp_inv (State.deferOp_inv h7))))

theorem execFenceAcknowledge_keeps {w seq : Nat} {s : State} (h : s.Inv) : Keeps (execFenceAcknowledge w seq s) :=
    by
  unfold execFenceAcknowledge
  split
  · exact keeps_next h
  · exact keeps_ite (keeps_next (State.wake_inv (State.finishOp_inv (State.makeFence_inv h)))) (keeps_next h)

theorem State.ldwFinish_inv {s : State} {w seq : Nat} {f : Op → Op} (h : s.Inv) : State.Inv (State.ldwFinish s w
    seq f) := by
  unfold State.ldwFinish
  extract_lets s1 s2
  have h3 : s1.Inv := State.onWarp_inv h
  have h4 : s2.Inv := State.onCore_same h3
  exact State.deliverOp_inv h4

theorem execLdwAction_keeps {w seq : Nat} {s : State} (h : s.Inv) : Keeps (execLdwAction w seq s) := by
  unfold execLdwAction
  extract_lets s1
  split
  · exact keeps_next h
  · extract_lets s2 s3 s4
    have h5 : s3.Inv := by
      unfold s3
      split
      · exact State.warpConsumes_inv h
      · exact h
    split
    · extract_lets s6
      have h7 : s6.Inv := inv_ite (State.clearGranules_inv h5) h5
      exact keeps_ite (keeps_next (State.ldwFinish_inv h7)) (keeps_next h)
    · exact keeps_next h

theorem State.endTransfer_inv {s : State} {n : Nat} {t : Transfer} (h : s.Inv) : State.Inv (State.endTransfer s n
    t) := by
  unfold State.endTransfer
  extract_lets s1
  have h2 : s1.Inv := State.dropTransfer_inv (State.closeWindow_inv h)
  split
  · exact State.wake_inv (State.finishOp_inv h2)
  · exact State.tryFinish_inv h2

theorem State.reclaim_inv {s : State} {n : Nat} (h : s.Inv) : State.Inv (State.reclaim s n) := by
  unfold State.reclaim
  split
  · exact h
  · split
    · exact h
    · exact State.onWindow_inv h

theorem State.landNext_inv {s : State} {n : Nat} {t : Transfer} {g : Nat} {b : List Byte} (h : s.Inv) : State.Inv
    (State.landNext s n t g b) := by
  unfold State.landNext
  extract_lets s1 s2 s3 s4
  have h5 : s1.Inv := State.landGranule_inv h
  have h6 : s2.Inv := State.reclaim_inv h5
  have h7 : s4.Inv := State.onTransfer_inv h6
  exact inv_ite (State.endTransfer_inv h7) h7

theorem State.poisonLdws_inv {s : State} {t : Transfer} (h : s.Inv) : State.Inv (State.poisonLdws s t) := by
  unfold State.poisonLdws
  refine inv_foldl h fun s1 e2 h3 => ?_
  split
  split
  · exact h3
  · exact inv_ite (State.ldwFinish_inv h3) h3

theorem State.copyFails_inv {s : State} {n : Nat} {t : Transfer} {c : Nat} (h : s.Inv) : State.Inv
    (State.copyFails s n t c) := by
  unfold State.copyFails
  split
  · exact h
  · extract_lets op s1 s2 s3 s4 s5
    have h3 : s3.Inv := State.poisonLdws_inv (State.onWindow_inv (State.cancelTransfer_inv h))
    have h4 : s4.Inv := by
      clear_value op
      unfold s4
      split
      · exact State.deferOp_inv h3
      · exact h3
    have h5 : s5.Inv := inv_ite (State.consume_inv h4) h4
    exact State.wake_inv (State.finishOp_inv h5)

theorem execWindowCopyFault_keeps {n : Nat} {s : State} (h : s.Inv) : Keeps (execWindowCopyFault n s) := by
  unfold execWindowCopyFault
  split
  · exact keeps_next h
  · split
    · exact keeps_next (State.copyFails_inv h)
    · exact keeps_next h

theorem execCopyGranuleLand_keeps {n g : Nat} {s : State} (h : s.Inv) : Keeps (execCopyGranuleLand n g s) := by
  unfold execCopyGranuleLand
  split
  · exact keeps_next h
  · split
    · exact keeps_next h
    · refine keeps_ite ?_ (keeps_next h)
      split
      · rename_i e1
        have h2 := pair_eq e1 (State.granuleBytes_keeps h)
        exact keeps_next (State.copyFails_inv h2)
      · rename_i e3
        have h4 := pair_eq e3 (State.granuleBytes_keeps h)
        exact keeps_next (State.copyFails_inv (State.landGranule_inv h4))
      · rename_i e5
        have h6 := pair_eq e5 (State.granuleBytes_keeps h)
        exact keeps_next (State.landNext_inv h6)

theorem State.pushGranule_keeps {s : State} {e : EngRef} {t : Transfer} {n : Nat} (h : s.Inv) : PairKeeps
    (State.pushGranule s e t n) := by
  unfold State.pushGranule
  split
  · exact pair_mk h
  · split
    · rename_i e1
      have h2 := pair_eq e1 (State.granuleBytes_keeps h)
      exact pair_mk h2
    · rename_i e3
      have h4 := pair_eq e3 (State.granuleBytes_keeps h)
      extract_lets s5 s6 s7
      exact pair_mk (inv_upd h4 rfl rfl rfl)

theorem State.dropPush_inv {s : State} {t : Transfer} (h : s.Inv) : State.Inv (State.dropPush s t) := by
  unfold State.dropPush
  refine inv_foldl h fun s1 e2 h3 => ?_
  split
  extract_lets s4
  have h5 : s4.Inv := by
    unfold s4
    split
    · exact State.onWindow_inv h3
    · exact h3
  exact inv_ite (State.dropTransfer_inv h5) h3

theorem execPushGranuleLand_keeps {n g : Nat} {s : State} (h : s.Inv) : Keeps (execPushGranuleLand n g s) := by
  unfold execPushGranuleLand
  split
  · exact keeps_next h
  · split
    · exact keeps_next h
    · extract_lets s1
      refine keeps_ite ?_ (keeps_next h)
      split
      · rename_i e2
        have h3 := pair_eq e2 (State.pushGranule_keeps h)
        exact keeps_next (State.tryFinish_inv (State.progFault_inv (State.dropPush_inv h3)))
      · rename_i e4
        have h5 := pair_eq e4 (State.pushGranule_keeps h)
        exact keeps_next (State.tryFinish_inv (State.progError_inv (State.dropPush_inv (State.landGranule_inv h5))))
      · rename_i e6
        have h7 := pair_eq e6 (State.pushGranule_keeps h)
        exact keeps_next (State.landNext_inv h7)

theorem State.dropRecords_inv {s : State} {f : RecordFence} (h : s.Inv) : State.Inv (State.dropRecords s f) := by
  unfold State.dropRecords
  extract_lets s1
  exact inv_upd h rfl rfl rfl

theorem execRecordInvalidationComplete_keeps {w seq : Nat} {s : State} (h : s.Inv) : Keeps
    (execRecordInvalidationComplete w seq s) := by
  unfold execRecordInvalidationComplete
  split
  · exact keeps_next h
  · extract_lets s1 s2
    have h3 : s1.Inv := State.dropRecords_inv h
    exact keeps_ite (keeps_next (State.wake_inv (inv_upd h3 rfl rfl rfl))) (keeps_next h)

/-! ### Placement.lean -/

theorem State.mailboxInterrupt_inv {s : State} {m : Nat} (h : s.Inv) : State.Inv (State.mailboxInterrupt s m) := by
  unfold State.mailboxInterrupt
  extract_lets s1
  exact inv_ite (State.output_inv h) h

theorem State.complete_inv {s : State} {m slot addr : Nat} {bytes : List Byte} (h : s.Inv) : State.Inv
    (State.complete s m slot addr bytes) := by
  unfold State.complete
  extract_lets s1 s2 s3
  have h4 : s2.Inv := State.keepWalk_inv h
  have h7 : s3.Inv := by
    unfold s3
    refine inv_ite ?_ (inv_ite (State.ring_inv h) (State.hostWrite_inv h))
    clear_value s1
    split
    · exact State.ring_inv h4
    · extract_lets s5
      have h6 : s5.Inv := State.checkMac_inv h4
      exact inv_ite (State.ring_inv h6) (State.hbmWrite_inv h6)
  exact State.mailboxInterrupt_inv h7

theorem State.finishDispatch_inv {s : State} {d state code att : Nat} (h : s.Inv) : State.Inv
    (State.finishDispatch s d state code att) := by
  unfold State.finishDispatch
  split
  · exact h
  · extract_lets s1 s2 s3
    have h4 : s1.Inv := State.complete_inv h
    have h5 : s2.Inv := State.onMailbox_inv h4
    exact inv_upd h5 rfl rfl rfl

theorem State.mailboxError_inv {s : State} {m : Nat} (h : s.Inv) : State.Inv (State.mailboxError s m) := by
  unfold State.mailboxError
  extract_lets s1 s2
  exact State.ring_inv (State.onMailbox_inv h)

theorem State.holdDispatch_inv {s : State} {m slot e : Nat} {r : BitVec 2048} (h : s.Inv) : State.Inv
    (State.holdDispatch s m slot e r) := by
  unfold State.holdDispatch
  extract_lets s1 s2 s3
  have h4 : s3.Inv := inv_upd h rfl rfl rfl
  exact inv_ite (State.onMailbox_inv h4) h4

theorem State.holdCommand_inv {s : State} {m slot : Nat} {c : BitVec 320} (h : s.Inv) : State.Inv
    (State.holdCommand s m slot c) := by
  unfold State.holdCommand
  extract_lets s1 s2
  exact inv_upd h rfl rfl rfl

theorem execMailboxTakeEntry_keeps {m : Nat} {s : State} (h : s.Inv) : Keeps (execMailboxTakeEntry m s) := by
  unfold execMailboxTakeEntry
  extract_lets s1 s2 s3 s4
  have h5 : s2.Inv := State.onMailbox_inv h
  have h6 : s4.Inv := inv_upd h5 rfl rfl rfl
  split
  · extract_lets s7 s8
    have h9 : s7.Inv := inv_ite (State.engMark_inv h) h
    have h10 : s8.Inv := State.ring_inv h6
    refine keeps_ite (keeps_next h) ?_
    split
    · exact keeps_next (State.mailboxError_inv h9)
    · extract_lets s11 s12 s13
      exact keeps_ite (keeps_ite (keeps_next (State.complete_inv h10)) (keeps_next h10)) (keeps_ite (keeps_next
          (State.holdDispatch_inv h6)) (keeps_ite (keeps_next (State.complete_inv h6)) (keeps_next
          (State.holdCommand_inv h6))))
  · exact keeps_next h

theorem State.acceptDispatch_inv {s : State} {d : Nat} {x : Dispatch} {a : Accepted} (h : s.Inv) : State.Inv
    (State.acceptDispatch s d x a) := by
  unfold State.acceptDispatch
  extract_lets s1 s2 s3 s4 s5
  have h6 : s3.Inv := State.onDispatch_inv h
  have h7 : s4.Inv := State.onMailbox_inv h6
  exact inv_upd h7 rfl rfl rfl

theorem State.reject_inv {s : State} {d : Nat} {x : Dispatch} {code : Nat} (h : s.Inv) : State.Inv (State.reject s
    d x code) := by
  unfold State.reject
  exact inv_ite h (State.finishDispatch_inv (State.engMark_inv h))

theorem execDispatchAccept_keeps {d : Nat} {s : State} (h : s.Inv) : Keeps (execDispatchAccept d s) := by
  unfold execDispatchAccept
  split
  · exact keeps_next h
  · refine keeps_ite (keeps_next h) ?_
    split
    · exact keeps_next (State.reject_inv h)
    · exact keeps_next (State.acceptDispatch_inv h)

theorem State.placeOn_inv {s : State} {d : Nat} {x : Dispatch} {rank core gslot base : Nat} (h : s.Inv) :
    (s.placeOn d x rank core gslot base).Inv := by
  unfold State.placeOn
  extract_lets g r hd wpg nreg scratch bars windows y c1 s1 s2 inWindow granules s3 s4 cambial now pc n warps c4 s5
  have h2 : s2.Inv := State.takeStore_inv (State.dropLevel1_inv (inv_upd h rfl rfl rfl))
  have h3 : s3.Inv := by
    refine State.onCore_inv h2 fun hc => ?_
    have hc := Core.wf_iff.mp hc
    refine Core.wf_iff.mpr ⟨hc.1, tcanon_foldl _ (fun _ _ => tcanon_tset _ _) _ hc.2.1, ?_⟩
    refine tcanon_foldl _ (fun t e h => ?_) _ hc.2.2
    split
    · exact tcanon_tset _ _ h
    · exact h
  have h4 : s4.Inv := inv_foldl h3 fun _ _ h => State.coreWrite_inv h
  have h5 : s5.Inv := inv_upd h4 rfl rfl rfl
  exact State.progress_inv (State.onDispatch_inv h5)

theorem State.placeOne_keeps {s : State} {d : Nat} {x : Dispatch} {rank : Nat} {cores : List Nat} (h : s.Inv) :
    OptKeeps (State.placeOne s d x rank cores) := by
  unfold State.placeOne
  split
  · exact opt_none
  · split
    · exact opt_some (State.placeOn_inv h)
    · exact opt_none

theorem State.placeMany_keeps {s : State} {d : Nat} {x : Dispatch} {cores : List Nat} {rank n : Nat} (h : s.Inv) :
    OptKeeps (s.placeMany d x cores rank n) := by
  induction n generalizing s rank with
  | zero => exact opt_some h
  | succ n ih =>
    unfold State.placeMany
    split
    · exact opt_none
    · exact ih (opt_eq ‹_› (State.placeOne_keeps h))

theorem State.placeCluster_keeps {s : State} {d : Nat} {x : Dispatch} {rank : Nat} {l : List Nat} (h : s.Inv) :
    OptKeeps (s.placeCluster d x rank l) := by
  induction l with
  | nil => exact opt_none
  | cons c t ih =>
    unfold State.placeCluster
    split
    · exact opt_some (opt_eq ‹_› (State.placeMany_keeps h))
    · exact ih

theorem State.placeNext_keeps {s : State} {d : Nat} {x : Dispatch} {ds : List Nat} (h : s.Inv) : OptKeeps
    (State.placeNext s d x ds) := by
  unfold State.placeNext
  exact opt_ite (State.placeOne_keeps h) (State.placeCluster_keeps h)

theorem State.freeLocks_inv {s : State} {d : Nat} (h : s.Inv) : State.Inv (State.freeLocks s d) := by
  unfold State.freeLocks
  extract_lets s1 s2
  refine inv_foldl h fun s3 e4 h5 => ?_
  split
  extract_lets s6
  split
  · exact inv_ite (State.ring_inv (State.freeLock_inv h5)) (inv_ite h5 (State.writeLock_inv h5))
  · exact h5

theorem State.dropAborts_inv {s : State} {d : Nat} (h : s.Inv) : State.Inv (State.dropAborts s d) := by
  unfold State.dropAborts
  extract_lets s1
  exact inv_upd h rfl rfl rfl

theorem State.dropDispatchLines_inv {s : State} {x : Dispatch} (h : s.Inv) : State.Inv (State.dropDispatchLines s
    x) := by
  unfold State.dropDispatchLines
  exact inv_foldl h fun s1 e2 h3 => State.onCore_same h3

theorem State.closeDispatch_inv {s : State} {d : Nat} {x : Dispatch} (h : s.Inv) : State.Inv (State.closeDispatch
    s d x) := by
  unfold State.closeDispatch
  extract_lets s1 s2 s3 s4 s5
  have h6 : s1.Inv := State.freeLocks_inv (State.flushDispatch_inv h)
  have h10 : s2.Inv := by
    unfold s2
    refine State.pruneSaves_inv (inv_foldl h6 fun s7 e8 h9 => ?_)
    split
    exact State.freeGroup_inv h9
  have h11 : s3.Inv := State.dropDispatchLines_inv (State.dropAborts_inv (State.dropCambium_inv h10))
  exact inv_upd h11 rfl rfl rfl

theorem execDispatchComplete_keeps {d : Nat} {s : State} (h : s.Inv) : Keeps (execDispatchComplete d s) := by
  unfold execDispatchComplete
  extract_lets s1
  have h2 : s1.Inv := State.endCambium_inv h
  split
  · exact keeps_next h
  · refine keeps_ite (keeps_next h) ?_
    split
    · exact keeps_ite (keeps_next h) (keeps_next (State.finishDispatch_inv h))
    · split
      · exact keeps_next h2
      · exact keeps_ite (keeps_next (State.finishDispatch_inv (State.closeDispatch_inv h2))) (keeps_next h2)
    · exact keeps_next h

theorem State.abortPrograms_inv {s : State} {d : Nat} (h : s.Inv) : State.Inv (State.abortPrograms s d) := by
  unfold State.abortPrograms
  extract_lets s1 s2 s3 s4
  have h8 : s2.Inv := by
    unfold s2
    refine inv_foldl h fun s5 e6 h7 => ?_
    split
    · exact inv_ite (State.abortProg_inv h7) h7
    · exact h7
  have h23 : s3.Inv := by
    unfold s3
    refine inv_foldl h8 fun s9 e10 h11 => ?_
    split
    extract_lets s12 s13 s14
    have h18 : s13.Inv := inv_foldl h11 fun s15 e16 h17 => State.accepted_inv (State.abortQueued_inv h17)
    have h22 : s14.Inv := inv_foldl h18 fun s19 e20 h21 => State.abortQueued_inv h21
    exact State.onRoot_inv h22
  have h39 : s4.Inv := by
    unfold s4
    refine inv_foldl h23 fun s24 e25 h26 => ?_
    split
    extract_lets s27 s28 s29 s30
    have h34 : s28.Inv := inv_foldl h26 fun s31 e32 h33 => State.abortQueued_inv h33
    have h38 : s30.Inv := inv_foldl h34 fun s35 e36 h37 => State.finishOp_inv h37
    exact State.onCanopy_inv h38
  refine inv_foldl h39 fun s40 e41 h42 => ?_
  split
  extract_lets s43
  have h47 : s43.Inv := inv_foldl h42 fun s44 e45 h46 => State.abortQueued_inv h46
  exact State.onDie_inv h47

theorem State.stopWarp_inv {s : State} {w : Nat} (h : s.Inv) : State.Inv (State.stopWarp s w) := by
  unfold State.stopWarp
  split
  · split
    · exact inv_ite (State.onClause_inv h) h
    · exact h
  · exact h
  · exact State.progress_inv (State.onWarp_inv (State.dropRequests_inv (State.withdrawLdws_inv h)))

theorem execDispatchKill_keeps {d : Nat} {s : State} (h : s.Inv) : Keeps (execDispatchKill d s) := by
  unfold execDispatchKill
  extract_lets s1 s2 s3 s4 held s5
  have h1 : s1.Inv := State.onDispatch_inv h
  have h2 : s2.Inv := inv_foldl h1 fun _ _ h => State.stopWarp_inv h
  have h4 : s4.Inv := State.dropCambium_inv (State.abortPrograms_inv h2)
  have h5 : s5.Inv := inv_foldl h4 fun _ _ h => State.cancelTransfer_inv h
  clear_value s5
  split
  · exact keeps_next h
  · split
    · exact keeps_ite (keeps_next (State.onDispatch_inv (State.closeDispatch_inv h5))) (keeps_next h5)
    · exact keeps_next h

theorem State.sendAbort_inv {s : State} {ctx die comm : Nat} {attempt : BitVec 16} (h : s.Inv) : State.Inv
    (State.sendAbort s ctx die comm attempt) := by
  unfold State.sendAbort
  extract_lets s1
  refine inv_foldl h fun s2 e3 h4 => ?_
  extract_lets s5 s6
  exact inv_upd h4 rfl rfl rfl

theorem execDispatchReplay_keeps {d : Nat} {s : State} (h : s.Inv) : Keeps (execDispatchReplay d s) := by
  unfold execDispatchReplay
  split
  · exact keeps_next h
  · extract_lets s1 s2
    have h6 : s1.Inv := by
      unfold s1
      refine inv_foldl h fun s3 e4 h5 => ?_
      split
      split
      · exact State.restorePage_inv h5
      · exact h5
    have h10 : s2.Inv := by
      unfold s2
      refine inv_foldl h6 fun s7 e8 h9 => ?_
      split
      exact State.sendAbort_inv h9
    split
    · exact keeps_ite (keeps_next h) (keeps_next (State.onDispatch_inv h10))
    · refine keeps_ite (keeps_next h) (keeps_ite ?_ (keeps_next (inv_ite h (State.finishDispatch_inv h))))
      split
      · exact keeps_next (State.reject_inv h)
      · exact keeps_next (State.acceptDispatch_inv h)
    · exact keeps_next h

end Sys2Proof.Machine
end

