-- ==== Sys2Proof/Laws/InvEngines.lean ====
section
/-! SUPPORT. What keeps the invariant of Safety.lean: root, canopy and cambium engines, saving, repair, bring-up, host registers and attestation. One lemma for each operation,
which proofs cite instead of unfolding it. -/

namespace Sys2Proof.Machine

/-! ### RootCommands.lean -/

theorem State.serveAbort_inv {s : State} {r : Nat} {a : RootAbort} (h : s.Inv) : State.Inv (State.serveAbort s r
    a) := by
  unfold State.serveAbort
  extract_lets s1 s2 s3 s4 s5 s6 s7 s8 s9 s10 s11
  have h12 : s2.Inv := State.markRelease_inv h
  have h13 : s6.Inv := State.onRoot_inv h12
  have h17 : s7.Inv := inv_foldl h13 fun s14 e15 h16 => State.accepted_inv (State.abortQueued_inv h16)
  have h21 : s8.Inv := inv_foldl h17 fun s18 e19 h20 => State.abortQueued_inv h20
  have h25 : s9.Inv := inv_foldl h21 fun s22 e23 h24 => State.abortProg_inv h24
  have h26 : s11.Inv := State.onRoot_inv h25
  exact inv_ite (State.wake_inv (State.finishOp_inv h26)) (State.onRoot_inv h25)

theorem execRootProgramAccept_keeps {die slice : Nat} {s : State} (h : s.Inv) : Keeps (execRootProgramAccept die
    slice s) := by
  unfold execRootProgramAccept
  extract_lets s1
  split
  · exact keeps_next (State.serveAbort_inv h)
  · split
    · exact keeps_next h
    · extract_lets s2
      have h3 : s2.Inv := State.onRoot_inv h
      exact keeps_ite (keeps_next h) (keeps_next (State.accepted_inv h3))

theorem execRootProgramStart_keeps {die slice : Nat} {s : State} (h : s.Inv) : Keeps (execRootProgramStart die
    slice s) := by
  unfold execRootProgramStart
  extract_lets s1
  split
  · exact keeps_next (State.onRoot_inv h)
  · exact keeps_next h

theorem State.passTurn_inv {s : State} {e : EngRef} (h : s.Inv) : State.Inv (State.passTurn s e) := by
  unfold State.passTurn
  split
  · exact h
  · exact State.onRoot_inv h

theorem State.started_inv {s : State} {e : EngRef} {data : optParam Bool false} (h : s.Inv) : State.Inv
    (State.started s e data) := by
  unfold State.started
  exact State.onProg_inv (State.passTurn_inv h)

theorem command_keeps {c : CmdSpec} {run : EngRef → Prog → State → State} {s : State} (h : s.Inv)
    (hr : ∀ e p s, s.Inv → (run e p s).Inv) : Keeps (command c run s) := by
  unfold command
  split
  · exact h
  · split
    · exact h
    · have h1 := State.passTurn_inv (e := ‹_›) h
      exact keeps_ite h (keeps_ite h1 (hr _ _ _ (State.onProg_inv h1)))

theorem State.setReg_inv {s : State} {e : EngRef} {n : Fin 16} {v : Nat} (h : s.Inv) : State.Inv (State.setReg s e
    n v) := by
  unfold State.setReg
  exact State.onProg_inv h

theorem State.engStore_inv {s : State} {e : EngRef} {va : Nat} {bytes : List Byte} (h : s.Inv) : State.Inv
    (State.engStore s e va bytes) := by
  unfold State.engStore
  split
  · exact h
  · extract_lets s1 s2
    have h3 : s2.Inv := State.keepWalks_inv h
    clear_value s1 s2
    split
    · exact State.progFault_inv h3
    · exact inv_ite h3 (State.onProg_inv h3)

theorem execCmdNop_keeps {s : State} (h : s.Inv) : Keeps (execCmdNop s) := by
  unfold execCmdNop
  exact command_keeps h fun e1 e2 s3 h4 => h4

theorem execCmdSeti_keeps {fa : Fin 16} {x : Double} {s : State} (h : s.Inv) : Keeps (execCmdSeti fa x s) := by
  unfold execCmdSeti
  exact command_keeps h fun e1 e2 s3 h4 => State.setReg_inv h4

theorem execCmdAddi_keeps {fa fb : Fin 16} {x : Double} {s : State} (h : s.Inv) : Keeps (execCmdAddi fa fb x s) :=
    by
  unfold execCmdAddi
  exact command_keeps h fun e1 e2 s3 h4 => State.setReg_inv h4

theorem execCmdAdd_keeps {fa fb fc : Fin 16} {imm : Word} {s : State} (h : s.Inv) : Keeps (execCmdAdd fa fb fc imm
    s) := by
  unfold execCmdAdd
  exact command_keeps h fun e1 e2 s3 h4 => State.setReg_inv h4

theorem execCmdMad_keeps {fa fb fc : Fin 16} {x : Double} {s : State} (h : s.Inv) : Keeps (execCmdMad fa fb fc x
    s) := by
  unfold execCmdMad
  exact command_keeps h fun e1 e2 s3 h4 => State.setReg_inv h4

theorem State.branch_inv {s : State} {e : EngRef} {p : Prog} {imm : Word} (h : s.Inv) : State.Inv (State.branch s
    e p imm) := by
  unfold State.branch
  exact State.onProg_inv h

theorem execCmdBr_keeps {imm : Word} {s : State} (h : s.Inv) : Keeps (execCmdBr imm s) := by
  unfold execCmdBr
  exact command_keeps h fun e1 e2 s3 h4 => State.branch_inv h4

theorem execCmdBrc_keeps {fa fb : Fin 16} {cmp : MCond} {imm : Word} {s : State} (h : s.Inv) : Keeps (execCmdBrc
    fa fb cmp imm s) := by
  unfold execCmdBrc
  exact command_keeps h fun e1 e2 s3 h4 => inv_ite (State.branch_inv h4) h4

theorem execCmdLoop_keeps {fa : Fin 16} {imm : Word} {s : State} (h : s.Inv) : Keeps (execCmdLoop fa imm s) := by
  unfold execCmdLoop
  refine command_keeps h fun e1 e2 s3 h4 => ?_
  extract_lets s5 s6
  have h7 : s6.Inv := State.setReg_inv h4
  exact inv_ite (State.branch_inv h7) h7

theorem execCmdLdg_keeps {fa fb : Fin 16} {x : Double} {s : State} (h : s.Inv) : Keeps (execCmdLdg fa fb x s) := by
  unfold execCmdLdg
  refine command_keeps h fun e1 e2 s3 h4 => ?_
  extract_lets s5
  refine inv_ite (State.progFault_inv h4) ?_
  split
  · exact State.progError_inv h4
  · exact State.setReg_inv h4

theorem execCmdStg_keeps {fa fb : Fin 16} {x : Double} {rel : Bool} {s : State} (h : s.Inv) : Keeps (execCmdStg fa
    fb x rel s) := by
  unfold execCmdStg
  refine command_keeps h fun e1 e2 s3 h4 => ?_
  extract_lets s5
  exact inv_ite (State.progFault_inv h4) (State.engStore_inv h4)

theorem execCmdAtom_keeps {fa fb : Fin 16} {x : Double} {s : State} (h : s.Inv) : Keeps (execCmdAtom fa fb x s) :=
    by
  unfold execCmdAtom
  refine command_keeps h fun e1 e2 s3 h4 => ?_
  extract_lets s5
  refine inv_ite (State.progFault_inv h4) ?_
  split
  · exact State.progFault_inv (State.keepWalks_inv h4)
  · exact State.progError_inv h4
  · exact State.setReg_inv (State.engWrite_inv h4)

theorem execCmdMove_keeps {fa fb : Fin 16} {imm : Word} {s : State} (h : s.Inv) : Keeps (execCmdMove fa fb imm s)
    := by
  unfold execCmdMove
  extract_lets s1
  refine command_keeps h fun e2 e3 s4 h5 => inv_ite (State.progFault_inv h5) ?_
  split
  · exact State.progError_inv h5
  · exact State.engStore_inv h5

theorem execCmdSum_keeps {fa fb fc : Fin 16} {imm : Word} {bf16 : Bool} {s : State} (h : s.Inv) : Keeps
    (execCmdSum fa fb fc imm bf16 s) := by
  unfold execCmdSum
  extract_lets s1 s2
  refine command_keeps h fun e3 e4 s5 h6 => ?_
  extract_lets s7 s8 s9
  refine inv_ite (State.progFault_inv h6) (inv_ite (State.progFault_inv h6) (inv_ite (State.progFault_inv h6) ?_))
  split
  · exact State.progError_inv h6
  · exact State.progError_inv h6
  · exact State.engStore_inv h6

theorem execCmdFence_keeps {scope : Scope} {s : State} (h : s.Inv) : Keeps (execCmdFence scope s) := by
  unfold execCmdFence
  exact command_keeps h fun e1 e2 s3 h4 => inv_ite (State.progFault_inv h4) h4

theorem execCmdPush_keeps {fa fb fc : Fin 16} {s : State} (h : s.Inv) : Keeps (execCmdPush fa fb fc s) := by
  unfold execCmdPush
  refine command_keeps h fun e1 e2 s3 h4 => ?_
  split
  · rename_i e5
    have h6 := pair_eq e5 (State.pushRecord_keeps h4)
    exact State.progError_inv h6
  · rename_i e7
    have h8 := pair_eq e7 (State.pushRecord_keeps h4)
    split
    · exact State.progFault_inv h8
    · exact State.startPush_inv h8

theorem execCmdPushmc_keeps {fa fb fc : Fin 16} {imm : Word} {s : State} (h : s.Inv) : Keeps (execCmdPushmc fa fb
    fc imm s) := by
  unfold execCmdPushmc
  extract_lets s1
  refine command_keeps h fun e2 e3 s4 h5 => inv_ite (State.progFault_inv h5) ?_
  split
  · rename_i e6
    have h7 := pair_eq e6 (State.pushRecord_keeps h5)
    exact State.progError_inv h7
  · rename_i e8
    have h9 := pair_eq e8 (State.pushRecord_keeps h5)
    split
    · exact State.progError_inv h9
    · split
      · exact State.progFault_inv h9
      · exact State.startPush_inv h9

theorem execCmdStep_keeps {fa fb : Fin 16} {s : State} (h : s.Inv) : Keeps (execCmdStep fa fb s) := by
  unfold execCmdStep
  refine command_keeps h fun e1 e2 s3 h4 => ?_
  split
  · rename_i e5
    have h6 := pair_eq e5 (State.pushRecord_keeps h4)
    exact State.progError_inv h6
  · rename_i e7
    have h8 := pair_eq e7 (State.pushRecord_keeps h4)
    exact State.setReg_inv h8

theorem execCmdSig_keeps {fa : Fin 16} {imm : Word} {s : State} (h : s.Inv) : Keeps (execCmdSig fa imm s) := by
  unfold execCmdSig
  refine command_keeps h fun e1 e2 s3 h4 => ?_
  split
  · exact State.progFault_inv h4
  · split
    · exact inv_ite (State.progBadData_inv h4) (State.arrive_inv h4)
    · exact h4

theorem State.send_inv {s : State} {src : Nat} {f : Flight} (h : s.Inv) : State.Inv (State.send s src f) := by
  unfold State.send
  extract_lets s1
  exact inv_upd h rfl rfl rfl

theorem execCmdTok_keeps {imm : Word} {die : BitVec 10} {s : State} (h : s.Inv) : Keeps (execCmdTok imm die s) := by
  unfold execCmdTok
  refine command_keeps h fun e1 e2 s3 h4 => ?_
  extract_lets s5
  exact inv_ite (State.send_inv h4) (State.ring_inv h4)

theorem State.setTokens_inv {s : State} {die slot id n : Nat} (h : s.Inv) : State.Inv (State.setTokens s die slot
    id n) := by
  unfold State.setTokens
  exact State.onDie_inv h

theorem State.waitDone_inv {s : State} {e : EngRef} {p : Prog} {cmd : Instr} (h : s.Inv) : State.Inv
    (State.waitDone s e p cmd) := by
  unfold State.waitDone
  extract_lets s1
  have h2 : s1.Inv := State.onProg_inv h
  split
  · exact State.setTokens_inv h2
  · exact h2

theorem State.judgeWait_inv {s : State} {e : EngRef} {p : Prog} {cmd : Instr} {deadline : Option Nat} (h : s.Inv)
    : State.Inv (State.judgeWait s e p cmd deadline) := by
  unfold State.judgeWait
  split
  · split
    · exact State.progError_inv h
    · exact State.progBadData_inv h
    · exact h
  · exact State.waitDone_inv h
  · exact State.onProg_inv h

theorem execCmdWtok_keeps {imm : Word} {consume : Bool} {tmo : BitVec 28} {s : State} (h : s.Inv) : Keeps
    (execCmdWtok imm consume tmo s) := by
  unfold execCmdWtok
  exact command_keeps h fun e1 e2 s3 h4 => State.judgeWait_inv h4

theorem execCmdWbar_keeps {fa : Fin 16} {phase : Bool} {tmo : BitVec 28} {s : State} (h : s.Inv) : Keeps
    (execCmdWbar fa phase tmo s) := by
  unfold execCmdWbar
  refine command_keeps h fun e1 e2 s3 h4 => ?_
  split
  · exact State.progFault_inv h4
  · exact State.progFault_inv h4
  · exact State.judgeWait_inv h4

theorem execCmdWmem_keeps {fa fb : Fin 16} {cmp : MCond} {wide : Bool} {tmo : BitVec 28} {s : State} (h : s.Inv) :
    Keeps (execCmdWmem fa fb cmp wide tmo s) := by
  unfold execCmdWmem
  exact command_keeps h fun e1 e2 s3 h4 => inv_ite (State.progFault_inv h4) (State.judgeWait_inv h4)

theorem execEngineWaitMet_keeps {e : EngRef} {s : State} (h : s.Inv) : Keeps (execEngineWaitMet e s) := by
  unfold execEngineWaitMet
  split
  · exact keeps_next h
  · split
    · exact keeps_next (State.judgeWait_inv h)
    · exact keeps_next (State.pushOn_inv h)
    · exact keeps_next h

theorem execEngineWaitTimeout_keeps {e : EngRef} {s : State} (h : s.Inv) : Keeps (execEngineWaitTimeout e s) := by
  unfold execEngineWaitTimeout
  split
  · exact keeps_next h
  · split
    · exact keeps_ite (keeps_next (State.progFault_inv h)) (keeps_next h)
    · exact keeps_next h

theorem State.takePart_inv {s : State} {e : EngRef} {p : Prog} {key : Nat} {w : RedWait} {bytes : List Byte} (h :
    s.Inv) : State.Inv (State.takePart s e p key w bytes) := by
  unfold State.takePart
  extract_lets s1
  have h2 : s1.Inv := State.onProg_inv h
  split
  · exact State.tryFinish_inv (State.progFault_inv h2)
  · exact State.tryFinish_inv (State.engWrite_inv h2)

theorem State.passPart_inv {s : State} {e : EngRef} {p : Prog} {c : Comm} {comm key block : Nat} {adding : Bool}
    {w : RedWait} {bytes : List Byte} (h : s.Inv) : State.Inv (State.passPart s e p c comm key block adding w
    bytes) := by
  unfold State.passPart
  extract_lets s1 s2 s3 s4 s5 s6 s7 s8
  have h9 : s7.Inv := State.send_inv h
  have h10 : s8.Inv := State.takePart_inv h
  exact inv_ite (inv_ite (State.tryFinish_inv (State.onProg_inv h9)) h9) (inv_ite h10 (inv_ite (inv_ite (inv_foldl
      h10 fun s11 e12 h13 => State.send_inv h13) h10) (inv_ite h10 (State.send_inv h10))))

theorem State.startPart_inv {s : State} {e : EngRef} {p : Prog} {c : Comm} {comm src dst length : Nat} (h : s.Inv)
    : State.Inv (State.startPart s e p c comm src dst length) := by
  unfold State.startPart
  extract_lets s1 s2 s3 s4 s5
  have h6 : s5.Inv := State.onProg_inv h
  refine inv_ite ?_ h6
  split
  · exact State.tryFinish_inv (State.progError_inv h6)
  · exact State.passPart_inv h6

theorem execCmdRed_keeps {fa fb : Fin 16} {imm : Word} {comm : BitVec 8} {bf16 : Bool} {s : State} (h : s.Inv) :
    Keeps (execCmdRed fa fb imm comm bf16 s) := by
  unfold execCmdRed
  refine command_keeps h fun e1 e2 s3 h4 => ?_
  extract_lets s5 s6 s7 s8
  refine inv_ite (State.progFault_inv h4) ?_
  split
  · exact State.progFault_inv h4
  · extract_lets s9 s10 s11
    have h12 : s10.Inv := State.engMark_inv h4
    have h13 : s11.Inv := State.onProg_inv (State.onDie_inv h4)
    refine inv_ite (State.startPart_inv (State.onDie_inv h4)) ?_
    split
    · exact inv_ite (State.sendAbort_inv (State.consume_inv h12)) (State.progFault_inv h12)
    · extract_lets s14
      exact State.send_inv h13

theorem execCmdChunk_keeps {s : State} (h : s.Inv) : Keeps (execCmdChunk s) := by
  unfold execCmdChunk
  refine command_keeps h fun e1 e2 s3 h4 => ?_
  extract_lets s5
  have h6 : s5.Inv := State.onProg_inv h4
  refine inv_ite ?_ h6
  split
  rename_i e7
  have h8 := val_eq e7 (State.free_keeps h6)
  exact State.onProg_inv h8

theorem execCmdEnd_keeps {s : State} (h : s.Inv) : Keeps (execCmdEnd s) := by
  unfold execCmdEnd
  exact command_keeps h fun e1 e2 s3 h4 => State.tryFinish_inv (State.onProg_inv h4)

theorem execCmdBadOpcode_keeps {_opc : BitVec 8} {s : State} (h : s.Inv) : Keeps (execCmdBadOpcode _opc s) := by
  unfold execCmdBadOpcode
  exact command_keeps h fun e1 e2 s3 h4 => State.progFault_inv h4

/-! ### Canopy.lean -/

theorem State.enqueueBlock_inv {s : State} {die engine : Nat} {p : Prog} (h : s.Inv) : State.Inv
    (State.enqueueBlock s die engine p) := by
  unfold State.enqueueBlock
  extract_lets s1 s2
  have h3 : s2.Inv := State.onDie_inv h
  exact State.onCanopy_inv h3

theorem State.fireReady_inv {s : State} {die : Nat} (h : s.Inv) : State.Inv (State.fireReady s die) := by
  unfold State.fireReady
  refine inv_foldl h fun s1 e2 h3 => ?_
  split
  split
  · exact h3
  · extract_lets s4 s5
    have h9 : s5.Inv := inv_foldl h3 fun s6 e7 h8 => State.setTokens_inv h8
    exact inv_ite (State.onDie_inv h9) h3

theorem State.moveFired_inv {s : State} {die : Nat} (h : s.Inv) : State.Inv (State.moveFired s die) := by
  unfold State.moveFired
  refine inv_foldl h fun s1 e2 h3 => ?_
  split
  exact inv_ite (State.onCanopy_inv (State.onDie_inv h3)) h3

theorem State.fireBlocks_inv {s : State} {die : Nat} (h : s.Inv) : State.Inv (State.fireBlocks s die) := by
  unfold State.fireBlocks
  exact State.moveFired_inv (State.fireReady_inv h)

theorem State.landed_inv {s : State} {n : Nat} (h : s.Inv) : State.Inv (State.landed s n) := by
  unfold State.landed
  extract_lets s1
  exact inv_upd h rfl rfl rfl

theorem execTokenDeliver_keeps {n : Nat} {s : State} (h : s.Inv) : Keeps (execTokenDeliver n s) := by
  unfold execTokenDeliver
  extract_lets s1
  have h2 : s1.Inv := State.landed_inv h
  split
  · extract_lets s3
    have h4 : s3.Inv := State.ring_inv h2
    refine keeps_ite (keeps_next h) (keeps_ite (keeps_next h2) (keeps_ite ?_ (keeps_next (State.fireBlocks_inv
        (State.setTokens_inv h2)))))
    split
    · exact keeps_next (State.deferFault_inv h4)
    · exact keeps_next h4
  · exact keeps_next h

theorem execBlockTokenTimeout_keeps {die i : Nat} {s : State} (h : s.Inv) : Keeps (execBlockTokenTimeout die i s)
    := by
  unfold execBlockTokenTimeout
  extract_lets s1
  have h2 : s1.Inv := State.onDie_inv h
  split
  · exact keeps_next h
  · exact keeps_ite (keeps_next (State.abortQueued_inv h2)) (keeps_next h)

theorem State.takeMessage_inv {s : State} {k : Nat} {m : CanopyFront} (h : s.Inv) : State.Inv (State.takeMessage s
    k m) := by
  unfold State.takeMessage
  extract_lets s1
  have h2 : s1.Inv := State.onCanopy_inv (State.markRelease_inv h)
  exact State.wake_inv (State.finishOp_inv h2)

theorem State.messageFault_inv {s : State} {die : Nat} {m : CanopyFront} (h : s.Inv) : State.Inv
    (State.messageFault s die m) := by
  unfold State.messageFault
  exact State.deferFault_inv (State.ring_inv h)

theorem State.acceptBlock_inv {s : State} {die engine : Nat} {m : CanopyFront} {addr : Nat} (h : s.Inv) :
    State.Inv (State.acceptBlock s die engine m addr) := by
  unfold State.acceptBlock
  extract_lets s1 s2 s3
  have h4 : s3.Inv := State.takeMessage_inv h
  refine inv_ite h ?_
  split
  · extract_lets s5
    have h6 : s5.Inv := State.ring_inv (State.engMark_inv (State.takeMessage_inv h))
    exact inv_ite (State.consume_inv h6) h6
  · extract_lets s7 s8 s9
    split
    · exact inv_ite (State.abortQueued_inv (State.takeMessage_inv h)) h
    · exact inv_ite (inv_ite (State.enqueueBlock_inv (State.takeMessage_inv h)) h) (inv_ite h
        (State.fireBlocks_inv (State.onDie_inv h4)))

theorem execCanopyBlockAccept_keeps {die engine : Nat} {s : State} (h : s.Inv) : Keeps (execCanopyBlockAccept die
    engine s) := by
  unfold execCanopyBlockAccept
  extract_lets s1
  split
  · exact keeps_next h
  · split
    · exact keeps_next (State.acceptBlock_inv h)
    · extract_lets s2
      have h3 : s2.Inv := inv_ite (State.send_inv h) (State.messageFault_inv h)
      exact keeps_next (State.takeMessage_inv h3)
    · extract_lets s4
      have h5 : s4.Inv := inv_ite (State.sendAbort_inv h) (State.messageFault_inv h)
      exact keeps_next (State.takeMessage_inv h5)

theorem execCanopyBlockStart_keeps {die engine : Nat} {s : State} (h : s.Inv) : Keeps (execCanopyBlockStart die
    engine s) := by
  unfold execCanopyBlockStart
  extract_lets s1 s2
  have h3 : s2.Inv := State.fireBlocks_inv h
  split
  · extract_lets s4 s5 s6 s7 s8
    have h9 : s5.Inv := State.onDie_inv (State.onCanopy_inv h3)
    split
    · exact keeps_next (State.abortQueued_inv h9)
    · exact keeps_next (State.onCanopy_inv h9)
  · exact keeps_next h3

theorem State.advanceAttempt_inv {s : State} {die slot comm : Nat} {attempt : BitVec 16} (h : s.Inv) : State.Inv
    (State.advanceAttempt s die slot comm attempt) := by
  unfold State.advanceAttempt
  extract_lets s1 s2 s3 s4 s5 s6 s7
  have h8 : s1.Inv := State.onDie_inv h
  have h9 : s3.Inv := inv_upd h8 rfl rfl rfl
  have h15 : s4.Inv := by
    unfold s4
    refine inv_foldl h9 fun s10 e11 h12 => ?_
    extract_lets s13
    have h14 : s13.Inv := State.abortProg_inv h12
    split
    · exact inv_ite (State.tryFinish_inv (State.onProg_inv h14)) h12
    · exact h12
  have h26 : s5.Inv := by
    unfold s5
    refine inv_foldl h15 fun s16 e17 h18 => ?_
    extract_lets s19 s20 s21
    have h22 : s21.Inv := State.onCanopy_inv h18
    exact inv_foldl h22 fun s23 e24 h25 => State.abortQueued_inv h25
  have h27 : s7.Inv := State.onDie_inv h26
  exact inv_foldl h27 fun s28 e29 h30 => State.abortQueued_inv h30

theorem State.judgePacket_keeps {s : State} {die slot comm : Nat} {attempt : BitVec 16} (h : s.Inv) : PairKeeps
    (State.judgePacket s die slot comm attempt) := by
  unfold State.judgePacket
  split
  · exact pair_mk h
  · extract_lets s1
    exact pair_ite (pair_mk h) (pair_ite (pair_mk (State.onDie_inv h)) (pair_mk (State.advanceAttempt_inv h)))

theorem State.judgeAll_keeps {s : State} {slot comm : Nat} {attempt : BitVec 16} {x1 : List Nat} (h : s.Inv) :
    PairKeeps (State.judgeAll s slot comm attempt x1) := by
  unfold State.judgeAll
  split
  · exact pair_mk h
  · split
    · rename_i e1
      have h2 := pair_eq e1 (State.judgePacket_keeps h)
      exact pair_mk h2
    · rename_i e3
      have h4 := pair_eq e3 (State.judgePacket_keeps h)
      exact State.judgeAll_keeps h4

theorem State.judgeArrival_keeps {s : State} {x : Packet} {slot comm : Nat} {attempt : BitVec 16} {die : Nat} (h :
    s.Inv) : PairKeeps (State.judgeArrival s x slot comm attempt die) := by
  unfold State.judgeArrival
  exact State.judgeAll_keeps h

theorem execCollectivePacketIngress_keeps {die slot comm : Nat} {attempt : BitVec 16} {s : State} (h : s.Inv) :
    Keeps (execCollectivePacketIngress die slot comm attempt s) := by
  unfold execCollectivePacketIngress
  extract_lets s1
  split
  · exact keeps_next h
  · split
    · exact keeps_next h
    · extract_lets s2 s3
      split
      · rename_i e4
        have h5 := pair_eq e4 (State.judgeAll_keeps h)
        exact keeps_next (State.landed_inv h5)
      · rename_i e6
        have h7 := pair_eq e6 (State.judgeAll_keeps h)
        extract_lets s8
        exact keeps_next (inv_upd h7 rfl rfl rfl)

theorem execAttemptAbortArrive_keeps {n : Nat} {s : State} (h : s.Inv) : Keeps (execAttemptAbortArrive n s) := by
  unfold execAttemptAbortArrive
  extract_lets s1
  have h2 : s1.Inv := State.landed_inv h
  split
  · refine keeps_ite (keeps_next h) ?_
    split
    · exact keeps_ite (keeps_next (State.advanceAttempt_inv h2)) (keeps_next h2)
    · exact keeps_next h2
  · exact keeps_next h

theorem State.putNode_inv {s : State} {k : Nat} {r : Option RedNode} (h : s.Inv) : State.Inv (State.putNode s k r)
    := by
  unfold State.putNode
  extract_lets s1
  exact inv_upd h rfl rfl rfl

theorem State.sendDown_inv {s : State} {c : Comm} {ctx comm : Nat} {attempt : BitVec 16} {seq level node die :
    Nat} {m : Contribution} (h : s.Inv) : State.Inv (State.sendDown s c ctx comm attempt seq level node die m) :=
    by
  unfold State.sendDown
  exact inv_foldl h fun s1 e2 h3 => State.send_inv h3

theorem State.forward_inv {s : State} {c : Comm} {r : RedNode} {node : Nat} {m : Contribution} (h : s.Inv) :
    State.Inv (State.forward s c r node m) := by
  unfold State.forward
  extract_lets s1
  exact inv_ite (State.send_inv h) (State.sendDown_inv h)

theorem State.closeNode_inv {s : State} {k : Nat} {r : RedNode} {code : Nat} {data : List Nat} (h : s.Inv) :
    State.Inv (State.closeNode s k r code data) := by
  unfold State.closeNode
  exact State.sendAbort_inv (State.ring_inv (State.putNode_inv h))

theorem execRedChildArrive_keeps {n : Nat} {s : State} (h : s.Inv) : Keeps (execRedChildArrive n s) := by
  unfold execRedChildArrive
  split
  · refine keeps_ite (keeps_next h) ?_
    split
    · rename_i e1
      have h2 := pair_eq e1 (State.judgeArrival_keeps (State.landed_inv h))
      exact keeps_next h2
    · rename_i e3
      have h4 := pair_eq e3 (State.judgeArrival_keeps (State.landed_inv h))
      split
      · exact keeps_next h4
      · extract_lets s5
        split
        extract_lets s6 s7
        exact keeps_ite (keeps_next h4) (keeps_ite (keeps_next (State.closeNode_inv h4)) (keeps_ite (keeps_next
            (State.closeNode_inv h4)) (keeps_ite (keeps_next (State.forward_inv (State.putNode_inv h4)))
            (keeps_next (State.putNode_inv h4)))))
  · exact keeps_next h

theorem execReductionTimeout_keeps {k : Nat} {s : State} (h : s.Inv) : Keeps (execReductionTimeout k s) := by
  unfold execReductionTimeout
  split
  · exact keeps_next h
  · exact keeps_ite (keeps_next (State.closeNode_inv h)) (keeps_next h)

theorem State.takeResult_inv {s : State} {e : EngRef} {p : Prog} {c : Comm} {key : Nat} {w : RedWait} {m :
    Contribution} (h : s.Inv) : State.Inv (State.takeResult s e p c key w m) := by
  unfold State.takeResult
  extract_lets s1
  exact State.takePart_inv h

theorem State.meetPart_inv {s : State} {e : EngRef} {p : Prog} {c : Comm} {comm key block : Nat} {adding : Bool}
    {w : RedWait} {bytes : List Byte} (h : s.Inv) : State.Inv (State.meetPart s e p c comm key block adding w
    bytes) := by
  unfold State.meetPart
  extract_lets s1
  refine inv_ite ?_ (State.passPart_inv h)
  split
  · exact State.tryFinish_inv (State.progError_inv (State.onProg_inv h))
  · exact State.passPart_inv h

theorem execRedResultDeliver_keeps {n : Nat} {s : State} (h : s.Inv) : Keeps (execRedResultDeliver n s) := by
  unfold execRedResultDeliver
  split
  · refine keeps_ite (keeps_next h) ?_
    split
    · rename_i e1
      have h2 := pair_eq e1 (State.judgeArrival_keeps (State.landed_inv h))
      exact keeps_next h2
    · rename_i e3
      have h4 := pair_eq e3 (State.judgeArrival_keeps (State.landed_inv h))
      split
      · exact keeps_next (State.sendDown_inv h4)
      · exact keeps_next h4
  · extract_lets s5 s6
    refine keeps_ite (keeps_next h) ?_
    split
    · rename_i e7
      have h8 := pair_eq e7 (State.judgeArrival_keeps (State.landed_inv h))
      exact keeps_next h8
    · rename_i e9
      have h10 := pair_eq e9 (State.judgeArrival_keeps (State.landed_inv h))
      split
      · exact keeps_next (State.takeResult_inv h10)
      · exact keeps_next h10
  · extract_lets s11
    refine keeps_ite (keeps_next h) ?_
    split
    · rename_i e12
      have h13 := pair_eq e12 (State.judgeArrival_keeps h)
      exact keeps_next (State.landed_inv h13)
    · rename_i e14
      have h15 := pair_eq e14 (State.judgeArrival_keeps h)
      split
      · exact keeps_ite (keeps_next (State.meetPart_inv (State.landed_inv h15))) (keeps_next h15)
      · exact keeps_next h15
  · exact keeps_next h

/-! ### Agreement.lean -/

theorem State.settleRound_inv {s : State} {n : Nat} {r : Round} {ok : Bool} {code : Nat} (h : s.Inv) : State.Inv
    (State.settleRound s n r ok code) := by
  unfold State.settleRound
  exact State.onRound_inv h

theorem execAgreementPropose_keeps {n : Nat} {s : State} (h : s.Inv) : Keeps (execAgreementPropose n s) := by
  unfold execAgreementPropose
  split
  · exact keeps_next h
  · extract_lets s1
    refine keeps_ite (keeps_next h) (keeps_ite (keeps_next (State.settleRound_inv h)) ?_)
    split
    · exact keeps_next (State.settleRound_inv (State.engMark_inv h))
    · extract_lets s2 s3
      exact keeps_ite (keeps_next (State.settleRound_inv h)) (keeps_next (State.onRound_inv h))

theorem execAgreementVote_keeps {n die : Nat} {s : State} (h : s.Inv) : Keeps (execAgreementVote n die s) := by
  unfold execAgreementVote
  extract_lets s1 s2
  have h3 : s1.Inv := State.onRound_inv h
  split
  · exact keeps_next h
  · exact keeps_ite (keeps_next h) (keeps_ite (keeps_next h3) (keeps_next (State.onRound_inv h3)))

theorem State.install_inv {s : State} {r : Round} {die : Nat} (h : s.Inv) : State.Inv (State.install s r die) := by
  unfold State.install
  split
  · extract_lets s1
    exact State.onDie_inv h
  · exact State.onDie_inv h

theorem State.dropNodes_inv {s : State} {r : Round} (h : s.Inv) : State.Inv (State.dropNodes s r) := by
  unfold State.dropNodes
  extract_lets s1
  exact inv_upd h rfl rfl rfl

theorem execAgreementCommit_keeps {n : Nat} {s : State} (h : s.Inv) : Keeps (execAgreementCommit n s) := by
  unfold execAgreementCommit
  extract_lets s1
  have h2 : s1.Inv := h
  split
  · exact keeps_next h
  · extract_lets s3
    have h7 : s3.Inv := inv_foldl h fun s4 e5 h6 => State.onDie_inv (State.install_inv h6)
    refine keeps_ite (keeps_next h) ?_
    split
    · exact keeps_next (State.settleRound_inv h)
    · exact keeps_ite (keeps_next (State.settleRound_inv h)) (keeps_ite (keeps_next h) (keeps_next
        (State.settleRound_inv (State.dropNodes_inv h7))))

theorem execAgreementRoundTimeout_keeps {n : Nat} {s : State} (h : s.Inv) : Keeps (execAgreementRoundTimeout n s)
    := by
  unfold execAgreementRoundTimeout
  split
  · exact keeps_next h
  · exact keeps_ite (keeps_next (State.settleRound_inv h)) (keeps_next h)

theorem execGroupCommandComplete_keeps {n : Nat} {s : State} (h : s.Inv) : Keeps (execGroupCommandComplete n s) :=
    by
  unfold execGroupCommandComplete
  extract_lets s1 s2
  have h3 : s2.Inv := inv_upd h rfl rfl rfl
  split
  · exact keeps_next h
  · split
    · exact keeps_next (State.complete_inv h3)
    · exact keeps_next h

/-! ### Saving.lean -/

theorem State.moveGroup_inv {s : State} {old new : Nat} (h : s.Inv) : State.Inv (State.moveGroup s old new) := by
  unfold State.moveGroup
  extract_lets s1 s2 s3
  exact inv_paths h rfl rfl

theorem State.saveGroup_inv {s : State} {g : Nat} (h : s.Inv) : (s.saveGroup g).Inv := by
  unfold State.saveGroup
  split
  · exact h
  · extract_lets core place c mine inBanks atBarrier saved s1 s2 s3 saves
    have h1 : s1.Inv := State.onCore_inv h fun hc =>
      Core.wf_iff.mpr ⟨(Core.wf_iff.mp hc).1, tcanon_filter _ (Core.wf_iff.mp hc).2.1, (Core.wf_iff.mp hc).2.2⟩
    have h3 : s3.Inv := State.moveGroup_inv (State.onGroup_inv h1)
    exact State.copySize_inv (inv_upd h3 rfl rfl rfl)

theorem State.moveArrivals_inv {s : State} {dispatch old new g : Nat} (h : s.Inv) : State.Inv (State.moveArrivals
    s dispatch old new g) := by
  unfold State.moveArrivals
  refine inv_foldl h fun s1 e2 h3 => ?_
  split
  extract_lets s4 s5 s6 s7 s8
  have h11 : s7.Inv := by
    unfold s7
    unfold s6
    extract_lets s9 s10
    exact inv_upd h3 rfl rfl rfl
  have h14 : s8.Inv := by
    unfold s8
    refine inv_ite h11 ?_
    unfold s6
    extract_lets s12 s13
    exact inv_upd h11 rfl rfl rfl
  exact inv_foldl h14 fun s15 e16 h17 => State.onWarp_inv h17

theorem State.goOn_inv {s : State} {w : Nat} (h : s.Inv) : State.Inv (State.goOn s w) := by
  unfold State.goOn
  extract_lets s1 s2 s3
  have h4 : s2.Inv := State.onWarp_inv (State.acquire_inv h)
  have h5 : s3.Inv := State.reissue_inv h4
  split
  · exact inv_ite (State.endWait_inv h5) h5
  · exact State.wake_inv h5

theorem State.restoreGroup_inv {s : State} {v : SavedGroup} {core gslot base : Nat} (h : s.Inv) :
    (s.restoreGroup v core gslot base).Inv := by
  unfold State.restoreGroup
  split
  · exact h
  · extract_lets g left s1 place s2 s3 shift c4 s4 s5 s6 s7 ws move s8
    have h1 : s1.Inv := inv_ite h (State.flushWhere_inv h)
    have h2 : s2.Inv := by
      refine State.onCore_inv h1 fun hc => ?_
      have hc := Core.wf_iff.mp hc
      exact Core.wf_iff.mpr ⟨tcanon_foldl _ (fun _ _ => tcanon_tset _ _) _ (tcanon_filter _ hc.1),
        tcanon_foldl _ (fun _ _ => tcanon_tset _ _) _ (tcanon_filter _ hc.2.1),
        tcanon_foldl _ (fun _ _ => tcanon_tset _ _) _ (tcanon_filter _ hc.2.2)⟩
    have h4 : s4.Inv := inv_upd (State.onGroup_inv h2) rfl rfl rfl
    have h6 : s6.Inv := State.onDispatch_inv (State.moveGroup_inv h4)
    have h7 : s7.Inv := inv_ite h6 (State.moveArrivals_inv h6)
    have h8 : s8.Inv := inv_foldl h7 fun _ _ h => State.onWarp_inv h
    exact State.progress_inv (inv_foldl h8 fun _ _ h => State.goOn_inv h)

theorem State.tryRestore_keeps {s : State} {v : SavedGroup} (h : s.Inv) : OptKeeps (State.tryRestore s v) := by
  unfold State.tryRestore
  split
  · exact opt_none
  · extract_lets s1
    split
    · exact opt_none
    · split
      · exact opt_ite opt_none (opt_some (State.restoreGroup_inv h))
      · exact opt_none

theorem State.restoreAll_keeps {s : State} {l : List SavedGroup} (h : s.Inv) : PairKeeps (s.restoreAll l) := by
  induction l generalizing s with
  | nil => exact h
  | cons v t ih =>
    unfold State.restoreAll
    split
    · exact ih (opt_eq ‹_› (State.tryRestore_keeps h))
    · exact pair_mk (ih h)

theorem State.resumeSlot_inv {s : State} {slot : Nat} (h : s.Inv) : State.Inv (State.resumeSlot s slot) := by
  unfold State.resumeSlot
  refine inv_ite ?_ h
  split
  rename_i e1
  have h2 := pair_eq e1 (State.restoreAll_keeps h)
  extract_lets s3 s4
  have h5 : s4.Inv := inv_upd h2 rfl rfl rfl
  exact inv_ite (State.onSlot_inv h5) h5

theorem execGroupPlace_keeps {d : Nat} {s : State} (h : s.Inv) : Keeps (execGroupPlace d s) := by
  unfold execGroupPlace
  split
  · exact keeps_next h
  · refine keeps_ite (keeps_next (State.resumeSlot_inv h)) (keeps_ite (keeps_next h) ?_)
    split
    extract_lets s1
    refine keeps_ite (keeps_next h) ?_
    split
    · rename_i e2
      have h3 := opt_eq e2 (State.placeNext_keeps h)
      exact keeps_next h3
    · exact keeps_next h

theorem State.stopForSave_inv {s : State} {w : Nat} (h : s.Inv) : State.Inv (State.stopForSave s w) := by
  unfold State.stopForSave
  split
  · split
    · extract_lets s1
      have h2 : s1.Inv := State.onClause_inv h
      exact inv_ite (State.onWarp_inv h2) h
    · exact h
  · exact h
  · exact State.withdrawLdws_inv h

theorem State.stopScan_inv {s : State} {site dispatch slot : Nat} {c : CamSlot} (h : s.Inv) : State.Inv
    (State.stopScan s site dispatch slot c) := by
  unfold State.stopScan
  extract_lets s1
  split
  · exact h
  · extract_lets s2 s3
    have h7 : s2.Inv := by
      unfold s2
      refine inv_foldl h fun s4 e5 h6 => ?_
      split
      split
      · exact opt_getD (State.writeBud_keeps h6) h6
      · exact h6
    exact State.onCamSlot_inv h7

theorem State.stopScans_inv {s : State} {slot : Nat} (h : s.Inv) : State.Inv (State.stopScans s slot) := by
  unfold State.stopScans
  refine inv_foldl h fun s1 e2 h3 => ?_
  split
  refine inv_foldl h3 fun s4 e5 h6 => ?_
  split
  exact inv_ite (State.stopScan_inv h6) h6

theorem State.killWhere_inv {s : State} {p : Dispatch → Bool} (h : s.Inv) : State.Inv (State.killWhere s p) := by
  unfold State.killWhere
  extract_lets s1
  exact inv_upd h rfl rfl rfl

theorem execPreemptSave_keeps {slot : Nat} {s : State} (h : s.Inv) : Keeps (execPreemptSave slot s) := by
  unfold execPreemptSave
  extract_lets s1 s2 s3 s4 s5
  have h9 : s1.Inv := inv_foldl h fun s6 e7 h8 => State.stopForSave_inv h8
  have h13 : s3.Inv := inv_foldl (State.stopScans_inv h9) fun s10 e11 h12 => State.saveGroup_inv h12
  have h14 : s5.Inv := State.onSlot_inv h13
  exact keeps_ite (keeps_next h) (keeps_ite (keeps_next h9) (keeps_ite (keeps_next (State.killWhere_inv h9))
      (keeps_next (State.output_inv h14))))

theorem State.writeCtxctl_inv {s : State} {p : HostPort} {slot : Nat} {v : Word} (h : s.Inv) : State.Inv
    (State.writeCtxctl s p slot v) := by
  unfold State.writeCtxctl
  extract_lets s1 s2 s3
  have h4 : s1.Inv := State.useStream_inv h
  have h5 : s3.Inv := State.onSlot_inv h4
  exact inv_ite h (inv_ite (inv_ite (State.resumeSlot_inv (State.onSlot_inv h5)) h5) (inv_ite (State.onSlot_inv
      h5) h5))

theorem execCtxctlPreq_keeps {p : HostPort} {slot : Nat} {v : Word} {s : State} (h : s.Inv) : Keeps
    (execCtxctlPreq p slot v s) := by
  unfold execCtxctlPreq
  exact keeps_next (State.writeCtxctl_inv h)

theorem execCtxctlResume_keeps {p : HostPort} {slot : Nat} {v : Word} {s : State} (h : s.Inv) : Keeps
    (execCtxctlResume p slot v s) := by
  unfold execCtxctlResume
  exact keeps_next (State.writeCtxctl_inv h)

/-! ### HostRegs.lean -/

theorem State.judgeOverrun_inv {s : State} {m : Nat} (h : s.Inv) : State.Inv (State.judgeOverrun s m) := by
  unfold State.judgeOverrun
  extract_lets s1
  exact inv_ite (State.mailboxError_inv h) h

theorem execMbtailWrite_keeps {p : HostPort} {m : Nat} {v : Word} {s : State} (h : s.Inv) : Keeps (execMbtailWrite
    p m v s) := by
  unfold execMbtailWrite
  exact keeps_ite (keeps_next h) (keeps_next (State.judgeOverrun_inv (State.onMailbox_inv (State.useStream_inv h))))

theorem execMbctxWrite_keeps {p : HostPort} {m : Nat} {_upper id : BitVec 16} {s : State} (h : s.Inv) : Keeps
    (execMbctxWrite p m _upper id s) := by
  unfold execMbctxWrite
  exact keeps_ite (keeps_next (State.onMailbox_inv (State.useStream_inv h))) (keeps_next h)

theorem State.writeMbctl_inv {s : State} {p : HostPort} {m : Nat} {v : Word} (h : s.Inv) : State.Inv
    (State.writeMbctl s p m v) := by
  unfold State.writeMbctl
  extract_lets s1 s2 s3 s4 s5 s6 s7 s8
  have h9 : s1.Inv := State.useStream_inv h
  have h10 : s7.Inv := State.onMailbox_inv h9
  have h11 : s8.Inv := State.judgeOverrun_inv h10
  exact inv_ite h (inv_ite (State.killWhere_inv h11) h11)

theorem execMbctlEnable_keeps {p : HostPort} {m : Nat} {v : Word} {s : State} (h : s.Inv) : Keeps (execMbctlEnable
    p m v s) := by
  unfold execMbctlEnable
  exact keeps_next (State.writeMbctl_inv h)

theorem execMbctlKill_keeps {p : HostPort} {m : Nat} {v : Word} {s : State} (h : s.Inv) : Keeps (execMbctlKill p m
    v s) := by
  unfold execMbctlKill
  exact keeps_next (State.writeMbctl_inv h)

theorem execMbctlErrClear_keeps {p : HostPort} {m : Nat} {v : Word} {s : State} (h : s.Inv) : Keeps
    (execMbctlErrClear p m v s) := by
  unfold execMbctlErrClear
  exact keeps_next (State.writeMbctl_inv h)

theorem State.updateKeys_inv {s : State} (h : s.Inv) : State.Inv (State.updateKeys s) := by
  unfold State.updateKeys
  extract_lets s1 s2 s3
  refine inv_foldl (inv_upd h rfl rfl rfl) fun s4 e5 h6 => ?_
  extract_lets s7
  exact inv_ite h6 (inv_upd h6 rfl rfl rfl)

theorem inv_cores {s : State} {f : Nat → Core → Core} {w : Time} {sc : Sched} {e : Eng} {c : Ctl} {d : Table Die} {o : Module}
    (h : s.Inv) (hf : ∀ n c, Core.wf (f n c) = Core.wf c) (ho : o.flash = s.mod.flash) :
    State.Inv ⟨w, sc, s.mem, { s.comp with cores := s.comp.cores.map fun (n, c) => (n, f n c) }, d, e, c, o⟩ := by
  refine ⟨h.mem, fun x hx => ?_, ho ▸ h.flash⟩
  obtain ⟨y, hy, rfl⟩ := List.mem_map.mp hx
  exact (hf y.1 y.2).trans (h.cores y hy)

theorem State.dropCopies_inv {s : State} {gone : TlbEntry → Bool} (h : s.Inv) : (s.dropCopies gone).Inv :=
  inv_cores (f := fun _ c => { c with tlb := c.tlb.filter fun e => !gone e }) h (fun _ _ => rfl) rfl

theorem State.leaveContext_inv {s : State} {slot ident : Nat} (h : s.Inv) : State.Inv (State.leaveContext s slot
    ident) := by
  unfold State.leaveContext
  extract_lets s1 s2 s3
  have h4 : s1.Inv := State.dropCopies_inv h
  exact inv_upd h4 rfl rfl rfl

theorem execCtxidWrite_keeps {p : HostPort} {slot : Nat} {v : Word} {s : State} (h : s.Inv) : Keeps
    (execCtxidWrite p slot v s) := by
  unfold execCtxidWrite
  extract_lets s1 s2 s3 s4
  have h5 : s1.Inv := State.useStream_inv h
  have h6 : s4.Inv := inv_ite (State.leaveContext_inv h5) h5
  exact keeps_ite (keeps_next h) (keeps_next (State.updateKeys_inv (State.onSlot_inv h6)))

theorem execTlbictlInvalidate_keeps {p : HostPort} {slot : Nat} {v : Word} {s : State} (h : s.Inv) : Keeps
    (execTlbictlInvalidate p slot v s) := by
  unfold execTlbictlInvalidate
  extract_lets s1 s2
  have h3 : s2.Inv := State.onSlot_inv (State.useStream_inv h)
  exact keeps_ite (keeps_next h) (keeps_ite (keeps_next (State.dropCopies_inv h3)) (keeps_next h3))

theorem execTlbInvalidateComplete_keeps {slot : Nat} {s : State} (h : s.Inv) : Keeps (execTlbInvalidateComplete
    slot s) := by
  unfold execTlbInvalidateComplete
  extract_lets s1
  exact keeps_ite (keeps_next (State.onSlot_inv h)) (keeps_next h)

theorem execApctlWrite_keeps {p : HostPort} {w : Nat} {en : Bool} {fields : Word} {s : State} (h : s.Inv) : Keeps
    (execApctlWrite p w en fields s) := by
  unfold execApctlWrite
  exact keeps_ite (keeps_next h) (keeps_next (State.onAperture_inv (State.useStream_inv h)))

theorem execHostBar2Read_keeps {p : HostPort} {w offset count : Nat} {s : State} (h : s.Inv) : Keeps
    (execHostBar2Read p w offset count s) := by
  unfold execHostBar2Read
  extract_lets s1
  have h2 : s1.Inv := State.useStream_inv h
  split
  · exact keeps_next (State.output_inv h)
  · split
    · exact keeps_next (State.output_inv h2)
    · exact keeps_next (State.output_inv (inv_foldl h2 fun s3 e4 h5 => State.checkMac_inv h5))

theorem execHostBar2Write_keeps {p : HostPort} {w offset : Nat} {bytes : List Byte} {s : State} (h : s.Inv) :
    Keeps (execHostBar2Write p w offset bytes s) := by
  unfold execHostBar2Write
  extract_lets s1
  have h2 : s1.Inv := State.useStream_inv h
  split
  · exact keeps_next h
  · split
    · exact keeps_next h2
    · exact keeps_next (State.hbmWrite_inv h2)

theorem State.readRegister_inv {s : State} {p : HostPort} {r : HostReg} (h : s.Inv) : State.Inv
    (State.readRegister s p r) := by
  unfold State.readRegister
  exact inv_ite h (inv_ite (State.output_inv h) (State.output_inv (State.useStream_inv h)))

theorem execRegisterWrite_keeps {p : HostPort} {r : HostReg} {v : Double} {s : State} (h : s.Inv) : Keeps
    (execRegisterWrite p r v s) := by
  unfold execRegisterWrite
  split
  · exact keeps_ite (keeps_next (State.onMailbox_inv (State.useStream_inv h))) (keeps_next h)
  · exact keeps_next (State.writeMbctl_inv h)
  · exact execMbtailWrite_keeps h
  · exact execMbctxWrite_keeps h
  · exact execCtxidWrite_keeps h
  · exact execTlbictlInvalidate_keeps h
  · exact keeps_next (State.writeCtxctl_inv h)
  · exact execApctlWrite_keeps h
  · exact keeps_next h
  · exact keeps_next h
  · exact keeps_next h
  · exact keeps_next (inv_ite (State.onSlot_inv (State.useStream_inv h)) h)
  · exact keeps_next (inv_ite (State.onSlot_inv (State.useStream_inv h)) h)
  · exact keeps_next (inv_ite (State.onSlot_inv (State.useStream_inv h)) h)
  · exact keeps_next (inv_ite (State.onSlot_inv (State.useStream_inv h)) h)
  · exact keeps_ite (keeps_next (State.onAperture_inv (State.useStream_inv h))) (keeps_next h)

/-! ### Repair.lean -/

theorem State.correctedError_inv {s : State} {sector : Nat} (h : s.Inv) : State.Inv (State.correctedError s
    sector) := by
  unfold State.correctedError
  extract_lets s1 s2 s3 s4 s5
  have h6 : s4.Inv := State.onDie_inv h
  have h7 : s5.Inv := State.ring_inv h6
  exact inv_ite (State.retireFrame_inv h7) h7

theorem State.scrubFlight_inv {s : State} {die sector : Nat} (h : s.Inv) : State.Inv (State.scrubFlight s die
    sector) := by
  unfold State.scrubFlight
  extract_lets s1
  exact State.onDie_inv h

theorem execScrubSector_keeps {die sector errors : Nat} {s : State} (h : s.Inv) : Keeps (execScrubSector die
    sector errors s) := by
  unfold execScrubSector
  refine keeps_ite (keeps_next h) ?_
  split
  · exact keeps_next h
  · exact keeps_next (State.scrubFlight_inv (State.correctedError_inv h))
  · exact keeps_next (State.markSector_inv h)

theorem execScrubWriteback_keeps {die : Nat} {s : State} (h : s.Inv) : Keeps (execScrubWriteback die s) := by
  unfold execScrubWriteback
  split
  · exact keeps_next h
  · extract_lets s1
    have h2 : s1.Inv := State.onDie_inv h
    exact keeps_ite (keeps_next h2) (keeps_next (State.ring_inv h2))

theorem State.killForRepair_inv {s : State} {dispatch : Nat} (h : s.Inv) : State.Inv (State.killForRepair s
    dispatch) := by
  unfold State.killForRepair
  exact State.onDispatch_inv h

theorem State.migrate_inv {s : State} {core : Nat} (h : s.Inv) : State.Inv (State.migrate s core) := by
  unfold State.migrate
  refine inv_foldl h fun s1 e2 h3 => ?_
  split
  · exact h3
  · exact inv_ite h3 (inv_ite (State.killWhere_inv h3) (State.resumeSlot_inv (State.onSlot_inv
      (State.saveGroup_inv h3))))

theorem execCoreRetire_keeps {core : Nat} {intact : Bool} {s : State} (h : s.Inv) : Keeps (execCoreRetire core
    intact s) := by
  unfold execCoreRetire
  extract_lets s1 s2 s3 s4 s5 s6
  have h7 : s3.Inv := inv_ite (State.ring_inv (State.onDie_inv h)) h
  have h11 : s6.Inv := inv_foldl h7 fun s8 e9 h10 => State.stopForSave_inv h10
  exact keeps_ite (keeps_next h7) (keeps_ite (keeps_next (inv_foldl h7 fun s12 e13 h14 => State.killForRepair_inv
      h14)) (keeps_next (State.migrate_inv h11)))

theorem State.onClock_inv {s : State} {die : Nat} {f : Clock → Clock} (h : s.Inv) : State.Inv (State.onClock s die
    f) := by
  unfold State.onClock
  exact State.onDie_inv h

theorem execLateTransitionReplay_keeps {core : Nat} {s : State} (h : s.Inv) : Keeps (execLateTransitionReplay core
    s) := by
  unfold execLateTransitionReplay
  extract_lets s1
  exact keeps_next (State.onDie_inv h)

theorem State.startStep_inv {s : State} {die mhz : Nat} {f : Clock → Clock} (h : s.Inv) : State.Inv
    (State.startStep s die mhz f) := by
  unfold State.startStep
  exact State.onClock_inv h

theorem execClockStepDown_keeps {die : Nat} {s : State} (h : s.Inv) : Keeps (execClockStepDown die s) := by
  unfold execClockStepDown
  extract_lets s1 s2 s3
  have h4 : s3.Inv := State.onClock_inv h
  refine keeps_ite (keeps_ite (keeps_next (State.startStep_inv h)) ?_) (keeps_next h)
  split
  · exact execCoreRetire_keeps h4
  · exact keeps_next h4

theorem execClockStepUp_keeps {die : Nat} {s : State} (h : s.Inv) : Keeps (execClockStepUp die s) := by
  unfold execClockStepUp
  extract_lets s1
  exact keeps_ite (keeps_next (State.startStep_inv h)) (keeps_next h)

theorem execThermalClockStep_keeps {die : Nat} {up : Bool} {s : State} (h : s.Inv) : Keeps (execThermalClockStep
    die up s) := by
  unfold execThermalClockStep
  extract_lets s1 s2 s3
  exact keeps_ite (keeps_next h) (keeps_ite (keeps_ite (keeps_next (State.startStep_inv h)) (keeps_next h))
      (keeps_ite (keeps_next (State.startStep_inv h)) (keeps_next h)))

theorem execClockStepComplete_keeps {die : Nat} {s : State} (h : s.Inv) : Keeps (execClockStepComplete die s) := by
  unfold execClockStepComplete
  extract_lets s1 s2 s3 s4
  split
  · exact keeps_next h
  · exact keeps_next (State.ring_inv (State.onClock_inv h))

theorem State.onLink_inv {s : State} {die link : Nat} {f : Link → Link} (h : s.Inv) : State.Inv (State.onLink s
    die link f) := by
  unfold State.onLink
  exact State.onDie_inv h

theorem State.ringLink_inv {s : State} {die link code : Nat} {data : List Nat} (h : s.Inv) : State.Inv
    (State.ringLink s die link code data) := by
  unfold State.ringLink
  refine inv_foldl h fun s1 e2 h3 => ?_
  split
  exact State.ring_inv h3

theorem State.updatePause_inv {s : State} {die : Nat} (h : s.Inv) : (s.updatePause die).Inv := by
  unfold State.updatePause
  extract_lets d now
  split
  · exact inv_ite (State.onDie_inv h) h
  · refine inv_ite h (State.onDie_inv ⟨h.mem, fun x hx => ?_, h.flash⟩)
    obtain ⟨y, hy, rfl⟩ := List.mem_map.mp hx
    have := h.cores y hy
    dsimp only
    split
    · exact this
    · exact this

theorem State.retrain_inv {s : State} {die link : Nat} (h : s.Inv) : State.Inv (State.retrain s die link) := by
  unfold State.retrain
  extract_lets s1 s2 s3 s4
  have h5 : s3.Inv := State.ringLink_inv h
  have h9 : s4.Inv := by
    unfold s4
    refine inv_foldl h5 fun s6 e7 h8 => ?_
    split
    exact State.onLink_inv h8
  refine inv_ite h (inv_foldl h9 fun s10 e11 h12 => ?_)
  split
  exact State.updatePause_inv h12

theorem execLinkReplay_keeps {die link : Nat} {s : State} (h : s.Inv) : Keeps (execLinkReplay die link s) := by
  unfold execLinkReplay
  extract_lets s1 s2 s3 s4
  have h5 : s3.Inv := State.onDie_inv h
  have h9 : s4.Inv := by
    unfold s4
    refine inv_foldl h5 fun s6 e7 h8 => ?_
    split
    exact State.onLink_inv h8
  exact keeps_ite (keeps_next h) (keeps_next (inv_ite (State.retrain_inv h9) h9))

theorem execLinkRetrain_keeps {die link : Nat} {s : State} (h : s.Inv) : Keeps (execLinkRetrain die link s) := by
  unfold execLinkRetrain
  exact keeps_next (State.retrain_inv h)

theorem State.onDies_inv {s : State} {ds : List Nat} {f : Die → Die} (h : s.Inv) : State.Inv (State.onDies s ds f)
    := by
  unfold State.onDies
  exact inv_foldl h fun s1 e2 h3 => State.updatePause_inv (State.onDie_inv h3)

theorem execLinkRetrainEnd_keeps {die link : Nat} {ok : Bool} {s : State} (h : s.Inv) : Keeps (execLinkRetrainEnd
    die link ok s) := by
  unfold execLinkRetrainEnd
  extract_lets s1 s2 s3 s4 s5 s6
  have h10 : s5.Inv := by
    unfold s5
    refine inv_foldl h fun s7 e8 h9 => ?_
    split
    exact State.onLink_inv h9
  have h14 : s6.Inv := by
    unfold s6
    refine inv_foldl h10 fun s11 e12 h13 => ?_
    split
    exact State.updatePause_inv h13
  exact keeps_ite (keeps_next h) (keeps_ite (keeps_next (State.onDies_inv (State.ringLink_inv h10))) (keeps_next
      (inv_ite h14 (State.retrain_inv h14))))

theorem State.reroute_inv {s : State} {chosen : List (Nat × Nat × List (Nat × Nat))} {links : List (Nat × Nat)} {d
    : Nat} (h : s.Inv) : State.Inv (State.reroute s chosen links d) := by
  unfold State.reroute
  extract_lets s1 s2 s3
  exact State.onDie_inv h

theorem execRouteGenerationInstall_keeps {die link : Nat} {routes : List (Nat × Nat × List (Nat × Nat))} {s :
    State} (h : s.Inv) : Keeps (execRouteGenerationInstall die link routes s) := by
  unfold execRouteGenerationInstall
  extract_lets s1 s2 s3 s4
  have h8 : s3.Inv := inv_foldl h fun s5 e6 h7 => State.reroute_inv h7
  have h12 : s4.Inv := by
    unfold s4
    refine inv_foldl h8 fun s9 e10 h11 => ?_
    split
    exact State.onLink_inv h11
  refine keeps_ite (keeps_next h) (keeps_next (inv_foldl h12 fun s13 e14 h15 => ?_))
  split
  exact State.ring_inv h15

theorem State.settleReroute_inv {s : State} (h : s.Inv) : State.Inv (State.settleReroute s) := by
  unfold State.settleReroute
  exact State.onDies_inv h

theorem execRoutePairSwitch_keeps {home site : Nat} {s : State} (h : s.Inv) : Keeps (execRoutePairSwitch home site
    s) := by
  unfold execRoutePairSwitch
  extract_lets s1
  exact keeps_ite (keeps_next (State.settleReroute_inv (State.onDie_inv h))) (keeps_next h)

theorem State.joinPod_inv {s : State} {module : Nat} {mode : Bool} {mask : BitVec 32} {dies : List DieConfig} (h :
    s.Inv) : State.Inv (State.joinPod s module mode mask dies) := by
  unfold State.joinPod
  extract_lets s1 s2
  exact inv_ite h (inv_upd h rfl rfl rfl)

theorem State.leavePod_inv {s : State} {module : Nat} (h : s.Inv) : State.Inv (State.leavePod s module) := by
  unfold State.leavePod
  extract_lets s1
  exact inv_ite h (inv_upd h rfl rfl rfl)

/-! ### Bringup.lean -/

theorem State.holdClocks_inv {s : State} (h : s.Inv) : State.Inv (State.holdClocks s) := by
  unfold State.holdClocks
  exact inv_upd h rfl rfl rfl

theorem inv_empty {s : State} {t : Time} {sc : Sched} {c : Comp} {d : Table Die} {e : Eng} {l : Ctl} {o : Module} (h : s.Inv)
    (hc : ∀ x ∈ c.cores, Core.wf x.2 = true) (ho : o.flash = s.mod.flash) :
    State.Inv ⟨t, sc, { s.mem with hbm := [], keyed := [], poison := [], versions := [], lineKeys := [], paths := [] }, c, d, e, l,
      o⟩ := by
  have hm := Memory.wf_iff.mp h.mem
  exact ⟨Memory.wf_iff.mpr ⟨rfl, hm.2.1, rfl, rfl, rfl, hm.2.2.2.2.2.1, rfl⟩, hc, ho ▸ h.flash⟩

theorem State.blank_inv {s : State} {cold : Bool} (h : s.Inv) : (s.blank cold).Inv := by
  cases cold
  · have h1 : State.Inv { s with mem := { s.mem with keyed := [] } } := State.setKeyed_inv h rfl
    exact ⟨h1.mem, fun _ h => absurd h List.not_mem_nil, h.flash⟩
  · exact inv_empty h (fun _ h => absurd h List.not_mem_nil) rfl

theorem State.fullReset_inv {s : State} {cold : Bool} {fails : List StepFail} (h : s.Inv) : (s.fullReset cold
    fails).Inv :=
  (State.blank_inv h : (s.blank _).Inv)

theorem execColdReset_keeps {fails : List StepFail} {s : State} (h : s.Inv) : Keeps (execColdReset fails s) := by
  unfold execColdReset
  exact keeps_next (inv_ite h (State.fullReset_inv h))

theorem execWarmReset_keeps {fails : List StepFail} {s : State} (h : s.Inv) : Keeps (execWarmReset fails s) := by
  unfold execWarmReset
  exact keeps_next (inv_ite h (State.fullReset_inv h))

theorem execThermalPowerCut_keeps {s : State} (h : s.Inv) : Keeps (execThermalPowerCut s) := by
  unfold execThermalPowerCut
  extract_lets s1 s2 s3
  have h4 : s2.Inv := State.blank_inv h
  exact keeps_ite (keeps_next (inv_upd h4 rfl rfl rfl)) (keeps_next h)

theorem State.failStep_inv {s : State} {k : Nat} {units : List Double} (h : s.Inv) : (s.failStep k units).Inv := by
  unfold State.failStep
  extract_lets r r'
  split
  · exact State.fullReset_inv h
  · exact h

theorem State.retireUnit_inv {s : State} {e : Double} (h : s.Inv) : State.Inv (State.retireUnit s e) := by
  unfold State.retireUnit
  split
  · exact State.retireFrame_inv h
  · exact State.ring_inv (State.onDie_inv h)
  · exact State.onDie_inv h
  · exact State.onDie_inv h
  · exact h

theorem State.scrubAll_inv {s : State} {l : List Double} (h : s.Inv) : (s.scrubAll l).Inv := by
  refine inv_upd (s := l.foldl State.retireUnit _) (inv_foldl ?_ fun _ _ h => State.retireUnit_inv h) rfl rfl rfl
  exact inv_empty h h.cores rfl

theorem State.configure_inv {s : State} (h : s.Inv) : s.configure.Inv := inv_upd h rfl rfl rfl

theorem State.passStep_inv {s : State} {k : Nat} {l : List Double} (h : s.Inv) : (s.passStep k l).Inv := by
  unfold State.passStep
  extract_lets s1 r
  have h1 : s1.Inv := inv_ite (State.scrubAll_inv h) (inv_ite (State.configure_inv h) (inv_ite (inv_upd h rfl rfl rfl) h))
  exact inv_ite (inv_upd h1 rfl rfl rfl) h1

theorem State.startSequence_inv {s : State} {k : Nat} (h : s.Inv) : (s.startSequence k).Inv := by
  unfold State.startSequence
  split
  rename_i met s1 e
  have h1 : s1.Inv := by
    split at e
    · split at e
      · cases e; exact h
      · cases e; exact h
    · cases e; exact h
  exact inv_ite (State.failStep_inv h1) (State.passStep_inv h1)

theorem execRtRealign_keeps {up : Bool} {ticks : Nat} {s : State} (h : s.Inv) : Keeps (execRtRealign up ticks s)
    := by
  unfold execRtRealign
  extract_lets s1 s2 s3
  exact keeps_ite (keeps_next h) (keeps_ite (keeps_next (inv_upd h rfl rfl rfl)) (keeps_next (inv_upd h rfl rfl
      rfl)))

theorem State.clearRecord_inv {s : State} (h : s.Inv) : s.clearRecord.Inv := h

theorem execClearStartRecord_keeps {s : State} (h : s.Inv) : Keeps (execClearStartRecord s) := by
  unfold execClearStartRecord
  exact keeps_next (State.clearRecord_inv h)

theorem execInstallConfigurationRecord_keeps {r : ConfigRecord} {s : State} (h : s.Inv) :
    Keeps (execInstallConfigurationRecord r s) := by
  unfold execInstallConfigurationRecord
  split
  · rename_i hr
    exact State.clearRecord_inv ⟨h.mem, h.cores, by simp [Flash.verified, hr]⟩
  · exact h

theorem execReadRingRecord_keeps {die : Nat} {s : State} (h : s.Inv) : Keeps (execReadRingRecord die s) := by
  unfold execReadRingRecord
  exact keeps_next (State.output_inv h)

theorem execReadStartRecord_keeps {s : State} (h : s.Inv) : Keeps (execReadStartRecord s) := by
  unfold execReadStartRecord
  exact keeps_next (State.output_inv h)

theorem execReadSensors_keeps {s : State} (h : s.Inv) : Keeps (execReadSensors s) := by
  unfold execReadSensors
  extract_lets s1
  exact keeps_next (State.output_inv h)

/-! ### Cambium.lean -/

theorem State.takeCam_inv {s : State} {site : Nat} {m : CamFront} (h : s.Inv) : State.Inv (State.takeCam s site m)
    := by
  unfold State.takeCam
  extract_lets s1
  have h2 : s1.Inv := State.markRelease_inv h
  exact State.camTaken_inv (State.onCambium_inv h2)

theorem State.camMsgFault_inv {s : State} {site : Nat} {m : CamFront} (h : s.Inv) : State.Inv (State.camMsgFault s
    site m) := by
  unfold State.camMsgFault
  exact State.camFault_inv h

theorem State.dropDecl_inv {s : State} {m : CamFront} (h : s.Inv) : State.Inv (State.dropDecl s m) := by
  unfold State.dropDecl
  exact inv_foldl h fun s1 e2 h3 => inv_ite (State.takeCam_inv (State.camMsgFault_inv h3)) h3

theorem execDeclarationAccept_keeps {site : Nat} {s : State} (h : s.Inv) : Keeps (execDeclarationAccept site s) :=
    by
  unfold execDeclarationAccept
  split
  · exact keeps_next h
  · extract_lets s1 s2
    split
    · extract_lets s3
      have h4 : s3.Inv := State.camMark_inv h
      split
      · extract_lets s5 s6
        have h7 : s6.Inv := State.onCambium_inv h
        exact keeps_ite (keeps_next (State.takeCam_inv h7)) (keeps_ite (keeps_next (State.dropDecl_inv h))
            (keeps_next (State.takeCam_inv (State.camMsgFault_inv h))))
      · exact keeps_ite (keeps_next (State.dropDecl_inv h4)) (keeps_next (State.takeCam_inv (State.camMsgFault_inv
          h4)))
    · exact keeps_next h

theorem execSweepRequestAccept_keeps {site : Nat} {s : State} (h : s.Inv) : Keeps (execSweepRequestAccept site s)
    := by
  unfold execSweepRequestAccept
  split
  · exact keeps_next h
  · split
    · extract_lets s1
      have h6 : s1.Inv := by
        unfold s1
        refine inv_ite (State.camMsgFault_inv h) (inv_foldl h fun s2 e3 h4 => ?_)
        split
        · exact h4
        · extract_lets s5
          exact State.onCamSlot_inv h4
      exact keeps_next (State.takeCam_inv h6)
    · exact keeps_next h

theorem State.onSweep_inv {s : State} {site dispatch slot : Nat} {f : Sweep → Sweep} (h : s.Inv) : State.Inv
    (State.onSweep s site dispatch slot f) := by
  unfold State.onSweep
  exact State.onCamSlot_inv h

theorem State.sweepFault_inv {s : State} {site dispatch : Nat} {x : Sweep} (h : s.Inv) : State.Inv
    (State.sweepFault s site dispatch x) := by
  unfold State.sweepFault
  exact State.camFault_inv h

theorem State.launch_inv {s : State} {site dispatch slot : Nat} {c : CamSlot} {x : Sweep} {w : Nat} (h : s.Inv) :
    State.Inv (State.launch s site dispatch slot c x w) := by
  unfold State.launch
  extract_lets s1 s2 s3 s4 s5 s6
  split
  · extract_lets s7 s8 s9 s10 s11 s12
    have h1 : s9.Inv := inv_upd h rfl rfl rfl
    have h2 : s11.Inv := by
      refine State.onCore_inv h1 fun hc => ?_
      have hc := Core.wf_iff.mp hc
      exact Core.wf_iff.mpr ⟨hc.1, hc.2.1, tcanon_foldl _ (fun _ _ => tcanon_tset _ _) _ hc.2.2⟩
    exact State.onSweep_inv (State.progress_inv (State.acquire_inv h2))
  · exact h

theorem State.scanElement_inv {s : State} {site dispatch slot : Nat} {c : CamSlot} {x : Sweep} {nbud i : Nat} (h :
    s.Inv) : State.Inv (State.scanElement s site dispatch slot c x nbud i) := by
  unfold State.scanElement
  extract_lets s1 s2 s3 s4
  split
  · refine inv_ite h ?_
    split
    · exact State.sweepFault_inv (State.camMark_inv h)
    · refine inv_ite ?_ ?_
      · split
        · rename_i e5
          have h6 := opt_eq e5 (State.writeBud_keeps h)
          exact State.onSweep_inv h6
        · exact State.sweepFault_inv (State.camMark_inv h)
      · refine inv_ite ?_ ?_
        · split
          · rename_i e7
            have h8 := opt_eq e7 (State.writeBud_keeps h)
            exact State.sweepFault_inv (State.camMark_inv (opt_getD (State.setMapBit_keeps h8) h8))
          · exact State.sweepFault_inv (State.camMark_inv h)
        · refine inv_ite h ?_
          split
          · rename_i e9
            have h10 := opt_eq e9 (State.setMapBit_keeps h)
            exact h10
          · exact State.sweepFault_inv (State.camMark_inv h)
  · exact State.sweepFault_inv (State.camMark_inv h)

theorem execScanStep_keeps {site key : Nat} {s : State} (h : s.Inv) : Keeps (execScanStep site key s) := by
  unfold execScanStep
  extract_lets s1 s2
  split
  · extract_lets s3 s4
    split
    · exact keeps_next h
    · extract_lets s5
      have h6 : s5.Inv := inv_ite (State.onSweep_inv (State.scanElement_inv h)) h
      refine keeps_ite (keeps_next h) ?_
      split
      · exact keeps_ite (keeps_next (State.launch_inv h6)) (keeps_next h6)
      · exact keeps_next h6
  · exact keeps_next h

theorem State.wakeElement_keeps {s : State} {site dispatch slot : Nat} {c : CamSlot} {i : Nat} {next : Bool} (h :
    s.Inv) : OptKeeps (State.wakeElement s site dispatch slot c i next) := by
  unfold State.wakeElement
  extract_lets s1
  split
  · exact opt_none
  · refine opt_ite ?_ (opt_ite (opt_some (State.onCamSlot_inv h)) (opt_some h))
    split
    · exact opt_none
    · rename_i e2
      have h3 := opt_eq e2 (State.writeBud_keeps h)
      exact opt_ite (State.setMapBit_keeps h3) (State.setMapBit_keeps h3)

theorem execWakeTake_keeps {site : Nat} {s : State} (h : s.Inv) : Keeps (execWakeTake site s) := by
  unfold execWakeTake
  split
  · exact keeps_next h
  · split
    · extract_lets s1 s2
      have h5 : OptKeeps s1 := by
        unfold s1
        split
        · exact opt_none
        · extract_lets s3 s4
          refine opt_ite opt_none ?_
          split
          · exact opt_none
          · exact State.wakeElement_keeps h
      have h7 : s2.Inv := by
        unfold s2
        split
        · exact h
        · extract_lets s6
          exact inv_ite h (State.camMark_inv h)
      exact keeps_next (State.takeCam_inv (opt_getD h5 (State.camMsgFault_inv h7)))
    · exact keeps_next h

theorem State.endRun_inv {s : State} {site : Nat} {e : BudEnd} {c : CamSlot} (h : s.Inv) : State.Inv (State.endRun
    s site e c) := by
  unfold State.endRun
  extract_lets s1 s2 s3 s4 s5 s6
  have h19 : s6.Inv := by
    unfold s6
    split
    · exact State.camFault_inv (State.camMark_inv h)
    · split
      · unfold s5
        split
        · exact State.camFault_inv (State.camMark_inv h)
        · rename_i e7
          have h8 := opt_eq e7 (State.writeBud_keeps h)
          exact opt_getD (State.setMapBit_keeps h8) (State.camFault_inv (State.camMark_inv h8))
      · extract_lets s9 s10 s11
        have h12 : s11.Inv := inv_ite (State.camFault_inv (State.camMark_inv h)) h
        refine inv_ite ?_ ?_
        · unfold s5
          split
          · exact State.camFault_inv (State.camMark_inv h12)
          · rename_i e13
            have h14 := opt_eq e13 (State.writeBud_keeps h12)
            exact opt_getD (State.setMapBit_keeps h14) (State.camFault_inv (State.camMark_inv h14))
        · refine inv_ite ?_ ?_
          · unfold s5
            split
            · exact State.camFault_inv (State.camMark_inv h12)
            · rename_i e15
              have h16 := opt_eq e15 (State.writeBud_keeps h12)
              exact opt_getD (State.setMapBit_keeps h16) (State.camFault_inv (State.camMark_inv h16))
          · unfold s5
            split
            · exact State.camFault_inv (State.camMark_inv h12)
            · rename_i e17
              have h18 := opt_eq e17 (State.writeBud_keeps h12)
              exact opt_getD (State.setMapBit_keeps h18) (State.camFault_inv (State.camMark_inv h18))
  exact State.onCamSlot_inv h19

theorem execByieldTake_keeps {site : Nat} {s : State} (h : s.Inv) : Keeps (execByieldTake site s) := by
  unfold execByieldTake
  extract_lets s1
  split
  · exact keeps_next h
  · extract_lets s2
    have h3 : s2.Inv := State.onCambium_inv (State.markRelease_inv h)
    split
    · exact keeps_next h3
    · exact keeps_next (State.endRun_inv h3)

theorem State.clearDeferrals_keeps {s : State} {site dispatch : Nat} {c : CamSlot} (h : s.Inv) : OptKeeps
    (State.clearDeferrals s site dispatch c) := by
  unfold State.clearDeferrals
  extract_lets s1
  split
  refine opt_foldl (opt_some h) fun s2 e3 h4 => ?_
  split
  · exact opt_none
  · split
    · exact opt_none
    · exact opt_some (h4 _ rfl)
    · split
      · exact opt_none
      · rename_i e5
        have h6 := opt_eq e5 (State.setMapBit_keeps (h4 _ rfl))
        exact State.setMapBit_keeps h6

theorem State.sweepSignal_inv {s : State} {site dispatch : Nat} {x : Sweep} (h : s.Inv) : State.Inv
    (State.sweepSignal s site dispatch x) := by
  unfold State.sweepSignal
  split
  · exact h
  · split
    · exact h
    · exact inv_ite (State.arrive_inv h) (State.sweepFault_inv h)

theorem State.eachSweep_inv {s : State} {dispatch slot : Nat} {f : Nat → Nat → Sweep → Option Sweep} (h : s.Inv) :
    State.Inv (State.eachSweep s dispatch slot f) := by
  unfold State.eachSweep
  exact inv_foldl h fun s1 e2 h3 => State.onCamSlot_inv h3

theorem State.sweepMarks_inv {s : State} {dispatch slot site : Nat} {c : CamSlot} {x : Sweep} (h : s.Inv) :
    State.Inv (State.sweepMarks s dispatch slot site c x) := by
  unfold State.sweepMarks
  extract_lets s1
  have h6 : s1.Inv := by
    unfold s1
    refine inv_foldl h fun s2 e3 h4 => ?_
    split
    · exact h4
    · extract_lets s5
      split
      exact State.camMark_inv h4
  exact State.camMark_inv h6

theorem execSweepEnd_keeps {dispatch slot : Nat} {s : State} (h : s.Inv) : Keeps (execSweepEnd dispatch slot s) := by
  unfold execSweepEnd
  extract_lets site cleared
  have h1 : PairKeeps cleared := by
    refine pair_foldl (pair_mk h) fun p e hp => ?_
    split
    · refine pair_ite ?_ (pair_mk hp)
      split
      · exact pair_mk (opt_eq ‹_› (State.clearDeferrals_keeps hp))
      · exact pair_mk hp
    · exact hp
  split
  · exact h
  · split
    · exact h
    · refine keeps_ite h ?_
      extract_lets x word
      clear_value cleared
      split
      extract_lets done s1 s2 s3
      have h1 := pair_eq rfl h1
      have h2 : s2.Inv := State.flushDispatch_inv (inv_ite (State.sweepFault_inv (State.sweepMarks_inv h1)) h1)
      clear_value s2 done
      split
      · exact State.sweepSignal_inv (State.eachSweep_inv h2)
      · exact State.endCambium_inv (State.sweepSignal_inv (State.eachSweep_inv
          (opt_getD (State.camWrite_keeps h2) (State.sweepFault_inv (State.camMark_inv h2)))))

/-! ### Trust.lean -/

theorem State.request_inv {s : State} {ch : Channel} {f : Session → State} (h : s.Inv) (hf : ∀ x, (f x).Inv) :
    (s.request ch f).Inv := by
  unfold State.request
  split
  · exact h
  · exact inv_ite (hf _) (State.output_inv h)

theorem State.sign_keeps {s : State} {v : Nat} (h : s.Inv) : ValKeeps (State.sign s v) := by
  unfold State.sign
  extract_lets s1
  exact val_mk (inv_upd h rfl rfl rfl)

theorem execGetMeasurements_keeps {ch : Channel} {index : Nat} {sign : Bool} {s : State} (h : s.Inv) : Keeps
    (execGetMeasurements ch index sign s) := by
  unfold execGetMeasurements
  extract_lets s1 s2
  refine keeps_next (State.request_inv h fun e3 => ?_)
  extract_lets s4
  refine inv_ite (State.output_inv h) (inv_ite (State.output_inv (State.onResponder_inv h)) (inv_ite
      (State.output_inv h) (inv_ite ?_ (State.output_inv (State.onResponder_inv h)))))
  split
  rename_i e5
  have h6 := val_eq e5 (State.sign_keeps h)
  exact State.output_inv (State.onResponder_inv h6)

theorem execGetCertificate_keeps {ch : Channel} {s : State} (h : s.Inv) : Keeps (execGetCertificate ch s) := by
  unfold execGetCertificate
  exact keeps_next (State.request_inv h fun e1 => State.output_inv h)

theorem execChallenge_keeps {ch : Channel} {nonce : BitVec 256} {s : State} (h : s.Inv) : Keeps (execChallenge ch
    nonce s) := by
  unfold execChallenge
  refine keeps_next (State.request_inv h fun e1 => ?_)
  split
  rename_i e2
  have h3 := val_eq e2 (State.sign_keeps h)
  exact State.output_inv h3

theorem State.drawKey_keeps {s : State} (h : s.Inv) : ValKeeps (State.drawKey s) := by
  unfold State.drawKey
  extract_lets s1
  exact val_mk (inv_upd h rfl rfl rfl)

theorem State.spdm_inv {s : State} {ch : Channel} {q : SpdmQuery} (h : s.Inv) : State.Inv (State.spdm s ch q) := by
  unfold State.spdm
  split
  · exact inv_ite (State.output_inv h) h
  · exact State.request_inv h fun e1 => State.output_inv h
  · exact State.request_inv h fun e2 => State.output_inv h
  · exact State.request_inv h fun e3 => State.output_inv h
  · exact State.request_inv h fun e4 => State.output_inv h

theorem execKeyExchange_keeps {iface : Nat} {offer : KeyOffer} {s : State} (h : s.Inv) : Keeps (execKeyExchange
    iface offer s) := by
  unfold execKeyExchange
  extract_lets s1
  refine keeps_ite (keeps_next h) (keeps_ite (keeps_next (State.output_inv h)) (keeps_ite ?_ (keeps_next
      (State.output_inv h))))
  split
  rename_i e2
  have h3 := val_eq e2 (State.drawKey_keeps h)
  extract_lets s4
  exact keeps_next (State.output_inv (State.onResponder_inv h3))

theorem State.sessionEnd_inv {s : State} {iface session : Nat} (h : s.Inv) : State.Inv (State.sessionEnd s iface
    session) := by
  unfold State.sessionEnd
  exact State.onResponder_inv h

theorem State.sessionLapse_inv {s : State} {iface session : Nat} (h : s.Inv) : State.Inv (State.sessionLapse s
    iface session) := by
  unfold State.sessionLapse
  split
  · exact inv_ite (State.sessionEnd_inv h) h
  · exact h

theorem execKeyUpdate_keeps {ch : Channel} {s : State} (h : s.Inv) : Keeps (execKeyUpdate ch s) := by
  unfold execKeyUpdate
  refine keeps_next (State.request_inv h fun e1 => inv_ite (State.output_inv h) ?_)
  split
  rename_i e2
  have h3 := val_eq e2 (State.drawKey_keeps h)
  exact State.output_inv (State.onResponder_inv h3)

theorem execHeartbeat_keeps {ch : Channel} {s : State} (h : s.Inv) : Keeps (execHeartbeat ch s) := by
  unfold execHeartbeat
  extract_lets s1
  exact keeps_next (State.request_inv h fun e2 => inv_ite (State.output_inv h) (State.output_inv
      (State.onResponder_inv h)))

theorem State.setPend_inv {s : State} {v : Bool} (h : s.Inv) : (s.setPend v).Inv := h

theorem execSetMode_keeps {ch : Option Channel} {value : Byte} {s : State} (h : s.Inv) : Keeps (execSetMode ch
    value s) := by
  unfold execSetMode
  split
  · exact keeps_next (inv_ite (State.setPend_inv h) h)
  · exact keeps_next (State.request_inv h fun e1 => inv_ite (State.output_inv (State.setPend_inv h))
      (State.output_inv h))

theorem execGetReceipt_keeps {ch : Channel} {nonce : BitVec 256} {s : State} (h : s.Inv) : Keeps (execGetReceipt
    ch nonce s) := by
  unfold execGetReceipt
  refine keeps_next (State.request_inv h fun e1 => inv_ite (State.output_inv h) ?_)
  split
  · exact State.output_inv h
  · extract_lets s2
    split
    rename_i e3
    have h4 := val_eq e3 (State.sign_keeps h)
    exact State.output_inv h4

theorem execLiveActivation_keeps {verified : Bool} {digest : Nat} {s : State} (h : s.Inv) : Keeps
    (execLiveActivation verified digest s) := by
  unfold execLiveActivation
  extract_lets s1 s2
  exact keeps_ite (keeps_next h) (keeps_next (inv_upd h rfl rfl rfl))

theorem execLiveActivationEnd_keeps {s : State} (h : s.Inv) : Keeps (execLiveActivationEnd s) := by
  unfold execLiveActivationEnd
  extract_lets s1
  exact keeps_ite (keeps_next h) (keeps_next (inv_upd h rfl rfl rfl))

theorem execIdeKeyProgram_keeps {ch : Channel} {keys : IdeKeys} {world : Nat} {s : State} (h : s.Inv) : Keeps
    (execIdeKeyProgram ch keys world s) := by
  unfold execIdeKeyProgram
  extract_lets s1
  exact keeps_next (State.request_inv h fun e2 => inv_ite (State.output_inv h) (inv_ite (State.output_inv h)
      (State.output_inv (State.onIde_inv h))))

theorem execIdeKeySetSwitch_keeps {iface : Nat} {s : State} (h : s.Inv) : Keeps (execIdeKeySetSwitch iface s) := by
  unfold execIdeKeySetSwitch
  extract_lets s1
  exact keeps_next (inv_ite (State.onIde_inv h) h)

theorem execIdeIntegrityFailure_keeps {iface : Nat} {s : State} (h : s.Inv) : Keeps (execIdeIntegrityFailure iface
    s) := by
  unfold execIdeIntegrityFailure
  extract_lets s1
  have h2 : s1.Inv := State.onIde_inv h
  exact keeps_ite (keeps_next h) (keeps_ite (keeps_next (State.killWhere_inv h2)) (keeps_next h2))

theorem execInterfaceReset_keeps {iface : Nat} {s : State} (h : s.Inv) : Keeps (execInterfaceReset iface s) := by
  unfold execInterfaceReset
  exact keeps_next (State.onIde_inv h)

end Sys2Proof.Machine
end

