-- ==== Sys2Proof/Laws/InvSteps.lean ====
section
/-! SUPPORT. What keeps the invariant of Safety.lean: exec of every instruction, and what a turn comes to. One lemma for each operation,
which proofs cite instead of unfolding it. -/

namespace Sys2Proof.Machine

/-! ### Dispatch.lean -/

set_option maxRecDepth 4000 in
theorem exec_keeps {i : Instr} {s : State} (h : s.Inv) : Keeps (exec i s) := by
  unfold exec
  split
  next g => exact execNop_keeps h
  next g disp => exact execBra_keeps h
  next g a disp => exact execBrx_keeps h
  next g d disp => exact execCall_keeps h
  next g d a disp => exact execCallx_keeps h
  next g a => exact execRet_keeps h
  next g => exact execExit_keeps h
  next g form d => exact execMeet_keeps h
  next g n => exact execSign_keeps h
  next g d a imm => exact execWait_keeps h
  next g id count => exact execBar_keeps h
  next g id count => exact execCbar_keeps h
  next g => exact execYield_keeps h
  next g code => exact execTrap_keeps h
  next g n a => exact execCvset_keeps h
  next x sat => exact execIadd_keeps h
  next x sat => exact execIsub_keeps h
  next x => exact execImul_keeps h
  next x => exact execImulhi_keeps h
  next x => exact execImad_keeps h
  next x => exact execImadw_keeps h
  next x sat => exact execIadd64_keeps h
  next x sat => exact execIsub64_keeps h
  next x => exact execImul64_keeps h
  next x => exact execImad64_keeps h
  next x => exact execShl_keeps h
  next x => exact execShr_keeps h
  next x => exact execSar_keeps h
  next x t => exact execMix3_keeps h
  next x => exact execImin_keeps h
  next x => exact execImax_keeps h
  next x sat => exact execIabs_keeps h
  next g ty pd cc a b => exact execIcmp_keeps h
  next x pc => exact execSel_keeps h
  next x => exact execPopc_keeps h
  next x => exact execClz_keeps h
  next x => exact execBrev_keeps h
  next x => exact execBfe_keeps h
  next x => exact execBfi_keeps h
  next x sat => exact execIaddp_keeps h
  next x sat => exact execIsubp_keeps h
  next x => exact execIminp_keeps h
  next x => exact execImaxp_keeps h
  next x sat => exact execIabsp_keeps h
  next x sat => exact execIdp4_keeps h
  next x => exact execMov_keeps h
  next g ty d imm => exact execMovi_keeps h
  next x mode => exact execXlane_keeps h
  next g form q => exact execLpoll_keeps h
  next x op => exact execWred_keeps h
  next g pd pa pb pc t => exact execPmix3_keeps h
  next g d => exact execPget_keeps h
  next g mask a => exact execPset_keeps h
  next x mode => exact execWext_keeps h
  next x imm => exact execIaddi_keeps h
  next x imm => exact execImuli_keeps h
  next g ty pd cc a imm => exact execIcmpi_keeps h
  next g t d a imm => exact execMixi_keeps h
  next x m => exact execFadd_keeps h
  next x m => exact execFmul_keeps h
  next x m => exact execFfma_keeps h
  next x rnd nan => exact execFmin_keeps h
  next x rnd nan => exact execFmax_keeps h
  next g pd cc a b rnd => exact execFcmp_keeps h
  next x rnd neg => exact execFabs_keeps h
  next x rnd elem => exact execFclass_keeps h
  next x m => exact execDadd_keeps h
  next x m => exact execDmul_keeps h
  next x m => exact execDfma_keeps h
  next x rnd nan => exact execDmin_keeps h
  next x rnd nan => exact execDmax_keeps h
  next g pd cc a b rnd => exact execDcmp_keeps h
  next x rnd => exact execDclass_keeps h
  next x m => exact execHadd2_keeps h
  next x m => exact execHmul2_keeps h
  next x m => exact execHfma2_keeps h
  next x rnd nan => exact execHmin2_keeps h
  next x rnd nan => exact execHmax2_keeps h
  next x rnd cc => exact execHcmp2_keeps h
  next x imm => exact execFaddi_keeps h
  next x imm => exact execFmuli_keeps h
  next x rnd => exact execFrcp_keeps h
  next x rnd => exact execFrsq_keeps h
  next x rnd => exact execFsqrt_keeps h
  next x rnd => exact execFex2_keeps h
  next x rnd => exact execFlg2_keeps h
  next x rnd => exact execFsin_keeps h
  next x rnd => exact execFcos_keeps h
  next x rnd => exact execFtanh_keeps h
  next x rnd => exact execDsqrt_keeps h
  next x rnd => exact execDrcp_keeps h
  next x m => exact execCvff_keeps h
  next x m => exact execCvfi_keeps h
  next x m => exact execCvif_keeps h
  next x m => exact execCvii_keeps h
  next x rnd sat => exact execPkf8_keeps h
  next x rnd q => exact execPkf4_keeps h
  next x rnd inv => exact execMxsc_keeps h
  next x fresh => exact execLd_keeps h
  next x => exact execSt_keeps h
  next x fresh => exact execLdb_keeps h
  next x => exact execStb_keeps h
  next x clr => exact execLdw_keeps h
  next x => exact execSetempty_keeps h
  next x slot => exact execAtadd_keeps h
  next x slot => exact execAtmin_keeps h
  next x slot => exact execAtmax_keeps h
  next x slot => exact execAtand_keeps h
  next x slot => exact execAtor_keeps h
  next x slot => exact execAtxor_keeps h
  next x slot => exact execAtexch_keeps h
  next x slot b => exact execAtcas_keeps h
  next x => exact execRedadd_keeps h
  next x => exact execRedmin_keeps h
  next x => exact execRedmax_keeps h
  next x => exact execRedand_keeps h
  next x => exact execRedor_keeps h
  next x => exact execRedxor_keeps h
  next x => exact execFxadd_keeps h
  next x rnd => exact execFxrd_keeps h
  next x b => exact execNins_keeps h
  next x => exact execLock_keeps h
  next x => exact execUnlock_keeps h
  next x => exact execFence_keeps h
  next x => exact execMma_keeps h
  next x c => exact execMmag_keeps h
  next x => exact execMmas_keeps h
  next g ty a kindB cv => exact execSfpush_keeps h
  next g => exact execSfpushFlush_keeps h
  next x unsignedA => exact execMmx_keeps h
  next g d mask => exact execAalloc_keeps h
  next g mask => exact execAfree_keeps h
  next g a mask => exact execAcqa_keeps h
  next g mask => exact execRela_keeps h
  next g mode spec tile cv => exact execAmv_keeps h
  next g u m o axis tr acc cv => exact execTcon8_keeps h
  next g scope d a b c => exact execRsub_keeps h
  next g scope a b => exact execCpost_keeps h
  next g scope a b => exact execCtok_keeps h
  next g scope a b => exact execAbort_keeps h
  next g scope a => exact execAbortRoot_keeps h
  next x blk b => exact execMcst_keeps h
  next g scope a => exact execRfence_keeps h
  next g scope a b => exact execCdecl_keeps h
  next g scope d a b c => exact execSweep_keeps h
  next g scope retire a b c => exact execByield_keeps h
  next g scope a b => exact execBwakeNow_keeps h
  next g scope a b => exact execBwakeNext_keeps h
  next g d a b => exact execBstate_keeps h
  next g ty d n => exact execSget_keeps h
  next g ty a n => exact execSset_keeps h
  next g => exact execTret_keeps h
  next g ty d rt => exact execClkrd_keeps h
  next g d => exact execPreempt_keeps h
  next op => exact execUnassignedOpcode_keeps h
  next q => exact execArbitrate_keeps h
  next q => exact execClauseBoundary_keeps h
  next warp seq lanes level1 => exact execLongLatencyResult_keeps h
  next warp seq => exact execAtomicReturn_keeps h
  next warp seq lanes => exact execRegisterWindowWriteArrive_keeps h
  next w => exact execWritePerformed_keeps h
  next warp seq => exact execAtomicPerform_keeps h
  next core offset => exact execCreditCharge_keeps h
  next warp seq => exact execLockRequestArrive_keeps h
  next warp seq => exact execUnlockArrive_keeps h
  next warp seq => exact execFenceAcknowledge_keeps h
  next warp => exact execWaitMet_keeps h
  next warp => exact execWaitTimeout_keeps h
  next warp => exact execWaitMemoryPoll_keeps h
  next warp seq => exact execLdwAction_keeps h
  next transfer granule => exact execCopyGranuleLand_keeps h
  next transfer => exact execWindowCopyFault_keeps h
  next transfer granule => exact execPushGranuleLand_keeps h
  next warp seq => exact execRecordInvalidationComplete_keeps h
  next core early => exact execMatrixOpPerform_keeps h
  next warp => exact execWarpEnd_keeps h
  next core ctx => exact execWatchdogFire_keeps h
  next warp => exact execTrapEntry_keeps h
  next m => exact execMailboxTakeEntry_keeps h
  next d => exact execDispatchAccept_keeps h
  next d => exact execGroupPlace_keeps h
  next d => exact execDispatchComplete_keeps h
  next d => exact execDispatchKill_keeps h
  next d => exact execDispatchReplay_keeps h
  next p m v => exact execMbtailWrite_keeps h
  next p m v => exact execMbctxWrite_keeps h
  next p m v => exact execMbctlEnable_keeps h
  next p m v => exact execMbctlKill_keeps h
  next p m v => exact execMbctlErrClear_keeps h
  next p slot value => exact execCtxidWrite_keeps h
  next p slot value => exact execCtxctlPreq_keeps h
  next slot => exact execPreemptSave_keeps h
  next p slot value => exact execCtxctlResume_keeps h
  next p slot value => exact execTlbictlInvalidate_keeps h
  next slot => exact execTlbInvalidateComplete_keeps h
  next p w v => exact execApctlWrite_keeps h
  next p o n => exact execHostBar2Read_keeps h
  next p o b => exact execHostBar2Write_keeps h
  next p r value => exact execRegisterWrite_keeps h
  next die slice => exact execRootProgramAccept_keeps h
  next die slice => exact execRootProgramStart_keeps h
  next => exact execCmdNop_keeps h
  next fa x => exact execCmdSeti_keeps h
  next fa fb x => exact execCmdAddi_keeps h
  next fa fb fc imm => exact execCmdAdd_keeps h
  next fa fb fc x => exact execCmdMad_keeps h
  next fa fb x => exact execCmdLdg_keeps h
  next fa fb x rel => exact execCmdStg_keeps h
  next fa fb x => exact execCmdAtom_keeps h
  next fa fb imm => exact execCmdMove_keeps h
  next fa fb fc => exact execCmdPush_keeps h
  next fa fb fc imm => exact execCmdPushmc_keeps h
  next fa fb => exact execCmdStep_keeps h
  next fa fb imm comm bf16 => exact execCmdRed_keeps h
  next fa fb fc imm bf16 => exact execCmdSum_keeps h
  next fa imm => exact execCmdSig_keeps h
  next imm die => exact execCmdTok_keeps h
  next imm consume tmo => exact execCmdWtok_keeps h
  next fa phase tmo => exact execCmdWbar_keeps h
  next fa fb cmp wide tmo => exact execCmdWmem_keeps h
  next imm => exact execCmdBr_keeps h
  next fa fb cmp imm => exact execCmdBrc_keeps h
  next fa imm => exact execCmdLoop_keeps h
  next scope => exact execCmdFence_keeps h
  next => exact execCmdChunk_keeps h
  next => exact execCmdEnd_keeps h
  next opc => exact execCmdBadOpcode_keeps h
  next e => exact execEngineWaitMet_keeps h
  next e => exact execEngineWaitTimeout_keeps h
  next die engine => exact execCanopyBlockAccept_keeps h
  next die engine => exact execCanopyBlockStart_keeps h
  next flight => exact execTokenDeliver_keeps h
  next die index => exact execBlockTokenTimeout_keeps h
  next flight => exact execRedChildArrive_keeps h
  next node => exact execReductionTimeout_keeps h
  next flight => exact execRedResultDeliver_keeps h
  next die ctx comm attempt => exact execCollectivePacketIngress_keeps h
  next flight => exact execAttemptAbortArrive_keeps h
  next round => exact execAgreementPropose_keeps h
  next round die => exact execAgreementVote_keeps h
  next round => exact execAgreementCommit_keeps h
  next round => exact execAgreementRoundTimeout_keeps h
  next round => exact execGroupCommandComplete_keeps h
  next site => exact execDeclarationAccept_keeps h
  next site => exact execSweepRequestAccept_keeps h
  next site slot => exact execScanStep_keeps h
  next site => exact execWakeTake_keeps h
  next site => exact execByieldTake_keeps h
  next dispatch slot => exact execSweepEnd_keeps h
  next die sector errors => exact execScrubSector_keeps h
  next die => exact execScrubWriteback_keeps h
  next core intact => exact execCoreRetire_keeps h
  next core => exact execLateTransitionReplay_keeps h
  next die => exact execClockStepDown_keeps h
  next die => exact execClockStepUp_keeps h
  next die link => exact execLinkReplay_keeps h
  next die link => exact execLinkRetrain_keeps h
  next die link routes => exact execRouteGenerationInstall_keeps h
  next die site => exact execRoutePairSwitch_keeps h
  next die up => exact execThermalClockStep_keeps h
  next => exact execThermalPowerCut_keeps h
  next fails => exact execColdReset_keeps h
  next fails => exact execWarmReset_keeps h
  next up ticks => exact execRtRealign_keeps h
  next => exact execClearStartRecord_keeps h
  next r => exact execInstallConfigurationRecord_keeps h
  next die => exact execReadRingRecord_keeps h
  next => exact execReadStartRecord_keeps h
  next => exact execReadSensors_keeps h
  next ch index sign => exact execGetMeasurements_keeps h
  next ch => exact execGetCertificate_keeps h
  next ch nonce => exact execChallenge_keeps h
  next iface offer => exact execKeyExchange_keeps h
  next ch => exact execKeyUpdate_keeps h
  next ch => exact execHeartbeat_keeps h
  next ch value => exact execSetMode_keeps h
  next ch nonce => exact execGetReceipt_keeps h
  next verified digest => exact execLiveActivation_keeps h
  next ch keys world => exact execIdeKeyProgram_keeps h
  next iface => exact execIdeKeySetSwitch_keeps h
  next iface => exact execIdeIntegrityFailure_keeps h
  next die link ok => exact execLinkRetrainEnd_keeps h
  next die => exact execClockStepComplete_keeps h
  next => exact execLiveActivationEnd_keeps h
  next iface => exact execInterfaceReset_keeps h

/-! ### Fetch.lean -/

theorem State.quarterTurn_keeps {s : State} {q : Nat} (h : s.Inv) : TurnKeeps (State.quarterTurn s q) := by
  unfold State.quarterTurn
  split
  · exact turn_run h
  · refine turn_ite (turn_run h) ?_
    split
    · exact turn_run h
    · exact turn_go (State.illegal_inv h)

theorem State.startBad_inv {s : State} {e : EngRef} (h : s.Inv) : State.Inv (State.startBad s e) := by
  unfold State.startBad
  exact State.onProg_inv (State.passTurn_inv h)

theorem State.commandTurn_keeps {s : State} {e : EngRef} {x1 x : Nat} (h : s.Inv) : TurnKeeps (State.commandTurn s
    e x1 x) := by
  unfold State.commandTurn
  split
  · exact turn_run h
  · exact turn_go (State.progFault_inv (State.startBad_inv h))

theorem State.engineTurn_keeps {s : State} {e : EngRef} (h : s.Inv) : TurnKeeps (State.engineTurn s e) := by
  unfold State.engineTurn
  split
  · exact turn_go h
  · split
    · exact turn_go h
    · exact turn_go h
    · exact turn_run h
    · exact turn_run h
    · exact turn_go (State.tryFinish_inv h)
    · refine turn_ite (turn_go h) (turn_ite ?_ ?_)
      · split
        · exact State.commandTurn_keeps h
        · exact turn_go h
      · refine turn_ite (turn_go h) ?_
        split
        · exact turn_go (State.progError_inv (State.startBad_inv h))
        · exact State.commandTurn_keeps h

theorem State.agentTurn_keeps {s : State} (h : s.Inv) : TurnKeeps (State.agentTurn s) := by
  unfold State.agentTurn
  split
  · exact State.quarterTurn_keeps h
  · exact State.engineTurn_keeps h

theorem State.markGranule_inv {s : State} {core granule : Nat} (h : s.Inv) : (s.markGranule core granule).Inv :=
  State.ring_inv (State.setPoison_inv h)

theorem State.markLine_inv {s : State} {core line granule : Nat} (h : s.Inv) : State.Inv (State.markLine s core
    line granule) := by
  unfold State.markLine
  exact State.ring_inv (State.onCore_same h)

theorem State.markAccumulator_inv {s : State} {core granule : Nat} (h : s.Inv) : State.Inv (State.markAccumulator
    s core granule) := by
  unfold State.markAccumulator
  exact State.ring_inv (State.onCore_same h)

theorem State.sense_inv {s : State} {r : Sensors} (h : s.Inv) : State.Inv (State.sense s r) := by
  unfold State.sense
  extract_lets s1 s2 s3 s4
  exact inv_upd h rfl rfl rfl

theorem State.moveTurn_keeps {s : State} {m : Move} (h : s.Inv) : TurnKeeps (State.moveTurn s m) := by
  unfold State.moveTurn
  split
  next q => exact State.quarterTurn_keeps (State.giveTurn_inv h)
  next e => exact State.engineTurn_keeps (State.giveTurn_inv h)
  next i => exact turn_ite (turn_run h) (turn_go h)
  next a bytes => exact turn_go (State.hostStore_inv h)
  next n corrected =>
    exact turn_go (inv_ite (State.scrubFlight_inv (State.correctedError_inv h)) (State.markSector_inv h))
  next c g => exact turn_go (State.markGranule_inv h)
  next c g => exact turn_go (State.markAccumulator_inv h)
  next n bad => exact turn_go (State.setHostBad_inv h)
  next c line g => exact turn_go (State.markLine_inv h)
  next die slot va => exact turn_go (State.keepWalk_inv h)
  next die n => exact turn_go (State.onDie_inv h)
  next core n => exact turn_go (State.onCore_same h)
  next core line => exact turn_go (State.onCore_same h)
  next n => exact turn_go (State.evictSlice_inv h)
  next core place gs => exact turn_go (State.matrixRead_inv h)
  next r => exact turn_go (State.sense_inv h)
  next p r => exact turn_go (State.readRegister_inv h)
  next ch q => exact turn_go (State.spdm_inv h)
  next iface n => exact turn_go (State.sessionEnd_inv h)
  next iface n => exact turn_go (State.sessionLapse_inv h)
  next n mode mask dies => exact turn_go (State.joinPod_inv h)
  next n => exact turn_go (State.leavePod_inv h)
  next =>
    split
    · exact turn_go (State.startSequence_inv h)
    · exact turn_go h
  next fails => exact turn_go (inv_ite h (State.fullReset_inv h))

theorem State.turn_keeps {s : State} (h : s.Inv) : TurnKeeps (State.turn s) := by
  unfold State.turn
  extract_lets s1
  split
  · exact State.moveTurn_keeps (State.pass_inv (inv_upd h rfl rfl rfl))
  · refine turn_ite turn_stop (turn_ite turn_stop ?_)
    split
    · exact turn_go (State.startSequence_inv (State.pass_inv h))
    · exact State.agentTurn_keeps (State.pass_inv h)

/-! ### Step.lean -/

theorem State.ready4_inv {s : State} {a : Agent} (h : s.Inv) : State.Inv (State.ready4 s a) := by
  unfold State.ready4
  extract_lets s1
  exact inv_upd h rfl rfl rfl

theorem State.withFetchWord_inv {s : State} {nbits w : Nat} (h : s.Inv) : State.Inv (State.withFetchWord s nbits
    w) := by
  unfold State.withFetchWord
  extract_lets s1 s2 s3 s4 s5 s6
  have h7 : s1.Inv := State.ready4_inv h
  have h8 : s3.Inv := State.ready4_inv h
  have h9 : s4.Inv := State.onRoot_inv h8
  have h10 : s5.Inv := State.onSlot_inv h9
  exact inv_ite (inv_upd h7 rfl rfl rfl) (inv_foldl h10 fun s11 e12 h13 => State.putHbm_inv h13)

end Sys2Proof.Machine
end

