-- ==== Sys2Proof/Laws/Issue.lean ====
section
/-! SUPPORT. What the shared operation `issue` answers (R60, R61), once for every instruction that a warp issues. -/

namespace Sys2Proof.Machine

/-- Where a clause runs, issue finds its quarter, clause, warp and group. -/
theorem Runs.issuing {s q c W g} (h : Runs s q c W g) : s.issuing = some (q, c, W, g) := by
  obtain ⟨h1, h2, h3, h4, h5⟩ := h
  simp [State.issuing, State.quarter, h1, h2, h3, h4, h5]

/-- A failed check is a precise fault. -/
theorem issue_of_fault {p body s q c W g cause} (h : Runs s q c W g) (hf : issueFault p c g = some cause) :
    issue p body s = .next (s.precise q c { cause := cause, lanes := c.lanes }) := by
  simp only [issue, h.issuing, hf]

/-- Without an active lane the clause moves on. -/
theorem issue_of_idle {p body s q c W g} (h : Runs s q c W g) (hf : issueFault p c g = none)
    (ha : activeLanes c W p.guard = 0) : issue p body s = .next (s.advance q) := by
  simp only [issue, h.issuing, hf, ha, if_true]

/-- An instruction that issues answers what its effect comes to. -/
theorem issue_of_issues {p body s q c W g} (h : Issues p s q c W g) :
    issue p body s =
      match body (sees q c W g p.guard) s with
      | .done t => .next (t.advance q)
      | .fault t => .next (s.precise q c t)
      | .stall => .next ((if c.stalled then s else s.progress (coreOf c.warp) g.slot).onClause q fun c => { c with stalled := true }) := by
  obtain ⟨hr, hf, ha⟩ := h
  simp only [issue, hr.issuing, hf, if_neg ha, sees] <;> cases body _ s <;> rfl

/-- An instruction whose effect is done moves the clause on from there. -/
theorem issue_of_done {p body s q c W g t} (h : Issues p s q c W g) (hb : body (sees q c W g p.guard) s = .done t) :
    issue p body s = .next (t.advance q) := by
  rw [issue_of_issues h, hb]

/-- An ALU instruction completes with its result written. -/
theorem alu_of_issues {p f s q c W g} (h : Issues p s q c W g) :
    alu p f s = .next (s.wrote q c (f (sees q c W g p.guard))) :=
  issue_of_done h rfl

/-- An instruction that is an ALU operation yields its result. -/
theorem yields_of_alu {i guard uses f} (h : ∀ s, exec i s = alu (needs guard uses) f s) : Yields i guard uses f :=
  fun s _ _ _ _ hi => (h s).trans (alu_of_issues hi)

/-- The same with another way to write the result. -/
theorem yields_of_eq {i guard uses f g} (h : Yields i guard uses f)
    (e : ∀ q c W gr, f (sees q c W gr guard) = g (sees q c W gr guard)) : Yields i guard uses g :=
  fun s q c W gr hi => by rw [h s q c W gr hi, e]

end Sys2Proof.Machine
end

