-- ==== Sys2Proof/Laws/PerInstr.lean ====
section
/-! SUPPORT. The family RoundTrip: decoding gives back a well-formed instruction that has an encoding, one lemma for
each constructor of Instr. -/

namespace Sys2Proof.Laws.RoundTrip

set_option Elab.async false

/-- R66 to R69, R190, R191: decoding the words of a well-formed instruction that has an encoding gives it back. -/
def Statement (i : Instr) : Prop := i.wf = true → encode i ≠ [] → decode (encode i) = .ok i

theorem nop (g : Guard) : Statement (.nop g) := fun hw _ => by
  refine decode_fr rfl (by decide) (by decide) (by decide) (by decide) (by decide) (by decide) (by decide) hw fun _ h0
    _ _ _ _ h5 _ _ => ?_
  simp [rawInstr, rawControl, h0, h5]

theorem bra (g : Guard) (disp : Word) : Statement (.bra g disp) := fun hw _ => by
  refine decode_fi rfl (by decide) (by decide) (by decide) (by decide) (by have := disp.isLt; omega) hw fun _ h0 _ _ _
    h4 h5 => ?_
  simp [rawInstr, rawControl, h0, h4, h5]

theorem brx (g : Guard) (a : Opnd) (disp : Word) : Statement (.brx g a disp) := fun hw _ => by
  refine decode_fi rfl (by decide) (by decide) a.code_lt (by decide) (by have := disp.isLt; omega) hw fun _ h0 _ h2 _
    h4 h5 => ?_
  simp [rawInstr, rawControl, h0, h2, h4, h5]

theorem call (g : Guard) (d : Opnd) (disp : Word) : Statement (.call g d disp) := fun hw _ => by
  refine decode_fi rfl (by decide) d.code_lt (by decide) (by decide) (by have := disp.isLt; omega) hw fun _ h0 h1 _ _
    h4 h5 => ?_
  simp [rawInstr, rawControl, h0, h1, h4, h5]

theorem callx (g : Guard) (d : Opnd) (a : Opnd) (disp : Word) : Statement (.callx g d a disp) := fun hw _ => by
  refine decode_fi rfl (by decide) d.code_lt a.code_lt (by decide) (by have := disp.isLt; omega) hw fun _ h0 h1 h2 _
    h4 h5 => ?_
  simp [rawInstr, rawControl, h0, h1, h2, h4, h5]

theorem ret (g : Guard) (a : Opnd) : Statement (.ret g a) := fun hw _ => by
  refine decode_fi rfl (by decide) (by decide) a.code_lt (by decide) (by decide) hw fun _ h0 _ h2 _ h4 _ => ?_
  simp [rawInstr, rawControl, h0, h2, h4]

theorem exit (g : Guard) : Statement (.exit g) := fun hw _ => by
  refine decode_fr rfl (by decide) (by decide) (by decide) (by decide) (by decide) (by decide) (by decide) hw fun _ h0
    _ _ _ _ h5 _ _ => ?_
  simp [rawInstr, rawControl, h0, h5]

theorem meet (g : Guard) (form : MeetForm) (d : Opnd) : Statement (.meet g form d) := fun hw _ => by
  cases form with
  | direct disp =>
    refine decode_fi rfl (by decide) d.code_lt (by decide) (by decide) (by have := disp.isLt; omega) hw fun _ h0 h1 _
      h3 h4 h5 => ?_
    simp [rawInstr, rawControl, h0, h1, h3, h4, h5]
  | reg a =>
    refine decode_fi rfl (by decide) d.code_lt a.code_lt (by decide) (by decide) hw fun _ h0 h1 h2 h3 h4 _ => ?_
    simp [rawInstr, rawControl, h0, h1, h2, h3, h4]

theorem sign (g : Guard) (n : Fin 8) : Statement (.sign g n) := fun hw _ => by
  refine decode_fr rfl (by decide) (by decide) (by decide) (by decide) (by decide) (by decide)
    (by have := n.isLt; omega) hw fun _ h0 _ _ _ _ h5 _ h7 => ?_
  simp [rawInstr, rawControl, h0, h5, h7]

theorem wait (g : Guard) (d : Opnd) (a : Opnd) (imm : WaitImm) : Statement (.wait g d a imm) := fun hw _ => by
  have hc := imm.cnt.isLt
  have hb := bit_lt imm.all
  have ht : imm.tmo < 2 ^ 28 := by simpa [Instr.wf] using hw
  refine decode_fi rfl (by decide) d.code_lt a.code_lt (by decide) (by omega) hw fun _ h0 h1 h2 _ h4 h5 => ?_
  have h8 : (2 * imm.cnt.val + 8 * bit imm.all + 16 * imm.tmo) / 16 = imm.tmo := by omega
  have h9 : (2 * imm.cnt.val + 8 * bit imm.all + 16 * imm.tmo) / 8 % 2 = bit imm.all := by omega
  have h10 : (2 * imm.cnt.val + 8 * bit imm.all + 16 * imm.tmo) / 2 % 4 = imm.cnt.val := by omega
  simp [rawInstr, rawControl, h0, h1, h2, h4, h5, h8, h9, h10, bit_eq_one]

theorem bar (g : Guard) (id : Fin 16) (count : Nat) : Statement (.bar g id count) := fun hw _ => by
  refine decode_fi rfl (by decide) (by decide) (by decide) (by decide)
    (by have := id.isLt; simp only [Instr.wf, decide_eq_true_eq] at hw; omega) hw fun _ h0 _ _ _ h4 h5 => ?_
  have hc : count < 1024 := by simp only [Instr.wf, decide_eq_true_eq] at hw; omega
  have h8 : (id.val + 256 * count) % 16 = id.val := by have := id.isLt; omega
  have h9 : (id.val + 256 * count) / 256 % 1024 = count := by have := id.isLt; omega
  simp [rawInstr, rawControl, h0, h4, h5, h8, h9]

theorem cbar (g : Guard) (id : Fin 16) (count : Nat) : Statement (.cbar g id count) := fun hw _ => by
  refine decode_fi rfl (by decide) (by decide) (by decide) (by decide)
    (by have := id.isLt; simp only [Instr.wf, decide_eq_true_eq] at hw; omega) hw fun _ h0 _ _ _ h4 h5 => ?_
  have hc : count < 1024 := by simp only [Instr.wf, decide_eq_true_eq] at hw; omega
  have h8 : (id.val + 256 * count) % 16 = id.val := by have := id.isLt; omega
  have h9 : (id.val + 256 * count) / 256 % 1024 = count := by have := id.isLt; omega
  simp [rawInstr, rawControl, h0, h4, h5, h8, h9]

theorem yield (g : Guard) : Statement (.yield g) := fun hw _ => by
  refine decode_fr rfl (by decide) (by decide) (by decide) (by decide) (by decide) (by decide) (by decide) hw fun _ h0
    _ _ _ _ h5 _ _ => ?_
  simp [rawInstr, rawControl, h0, h5]

theorem trap (g : Guard) (code : Word) : Statement (.trap g code) := fun hw _ => by
  refine decode_fi rfl (by decide) (by decide) (by decide) (by decide) (by have := code.isLt; omega) hw fun _ h0 _ _ _
    h4 h5 => ?_
  simp [rawInstr, rawControl, h0, h4, h5]

theorem cvset (g : Guard) (n : Fin 8) (a : Opnd) : Statement (.cvset g n a) := fun hw _ => by
  refine decode_fr rfl (by decide) (by decide) a.code_lt (by decide) (by decide) (by decide)
    (by have := n.isLt; omega) hw fun _ h0 _ h2 _ _ h5 _ h7 => ?_
  simp [rawInstr, rawControl, h0, h2, h5, h7]

theorem iadd (x : R2) (sat : Bool) : Statement (.iadd x sat) := fun hw _ => by
  refine decode_fr rfl (by decide) x.d.code_lt x.a.code_lt x.b.code_lt (by decide) x.ty.code_lt
    (by have := bit_lt sat; omega) hw fun _ h0 h1 h2 h3 _ h5 h6 h7 => ?_
  simp [rawInstr, rawInteger, h0, h1, h2, h3, h5, h6, h7]

theorem isub (x : R2) (sat : Bool) : Statement (.isub x sat) := fun hw _ => by
  refine decode_fr rfl (by decide) x.d.code_lt x.a.code_lt x.b.code_lt (by decide) x.ty.code_lt
    (by have := bit_lt sat; omega) hw fun _ h0 h1 h2 h3 _ h5 h6 h7 => ?_
  simp [rawInstr, rawInteger, h0, h1, h2, h3, h5, h6, h7]

theorem imul (x : R2) : Statement (.imul x) := fun hw _ => by
  refine decode_fr rfl (by decide) x.d.code_lt x.a.code_lt x.b.code_lt (by decide) x.ty.code_lt (by decide) hw fun _
    h0 h1 h2 h3 _ h5 h6 _ => ?_
  simp [rawInstr, rawInteger, h0, h1, h2, h3, h5, h6]

theorem imulhi (x : R2) : Statement (.imulhi x) := fun hw _ => by
  refine decode_fr rfl (by decide) x.d.code_lt x.a.code_lt x.b.code_lt (by decide) x.ty.code_lt (by decide) hw fun _
    h0 h1 h2 h3 _ h5 h6 _ => ?_
  simp [rawInstr, rawInteger, h0, h1, h2, h3, h5, h6]

theorem imad (x : R3) : Statement (.imad x) := fun hw _ => by
  refine decode_fr rfl (by decide) x.d.code_lt x.a.code_lt x.b.code_lt x.c.code_lt x.ty.code_lt (by decide) hw fun _
    h0 h1 h2 h3 h4 h5 h6 _ => ?_
  simp [rawInstr, rawInteger, h0, h1, h2, h3, h4, h5, h6]

theorem imadw (x : R3) : Statement (.imadw x) := fun hw _ => by
  refine decode_fr rfl (by decide) x.d.code_lt x.a.code_lt x.b.code_lt x.c.code_lt x.ty.code_lt (by decide) hw fun _
    h0 h1 h2 h3 h4 h5 h6 _ => ?_
  simp [rawInstr, rawInteger, h0, h1, h2, h3, h4, h5, h6]

theorem iadd64 (x : R2) (sat : Bool) : Statement (.iadd64 x sat) := fun hw _ => by
  refine decode_fr rfl (by decide) x.d.code_lt x.a.code_lt x.b.code_lt (by decide) x.ty.code_lt
    (by have := bit_lt sat; omega) hw fun _ h0 h1 h2 h3 _ h5 h6 h7 => ?_
  simp [rawInstr, rawInteger, h0, h1, h2, h3, h5, h6, h7]

theorem isub64 (x : R2) (sat : Bool) : Statement (.isub64 x sat) := fun hw _ => by
  refine decode_fr rfl (by decide) x.d.code_lt x.a.code_lt x.b.code_lt (by decide) x.ty.code_lt
    (by have := bit_lt sat; omega) hw fun _ h0 h1 h2 h3 _ h5 h6 h7 => ?_
  simp [rawInstr, rawInteger, h0, h1, h2, h3, h5, h6, h7]

theorem imul64 (x : R2) : Statement (.imul64 x) := fun hw _ => by
  refine decode_fr rfl (by decide) x.d.code_lt x.a.code_lt x.b.code_lt (by decide) x.ty.code_lt (by decide) hw fun _
    h0 h1 h2 h3 _ h5 h6 _ => ?_
  simp [rawInstr, rawInteger, h0, h1, h2, h3, h5, h6]

theorem imad64 (x : R3) : Statement (.imad64 x) := fun hw _ => by
  refine decode_fr rfl (by decide) x.d.code_lt x.a.code_lt x.b.code_lt x.c.code_lt x.ty.code_lt (by decide) hw fun _
    h0 h1 h2 h3 h4 h5 h6 _ => ?_
  simp [rawInstr, rawInteger, h0, h1, h2, h3, h4, h5, h6]

theorem shl (x : R2) : Statement (.shl x) := fun hw _ => by
  refine decode_fr rfl (by decide) x.d.code_lt x.a.code_lt x.b.code_lt (by decide) x.ty.code_lt (by decide) hw fun _
    h0 h1 h2 h3 _ h5 h6 _ => ?_
  simp [rawInstr, rawInteger, h0, h1, h2, h3, h5, h6]

theorem shr (x : R2) : Statement (.shr x) := fun hw _ => by
  refine decode_fr rfl (by decide) x.d.code_lt x.a.code_lt x.b.code_lt (by decide) x.ty.code_lt (by decide) hw fun _
    h0 h1 h2 h3 _ h5 h6 _ => ?_
  simp [rawInstr, rawInteger, h0, h1, h2, h3, h5, h6]

theorem sar (x : R2) : Statement (.sar x) := fun hw _ => by
  refine decode_fr rfl (by decide) x.d.code_lt x.a.code_lt x.b.code_lt (by decide) x.ty.code_lt (by decide) hw fun _
    h0 h1 h2 h3 _ h5 h6 _ => ?_
  simp [rawInstr, rawInteger, h0, h1, h2, h3, h5, h6]

theorem mix3 (x : R3) (t : BitVec 8) : Statement (.mix3 x t) := fun hw _ => by
  refine decode_fr rfl (by decide) x.d.code_lt x.a.code_lt x.b.code_lt x.c.code_lt x.ty.code_lt
    (by have := t.isLt; omega) hw fun _ h0 h1 h2 h3 h4 h5 h6 h7 => ?_
  simp [rawInstr, rawInteger, h0, h1, h2, h3, h4, h5, h6, h7]

theorem imin (x : R2) : Statement (.imin x) := fun hw _ => by
  refine decode_fr rfl (by decide) x.d.code_lt x.a.code_lt x.b.code_lt (by decide) x.ty.code_lt (by decide) hw fun _
    h0 h1 h2 h3 _ h5 h6 _ => ?_
  simp [rawInstr, rawInteger, h0, h1, h2, h3, h5, h6]

theorem imax (x : R2) : Statement (.imax x) := fun hw _ => by
  refine decode_fr rfl (by decide) x.d.code_lt x.a.code_lt x.b.code_lt (by decide) x.ty.code_lt (by decide) hw fun _
    h0 h1 h2 h3 _ h5 h6 _ => ?_
  simp [rawInstr, rawInteger, h0, h1, h2, h3, h5, h6]

theorem iabs (x : R1) (sat : Bool) : Statement (.iabs x sat) := fun hw _ => by
  refine decode_fr rfl (by decide) x.d.code_lt x.a.code_lt (by decide) (by decide) x.ty.code_lt
    (by have := bit_lt sat; omega) hw fun _ h0 h1 h2 _ _ h5 h6 h7 => ?_
  simp [rawInstr, rawLogic, h0, h1, h2, h5, h6, h7]

theorem icmp (g : Guard) (ty : Ty) (pd : Fin 8) (cc : ICond) (a : Opnd) (b : Opnd) : Statement (.icmp g ty pd cc a b)
  := fun hw _ => by
  refine decode_fr rfl (by decide) (by have := pd.isLt; have := cc.code_lt; omega) a.code_lt b.code_lt (by decide)
    ty.code_lt (by decide) hw fun _ h0 h1 h2 h3 _ h5 h6 _ => ?_
  simp [rawInstr, rawLogic, h0, h1, h2, h3, h5, h6]

theorem sel (x : R2) (pc : Fin 8) : Statement (.sel x pc) := fun hw _ => by
  refine decode_fr rfl (by decide) x.d.code_lt x.a.code_lt x.b.code_lt (by have := pc.isLt; omega) x.ty.code_lt
    (by decide) hw fun _ h0 h1 h2 h3 h4 h5 h6 _ => ?_
  simp [rawInstr, rawLogic, h0, h1, h2, h3, h4, h5, h6]

theorem popc (x : R1) : Statement (.popc x) := fun hw _ => by
  refine decode_fr rfl (by decide) x.d.code_lt x.a.code_lt (by decide) (by decide) x.ty.code_lt (by decide) hw fun _
    h0 h1 h2 _ _ h5 h6 _ => ?_
  simp [rawInstr, rawLogic, h0, h1, h2, h5, h6]

theorem clz (x : R1) : Statement (.clz x) := fun hw _ => by
  refine decode_fr rfl (by decide) x.d.code_lt x.a.code_lt (by decide) (by decide) x.ty.code_lt (by decide) hw fun _
    h0 h1 h2 _ _ h5 h6 _ => ?_
  simp [rawInstr, rawLogic, h0, h1, h2, h5, h6]

theorem brev (x : R1) : Statement (.brev x) := fun hw _ => by
  refine decode_fr rfl (by decide) x.d.code_lt x.a.code_lt (by decide) (by decide) x.ty.code_lt (by decide) hw fun _
    h0 h1 h2 _ _ h5 h6 _ => ?_
  simp [rawInstr, rawLogic, h0, h1, h2, h5, h6]

theorem bfe (x : R2) : Statement (.bfe x) := fun hw _ => by
  refine decode_fr rfl (by decide) x.d.code_lt x.a.code_lt x.b.code_lt (by decide) x.ty.code_lt (by decide) hw fun _
    h0 h1 h2 h3 _ h5 h6 _ => ?_
  simp [rawInstr, rawLogic, h0, h1, h2, h3, h5, h6]

theorem bfi (x : R3) : Statement (.bfi x) := fun hw _ => by
  refine decode_fr rfl (by decide) x.d.code_lt x.a.code_lt x.b.code_lt x.c.code_lt x.ty.code_lt (by decide) hw fun _
    h0 h1 h2 h3 h4 h5 h6 _ => ?_
  simp [rawInstr, rawLogic, h0, h1, h2, h3, h4, h5, h6]

theorem iaddp (x : R2) (sat : Bool) : Statement (.iaddp x sat) := fun hw _ => by
  refine decode_fr rfl (by decide) x.d.code_lt x.a.code_lt x.b.code_lt (by decide) x.ty.code_lt
    (by have := bit_lt sat; omega) hw fun _ h0 h1 h2 h3 _ h5 h6 h7 => ?_
  simp [rawInstr, rawLogic, h0, h1, h2, h3, h5, h6, h7]

theorem isubp (x : R2) (sat : Bool) : Statement (.isubp x sat) := fun hw _ => by
  refine decode_fr rfl (by decide) x.d.code_lt x.a.code_lt x.b.code_lt (by decide) x.ty.code_lt
    (by have := bit_lt sat; omega) hw fun _ h0 h1 h2 h3 _ h5 h6 h7 => ?_
  simp [rawInstr, rawLogic, h0, h1, h2, h3, h5, h6, h7]

theorem iminp (x : R2) : Statement (.iminp x) := fun hw _ => by
  refine decode_fr rfl (by decide) x.d.code_lt x.a.code_lt x.b.code_lt (by decide) x.ty.code_lt (by decide) hw fun _
    h0 h1 h2 h3 _ h5 h6 _ => ?_
  simp [rawInstr, rawLogic, h0, h1, h2, h3, h5, h6]

theorem imaxp (x : R2) : Statement (.imaxp x) := fun hw _ => by
  refine decode_fr rfl (by decide) x.d.code_lt x.a.code_lt x.b.code_lt (by decide) x.ty.code_lt (by decide) hw fun _
    h0 h1 h2 h3 _ h5 h6 _ => ?_
  simp [rawInstr, rawLogic, h0, h1, h2, h3, h5, h6]

theorem iabsp (x : R1) (sat : Bool) : Statement (.iabsp x sat) := fun hw _ => by
  refine decode_fr rfl (by decide) x.d.code_lt x.a.code_lt (by decide) (by decide) x.ty.code_lt
    (by have := bit_lt sat; omega) hw fun _ h0 h1 h2 _ _ h5 h6 h7 => ?_
  simp [rawInstr, rawLogic, h0, h1, h2, h5, h6, h7]

theorem idp4 (x : R3) (sat : Bool) : Statement (.idp4 x sat) := fun hw _ => by
  refine decode_fr rfl (by decide) x.d.code_lt x.a.code_lt x.b.code_lt x.c.code_lt x.ty.code_lt
    (by have := bit_lt sat; omega) hw fun _ h0 h1 h2 h3 h4 h5 h6 h7 => ?_
  simp [rawInstr, rawLogic, h0, h1, h2, h3, h4, h5, h6, h7]

theorem mov (x : R1) : Statement (.mov x) := fun hw _ => by
  refine decode_fr rfl (by decide) x.d.code_lt x.a.code_lt (by decide) (by decide) x.ty.code_lt (by decide) hw fun _
    h0 h1 h2 _ _ h5 h6 _ => ?_
  simp [rawInstr, rawLogic, h0, h1, h2, h5, h6]

theorem movi (g : Guard) (ty : Ty) (d : Opnd) (imm : Word) : Statement (.movi g ty d imm) := fun hw _ => by
  refine decode_fi rfl (by decide) d.code_lt (by decide) ty.code_lt (by have := imm.isLt; omega) hw fun _ h0 h1 _ h3
    h4 h5 => ?_
  simp [rawInstr, rawLogic, h0, h1, h3, h4, h5]

theorem xlane (x : R3) (mode : XMode) : Statement (.xlane x mode) := fun hw _ => by
  refine decode_fr rfl (by decide) x.d.code_lt x.a.code_lt x.b.code_lt x.c.code_lt x.ty.code_lt
    (by have := mode.code_lt; omega) hw fun _ h0 h1 h2 h3 h4 h5 h6 h7 => ?_
  simp [rawInstr, rawLane, h0, h1, h2, h3, h4, h5, h6, h7]

theorem lpoll (g : Guard) (form : PollForm) (q : Fin 8) : Statement (.lpoll g form q) := fun hw _ => by
  cases form with
  | every pd =>
    refine decode_fr rfl (by decide) (by have := pd.isLt; omega) (by have := q.isLt; omega) (by decide) (by decide)
      (by decide) (by decide) hw fun _ h0 h1 h2 _ _ h5 _ h7 => ?_
    simp [rawInstr, rawLane, h0, h1, h2, h5, h7, PollForm.ofMode]
  | some pd =>
    refine decode_fr rfl (by decide) (by have := pd.isLt; omega) (by have := q.isLt; omega) (by decide) (by decide)
      (by decide) (by decide) hw fun _ h0 h1 h2 _ _ h5 _ h7 => ?_
    simp [rawInstr, rawLane, h0, h1, h2, h5, h7, PollForm.ofMode]
  | same pd =>
    refine decode_fr rfl (by decide) (by have := pd.isLt; omega) (by have := q.isLt; omega) (by decide) (by decide)
      (by decide) (by decide) hw fun _ h0 h1 h2 _ _ h5 _ h7 => ?_
    simp [rawInstr, rawLane, h0, h1, h2, h5, h7, PollForm.ofMode]
  | mask d =>
    refine decode_fr rfl (by decide) d.code_lt (by have := q.isLt; omega) (by decide) (by decide) (by decide)
      (by decide) hw fun _ h0 h1 h2 _ _ h5 _ h7 => ?_
    simp [rawInstr, rawLane, h0, h1, h2, h5, h7, PollForm.ofMode]
  | count d =>
    refine decode_fr rfl (by decide) d.code_lt (by have := q.isLt; omega) (by decide) (by decide) (by decide)
      (by decide) hw fun _ h0 h1 h2 _ _ h5 _ h7 => ?_
    simp [rawInstr, rawLane, h0, h1, h2, h5, h7, PollForm.ofMode]
  | first d =>
    refine decode_fr rfl (by decide) d.code_lt (by have := q.isLt; omega) (by decide) (by decide) (by decide)
      (by decide) hw fun _ h0 h1 h2 _ _ h5 _ h7 => ?_
    simp [rawInstr, rawLane, h0, h1, h2, h5, h7, PollForm.ofMode]

theorem wred (x : R1) (op : RedOp) : Statement (.wred x op) := fun hw _ => by
  refine decode_fr rfl (by decide) x.d.code_lt x.a.code_lt (by decide) (by decide) x.ty.code_lt
    (by have := op.code_lt; omega) hw fun _ h0 h1 h2 _ _ h5 h6 h7 => ?_
  simp [rawInstr, rawLane, h0, h1, h2, h5, h6, h7]

theorem pmix3 (g : Guard) (pd : Fin 8) (pa : Fin 8) (pb : Fin 8) (pc : Fin 8) (t : BitVec 8) : Statement
  (.pmix3 g pd pa pb pc t) := fun hw _ => by
  refine decode_fr rfl (by decide) (by have := pd.isLt; omega) (by have := pa.isLt; omega) (by have := pb.isLt; omega)
    (by have := pc.isLt; omega) (by decide) (by have := t.isLt; omega) hw fun _ h0 h1 h2 h3 h4 h5 _ h7 => ?_
  simp [rawInstr, rawLane, h0, h1, h2, h3, h4, h5, h7]

theorem pget (g : Guard) (d : Opnd) : Statement (.pget g d) := fun hw _ => by
  refine decode_fr rfl (by decide) d.code_lt (by decide) (by decide) (by decide) (by decide) (by decide) hw fun _ h0
    h1 _ _ _ h5 _ _ => ?_
  simp [rawInstr, rawLane, h0, h1, h5]

theorem pset (g : Guard) (mask : BitVec 7) (a : Opnd) : Statement (.pset g mask a) := fun hw _ => by
  refine decode_fr rfl (by decide) (by decide) a.code_lt (by decide) (by decide) (by decide)
    (by have := mask.isLt; omega) hw fun _ h0 _ h2 _ _ h5 _ h7 => ?_
  simp [rawInstr, rawLane, h0, h2, h5, h7]

theorem wext (x : R3) (mode : WMode) : Statement (.wext x mode) := fun hw _ => by
  refine decode_fr rfl (by decide) x.d.code_lt x.a.code_lt x.b.code_lt x.c.code_lt x.ty.code_lt
    (by have := mode.code_lt; omega) hw fun _ h0 h1 h2 h3 h4 h5 h6 h7 => ?_
  simp [rawInstr, rawLane, h0, h1, h2, h3, h4, h5, h6, h7]

theorem iaddi (x : R1) (imm : Word) : Statement (.iaddi x imm) := fun hw _ => by
  refine decode_fi rfl (by decide) x.d.code_lt x.a.code_lt x.ty.code_lt (by have := imm.isLt; omega) hw fun _ h0 h1 h2
    h3 h4 h5 => ?_
  simp [rawInstr, rawLane, h0, h1, h2, h3, h4, h5]

theorem imuli (x : R1) (imm : Word) : Statement (.imuli x imm) := fun hw _ => by
  refine decode_fi rfl (by decide) x.d.code_lt x.a.code_lt x.ty.code_lt (by have := imm.isLt; omega) hw fun _ h0 h1 h2
    h3 h4 h5 => ?_
  simp [rawInstr, rawLane, h0, h1, h2, h3, h4, h5]

theorem icmpi (g : Guard) (ty : Ty) (pd : Fin 8) (cc : ICond) (a : Opnd) (imm : Word) : Statement
  (.icmpi g ty pd cc a imm) := fun hw _ => by
  refine decode_fi rfl (by decide) (by have := pd.isLt; have := cc.code_lt; omega) a.code_lt ty.code_lt
    (by have := imm.isLt; omega) hw fun _ h0 h1 h2 h3 h4 h5 => ?_
  simp [rawInstr, rawLane, h0, h1, h2, h3, h4, h5]

theorem mixi (g : Guard) (t : BitVec 4) (d : Opnd) (a : Opnd) (imm : Word) : Statement (.mixi g t d a imm) := fun hw _
  => by
  refine decode_fi rfl (by decide) d.code_lt a.code_lt (by have := t.isLt; omega) (by have := imm.isLt; omega) hw fun
    _ h0 h1 h2 h3 h4 h5 => ?_
  simp [rawInstr, rawLane, h0, h1, h2, h3, h4, h5]

theorem fadd (x : R2) (m : FMod) : Statement (.fadd x m) := fun hw _ => by
  refine decode_fr rfl (by decide) x.d.code_lt x.a.code_lt x.b.code_lt (by decide) x.ty.code_lt
    (by have := m.code_lt; omega) hw fun _ h0 h1 h2 h3 _ h5 h6 h7 => ?_
  simp [rawInstr, rawFloat, h0, h1, h2, h3, h5, h6, h7]

theorem fmul (x : R2) (m : FMod) : Statement (.fmul x m) := fun hw _ => by
  refine decode_fr rfl (by decide) x.d.code_lt x.a.code_lt x.b.code_lt (by decide) x.ty.code_lt
    (by have := m.code_lt; omega) hw fun _ h0 h1 h2 h3 _ h5 h6 h7 => ?_
  simp [rawInstr, rawFloat, h0, h1, h2, h3, h5, h6, h7]

theorem ffma (x : R3) (m : FMod) : Statement (.ffma x m) := fun hw _ => by
  refine decode_fr rfl (by decide) x.d.code_lt x.a.code_lt x.b.code_lt x.c.code_lt x.ty.code_lt
    (by have := m.code_lt; omega) hw fun _ h0 h1 h2 h3 h4 h5 h6 h7 => ?_
  simp [rawInstr, rawFloat, h0, h1, h2, h3, h4, h5, h6, h7]

theorem fmin (x : R2) (rnd : Rnd) (nan : Bool) : Statement (.fmin x rnd nan) := fun hw _ => by
  refine decode_fr rfl (by decide) x.d.code_lt x.a.code_lt x.b.code_lt (by decide) x.ty.code_lt
    (by have := rnd.code_lt; have := bit_lt nan; omega) hw fun _ h0 h1 h2 h3 _ h5 h6 h7 => ?_
  simp [rawInstr, rawFloat, h0, h1, h2, h3, h5, h6, h7]

theorem fmax (x : R2) (rnd : Rnd) (nan : Bool) : Statement (.fmax x rnd nan) := fun hw _ => by
  refine decode_fr rfl (by decide) x.d.code_lt x.a.code_lt x.b.code_lt (by decide) x.ty.code_lt
    (by have := rnd.code_lt; have := bit_lt nan; omega) hw fun _ h0 h1 h2 h3 _ h5 h6 h7 => ?_
  simp [rawInstr, rawFloat, h0, h1, h2, h3, h5, h6, h7]

theorem fcmp (g : Guard) (pd : Fin 8) (cc : FCond) (a : Opnd) (b : Opnd) (rnd : Rnd) : Statement
  (.fcmp g pd cc a b rnd) := fun hw _ => by
  refine decode_fr rfl (by decide) (by have := pd.isLt; have := cc.code_lt; omega) a.code_lt b.code_lt (by decide)
    (by decide) (by have := rnd.code_lt; omega) hw fun _ h0 h1 h2 h3 _ h5 _ h7 => ?_
  simp [rawInstr, rawFloat, h0, h1, h2, h3, h5, h7]

theorem fabs (x : R1) (rnd : Rnd) (neg : Bool) : Statement (.fabs x rnd neg) := fun hw _ => by
  refine decode_fr rfl (by decide) x.d.code_lt x.a.code_lt (by decide) (by decide) x.ty.code_lt
    (by have := rnd.code_lt; have := bit_lt neg; omega) hw fun _ h0 h1 h2 _ _ h5 h6 h7 => ?_
  simp [rawInstr, rawFloat, h0, h1, h2, h5, h6, h7]

theorem fclass (x : R1) (rnd : Rnd) (elem : Fin 8) : Statement (.fclass x rnd elem) := fun hw _ => by
  refine decode_fr rfl (by decide) x.d.code_lt x.a.code_lt (by decide) (by decide) x.ty.code_lt
    (by have := elem.isLt; have := rnd.code_lt; omega) hw fun _ h0 h1 h2 _ _ h5 h6 h7 => ?_
  simp [rawInstr, rawFloat, h0, h1, h2, h5, h6, h7]

theorem dadd (x : R2) (m : FMod) : Statement (.dadd x m) := fun hw _ => by
  refine decode_fr rfl (by decide) x.d.code_lt x.a.code_lt x.b.code_lt (by decide) x.ty.code_lt
    (by have := m.code_lt; omega) hw fun _ h0 h1 h2 h3 _ h5 h6 h7 => ?_
  simp [rawInstr, rawFloat, h0, h1, h2, h3, h5, h6, h7]

theorem dmul (x : R2) (m : FMod) : Statement (.dmul x m) := fun hw _ => by
  refine decode_fr rfl (by decide) x.d.code_lt x.a.code_lt x.b.code_lt (by decide) x.ty.code_lt
    (by have := m.code_lt; omega) hw fun _ h0 h1 h2 h3 _ h5 h6 h7 => ?_
  simp [rawInstr, rawFloat, h0, h1, h2, h3, h5, h6, h7]

theorem dfma (x : R3) (m : FMod) : Statement (.dfma x m) := fun hw _ => by
  refine decode_fr rfl (by decide) x.d.code_lt x.a.code_lt x.b.code_lt x.c.code_lt x.ty.code_lt
    (by have := m.code_lt; omega) hw fun _ h0 h1 h2 h3 h4 h5 h6 h7 => ?_
  simp [rawInstr, rawFloat, h0, h1, h2, h3, h4, h5, h6, h7]

theorem dmin (x : R2) (rnd : Rnd) (nan : Bool) : Statement (.dmin x rnd nan) := fun hw _ => by
  refine decode_fr rfl (by decide) x.d.code_lt x.a.code_lt x.b.code_lt (by decide) x.ty.code_lt
    (by have := rnd.code_lt; have := bit_lt nan; omega) hw fun _ h0 h1 h2 h3 _ h5 h6 h7 => ?_
  simp [rawInstr, rawFloat, h0, h1, h2, h3, h5, h6, h7]

theorem dmax (x : R2) (rnd : Rnd) (nan : Bool) : Statement (.dmax x rnd nan) := fun hw _ => by
  refine decode_fr rfl (by decide) x.d.code_lt x.a.code_lt x.b.code_lt (by decide) x.ty.code_lt
    (by have := rnd.code_lt; have := bit_lt nan; omega) hw fun _ h0 h1 h2 h3 _ h5 h6 h7 => ?_
  simp [rawInstr, rawFloat, h0, h1, h2, h3, h5, h6, h7]

theorem dcmp (g : Guard) (pd : Fin 8) (cc : FCond) (a : Opnd) (b : Opnd) (rnd : Rnd) : Statement
  (.dcmp g pd cc a b rnd) := fun hw _ => by
  refine decode_fr rfl (by decide) (by have := pd.isLt; have := cc.code_lt; omega) a.code_lt b.code_lt (by decide)
    (by decide) (by have := rnd.code_lt; omega) hw fun _ h0 h1 h2 h3 _ h5 _ h7 => ?_
  simp [rawInstr, rawFloat, h0, h1, h2, h3, h5, h7]

theorem dclass (x : R1) (rnd : Rnd) : Statement (.dclass x rnd) := fun hw _ => by
  refine decode_fr rfl (by decide) x.d.code_lt x.a.code_lt (by decide) (by decide) x.ty.code_lt
    (by have := rnd.code_lt; omega) hw fun _ h0 h1 h2 _ _ h5 h6 h7 => ?_
  simp [rawInstr, rawFloat, h0, h1, h2, h5, h6, h7]

theorem hadd2 (x : R2) (m : FMod) : Statement (.hadd2 x m) := fun hw _ => by
  refine decode_fr rfl (by decide) x.d.code_lt x.a.code_lt x.b.code_lt (by decide) x.ty.code_lt
    (by have := m.code_lt; omega) hw fun _ h0 h1 h2 h3 _ h5 h6 h7 => ?_
  simp [rawInstr, rawHalf, h0, h1, h2, h3, h5, h6, h7]

theorem hmul2 (x : R2) (m : FMod) : Statement (.hmul2 x m) := fun hw _ => by
  refine decode_fr rfl (by decide) x.d.code_lt x.a.code_lt x.b.code_lt (by decide) x.ty.code_lt
    (by have := m.code_lt; omega) hw fun _ h0 h1 h2 h3 _ h5 h6 h7 => ?_
  simp [rawInstr, rawHalf, h0, h1, h2, h3, h5, h6, h7]

theorem hfma2 (x : R3) (m : FMod) : Statement (.hfma2 x m) := fun hw _ => by
  refine decode_fr rfl (by decide) x.d.code_lt x.a.code_lt x.b.code_lt x.c.code_lt x.ty.code_lt
    (by have := m.code_lt; omega) hw fun _ h0 h1 h2 h3 h4 h5 h6 h7 => ?_
  simp [rawInstr, rawHalf, h0, h1, h2, h3, h4, h5, h6, h7]

theorem hmin2 (x : R2) (rnd : Rnd) (nan : Bool) : Statement (.hmin2 x rnd nan) := fun hw _ => by
  refine decode_fr rfl (by decide) x.d.code_lt x.a.code_lt x.b.code_lt (by decide) x.ty.code_lt
    (by have := rnd.code_lt; have := bit_lt nan; omega) hw fun _ h0 h1 h2 h3 _ h5 h6 h7 => ?_
  simp [rawInstr, rawHalf, h0, h1, h2, h3, h5, h6, h7]

theorem hmax2 (x : R2) (rnd : Rnd) (nan : Bool) : Statement (.hmax2 x rnd nan) := fun hw _ => by
  refine decode_fr rfl (by decide) x.d.code_lt x.a.code_lt x.b.code_lt (by decide) x.ty.code_lt
    (by have := rnd.code_lt; have := bit_lt nan; omega) hw fun _ h0 h1 h2 h3 _ h5 h6 h7 => ?_
  simp [rawInstr, rawHalf, h0, h1, h2, h3, h5, h6, h7]

theorem hcmp2 (x : R2) (rnd : Rnd) (cc : FCond) : Statement (.hcmp2 x rnd cc) := fun hw _ => by
  refine decode_fr rfl (by decide) x.d.code_lt x.a.code_lt x.b.code_lt (by decide) x.ty.code_lt
    (by have := rnd.code_lt; have := cc.code_lt; omega) hw fun _ h0 h1 h2 h3 _ h5 h6 h7 => ?_
  simp [rawInstr, rawHalf, h0, h1, h2, h3, h5, h6, h7]

theorem faddi (x : R1) (imm : Word) : Statement (.faddi x imm) := fun hw _ => by
  refine decode_fi rfl (by decide) x.d.code_lt x.a.code_lt x.ty.code_lt (by have := imm.isLt; omega) hw fun _ h0 h1 h2
    h3 h4 h5 => ?_
  simp [rawInstr, rawHalf, h0, h1, h2, h3, h4, h5]

theorem fmuli (x : R1) (imm : Word) : Statement (.fmuli x imm) := fun hw _ => by
  refine decode_fi rfl (by decide) x.d.code_lt x.a.code_lt x.ty.code_lt (by have := imm.isLt; omega) hw fun _ h0 h1 h2
    h3 h4 h5 => ?_
  simp [rawInstr, rawHalf, h0, h1, h2, h3, h4, h5]

theorem frcp (x : R1) (rnd : Rnd) : Statement (.frcp x rnd) := fun hw _ => by
  refine decode_fr rfl (by decide) x.d.code_lt x.a.code_lt (by decide) (by decide) x.ty.code_lt
    (by have := rnd.code_lt; omega) hw fun _ h0 h1 h2 _ _ h5 h6 h7 => ?_
  simp [rawInstr, rawHalf, h0, h1, h2, h5, h6, h7]

theorem frsq (x : R1) (rnd : Rnd) : Statement (.frsq x rnd) := fun hw _ => by
  refine decode_fr rfl (by decide) x.d.code_lt x.a.code_lt (by decide) (by decide) x.ty.code_lt
    (by have := rnd.code_lt; omega) hw fun _ h0 h1 h2 _ _ h5 h6 h7 => ?_
  simp [rawInstr, rawHalf, h0, h1, h2, h5, h6, h7]

theorem fsqrt (x : R1) (rnd : Rnd) : Statement (.fsqrt x rnd) := fun hw _ => by
  refine decode_fr rfl (by decide) x.d.code_lt x.a.code_lt (by decide) (by decide) x.ty.code_lt
    (by have := rnd.code_lt; omega) hw fun _ h0 h1 h2 _ _ h5 h6 h7 => ?_
  simp [rawInstr, rawHalf, h0, h1, h2, h5, h6, h7]

theorem fex2 (x : R1) (rnd : Rnd) : Statement (.fex2 x rnd) := fun hw _ => by
  refine decode_fr rfl (by decide) x.d.code_lt x.a.code_lt (by decide) (by decide) x.ty.code_lt
    (by have := rnd.code_lt; omega) hw fun _ h0 h1 h2 _ _ h5 h6 h7 => ?_
  simp [rawInstr, rawHalf, h0, h1, h2, h5, h6, h7]

theorem flg2 (x : R1) (rnd : Rnd) : Statement (.flg2 x rnd) := fun hw _ => by
  refine decode_fr rfl (by decide) x.d.code_lt x.a.code_lt (by decide) (by decide) x.ty.code_lt
    (by have := rnd.code_lt; omega) hw fun _ h0 h1 h2 _ _ h5 h6 h7 => ?_
  simp [rawInstr, rawHalf, h0, h1, h2, h5, h6, h7]

theorem fsin (x : R1) (rnd : Rnd) : Statement (.fsin x rnd) := fun hw _ => by
  refine decode_fr rfl (by decide) x.d.code_lt x.a.code_lt (by decide) (by decide) x.ty.code_lt
    (by have := rnd.code_lt; omega) hw fun _ h0 h1 h2 _ _ h5 h6 h7 => ?_
  simp [rawInstr, rawHalf, h0, h1, h2, h5, h6, h7]

theorem fcos (x : R1) (rnd : Rnd) : Statement (.fcos x rnd) := fun hw _ => by
  refine decode_fr rfl (by decide) x.d.code_lt x.a.code_lt (by decide) (by decide) x.ty.code_lt
    (by have := rnd.code_lt; omega) hw fun _ h0 h1 h2 _ _ h5 h6 h7 => ?_
  simp [rawInstr, rawHalf, h0, h1, h2, h5, h6, h7]

theorem ftanh (x : R1) (rnd : Rnd) : Statement (.ftanh x rnd) := fun hw _ => by
  refine decode_fr rfl (by decide) x.d.code_lt x.a.code_lt (by decide) (by decide) x.ty.code_lt
    (by have := rnd.code_lt; omega) hw fun _ h0 h1 h2 _ _ h5 h6 h7 => ?_
  simp [rawInstr, rawHalf, h0, h1, h2, h5, h6, h7]

theorem dsqrt (x : R1) (rnd : Rnd) : Statement (.dsqrt x rnd) := fun hw _ => by
  refine decode_fr rfl (by decide) x.d.code_lt x.a.code_lt (by decide) (by decide) x.ty.code_lt
    (by have := rnd.code_lt; omega) hw fun _ h0 h1 h2 _ _ h5 h6 h7 => ?_
  simp [rawInstr, rawHalf, h0, h1, h2, h5, h6, h7]

theorem drcp (x : R1) (rnd : Rnd) : Statement (.drcp x rnd) := fun hw _ => by
  refine decode_fr rfl (by decide) x.d.code_lt x.a.code_lt (by decide) (by decide) x.ty.code_lt
    (by have := rnd.code_lt; omega) hw fun _ h0 h1 h2 _ _ h5 h6 h7 => ?_
  simp [rawInstr, rawHalf, h0, h1, h2, h5, h6, h7]

theorem cvff (x : R1) (m : CvMod) : Statement (.cvff x m) := fun hw _ => by
  refine decode_fr rfl (by decide) x.d.code_lt x.a.code_lt (by decide) (by decide) x.ty.code_lt
    (by have := m.code_lt; omega) hw fun _ h0 h1 h2 _ _ h5 h6 h7 => ?_
  simp [rawInstr, rawHalf, h0, h1, h2, h5, h6, h7]

theorem cvfi (x : R1) (m : CvMod) : Statement (.cvfi x m) := fun hw _ => by
  refine decode_fr rfl (by decide) x.d.code_lt x.a.code_lt (by decide) (by decide) x.ty.code_lt
    (by have := m.code_lt; omega) hw fun _ h0 h1 h2 _ _ h5 h6 h7 => ?_
  simp [rawInstr, rawHalf, h0, h1, h2, h5, h6, h7]

theorem cvif (x : R1) (m : CvMod) : Statement (.cvif x m) := fun hw _ => by
  refine decode_fr rfl (by decide) x.d.code_lt x.a.code_lt (by decide) (by decide) x.ty.code_lt
    (by have := m.code_lt; omega) hw fun _ h0 h1 h2 _ _ h5 h6 h7 => ?_
  simp [rawInstr, rawHalf, h0, h1, h2, h5, h6, h7]

theorem cvii (x : R1) (m : CvMod) : Statement (.cvii x m) := fun hw _ => by
  refine decode_fr rfl (by decide) x.d.code_lt x.a.code_lt (by decide) (by decide) x.ty.code_lt
    (by have := m.code_lt; omega) hw fun _ h0 h1 h2 _ _ h5 h6 h7 => ?_
  simp [rawInstr, rawHalf, h0, h1, h2, h5, h6, h7]

theorem pkf8 (x : R2) (rnd : Rnd) (sat : Bool) : Statement (.pkf8 x rnd sat) := fun hw _ => by
  refine decode_fr rfl (by decide) x.d.code_lt x.a.code_lt x.b.code_lt (by decide) x.ty.code_lt
    (by have := rnd.code_lt; have := bit_lt sat; omega) hw fun _ h0 h1 h2 h3 _ h5 h6 h7 => ?_
  simp [rawInstr, rawHalf, h0, h1, h2, h3, h5, h6, h7]

theorem pkf4 (x : R2) (rnd : Rnd) (q : Fin 8) : Statement (.pkf4 x rnd q) := fun hw _ => by
  refine decode_fr rfl (by decide) x.d.code_lt x.a.code_lt x.b.code_lt (by decide) x.ty.code_lt
    (by have := q.isLt; have := rnd.code_lt; omega) hw fun _ h0 h1 h2 h3 _ h5 h6 h7 => ?_
  simp [rawInstr, rawHalf, h0, h1, h2, h3, h5, h6, h7]

theorem mxsc (x : R1) (rnd : Rnd) (inv : Bool) : Statement (.mxsc x rnd inv) := fun hw _ => by
  refine decode_fr rfl (by decide) x.d.code_lt x.a.code_lt (by decide) (by decide) x.ty.code_lt
    (by have := rnd.code_lt; have := bit_lt inv; omega) hw fun _ h0 h1 h2 _ _ h5 h6 h7 => ?_
  simp [rawInstr, rawHalf, h0, h1, h2, h5, h6, h7]

theorem ld (x : MForm) (fresh : Bool) : Statement (.ld x fresh) := fun hw _ => by
  refine decode_fm rfl (by decide) (by decide) (by have := bit_lt fresh; omega) hw fun _ h0 _ h2 h3 => ?_
  simp [rawInstr, rawMemory, h0, h2, h3]

theorem st (x : MForm) : Statement (.st x) := fun hw _ => by
  refine decode_fm rfl (by decide) (by decide) (by decide) hw fun _ h0 _ _ h3 => ?_
  simp [rawInstr, rawMemory, h0, h3]

theorem ldb (x : MForm) (fresh : Bool) : Statement (.ldb x fresh) := fun hw _ => by
  refine decode_fm rfl (by decide) (by decide) (by have := bit_lt fresh; omega) hw fun _ h0 _ h2 h3 => ?_
  simp [rawInstr, rawMemory, h0, h2, h3]

theorem stb (x : MForm) : Statement (.stb x) := fun hw _ => by
  refine decode_fm rfl (by decide) (by decide) (by decide) hw fun _ h0 _ _ h3 => ?_
  simp [rawInstr, rawMemory, h0, h3]

theorem ldw (x : MForm) (clr : Bool) : Statement (.ldw x clr) := fun hw _ => by
  refine decode_fm rfl (by decide) (by decide) (by have := bit_lt clr; omega) hw fun _ h0 _ h2 h3 => ?_
  simp [rawInstr, rawMemory, h0, h2, h3]

theorem setempty (x : MForm) : Statement (.setempty x) := fun hw _ => by
  refine decode_fm rfl (by decide) (by decide) (by decide) hw fun _ h0 _ _ h3 => ?_
  simp [rawInstr, rawMemory, h0, h3]

theorem atadd (x : MForm) (slot : Option (Fin 8)) : Statement (.atadd x slot) := fun hw _ => by
  refine decode_fm rfl (by decide) (by decide) (by have := slotCode_lt slot; omega) hw fun _ h0 _ h2 h3 => ?_
  simp [rawInstr, rawMemory, h0, h2, h3]

theorem atmin (x : MForm) (slot : Option (Fin 8)) : Statement (.atmin x slot) := fun hw _ => by
  refine decode_fm rfl (by decide) (by decide) (by have := slotCode_lt slot; omega) hw fun _ h0 _ h2 h3 => ?_
  simp [rawInstr, rawMemory, h0, h2, h3]

theorem atmax (x : MForm) (slot : Option (Fin 8)) : Statement (.atmax x slot) := fun hw _ => by
  refine decode_fm rfl (by decide) (by decide) (by have := slotCode_lt slot; omega) hw fun _ h0 _ h2 h3 => ?_
  simp [rawInstr, rawMemory, h0, h2, h3]

theorem atand (x : MForm) (slot : Option (Fin 8)) : Statement (.atand x slot) := fun hw _ => by
  refine decode_fm rfl (by decide) (by decide) (by have := slotCode_lt slot; omega) hw fun _ h0 _ h2 h3 => ?_
  simp [rawInstr, rawMemory, h0, h2, h3]

theorem ator (x : MForm) (slot : Option (Fin 8)) : Statement (.ator x slot) := fun hw _ => by
  refine decode_fm rfl (by decide) (by decide) (by have := slotCode_lt slot; omega) hw fun _ h0 _ h2 h3 => ?_
  simp [rawInstr, rawMemory, h0, h2, h3]

theorem atxor (x : MForm) (slot : Option (Fin 8)) : Statement (.atxor x slot) := fun hw _ => by
  refine decode_fm rfl (by decide) (by decide) (by have := slotCode_lt slot; omega) hw fun _ h0 _ h2 h3 => ?_
  simp [rawInstr, rawMemory, h0, h2, h3]

theorem atexch (x : MForm) (slot : Option (Fin 8)) : Statement (.atexch x slot) := fun hw _ => by
  refine decode_fm rfl (by decide) (by decide) (by have := slotCode_lt slot; omega) hw fun _ h0 _ h2 h3 => ?_
  simp [rawInstr, rawMemory, h0, h2, h3]

theorem atcas (x : MForm) (slot : Option (Fin 8)) (b : Opnd) : Statement (.atcas x slot b) := fun hw _ => by
  refine decode_fm rfl (by decide) b.code_lt (by have := slotCode_lt slot; omega) hw fun _ h0 h1 h2 h3 => ?_
  simp [rawInstr, rawMemory, h0, h1, h2, h3]

theorem redadd (x : MForm) : Statement (.redadd x) := fun hw _ => by
  refine decode_fm rfl (by decide) (by decide) (by decide) hw fun _ h0 _ _ h3 => ?_
  simp [rawInstr, rawReduce, h0, h3]

theorem redmin (x : MForm) : Statement (.redmin x) := fun hw _ => by
  refine decode_fm rfl (by decide) (by decide) (by decide) hw fun _ h0 _ _ h3 => ?_
  simp [rawInstr, rawReduce, h0, h3]

theorem redmax (x : MForm) : Statement (.redmax x) := fun hw _ => by
  refine decode_fm rfl (by decide) (by decide) (by decide) hw fun _ h0 _ _ h3 => ?_
  simp [rawInstr, rawReduce, h0, h3]

theorem redand (x : MForm) : Statement (.redand x) := fun hw _ => by
  refine decode_fm rfl (by decide) (by decide) (by decide) hw fun _ h0 _ _ h3 => ?_
  simp [rawInstr, rawReduce, h0, h3]

theorem redor (x : MForm) : Statement (.redor x) := fun hw _ => by
  refine decode_fm rfl (by decide) (by decide) (by decide) hw fun _ h0 _ _ h3 => ?_
  simp [rawInstr, rawReduce, h0, h3]

theorem redxor (x : MForm) : Statement (.redxor x) := fun hw _ => by
  refine decode_fm rfl (by decide) (by decide) (by decide) hw fun _ h0 _ _ h3 => ?_
  simp [rawInstr, rawReduce, h0, h3]

theorem fxadd (x : MForm) : Statement (.fxadd x) := fun hw _ => by
  refine decode_fm rfl (by decide) (by decide) (by decide) hw fun _ h0 _ _ h3 => ?_
  simp [rawInstr, rawReduce, h0, h3]

theorem fxrd (x : MForm) (rnd : Rnd) : Statement (.fxrd x rnd) := fun hw _ => by
  refine decode_fm rfl (by decide) (by decide) (by have := rnd.code_lt; omega) hw fun _ h0 _ h2 h3 => ?_
  simp [rawInstr, rawReduce, h0, h2, h3]

theorem nins (x : MForm) (b : Opnd) : Statement (.nins x b) := fun hw _ => by
  refine decode_fm rfl (by decide) b.code_lt (by decide) hw fun _ h0 h1 _ h3 => ?_
  simp [rawInstr, rawReduce, h0, h1, h3]

theorem lock (x : MForm) : Statement (.lock x) := fun hw _ => by
  refine decode_fm rfl (by decide) (by decide) (by decide) hw fun _ h0 _ _ h3 => ?_
  simp [rawInstr, rawReduce, h0, h3]

theorem unlock (x : MForm) : Statement (.unlock x) := fun hw _ => by
  refine decode_fm rfl (by decide) (by decide) (by decide) hw fun _ h0 _ _ h3 => ?_
  simp [rawInstr, rawReduce, h0, h3]

theorem fence (x : MForm) : Statement (.fence x) := fun hw _ => by
  refine decode_fm rfl (by decide) (by decide) (by decide) hw fun _ h0 _ _ h3 => ?_
  simp [rawInstr, rawReduce, h0, h3]

theorem mma (x : Prod) : Statement (.mma x) := fun hw _ => by
  refine decode_fr rfl (by decide) (by decide) x.a.code_lt x.b.code_lt (by decide) x.ty.code_lt
    (by have := x.tile.isLt; have := bit_lt x.zc; have := cvCode_le x.cv; omega) hw fun _ h0 _ h2 h3 _ h5 h6 h7 => ?_
  have hm := product_mod x.cv x.zc false x.tile
  simp only [show bit false = 0 from rfl, Nat.add_zero] at hm
  obtain ⟨m0, m1, m2, m3⟩ := hm
  simp [rawInstr, rawMatrix, h0, h2, h3, h5, h6, h7, m0, m1, m2]

theorem mmag (x : Prod) (c : Opnd) : Statement (.mmag x c) := fun hw _ => by
  refine decode_fr rfl (by decide) (by decide) x.a.code_lt x.b.code_lt c.code_lt x.ty.code_lt
    (by have := x.tile.isLt; have := bit_lt x.zc; have := cvCode_le x.cv; omega) hw fun _ h0 _ h2 h3 h4 h5 h6 h7 => ?_
  have hm := product_mod x.cv x.zc false x.tile
  simp only [show bit false = 0 from rfl, Nat.add_zero] at hm
  obtain ⟨m0, m1, m2, m3⟩ := hm
  simp [rawInstr, rawMatrix, h0, h2, h3, h4, h5, h6, h7, m0, m1, m2]

theorem mmas (x : Prod) : Statement (.mmas x) := fun hw _ => by
  refine decode_fr rfl (by decide) (by decide) x.a.code_lt x.b.code_lt (by decide) x.ty.code_lt
    (by have := x.tile.isLt; have := bit_lt x.zc; have := cvCode_le x.cv; omega) hw fun _ h0 _ h2 h3 _ h5 h6 h7 => ?_
  have hm := product_mod x.cv x.zc false x.tile
  simp only [show bit false = 0 from rfl, Nat.add_zero] at hm
  obtain ⟨m0, m1, m2, m3⟩ := hm
  simp [rawInstr, rawMatrix, h0, h2, h3, h5, h6, h7, m0, m1, m2]

theorem sfpush (g : Guard) (ty : Ty) (a : Opnd) (kindB : Bool) (cv : Option (Fin 8)) : Statement
  (.sfpush g ty a kindB cv) := fun hw _ => by
  refine decode_fr rfl (by decide) (by decide) a.code_lt (by decide) (by decide) ty.code_lt
    (by have := bit_lt kindB; have := cvCode_le cv; omega) hw fun _ h0 _ h2 _ _ h5 h6 h7 => ?_
  obtain ⟨m0, m1, m2⟩ := sfpush_mod cv kindB
  simp [rawInstr, rawMatrix, h0, h2, h5, h6, h7, m0, m1, m2]

theorem sfpushFlush (g : Guard) : Statement (.sfpushFlush g) := fun hw _ => by
  refine decode_fr rfl (by decide) (by decide) (by decide) (by decide) (by decide) (by decide) (by decide) hw fun _ h0
    _ _ _ _ h5 _ h7 => ?_
  simp [rawInstr, rawMatrix, h0, h5, h7, flag]

theorem mmx (x : Prod) (unsignedA : Bool) : Statement (.mmx x unsignedA) := fun hw _ => by
  refine decode_fr rfl (by decide) (by decide) x.a.code_lt x.b.code_lt (by decide) x.ty.code_lt
    (by have := x.tile.isLt; have := bit_lt x.zc; have := bit_lt unsignedA; have := cvCode_le x.cv; omega) hw fun _ h0
    _ h2 h3 _ h5 h6 h7 => ?_
  have hm := product_mod x.cv x.zc unsignedA x.tile
  obtain ⟨m0, m1, m2, m3⟩ := hm
  simp [rawInstr, rawMatrix, h0, h2, h3, h5, h6, h7, m0, m1, m2, m3]

theorem aalloc (g : Guard) (d : Opnd) (mask : Word) : Statement (.aalloc g d mask) := fun hw _ => by
  refine decode_fi rfl (by decide) d.code_lt (by decide) (by decide) (by have := mask.isLt; omega) hw fun _ h0 h1 _ _
    h4 h5 => ?_
  simp [rawInstr, rawMatrix, h0, h1, h4, h5]

theorem afree (g : Guard) (mask : Word) : Statement (.afree g mask) := fun hw _ => by
  refine decode_fi rfl (by decide) (by decide) (by decide) (by decide) (by have := mask.isLt; omega) hw fun _ h0 _ _ _
    h4 h5 => ?_
  simp [rawInstr, rawMatrix, h0, h4, h5]

theorem acqa (g : Guard) (a : Opnd) (mask : Word) : Statement (.acqa g a mask) := fun hw _ => by
  refine decode_fi rfl (by decide) (by decide) a.code_lt (by decide) (by have := mask.isLt; omega) hw fun _ h0 _ h2 _
    h4 h5 => ?_
  simp [rawInstr, rawMatrix, h0, h2, h4, h5]

theorem rela (g : Guard) (mask : Word) : Statement (.rela g mask) := fun hw _ => by
  refine decode_fi rfl (by decide) (by decide) (by decide) (by decide) (by have := mask.isLt; omega) hw fun _ h0 _ _ _
    h4 h5 => ?_
  simp [rawInstr, rawMatrix, h0, h4, h5]

theorem amv (g : Guard) (mode : AmvMode) (spec : Opnd) (tile : Fin 64) (cv : Option (Fin 8)) : Statement
  (.amv g mode spec tile cv) := fun hw _ => by
  cases mode with
  | a2v d =>
    refine decode_fr rfl (by decide) d.code_lt (by decide) spec.code_lt (by decide) (by decide)
      (by have := tile.isLt; have := cvCode_le cv; omega) hw fun _ h0 h1 _ h3 _ h5 _ h7 => ?_
    obtain ⟨m0, m1, m2⟩ : (cvCode cv + 1024 * 0 + 4 * tile.val) / 1024 % 4 = 0 ∧ Sys2Proof.tile
      (cvCode cv + 1024 * 0 + 4 * tile.val) = tile ∧ cvOf (cvCode cv + 1024 * 0 + 4 * tile.val) = cv := amv_mod cv 0
      tile
    simp only [Nat.mul_zero, Nat.add_zero] at m0 m1 m2
    simp [rawInstr, rawMatrix, h0, h1, h3, h5, h7, m0, m1, m2]
  | v2a a =>
    refine decode_fr rfl (by decide) (by decide) a.code_lt spec.code_lt (by decide) (by decide)
      (by have := tile.isLt; have := cvCode_le cv; omega) hw fun _ h0 _ h2 h3 _ h5 _ h7 => ?_
    obtain ⟨m0, m1, m2⟩ : (cvCode cv + 1024 * 1 + 4 * tile.val) / 1024 % 4 = 1 ∧ Sys2Proof.tile
      (cvCode cv + 1024 * 1 + 4 * tile.val) = tile ∧ cvOf (cvCode cv + 1024 * 1 + 4 * tile.val) = cv := amv_mod cv 1
      tile
    simp [rawInstr, rawMatrix, h0, h2, h3, h5, h7, m0, m1, m2]
  | a2c a =>
    refine decode_fr rfl (by decide) (by decide) a.code_lt spec.code_lt (by decide) (by decide)
      (by have := tile.isLt; have := cvCode_le cv; omega) hw fun _ h0 _ h2 h3 _ h5 _ h7 => ?_
    obtain ⟨m0, m1, m2⟩ : (cvCode cv + 1024 * 2 + 4 * tile.val) / 1024 % 4 = 2 ∧ Sys2Proof.tile
      (cvCode cv + 1024 * 2 + 4 * tile.val) = tile ∧ cvOf (cvCode cv + 1024 * 2 + 4 * tile.val) = cv := amv_mod cv 2
      tile
    simp [rawInstr, rawMatrix, h0, h2, h3, h5, h7, m0, m1, m2]
  | c2a a =>
    refine decode_fr rfl (by decide) (by decide) a.code_lt spec.code_lt (by decide) (by decide)
      (by have := tile.isLt; have := cvCode_le cv; omega) hw fun _ h0 _ h2 h3 _ h5 _ h7 => ?_
    obtain ⟨m0, m1, m2⟩ : (cvCode cv + 1024 * 3 + 4 * tile.val) / 1024 % 4 = 3 ∧ Sys2Proof.tile
      (cvCode cv + 1024 * 3 + 4 * tile.val) = tile ∧ cvOf (cvCode cv + 1024 * 3 + 4 * tile.val) = cv := amv_mod cv 3
      tile
    simp [rawInstr, rawMatrix, h0, h2, h3, h5, h7, m0, m1, m2]

theorem tcon8 (g : Guard) (u : Opnd) (m : Opnd) (o : Opnd) (axis : Axis) (tr : Bool) (acc : Bool)
  (cv : Option (Fin 8)) : Statement (.tcon8 g u m o axis tr acc cv) := fun hw _ => by
  refine decode_fr rfl (by decide) (by decide) u.code_lt m.code_lt o.code_lt (by decide)
    (by have := axis.code_lt; have := bit_lt acc; have := bit_lt tr; have := cvCode_le cv; omega) hw fun _ h0 _ h2 h3
    h4 h5 _ h7 => ?_
  obtain ⟨m0, m1, m2, m3⟩ := tcon8_mod cv acc tr axis
  simp [rawInstr, rawMatrix, h0, h2, h3, h4, h5, h7, m0, m1, m2, m3]

theorem rsub (g : Guard) (scope : Scope) (d : Opnd) (a : Opnd) (b : Opnd) (c : Opnd) : Statement
  (.rsub g scope d a b c) := fun hw _ => by
  refine decode_fr rfl (by decide) d.code_lt a.code_lt b.code_lt c.code_lt (by decide)
    (by have := scope.level_lt; omega) hw fun _ h0 h1 h2 h3 h4 h5 _ h7 => ?_
  simp [rawInstr, rawEngine, h0, h1, h2, h3, h4, h5, h7]

theorem cpost (g : Guard) (scope : Scope) (a : Opnd) (b : Opnd) : Statement (.cpost g scope a b) := fun hw _ => by
  refine decode_fr rfl (by decide) (by decide) a.code_lt b.code_lt (by decide) (by decide)
    (by have := scope.level_lt; omega) hw fun _ h0 _ h2 h3 _ h5 _ h7 => ?_
  simp [rawInstr, rawEngine, h0, h2, h3, h5, h7]

theorem ctok (g : Guard) (scope : Scope) (a : Opnd) (b : Opnd) : Statement (.ctok g scope a b) := fun hw _ => by
  refine decode_fr rfl (by decide) (by decide) a.code_lt b.code_lt (by decide) (by decide)
    (by have := scope.level_lt; omega) hw fun _ h0 _ h2 h3 _ h5 _ h7 => ?_
  simp [rawInstr, rawEngine, h0, h2, h3, h5, h7]

theorem abort (g : Guard) (scope : Scope) (a : Opnd) (b : Opnd) : Statement (.abort g scope a b) := fun hw _ => by
  refine decode_fr rfl (by decide) (by decide) a.code_lt b.code_lt (by decide) (by decide)
    (by have := scope.level_lt; omega) hw fun _ h0 _ h2 h3 _ h5 _ h7 => ?_
  simp [rawInstr, rawEngine, h0, h2, h3, h5, h7]

theorem abortRoot (g : Guard) (scope : Scope) (a : Opnd) : Statement (.abortRoot g scope a) := fun hw _ => by
  refine decode_fr rfl (by decide) (by decide) a.code_lt (by decide) (by decide) (by decide)
    (by have := scope.level_lt; omega) hw fun _ h0 _ h2 _ _ h5 _ h7 => ?_
  simp [rawInstr, rawEngine, h0, h2, h5, h7]

theorem mcst (x : MForm) (blk : Bool) (b : Opnd) : Statement (.mcst x blk b) := fun hw _ => by
  refine decode_fm rfl (by decide) b.code_lt (by have := bit_lt blk; omega) hw fun _ h0 h1 h2 h3 => ?_
  simp [rawInstr, rawEngine, h0, h1, h2, h3]

theorem rfence (g : Guard) (scope : Scope) (a : Opnd) : Statement (.rfence g scope a) := fun hw _ => by
  refine decode_fr rfl (by decide) (by decide) a.code_lt (by decide) (by decide) (by decide)
    (by have := scope.level_lt; omega) hw fun _ h0 _ h2 _ _ h5 _ h7 => ?_
  simp [rawInstr, rawEngine, h0, h2, h5, h7]

theorem cdecl (g : Guard) (scope : Scope) (a : Opnd) (b : Opnd) : Statement (.cdecl g scope a b) := fun hw _ => by
  refine decode_fr rfl (by decide) (by decide) a.code_lt b.code_lt (by decide) (by decide)
    (by have := scope.level_lt; omega) hw fun _ h0 _ h2 h3 _ h5 _ h7 => ?_
  simp [rawInstr, rawEngine, h0, h2, h3, h5, h7]

theorem sweep (g : Guard) (scope : Scope) (d : Opnd) (a : Opnd) (b : Opnd) (c : Opnd) : Statement
  (.sweep g scope d a b c) := fun hw _ => by
  refine decode_fr rfl (by decide) d.code_lt a.code_lt b.code_lt c.code_lt (by decide)
    (by have := scope.level_lt; omega) hw fun _ h0 h1 h2 h3 h4 h5 _ h7 => ?_
  simp [rawInstr, rawEngine, h0, h1, h2, h3, h4, h5, h7]

theorem byield (g : Guard) (scope : Scope) (retire : Bool) (a : Opnd) (b : Opnd) (c : Opnd) : Statement
  (.byield g scope retire a b c) := fun hw _ => by
  refine decode_fr rfl (by decide) (by decide) a.code_lt b.code_lt c.code_lt (by decide)
    (by have := scope.level_lt; have := bit_lt retire; omega) hw fun _ h0 _ h2 h3 h4 h5 _ h7 => ?_
  simp [rawInstr, rawEngine, h0, h2, h3, h4, h5, h7]

theorem bwakeNow (g : Guard) (scope : Scope) (a : Opnd) (b : Opnd) : Statement (.bwakeNow g scope a b) := fun hw _ => by
  refine decode_fr rfl (by decide) (by decide) a.code_lt b.code_lt (by decide) (by decide)
    (by have := scope.level_lt; omega) hw fun _ h0 _ h2 h3 _ h5 _ h7 => ?_
  simp [rawInstr, rawEngine, h0, h2, h3, h5, h7]

theorem bwakeNext (g : Guard) (scope : Scope) (a : Opnd) (b : Opnd) : Statement (.bwakeNext g scope a b) := fun hw _
  => by
  refine decode_fr rfl (by decide) (by decide) a.code_lt b.code_lt (by decide) (by decide)
    (by have := scope.level_lt; omega) hw fun _ h0 _ h2 h3 _ h5 _ h7 => ?_
  simp [rawInstr, rawEngine, h0, h2, h3, h5, h7]

theorem bstate (g : Guard) (d : Opnd) (a : Opnd) (b : Opnd) : Statement (.bstate g d a b) := fun hw _ => by
  refine decode_fr rfl (by decide) d.code_lt a.code_lt b.code_lt (by decide) (by decide) (by decide) hw fun _ h0 h1 h2
    h3 _ h5 _ _ => ?_
  simp [rawInstr, rawEngine, h0, h1, h2, h3, h5]

theorem sget (g : Guard) (ty : Ty) (d : Opnd) (n : BitVec 16) : Statement (.sget g ty d n) := fun hw _ => by
  refine decode_fi rfl (by decide) d.code_lt (by decide) ty.code_lt (by have := n.isLt; omega) hw fun _ h0 h1 _ h3 h4
    h5 => ?_
  simp [rawInstr, rawEngine, h0, h1, h3, h4, h5]

theorem sset (g : Guard) (ty : Ty) (a : Opnd) (n : BitVec 16) : Statement (.sset g ty a n) := fun hw _ => by
  refine decode_fi rfl (by decide) (by decide) a.code_lt ty.code_lt (by have := n.isLt; omega) hw fun _ h0 _ h2 h3 h4
    h5 => ?_
  simp [rawInstr, rawEngine, h0, h2, h3, h4, h5]

theorem tret (g : Guard) : Statement (.tret g) := fun hw _ => by
  refine decode_fr rfl (by decide) (by decide) (by decide) (by decide) (by decide) (by decide) (by decide) hw fun _ h0
    _ _ _ _ h5 _ _ => ?_
  simp [rawInstr, rawEngine, h0, h5]

theorem clkrd (g : Guard) (ty : Ty) (d : Opnd) (rt : Bool) : Statement (.clkrd g ty d rt) := fun hw _ => by
  refine decode_fr rfl (by decide) d.code_lt (by decide) (by decide) (by decide) ty.code_lt
    (by have := bit_lt rt; omega) hw fun _ h0 h1 _ _ _ h5 h6 h7 => ?_
  simp [rawInstr, rawEngine, h0, h1, h5, h6, h7]

theorem preempt (g : Guard) (d : Opnd) : Statement (.preempt g d) := fun hw _ => by
  refine decode_fr rfl (by decide) d.code_lt (by decide) (by decide) (by decide) (by decide) (by decide) hw fun _ h0
    h1 _ _ _ h5 _ _ => ?_
  simp [rawInstr, rawEngine, h0, h1, h5]

theorem unassignedOpcode (op : BitVec 8) : Statement (.unassignedOpcode op) := fun hw _ => by
  have h0 : fld op.toNat 0 8 = op.toNat := by have := op.isLt; simp only [fld]; omega
  have h1 : opAssigned op.toNat = false := by simpa [Instr.wf] using hw
  show decodeInstr op.toNat = _
  unfold decodeInstr
  rw [h0, h1, BitVec.ofNat_toNat, BitVec.setWidth_eq]
  rfl

theorem arbitrate (q : Nat) : Statement (.arbitrate q) := fun _ he => absurd rfl he

theorem clauseBoundary (q : Nat) : Statement (.clauseBoundary q) := fun _ he => absurd rfl he

theorem longLatencyResult (warp : Nat) (seq : Nat) (lanes : LaneSet) (level1 : Bool) : Statement
  (.longLatencyResult warp seq lanes level1) := fun _ he => absurd rfl he

theorem atomicReturn (warp : Nat) (seq : Nat) : Statement (.atomicReturn warp seq) := fun _ he => absurd rfl he

theorem registerWindowWriteArrive (warp : Nat) (seq : Nat) (lanes : LaneSet) : Statement
  (.registerWindowWriteArrive warp seq lanes) := fun _ he => absurd rfl he

theorem writePerformed (w : WriteRef) : Statement (.writePerformed w) := fun _ he => absurd rfl he

theorem atomicPerform (warp : Nat) (seq : Nat) : Statement (.atomicPerform warp seq) := fun _ he => absurd rfl he

theorem creditCharge (core : Nat) (offset : Nat) : Statement (.creditCharge core offset) := fun _ he => absurd rfl he

theorem lockRequestArrive (warp : Nat) (seq : Nat) : Statement (.lockRequestArrive warp seq) := fun _ he => absurd rfl
  he

theorem unlockArrive (warp : Nat) (seq : Nat) : Statement (.unlockArrive warp seq) := fun _ he => absurd rfl he

theorem fenceAcknowledge (warp : Nat) (seq : Nat) : Statement (.fenceAcknowledge warp seq) := fun _ he => absurd rfl he

theorem waitMet (warp : Nat) : Statement (.waitMet warp) := fun _ he => absurd rfl he

theorem waitTimeout (warp : Nat) : Statement (.waitTimeout warp) := fun _ he => absurd rfl he

theorem waitMemoryPoll (warp : Nat) : Statement (.waitMemoryPoll warp) := fun _ he => absurd rfl he

theorem ldwAction (warp : Nat) (seq : Nat) : Statement (.ldwAction warp seq) := fun _ he => absurd rfl he

theorem copyGranuleLand (transfer : Nat) (granule : Nat) : Statement (.copyGranuleLand transfer granule) := fun _ he
  => absurd rfl he

theorem windowCopyFault (transfer : Nat) : Statement (.windowCopyFault transfer) := fun _ he => absurd rfl he

theorem pushGranuleLand (transfer : Nat) (granule : Nat) : Statement (.pushGranuleLand transfer granule) := fun _ he
  => absurd rfl he

theorem recordInvalidationComplete (warp : Nat) (seq : Nat) : Statement (.recordInvalidationComplete warp seq) := fun
  _ he => absurd rfl he

theorem matrixOpPerform (core : Nat) (early : List Nat) : Statement (.matrixOpPerform core early) := fun _ he =>
  absurd rfl he

theorem warpEnd (warp : Nat) : Statement (.warpEnd warp) := fun _ he => absurd rfl he

theorem watchdogFire (core : Nat) (ctx : Nat) : Statement (.watchdogFire core ctx) := fun _ he => absurd rfl he

theorem trapEntry (warp : Nat) : Statement (.trapEntry warp) := fun _ he => absurd rfl he

theorem mailboxTakeEntry (m : Nat) : Statement (.mailboxTakeEntry m) := fun _ he => absurd rfl he

theorem dispatchAccept (d : Nat) : Statement (.dispatchAccept d) := fun _ he => absurd rfl he

theorem groupPlace (d : Nat) : Statement (.groupPlace d) := fun _ he => absurd rfl he

theorem dispatchComplete (d : Nat) : Statement (.dispatchComplete d) := fun _ he => absurd rfl he

theorem dispatchKill (d : Nat) : Statement (.dispatchKill d) := fun _ he => absurd rfl he

theorem dispatchReplay (d : Nat) : Statement (.dispatchReplay d) := fun _ he => absurd rfl he

theorem mbtailWrite (p : HostPort) (m : Nat) (value : Word) : Statement (.mbtailWrite p m value) := fun _ he =>
  absurd rfl he

theorem mbctxWrite (p : HostPort) (m : Nat) (upper id : BitVec 16) : Statement (.mbctxWrite p m upper id) := fun _ he =>
  absurd rfl he

theorem mbctlEnable (p : HostPort) (m : Nat) (value : Word) : Statement (.mbctlEnable p m value) := fun _ he =>
  absurd rfl he

theorem mbctlKill (p : HostPort) (m : Nat) (value : Word) : Statement (.mbctlKill p m value) := fun _ he =>
  absurd rfl he

theorem mbctlErrClear (p : HostPort) (m : Nat) (value : Word) : Statement (.mbctlErrClear p m value) := fun _ he =>
  absurd rfl he

theorem ctxidWrite (p : HostPort) (slot : Nat) (value : Word) : Statement (.ctxidWrite p slot value) := fun _ he =>
  absurd rfl he

theorem ctxctlPreq (p : HostPort) (slot : Nat) (value : Word) : Statement (.ctxctlPreq p slot value) := fun _ he =>
  absurd rfl he

theorem preemptSave (slot : Nat) : Statement (.preemptSave slot) := fun _ he => absurd rfl he

theorem ctxctlResume (p : HostPort) (slot : Nat) (value : Word) : Statement (.ctxctlResume p slot value) := fun _ he =>
  absurd rfl he

theorem tlbictlInvalidate (p : HostPort) (slot : Nat) (value : Word) : Statement (.tlbictlInvalidate p slot value) := fun _ he =>
  absurd rfl he

theorem tlbInvalidateComplete (slot : Nat) : Statement (.tlbInvalidateComplete slot) := fun _ he => absurd rfl he

theorem apctlWrite (p : HostPort) (w : Nat) (en : Bool) (fields : Word) : Statement (.apctlWrite p w en fields) := fun _ he =>
  absurd rfl he

theorem hostBar2Read (p : HostPort) (w offset count : Nat) : Statement (.hostBar2Read p w offset count) := fun _ he =>
  absurd rfl he

theorem hostBar2Write (p : HostPort) (w offset : Nat) (bytes : List Byte) : Statement (.hostBar2Write p w offset bytes) := fun _ he =>
  absurd rfl he

theorem registerWrite (p : HostPort) (r : HostReg) (value : Double) : Statement (.registerWrite p r value) := fun _ he =>
  absurd rfl he

theorem rootProgramAccept (die : Nat) (slice : Nat) : Statement (.rootProgramAccept die slice) := fun _ he => absurd
  rfl he

theorem rootProgramStart (die : Nat) (slice : Nat) : Statement (.rootProgramStart die slice) := fun _ he => absurd rfl
  he

theorem cmdNop : Statement (.cmdNop) := fun hw _ => by
  refine decode_cmd rfl (by decide) (by decide) (by decide) (by decide) (by decide) (by decide) hw fun _ h0 _ _ _ _ _
    => ?_
  simp [rawCommand, h0]

theorem cmdSeti (fa : Fin 16) (x : Double) : Statement (.cmdSeti fa x) := fun hw _ => by
  refine decode_cmd rfl (by decide) (by have := fa.isLt; omega) (by decide) (by decide) (by decide) (by decide) hw fun
    _ h0 h1 _ _ _ _ => ?_
  simp [rawCommand, h0, h1]

theorem cmdAddi (fa : Fin 16) (fb : Fin 16) (x : Double) : Statement (.cmdAddi fa fb x) := fun hw _ => by
  refine decode_cmd rfl (by decide) (by have := fa.isLt; omega) (by have := fb.isLt; omega) (by decide) (by decide)
    (by decide) hw fun _ h0 h1 h2 _ _ _ => ?_
  simp [rawCommand, h0, h1, h2]

theorem cmdAdd (fa : Fin 16) (fb : Fin 16) (fc : Fin 16) (imm : Word) : Statement (.cmdAdd fa fb fc imm) := fun hw _
  => by
  refine decode_cmd rfl (by decide) (by have := fa.isLt; omega) (by have := fb.isLt; omega)
    (by have := fc.isLt; omega) (by decide) (by have := imm.isLt; omega) hw fun _ h0 h1 h2 h3 _ h5 => ?_
  simp [rawCommand, h0, h1, h2, h3, h5]

theorem cmdMad (fa : Fin 16) (fb : Fin 16) (fc : Fin 16) (x : Double) : Statement (.cmdMad fa fb fc x) := fun hw _ => by
  refine decode_cmd rfl (by decide) (by have := fa.isLt; omega) (by have := fb.isLt; omega)
    (by have := fc.isLt; omega) (by decide) (by decide) hw fun _ h0 h1 h2 h3 _ _ => ?_
  simp [rawCommand, h0, h1, h2, h3]

theorem cmdLdg (fa : Fin 16) (fb : Fin 16) (x : Double) : Statement (.cmdLdg fa fb x) := fun hw _ => by
  refine decode_cmd rfl (by decide) (by have := fa.isLt; omega) (by have := fb.isLt; omega) (by decide) (by decide)
    (by decide) hw fun _ h0 h1 h2 _ _ _ => ?_
  simp [rawCommand, h0, h1, h2]

theorem cmdStg (fa : Fin 16) (fb : Fin 16) (x : Double) (rel : Bool) : Statement (.cmdStg fa fb x rel) := fun hw _ => by
  refine decode_cmd rfl (by decide) (by have := fa.isLt; omega) (by have := fb.isLt; omega) (by decide)
    (by have := bit_lt rel; omega) (by decide) hw fun _ h0 h1 h2 _ h4 _ => ?_
  simp [rawCommand, h0, h1, h2, h4]

theorem cmdAtom (fa : Fin 16) (fb : Fin 16) (x : Double) : Statement (.cmdAtom fa fb x) := fun hw _ => by
  refine decode_cmd rfl (by decide) (by have := fa.isLt; omega) (by have := fb.isLt; omega) (by decide) (by decide)
    (by decide) hw fun _ h0 h1 h2 _ _ _ => ?_
  simp [rawCommand, h0, h1, h2]

theorem cmdMove (fa : Fin 16) (fb : Fin 16) (imm : Word) : Statement (.cmdMove fa fb imm) := fun hw _ => by
  refine decode_cmd rfl (by decide) (by have := fa.isLt; omega) (by have := fb.isLt; omega) (by decide) (by decide)
    (by have := imm.isLt; omega) hw fun _ h0 h1 h2 _ _ h5 => ?_
  simp [rawCommand, h0, h1, h2, h5]

theorem cmdPush (fa : Fin 16) (fb : Fin 16) (fc : Fin 16) : Statement (.cmdPush fa fb fc) := fun hw _ => by
  refine decode_cmd rfl (by decide) (by have := fa.isLt; omega) (by have := fb.isLt; omega)
    (by have := fc.isLt; omega) (by decide) (by decide) hw fun _ h0 h1 h2 h3 _ _ => ?_
  simp [rawCommand, h0, h1, h2, h3]

theorem cmdPushmc (fa : Fin 16) (fb : Fin 16) (fc : Fin 16) (imm : Word) : Statement (.cmdPushmc fa fb fc imm) := fun
  hw _ => by
  refine decode_cmd rfl (by decide) (by have := fa.isLt; omega) (by have := fb.isLt; omega)
    (by have := fc.isLt; omega) (by decide) (by have := imm.isLt; omega) hw fun _ h0 h1 h2 h3 _ h5 => ?_
  simp [rawCommand, h0, h1, h2, h3, h5]

theorem cmdStep (fa : Fin 16) (fb : Fin 16) : Statement (.cmdStep fa fb) := fun hw _ => by
  refine decode_cmd rfl (by decide) (by have := fa.isLt; omega) (by have := fb.isLt; omega) (by decide) (by decide)
    (by decide) hw fun _ h0 h1 h2 _ _ _ => ?_
  simp [rawCommand, h0, h1, h2]

theorem cmdRed (fa : Fin 16) (fb : Fin 16) (imm : Word) (comm : BitVec 8) (bf16 : Bool) : Statement
  (.cmdRed fa fb imm comm bf16) := fun hw _ => by
  refine decode_cmd rfl (by decide) (by have := fa.isLt; omega) (by have := fb.isLt; omega) (by decide) (by decide)
    (by have := imm.isLt; omega) hw fun _ h0 h1 h2 _ _ h5 => ?_
  simp [rawCommand, h0, h1, h2, h5]

theorem cmdSum (fa : Fin 16) (fb : Fin 16) (fc : Fin 16) (imm : Word) (bf16 : Bool) : Statement
  (.cmdSum fa fb fc imm bf16) := fun hw _ => by
  refine decode_cmd rfl (by decide) (by have := fa.isLt; omega) (by have := fb.isLt; omega)
    (by have := fc.isLt; omega) (by have := bit_lt bf16; omega) (by have := imm.isLt; omega) hw fun _ h0 h1 h2 h3 h4
    h5 => ?_
  simp [rawCommand, h0, h1, h2, h3, h4, h5]

theorem cmdSig (fa : Fin 16) (imm : Word) : Statement (.cmdSig fa imm) := fun hw _ => by
  refine decode_cmd rfl (by decide) (by have := fa.isLt; omega) (by decide) (by decide) (by decide)
    (by have := imm.isLt; omega) hw fun _ h0 h1 _ _ _ h5 => ?_
  simp [rawCommand, h0, h1, h5]

theorem cmdTok (imm : Word) (die : BitVec 10) : Statement (.cmdTok imm die) := fun hw _ => by
  refine decode_cmd rfl (by decide) (by decide) (by decide) (by decide) (by decide) (by have := imm.isLt; omega) hw
    fun _ h0 _ _ _ _ h5 => ?_
  simp [rawCommand, h0, h5]

theorem cmdWtok (imm : Word) (consume : Bool) (tmo : BitVec 28) : Statement (.cmdWtok imm consume tmo) := fun hw _ => by
  refine decode_cmd rfl (by decide) (by decide) (by decide) (by decide) (by have := bit_lt consume; omega)
    (by have := imm.isLt; omega) hw fun _ h0 _ _ _ h4 h5 => ?_
  simp [rawCommand, h0, h4, h5]

theorem cmdWbar (fa : Fin 16) (phase : Bool) (tmo : BitVec 28) : Statement (.cmdWbar fa phase tmo) := fun hw _ => by
  refine decode_cmd rfl (by decide) (by have := fa.isLt; omega) (by decide) (by decide)
    (by have := bit_lt phase; omega) (by decide) hw fun _ h0 h1 _ _ h4 _ => ?_
  simp [rawCommand, h0, h1, h4]

theorem cmdWmem (fa : Fin 16) (fb : Fin 16) (cmp : MCond) (wide : Bool) (tmo : BitVec 28) : Statement
  (.cmdWmem fa fb cmp wide tmo) := fun hw _ => by
  refine decode_cmd rfl (by decide) (by have := fa.isLt; omega) (by have := fb.isLt; omega) (by decide)
    (by have := cmp.code_lt; have := bit_lt wide; omega) (by decide) hw fun _ h0 h1 h2 _ h4 _ => ?_
  simp [rawCommand, h0, h1, h2, h4]

theorem cmdBr (imm : Word) : Statement (.cmdBr imm) := fun hw _ => by
  refine decode_cmd rfl (by decide) (by decide) (by decide) (by decide) (by decide) (by have := imm.isLt; omega) hw
    fun _ h0 _ _ _ _ h5 => ?_
  simp [rawCommand, h0, h5]

theorem cmdBrc (fa : Fin 16) (fb : Fin 16) (cmp : MCond) (imm : Word) : Statement (.cmdBrc fa fb cmp imm) := fun hw _
  => by
  refine decode_cmd rfl (by decide) (by have := fa.isLt; omega) (by have := fb.isLt; omega) (by decide)
    (by have := cmp.code_lt; omega) (by have := imm.isLt; omega) hw fun _ h0 h1 h2 _ h4 h5 => ?_
  simp [rawCommand, h0, h1, h2, h4, h5]

theorem cmdLoop (fa : Fin 16) (imm : Word) : Statement (.cmdLoop fa imm) := fun hw _ => by
  refine decode_cmd rfl (by decide) (by have := fa.isLt; omega) (by decide) (by decide) (by decide)
    (by have := imm.isLt; omega) hw fun _ h0 h1 _ _ _ h5 => ?_
  simp [rawCommand, h0, h1, h5]

theorem cmdFence (scope : Scope) : Statement (.cmdFence scope) := fun hw _ => by
  refine decode_cmd rfl (by decide) (by decide) (by decide) (by decide) (by have := scope.level_lt; omega) (by decide)
    hw fun _ h0 _ _ _ h4 _ => ?_
  simp [rawCommand, h0, h4]

theorem cmdChunk : Statement (.cmdChunk) := fun hw _ => by
  refine decode_cmd rfl (by decide) (by decide) (by decide) (by decide) (by decide) (by decide) hw fun _ h0 _ _ _ _ _
    => ?_
  simp [rawCommand, h0]

theorem cmdEnd : Statement (.cmdEnd) := fun hw _ => by
  refine decode_cmd rfl (by decide) (by decide) (by decide) (by decide) (by decide) (by decide) hw fun _ h0 _ _ _ _ _
    => ?_
  simp [rawCommand, h0]

theorem cmdBadOpcode (opcode : BitVec 8) : Statement (.cmdBadOpcode opcode) := fun hw _ => by
  have h0 : fld (opcode.toNat + 2 ^ 12 * 0 + 2 ^ 16 * 0 + 2 ^ 20 * 0 + 2 ^ 24 * 0 + 2 ^ 32 * 0) 0 8 = opcode.toNat :=
    (cmdWords_fields opcode.isLt (by decide) (by decide) (by decide) (by decide) (by decide)).1
  have h1 : 0x19 ≤ opcode.toNat := by simpa [Instr.wf] using hw
  show decodeCommand _ _ = _
  unfold decodeCommand
  rw [h0, if_pos h1, BitVec.ofNat_toNat, BitVec.setWidth_eq]

theorem engineWaitMet (e : EngRef) : Statement (.engineWaitMet e) := fun _ he => absurd rfl he

theorem engineWaitTimeout (e : EngRef) : Statement (.engineWaitTimeout e) := fun _ he => absurd rfl he

theorem canopyBlockAccept (die : Nat) (engine : Nat) : Statement (.canopyBlockAccept die engine) := fun _ he => absurd
  rfl he

theorem canopyBlockStart (die : Nat) (engine : Nat) : Statement (.canopyBlockStart die engine) := fun _ he => absurd
  rfl he

theorem tokenDeliver (flight : Nat) : Statement (.tokenDeliver flight) := fun _ he => absurd rfl he

theorem blockTokenTimeout (die : Nat) (index : Nat) : Statement (.blockTokenTimeout die index) := fun _ he => absurd
  rfl he

theorem redChildArrive (flight : Nat) : Statement (.redChildArrive flight) := fun _ he => absurd rfl he

theorem reductionTimeout (node : Nat) : Statement (.reductionTimeout node) := fun _ he => absurd rfl he

theorem redResultDeliver (flight : Nat) : Statement (.redResultDeliver flight) := fun _ he => absurd rfl he

theorem collectivePacketIngress (die : Nat) (ctx : Nat) (comm : Nat) (attempt : BitVec 16) : Statement
  (.collectivePacketIngress die ctx comm attempt) := fun _ he => absurd rfl he

theorem attemptAbortArrive (flight : Nat) : Statement (.attemptAbortArrive flight) := fun _ he => absurd rfl he

theorem agreementPropose (round : Nat) : Statement (.agreementPropose round) := fun _ he => absurd rfl he

theorem agreementVote (round : Nat) (die : Nat) : Statement (.agreementVote round die) := fun _ he => absurd rfl he

theorem agreementCommit (round : Nat) : Statement (.agreementCommit round) := fun _ he => absurd rfl he

theorem agreementRoundTimeout (round : Nat) : Statement (.agreementRoundTimeout round) := fun _ he => absurd rfl he

theorem groupCommandComplete (round : Nat) : Statement (.groupCommandComplete round) := fun _ he => absurd rfl he

theorem declarationAccept (site : Nat) : Statement (.declarationAccept site) := fun _ he => absurd rfl he

theorem sweepRequestAccept (site : Nat) : Statement (.sweepRequestAccept site) := fun _ he => absurd rfl he

theorem scanStep (site : Nat) (slot : Nat) : Statement (.scanStep site slot) := fun _ he => absurd rfl he

theorem wakeTake (site : Nat) : Statement (.wakeTake site) := fun _ he => absurd rfl he

theorem byieldTake (site : Nat) : Statement (.byieldTake site) := fun _ he => absurd rfl he

theorem sweepEnd (dispatch : Nat) (slot : Nat) : Statement (.sweepEnd dispatch slot) := fun _ he => absurd rfl he

theorem scrubSector (die : Nat) (sector : Nat) (errors : Nat) : Statement (.scrubSector die sector errors) := fun _ he
  => absurd rfl he

theorem scrubWriteback (die : Nat) : Statement (.scrubWriteback die) := fun _ he => absurd rfl he

theorem coreRetire (core : Nat) (intact : Bool) : Statement (.coreRetire core intact) := fun _ he => absurd rfl he

theorem lateTransitionReplay (core : Nat) : Statement (.lateTransitionReplay core) := fun _ he =>
  absurd rfl he

theorem clockStepDown (die : Nat) : Statement (.clockStepDown die) := fun _ he => absurd rfl he

theorem clockStepUp (die : Nat) : Statement (.clockStepUp die) := fun _ he => absurd rfl he

theorem linkReplay (die : Nat) (link : Nat) : Statement (.linkReplay die link) := fun _ he => absurd rfl he

theorem linkRetrain (die : Nat) (link : Nat) : Statement (.linkRetrain die link) := fun _ he => absurd rfl he

theorem routeGenerationInstall (die link : Nat) (routes : List (Nat × Nat × List (Nat × Nat))) : Statement (.routeGenerationInstall die link routes) := fun _ he =>
  absurd rfl he

theorem routePairSwitch (die : Nat) (site : Nat) : Statement (.routePairSwitch die site) := fun _ he => absurd rfl he

theorem thermalClockStep (die : Nat) (up : Bool) : Statement (.thermalClockStep die up) := fun _ he => absurd rfl he

theorem thermalPowerCut : Statement (.thermalPowerCut) := fun _ he => absurd rfl he

theorem coldReset (fails : List StepFail) : Statement (.coldReset fails) := fun _ he => absurd rfl he

theorem warmReset (fails : List StepFail) : Statement (.warmReset fails) := fun _ he => absurd rfl he

theorem rtRealign (up : Bool) (ticks : Nat) : Statement (.rtRealign up ticks) := fun _ he => absurd rfl he

theorem clearStartRecord : Statement (.clearStartRecord) := fun _ he => absurd rfl he

theorem installConfigurationRecord (r : ConfigRecord) : Statement (.installConfigurationRecord r) := fun _ he =>
  absurd rfl he

theorem readRingRecord (die : Nat) : Statement (.readRingRecord die) := fun _ he => absurd rfl he

theorem readStartRecord : Statement (.readStartRecord) := fun _ he => absurd rfl he

theorem readSensors : Statement (.readSensors) := fun _ he => absurd rfl he

theorem getMeasurements (ch : Channel) (index : Nat) (sign : Bool) : Statement (.getMeasurements ch index sign) := fun
  _ he => absurd rfl he

theorem getCertificate (ch : Channel) : Statement (.getCertificate ch) := fun _ he => absurd rfl he

theorem challenge (ch : Channel) (nonce : BitVec 256) : Statement (.challenge ch nonce) := fun _ he => absurd rfl he

theorem keyExchange (iface : Nat) (offer : KeyOffer) : Statement (.keyExchange iface offer) := fun _ he =>
  absurd rfl he

theorem keyUpdate (ch : Channel) : Statement (.keyUpdate ch) := fun _ he => absurd rfl he

theorem heartbeat (ch : Channel) : Statement (.heartbeat ch) := fun _ he => absurd rfl he

theorem setMode (ch : Option Channel) (value : Byte) : Statement (.setMode ch value) := fun _ he => absurd rfl he

theorem getReceipt (ch : Channel) (nonce : BitVec 256) : Statement (.getReceipt ch nonce) := fun _ he => absurd rfl he

theorem liveActivation (verified : Bool) (digest : Nat) : Statement (.liveActivation verified digest) := fun _ he =>
  absurd rfl he

theorem ideKeyProgram (ch : Channel) (keys : IdeKeys) (world : Nat) : Statement (.ideKeyProgram ch keys world) := fun _ he =>
  absurd rfl he

theorem ideKeySetSwitch (iface : Nat) : Statement (.ideKeySetSwitch iface) := fun _ he => absurd rfl he

theorem ideIntegrityFailure (iface : Nat) : Statement (.ideIntegrityFailure iface) := fun _ he => absurd rfl he

theorem linkRetrainEnd (die : Nat) (link : Nat) (ok : Bool) : Statement (.linkRetrainEnd die link ok) := fun _ he =>
  absurd rfl he

theorem clockStepComplete (die : Nat) : Statement (.clockStepComplete die) := fun _ he => absurd rfl he

theorem liveActivationEnd : Statement (.liveActivationEnd) := fun _ he => absurd rfl he

theorem interfaceReset (iface : Nat) : Statement (.interfaceReset iface) := fun _ he => absurd rfl he

end Sys2Proof.Laws.RoundTrip
end

