-- ==== Sys2Proof/Tests/Slice0.lean ====
section
/-! SUPPORT. Tests, each on one operation or one step, and witnesses that the hypotheses of the statements can be met. -/

namespace Sys2Proof.Tests

open Sys2Proof Sys2Proof.Machine

set_option Elab.async false

/-- The guard that is always true. -/
def g7 : Guard := ⟨false, 7⟩
/-- The guard !p2. -/
def gn2 : Guard := ⟨true, 2⟩

/-! ### Words of the spec's encodings (R66 to R71, R82 to R191), written out field by field -/

theorem test_decode_control1 :
    decodeInstr 0x000007F8F8F8F800 = .ok (.nop g7) ∧
    decodeInstr 0x00000005A0F8F801 = .ok (.bra gn2 5) ∧
    decodeInstr 0xFFFFFFFE70C2F802 = .ok (.brx g7 (.k 2) 0xFFFFFFFE) ∧
    decodeInstr 0x0000000970F8C403 = .ok (.call g7 (.k 4) 9) ∧
    decodeInstr 0x000000017006C404 = .ok (.callx g7 (.k 4) (.v 6) 1) ∧
    decodeInstr 0x0000000070C4F805 = .ok (.ret g7 (.k 4)) ∧
    decodeInstr 0x00000AF8F8F8F806 = .ok (.exit gn2) ∧
    decodeInstr 0x0000000370F80807 = .ok (.meet g7 (.direct 3) (.v 8)) ∧
    decodeInstr 0x000000007102F807 = .ok (.meet g7 (.reg (.v 2)) .zero) ∧
    decodeInstr 0x000507F8F8F8F808 = .ok (.sign g7 5) ∧
    decodeInstr 0x0000007C70C3C909 = .ok (.wait g7 (.k 9) (.k 3) ⟨7, true, 2⟩) ∧
    decodeInstr 0x0000400370F8F80A = .ok (.bar g7 3 64) := by decide +kernel

theorem test_decode_control2 :
    decodeInstr 0x0002000F70F8F80B = .ok (.cbar g7 15 512) ∧
    decodeInstr 0x000007F8F8F8F80C = .ok (.yield g7) ∧
    decodeInstr 0x0000123470F8F80D = .ok (.trap g7 0x1234) ∧
    decodeInstr 0x000607F8F8C1F80E = .ok (.cvset g7 6 (.k 1)) := by decide +kernel

theorem test_decode_integer1 :
    decodeInstr 0x0001AAF8DE140A20 = .ok (.iadd ⟨gn2, .s32, .v 10, .v 20, .k 30⟩ true) ∧
    decodeInstr 0x0000F7F8DE140A21 = .ok (.isub ⟨g7, .n64, .v 10, .v 20, .k 30⟩ false) ∧
    decodeInstr 0x0000E7F8DE140A22 = .ok (.imul ⟨g7, .n32, .v 10, .v 20, .k 30⟩) ∧
    decodeInstr 0x0000A7F8DE140A23 = .ok (.imulhi ⟨g7, .s32, .v 10, .v 20, .k 30⟩) ∧
    decodeInstr 0x0000A728DE140A24 = .ok (.imad ⟨g7, .s32, .v 10, .v 20, .k 30, .v 40⟩) ∧
    decodeInstr 0x0000E728DE140A25 = .ok (.imadw ⟨g7, .n32, .v 10, .v 20, .k 30, .v 40⟩) ∧
    decodeInstr 0x0001B7F8DE140A26 = .ok (.iadd64 ⟨g7, .s64, .v 10, .v 20, .k 30⟩ true) ∧
    decodeInstr 0x0000F7F8DE140A27 = .ok (.isub64 ⟨g7, .n64, .v 10, .v 20, .k 30⟩ false) ∧
    decodeInstr 0x0000B7F8DE140A28 = .ok (.imul64 ⟨g7, .s64, .v 10, .v 20, .k 30⟩) ∧
    decodeInstr 0x0000F728DE140A29 = .ok (.imad64 ⟨g7, .n64, .v 10, .v 20, .k 30, .v 40⟩) ∧
    decodeInstr 0x0000E7F8DE140A2A = .ok (.shl ⟨g7, .n32, .v 10, .v 20, .k 30⟩) ∧
    decodeInstr 0x0000F7F8DE140A2B = .ok (.shr ⟨g7, .n64, .v 10, .v 20, .k 30⟩) := by decide +kernel

theorem test_decode_integer2 :
    decodeInstr 0x0000E7F8DE140A2C = .ok (.sar ⟨g7, .n32, .v 10, .v 20, .k 30⟩) ∧
    decodeInstr 0x0096E728DE140A2D = .ok (.mix3 ⟨g7, .n32, .v 10, .v 20, .k 30, .v 40⟩ 0x96) ∧
    decodeInstr 0x0000A7F8DE140A2E = .ok (.imin ⟨g7, .s32, .v 10, .v 20, .k 30⟩) ∧
    decodeInstr 0x0000F7F8DE140A2F = .ok (.imax ⟨g7, .n64, .v 10, .v 20, .k 30⟩) ∧
    decodeInstr 0x0001B7F8F8140A30 = .ok (.iabs ⟨g7, .s64, .v 10, .v 20⟩ true) := by decide +kernel

theorem test_decode_logic1 :
    decodeInstr 0x0000B7F816142A31 = .ok (.icmp g7 .s64 2 .ge (.v 20) (.v 22)) ∧
    decodeInstr 0x0000E703DE140A32 = .ok (.sel ⟨g7, .n32, .v 10, .v 20, .k 30⟩ 3) ∧
    decodeInstr 0x0000F7F8F8140A33 = .ok (.popc ⟨g7, .n64, .v 10, .v 20⟩) ∧
    decodeInstr 0x0000E7F8F8140A34 = .ok (.clz ⟨g7, .n32, .v 10, .v 20⟩) ∧
    decodeInstr 0x0000F7F8F8140A35 = .ok (.brev ⟨g7, .n64, .v 10, .v 20⟩) ∧
    decodeInstr 0x0000A7F8DE140A36 = .ok (.bfe ⟨g7, .s32, .v 10, .v 20, .k 30⟩) ∧
    decodeInstr 0x0000E728DE140A37 = .ok (.bfi ⟨g7, .n32, .v 10, .v 20, .k 30, .v 40⟩) ∧
    decodeInstr 0x000197F8DE140A38 = .ok (.iaddp ⟨g7, .s16, .v 10, .v 20, .k 30⟩ true) ∧
    decodeInstr 0x0000C7F8DE140A39 = .ok (.isubp ⟨g7, .n8, .v 10, .v 20, .k 30⟩ false) ∧
    decodeInstr 0x000087F8DE140A3A = .ok (.iminp ⟨g7, .s8, .v 10, .v 20, .k 30⟩) ∧
    decodeInstr 0x0000D7F8DE140A3B = .ok (.imaxp ⟨g7, .n16, .v 10, .v 20, .k 30⟩) ∧
    decodeInstr 0x000087F8F8140A3C = .ok (.iabsp ⟨g7, .s8, .v 10, .v 20⟩ false) := by decide +kernel

theorem test_decode_logic2 :
    decodeInstr 0x0001C728DE140A3D = .ok (.idp4 ⟨g7, .n8, .v 10, .v 20, .k 30, .v 40⟩ true) ∧
    decodeInstr 0x0000F7F8F8140A3E = .ok (.mov ⟨g7, .n64, .v 10, .v 20⟩) ∧
    decodeInstr 0x000000297EF80A3F = .ok (.movi g7 .n32 (.v 10) 0x29) ∧
    decodeInstr 0x0003E728DE140A40 = .ok (.xlane ⟨g7, .n32, .v 10, .v 20, .k 30, .v 40⟩ .fly) := by decide +kernel

theorem test_decode_lanes1 :
    decodeInstr 0x000007F8F8060441 = .ok (.lpoll g7 (.every 4) 6) ∧
    decodeInstr 0x000107F8F8060441 = .ok (.lpoll g7 (.some 4) 6) ∧
    decodeInstr 0x000207F8F8060441 = .ok (.lpoll g7 (.same 4) 6) ∧
    decodeInstr 0x000307F8F8060441 = .ok (.lpoll g7 (.mask (.v 4)) 6) ∧
    decodeInstr 0x000407F8F806C441 = .ok (.lpoll g7 (.count (.k 4)) 6) ∧
    decodeInstr 0x000507F8F8060441 = .ok (.lpoll g7 (.first (.v 4)) 6) ∧
    decodeInstr 0x0002A7F8F8140A42 = .ok (.wred ⟨g7, .s32, .v 10, .v 20⟩ .max) ∧
    decodeInstr 0x00E8070403020143 = .ok (.pmix3 g7 1 2 3 4 0xE8) ∧
    decodeInstr 0x000007F8F8F80A44 = .ok (.pget g7 (.v 10)) ∧
    decodeInstr 0x005507F8F814F845 = .ok (.pset g7 0x55 (.v 20)) ∧
    decodeInstr 0x0002E728DE140A46 = .ok (.wext ⟨g7, .n32, .v 10, .v 20, .k 30, .v 40⟩ .rot) ∧
    decodeInstr 0x000000017A140A47 = .ok (.iaddi ⟨g7, .s32, .v 10, .v 20⟩ 0x1) := by decide +kernel

theorem test_decode_lanes2 :
    decodeInstr 0xFFFFFFFF7F140A48 = .ok (.imuli ⟨g7, .n64, .v 10, .v 20⟩ 0xffffffff) ∧
    decodeInstr 0x000000047EF91149 = .ok (.icmpi g7 .n32 1 .lt .laneid 4) ∧
    decodeInstr 0x000000FF78140A4A = .ok (.mixi g7 0x8 (.v 10) (.v 20) 0xFF) := by decide +kernel

theorem test_decode_float1 :
    decodeInstr 0x000907F8DE140A60 = .ok (.fadd ⟨g7, .f32, .v 10, .v 20, .k 30⟩ ⟨.rz, true, false, false⟩) ∧
    decodeInstr 0x001007F8DE140A61 = .ok (.fmul ⟨g7, .f32, .v 10, .v 20, .k 30⟩ ⟨.rn, false, true, false⟩) ∧
    decodeInstr 0x00230728DE140A62 = .ok (.ffma ⟨g7, .f32, .v 10, .v 20, .k 30, .v 40⟩ ⟨.rm, false, false, true⟩) ∧
    decodeInstr 0x000407F8DE140A63 = .ok (.fmin ⟨g7, .f32, .v 10, .v 20, .k 30⟩ .rn true) ∧
    decodeInstr 0x000207F8DE140A64 = .ok (.fmax ⟨g7, .f32, .v 10, .v 20, .k 30⟩ .rp false) ∧
    decodeInstr 0x000007F8DE144365 = .ok (.fcmp g7 3 .ltu (.v 20) (.k 30) .rn) ∧
    decodeInstr 0x000827F8F8140A66 = .ok (.fabs ⟨g7, .bf16, .v 10, .v 20⟩ .rn true) ∧
    decodeInstr 0x000C47F8F8140A67 = .ok (.fclass ⟨g7, .e4m3, .v 10, .v 20⟩ .rn 3) ∧
    decodeInstr 0x001017F8DE140A68 = .ok (.dadd ⟨g7, .f64, .v 10, .v 20, .k 30⟩ ⟨.rn, false, true, false⟩) ∧
    decodeInstr 0x001A17F8DE140A69 = .ok (.dmul ⟨g7, .f64, .v 10, .v 20, .k 30⟩ ⟨.rp, true, true, false⟩) ∧
    decodeInstr 0x00281728DE140A6A = .ok (.dfma ⟨g7, .f64, .v 10, .v 20, .k 30, .v 40⟩ ⟨.rn, true, false, true⟩) ∧
    decodeInstr 0x000017F8DE140A6B = .ok (.dmin ⟨g7, .f64, .v 10, .v 20, .k 30⟩ .rn false) := by decide +kernel

theorem test_decode_float2 :
    decodeInstr 0x000417F8DE140A6C = .ok (.dmax ⟨g7, .f64, .v 10, .v 20, .k 30⟩ .rn true) ∧
    decodeInstr 0x000017F81614386D = .ok (.dcmp g7 0 .uno (.v 20) (.v 22) .rn) ∧
    decodeInstr 0x000117F8F8140A6E = .ok (.dclass ⟨g7, .f64, .v 10, .v 20⟩ .rz) := by decide +kernel

theorem test_decode_packed1 :
    decodeInstr 0x001037F8DE140A70 = .ok (.hadd2 ⟨g7, .f16, .v 10, .v 20, .k 30⟩ ⟨.rn, false, true, false⟩) ∧
    decodeInstr 0x000127F8DE140A71 = .ok (.hmul2 ⟨g7, .bf16, .v 10, .v 20, .k 30⟩ ⟨.rz, false, false, false⟩) ∧
    decodeInstr 0x00203728DE140A72 = .ok (.hfma2 ⟨g7, .f16, .v 10, .v 20, .k 30, .v 40⟩ ⟨.rn, false, false, true⟩) ∧
    decodeInstr 0x000427F8DE140A73 = .ok (.hmin2 ⟨g7, .bf16, .v 10, .v 20, .k 30⟩ .rn true) ∧
    decodeInstr 0x000037F8DE140A74 = .ok (.hmax2 ⟨g7, .f16, .v 10, .v 20, .k 30⟩ .rn false) ∧
    decodeInstr 0x00B037F8DE140A75 = .ok (.hcmp2 ⟨g7, .f16, .v 10, .v 20, .k 30⟩ .rn .geu) ∧
    decodeInstr 0x3F80000071140A76 = .ok (.faddi ⟨g7, .f64, .v 10, .v 20⟩ 0x3f800000) ∧
    decodeInstr 0x4000000070140A77 = .ok (.fmuli ⟨g7, .f32, .v 10, .v 20⟩ 0x40000000) ∧
    decodeInstr 0x000007F8F8140A78 = .ok (.frcp ⟨g7, .f32, .v 10, .v 20⟩ .rn) ∧
    decodeInstr 0x000107F8F8140A79 = .ok (.frsq ⟨g7, .f32, .v 10, .v 20⟩ .rz) ∧
    decodeInstr 0x000207F8F8140A7A = .ok (.fsqrt ⟨g7, .f32, .v 10, .v 20⟩ .rp) ∧
    decodeInstr 0x000307F8F8140A7B = .ok (.fex2 ⟨g7, .f32, .v 10, .v 20⟩ .rm) := by decide +kernel

theorem test_decode_packed2 :
    decodeInstr 0x000007F8F8140A7C = .ok (.flg2 ⟨g7, .f32, .v 10, .v 20⟩ .rn) ∧
    decodeInstr 0x000107F8F8140A7D = .ok (.fsin ⟨g7, .f32, .v 10, .v 20⟩ .rz) ∧
    decodeInstr 0x000207F8F8140A7E = .ok (.fcos ⟨g7, .f32, .v 10, .v 20⟩ .rp) ∧
    decodeInstr 0x000307F8F8140A7F = .ok (.ftanh ⟨g7, .f32, .v 10, .v 20⟩ .rm) ∧
    decodeInstr 0x000317F8F8140A80 = .ok (.dsqrt ⟨g7, .f64, .v 10, .v 20⟩ .rm) ∧
    decodeInstr 0x000017F8F8140A81 = .ok (.drcp ⟨g7, .f64, .v 10, .v 20⟩ .rn) := by decide +kernel

theorem test_decode_convert1 :
    decodeInstr 0x193557F8F8140A88 = .ok (.cvff ⟨g7, .e5m2, .v 10, .v 20⟩ ⟨.rz, .f16, 1, 3, true⟩) ∧
    decodeInstr 0x0F6097F8F8140A89 = .ok (.cvfi ⟨g7, .s16, .v 10, .v 20⟩ ⟨.rn, .e2m1, 7, 1, false⟩) ∧
    decodeInstr 0x02C217F8F8140A8A = .ok (.cvif ⟨g7, .f64, .v 10, .v 20⟩ ⟨.rp, .n8, 2, 0, false⟩) ∧
    decodeInstr 0x10B487F8F8140A8B = .ok (.cvii ⟨g7, .s8, .v 10, .v 20⟩ ⟨.rn, .s64, 0, 2, true⟩) ∧
    decodeInstr 0x000457F8DE140A8C = .ok (.pkf8 ⟨g7, .e5m2, .v 10, .v 20, .k 30⟩ .rn true) ∧
    decodeInstr 0x001B67F8DE140A8D = .ok (.pkf4 ⟨g7, .e2m1, .v 10, .v 20, .k 30⟩ .rm 6) ∧
    decodeInstr 0x000467F8F8140A8E = .ok (.mxsc ⟨g7, .e2m1, .v 10, .v 20⟩ .rn true) := by decide +kernel

theorem test_decode_memory1 :
    decodeInstr 0xFFC1877CF8D40AA0 = .ok (.ld ⟨g7, .s8, 0xffc, (.k 20), (.v 10), .acq, .pod, .register⟩ true) ∧
    decodeInstr 0x0000D790F8D40AA1 = .ok (.st ⟨g7, .n16, 0x0, (.k 20), (.v 10), .rel, .grp, .generic⟩) ∧
    decodeInstr 0x0100F702F8D40AA2 = .ok (.ldb ⟨g7, .n64, 0x10, (.k 20), (.v 10), .plain, .thr, .core⟩ false) ∧
    decodeInstr 0x0000EA03F8D40AA3 = .ok (.stb ⟨gn2, .n32, 0x0, (.k 20), (.v 10), .plain, .thr, .cluster⟩) ∧
    decodeInstr 0x0001F75AF8D40AA4 = .ok (.ldw ⟨g7, .n64, 0x0, (.k 20), (.v 10), .acq, .cls, .core⟩ true) ∧
    decodeInstr 0x00000702F8D4F8A5 = .ok (.setempty ⟨g7, .f32, 0x0, (.k 20), .zero, .plain, .thr, .core⟩) ∧
    decodeInstr 0x000BE7E1F8D40AA8 = .ok (.atadd ⟨g7, .n32, 0x0, (.k 20), (.v 10), .ar, .die, .global⟩ (some 3)) ∧
    decodeInstr 0x0000B701F8D40AA9 = .ok (.atmin ⟨g7, .s64, 0x0, (.k 20), (.v 10), .plain, .thr, .global⟩ none) ∧
    decodeInstr 0x000F0701F8D40AAA = .ok (.atmax ⟨g7, .f32, 0x0, (.k 20), (.v 10), .plain, .thr, .global⟩ (some 7)) ∧
    decodeInstr 0x0000E701F8D40AAB = .ok (.atand ⟨g7, .n32, 0x0, (.k 20), (.v 10), .plain, .thr, .global⟩ none) ∧
    decodeInstr 0x0000F701F8D40AAC = .ok (.ator ⟨g7, .n64, 0x0, (.k 20), (.v 10), .plain, .thr, .global⟩ none) ∧
    decodeInstr 0x0000E701F8D40AAD = .ok (.atxor ⟨g7, .n32, 0x0, (.k 20), (.v 10), .plain, .thr, .global⟩ none) := by decide +kernel

theorem test_decode_memory2 :
    decodeInstr 0x0000F701F8D40AAE = .ok (.atexch ⟨g7, .n64, 0x0, (.k 20), (.v 10), .plain, .thr, .global⟩ none) ∧
    decodeInstr 0x0000E7011ED40AAF = .ok (.atcas ⟨g7, .n32, 0x0, (.k 20), (.v 10), .plain, .thr, .global⟩ none (.v 30)) ∧
    decodeInstr 0x000007B1F8D40AB0 = .ok (.redadd ⟨g7, .f32, 0x0, (.k 20), (.v 10), .rel, .mod, .global⟩) ∧
    decodeInstr 0x0000E701F8D40AB1 = .ok (.redmin ⟨g7, .n32, 0x0, (.k 20), (.v 10), .plain, .thr, .global⟩) ∧
    decodeInstr 0x0000A701F8D40AB2 = .ok (.redmax ⟨g7, .s32, 0x0, (.k 20), (.v 10), .plain, .thr, .global⟩) ∧
    decodeInstr 0x0000E701F8D40AB3 = .ok (.redand ⟨g7, .n32, 0x0, (.k 20), (.v 10), .plain, .thr, .global⟩) ∧
    decodeInstr 0x0000F701F8D40AB4 = .ok (.redor ⟨g7, .n64, 0x0, (.k 20), (.v 10), .plain, .thr, .global⟩) ∧
    decodeInstr 0x0000E701F8D40AB5 = .ok (.redxor ⟨g7, .n32, 0x0, (.k 20), (.v 10), .plain, .thr, .global⟩) ∧
    decodeInstr 0x00002701F8D40AB6 = .ok (.fxadd ⟨g7, .bf16, 0x0, (.k 20), (.v 10), .plain, .thr, .global⟩) ∧
    decodeInstr 0x00021701F8D40AB7 = .ok (.fxrd ⟨g7, .f64, 0x0, (.k 20), (.v 10), .plain, .thr, .global⟩ .rp) ∧
    decodeInstr 0x000067011ED40AB8 = .ok (.nins ⟨g7, .e2m1, 0x0, (.k 20), (.v 10), .plain, .thr, .global⟩ (.v 30)) ∧
    decodeInstr 0x00000711F8D4F8B9 = .ok (.lock ⟨g7, .f32, 0x0, (.k 20), .zero, .plain, .grp, .global⟩) := by decide +kernel

theorem test_decode_memory3 :
    decodeInstr 0x00000738F8D4F8BA = .ok (.unlock ⟨g7, .f32, 0x0, (.k 20), .zero, .plain, .pod, .generic⟩) ∧
    decodeInstr 0x000007C8F8F8F8BB = .ok (.fence ⟨g7, .f32, 0x0, .zero, .zero, .ar, .wrp, .generic⟩) := by decide +kernel

theorem test_decode_matrix1 :
    decodeInstr 0xD88427F8D5D4F8D0 = .ok (.mma ⟨g7, .bf16, .k 20, .k 21, 33, true, some 5⟩) ∧
    decodeInstr 0xD8848728D5D4F8D1 = .ok (.mmag ⟨g7, .s8, .k 20, .k 21, 33, true, some 5⟩ (.v 40)) ∧
    decodeInstr 0xD88467F8D5D4F8D2 = .ok (.mmas ⟨g7, .e2m1, .k 20, .k 21, 33, true, some 5⟩) ∧
    decodeInstr 0xD88537F8D5D4F8D4 = .ok (.mmx ⟨g7, .f16, .k 20, .k 21, 33, true, some 5⟩ true) ∧
    decodeInstr 0x000177F8F814F8D3 = .ok (.sfpush g7 .e8m0 (.v 20) true none) ∧
    decodeInstr 0x000207F8F8F8F8D3 = .ok (.sfpushFlush g7) ∧
    decodeInstr 0x0000000F70F8C9D5 = .ok (.aalloc g7 (.k 9) 0xF) ∧
    decodeInstr 0x0000000370F8F8D6 = .ok (.afree g7 3) ∧
    decodeInstr 0x0000000570C8F8D7 = .ok (.acqa g7 (.k 8) 5) ∧
    decodeInstr 0x0000000670F8F8D8 = .ok (.rela g7 6) ∧
    decodeInstr 0x00FC07F8DEF80AD9 = .ok (.amv g7 (.a2v (.v 10)) (.k 30) 63 none) ∧
    decodeInstr 0x040407F8DE14F8D9 = .ok (.amv g7 (.v2a (.v 20)) (.k 30) 1 none) := by decide +kernel

theorem test_decode_matrix2 :
    decodeInstr 0x980807F8DED4F8D9 = .ok (.amv g7 (.a2c (.k 20)) (.k 30) 2 (some 1)) ∧
    decodeInstr 0x0C0007F8DED4F8D9 = .ok (.amv g7 (.c2a (.k 20)) (.k 30) 0 none) ∧
    decodeInstr 0x060007C3C2C1F8DA = .ok (.tcon8 g7 (.k 1) (.k 2) (.k 3) .z true false none) := by decide +kernel

theorem test_decode_engine1 :
    decodeInstr 0x000407CCCAC814E8 = .ok (.rsub g7 .die (.v 20) (.k 8) (.k 10) (.k 12)) ∧
    decodeInstr 0x000707F8CAC8F8E9 = .ok (.cpost g7 .pod (.k 8) (.k 10)) ∧
    decodeInstr 0x000507F8CAC8F8EA = .ok (.ctok g7 .chp (.k 8) (.k 10)) ∧
    decodeInstr 0x000607F8CAC8F8EB = .ok (.abort g7 .mod (.k 8) (.k 10)) ∧
    decodeInstr 0x000C07F8F8C8F8EB = .ok (.abortRoot g7 .die (.k 8)) ∧
    decodeInstr 0x0001E7B9DED40AEC = .ok (.mcst ⟨g7, .n32, 0x0, (.k 20), (.v 10), .rel, .pod, .global⟩ true (.k 30)) ∧
    decodeInstr 0x000407F8F8F8F8ED = .ok (.rfence g7 .die .zero) ∧
    decodeInstr 0x000407F8CAC8F8EE = .ok (.cdecl g7 .die (.k 8) (.k 10)) ∧
    decodeInstr 0x000407CCCAC8C2EF = .ok (.sweep g7 .die (.k 2) (.k 8) (.k 10) (.k 12)) ∧
    decodeInstr 0x000A070C0A08F8F0 = .ok (.byield g7 .grp true (.v 8) (.v 10) (.v 12)) ∧
    decodeInstr 0x000207F8CA08F8F1 = .ok (.bwakeNow g7 .grp (.v 8) (.k 10)) ∧
    decodeInstr 0x000B07F8CA08F8F1 = .ok (.bwakeNext g7 .cls (.v 8) (.k 10)) := by decide +kernel

theorem test_decode_engine2 :
    decodeInstr 0x000007F8CA0801F2 = .ok (.bstate g7 (.v 1) (.v 8) (.k 10)) := by decide +kernel

theorem test_decode_system1 :
    decodeInstr 0x000000017FF80AF8 = .ok (.sget g7 .n64 (.v 10) 0x0001) ∧
    decodeInstr 0x000000217EC5F8F9 = .ok (.sset g7 .n32 (.k 5) 0x0021) ∧
    decodeInstr 0x000007F8F8F8F8FA = .ok (.tret g7) ∧
    decodeInstr 0x0001F7F8F8F80AFB = .ok (.clkrd g7 .n64 (.v 10) true) ∧
    decodeInstr 0x000007F8F8F80AFC = .ok (.preempt g7 (.v 10)) ∧
    decodeInstr 0x000007F8F8F8F85F = .ok (.unassignedOpcode 0x5F) := by decide +kernel

theorem test_decode_commands1 :
    decodeCommand 0x0000000000000000 0x0 = .ok (.cmdNop) ∧
    decodeCommand 0x0000000000003001 0x3001 = .ok (.cmdSeti 3 0x3001) ∧
    decodeCommand 0x0000000000054002 0x800 = .ok (.cmdAddi 4 5 0x800) ∧
    decodeCommand 0xFFFFFFFF00321003 0x0 = .ok (.cmdAdd 1 2 3 0xFFFFFFFF) ∧
    decodeCommand 0x0000000000987004 0x6 = .ok (.cmdMad 7 8 9 6) ∧
    decodeCommand 0x0000000000021005 0x8 = .ok (.cmdLdg 1 2 8) ∧
    decodeCommand 0x0000000001021006 0x8 = .ok (.cmdStg 1 2 8 true) ∧
    decodeCommand 0x0000000000021007 0x5 = .ok (.cmdAtom 1 2 5) ∧
    decodeCommand 0x0000004000021008 0x0 = .ok (.cmdMove 1 2 64) ∧
    decodeCommand 0x0000000000314009 0x0 = .ok (.cmdPush 4 1 3) ∧
    decodeCommand 0x000000200031400A 0x0 = .ok (.cmdPushmc 4 1 3 32) ∧
    decodeCommand 0x000000000001300B 0x0 = .ok (.cmdStep 3 1) ∧
    decodeCommand 0x000000400002100C 0x109 = .ok (.cmdRed 1 2 64 9 true) := by decide +kernel

theorem test_decode_commands2 :
    decodeCommand 0x000000400032100D 0x0 = .ok (.cmdSum 1 2 3 64 false) ∧
    decodeCommand 0x000000100000100E 0x0 = .ok (.cmdSig 1 16) ∧
    decodeCommand 0x0000004D0000000F 0x3FF = .ok (.cmdTok 77 0x3FF) ∧
    decodeCommand 0x0000004D01000010 0x5 = .ok (.cmdWtok 77 true 5) ∧
    decodeCommand 0x0000000001001011 0x5 = .ok (.cmdWbar 1 true 5) ∧
    decodeCommand 0x000000000B021012 0x5 = .ok (.cmdWmem 1 2 .geu true 5) ∧
    decodeCommand 0xFFFFFFFD00000013 0x0 = .ok (.cmdBr 0xFFFFFFFD) ∧
    decodeCommand 0x0000000404021014 0x0 = .ok (.cmdBrc 1 2 .lts 4) ∧
    decodeCommand 0xFFFFFFFD00005015 0x0 = .ok (.cmdLoop 5 0xFFFFFFFD) ∧
    decodeCommand 0x0000000007000016 0x0 = .ok (.cmdFence .pod) ∧
    decodeCommand 0x0000000000000017 0x0 = .ok (.cmdChunk) ∧
    decodeCommand 0x0000000000000018 0x0 = .ok (.cmdEnd) ∧
    decodeCommand 0x0000000000000019 0x0 = .ok (.cmdBadOpcode 0x19) := by decide +kernel


def forms1 : List Instr := [
    .nop g7,
    .bra gn2 5,
    .brx g7 (.k 2) 0xFFFFFFFE,
    .call g7 (.k 4) 9,
    .callx g7 (.k 4) (.v 6) 1,
    .ret g7 (.k 4),
    .exit gn2,
    .meet g7 (.direct 3) (.v 8),
    .meet g7 (.reg (.v 2)) .zero,
    .sign g7 5,
    .wait g7 (.k 9) (.k 3) ⟨7, true, 2⟩,
    .bar g7 3 64,
    .cbar g7 15 512,
    .yield g7,
    .trap g7 0x1234,
    .cvset g7 6 (.k 1),
    .iadd ⟨gn2, .s32, .v 10, .v 20, .k 30⟩ true,
    .isub ⟨g7, .n64, .v 10, .v 20, .k 30⟩ false,
    .imul ⟨g7, .n32, .v 10, .v 20, .k 30⟩,
    .imulhi ⟨g7, .s32, .v 10, .v 20, .k 30⟩,
    .imad ⟨g7, .s32, .v 10, .v 20, .k 30, .v 40⟩,
    .imadw ⟨g7, .n32, .v 10, .v 20, .k 30, .v 40⟩,
    .iadd64 ⟨g7, .s64, .v 10, .v 20, .k 30⟩ true,
    .isub64 ⟨g7, .n64, .v 10, .v 20, .k 30⟩ false,
    .imul64 ⟨g7, .s64, .v 10, .v 20, .k 30⟩,
    .imad64 ⟨g7, .n64, .v 10, .v 20, .k 30, .v 40⟩,
    .shl ⟨g7, .n32, .v 10, .v 20, .k 30⟩,
    .shr ⟨g7, .n64, .v 10, .v 20, .k 30⟩,
    .sar ⟨g7, .n32, .v 10, .v 20, .k 30⟩,
    .mix3 ⟨g7, .n32, .v 10, .v 20, .k 30, .v 40⟩ 0x96]

def forms2 : List Instr := [
    .imin ⟨g7, .s32, .v 10, .v 20, .k 30⟩,
    .imax ⟨g7, .n64, .v 10, .v 20, .k 30⟩,
    .iabs ⟨g7, .s64, .v 10, .v 20⟩ true,
    .icmp g7 .s64 2 .ge (.v 20) (.v 22),
    .sel ⟨g7, .n32, .v 10, .v 20, .k 30⟩ 3,
    .popc ⟨g7, .n64, .v 10, .v 20⟩,
    .clz ⟨g7, .n32, .v 10, .v 20⟩,
    .brev ⟨g7, .n64, .v 10, .v 20⟩,
    .bfe ⟨g7, .s32, .v 10, .v 20, .k 30⟩,
    .bfi ⟨g7, .n32, .v 10, .v 20, .k 30, .v 40⟩,
    .iaddp ⟨g7, .s16, .v 10, .v 20, .k 30⟩ true,
    .isubp ⟨g7, .n8, .v 10, .v 20, .k 30⟩ false,
    .iminp ⟨g7, .s8, .v 10, .v 20, .k 30⟩,
    .imaxp ⟨g7, .n16, .v 10, .v 20, .k 30⟩,
    .iabsp ⟨g7, .s8, .v 10, .v 20⟩ false,
    .idp4 ⟨g7, .n8, .v 10, .v 20, .k 30, .v 40⟩ true,
    .mov ⟨g7, .n64, .v 10, .v 20⟩,
    .movi g7 .n32 (.v 10) 0x29,
    .xlane ⟨g7, .n32, .v 10, .v 20, .k 30, .v 40⟩ .fly,
    .lpoll g7 (.every 4) 6,
    .lpoll g7 (.some 4) 6,
    .lpoll g7 (.same 4) 6,
    .lpoll g7 (.mask (.v 4)) 6,
    .lpoll g7 (.count (.k 4)) 6,
    .lpoll g7 (.first (.v 4)) 6,
    .wred ⟨g7, .s32, .v 10, .v 20⟩ .max,
    .pmix3 g7 1 2 3 4 0xE8,
    .pget g7 (.v 10),
    .pset g7 0x55 (.v 20),
    .wext ⟨g7, .n32, .v 10, .v 20, .k 30, .v 40⟩ .rot]

def forms3 : List Instr := [
    .iaddi ⟨g7, .s32, .v 10, .v 20⟩ 0x1,
    .imuli ⟨g7, .n64, .v 10, .v 20⟩ 0xffffffff,
    .icmpi g7 .n32 1 .lt .laneid 4,
    .mixi g7 0x8 (.v 10) (.v 20) 0xFF,
    .fadd ⟨g7, .f32, .v 10, .v 20, .k 30⟩ ⟨.rz, true, false, false⟩,
    .fmul ⟨g7, .f32, .v 10, .v 20, .k 30⟩ ⟨.rn, false, true, false⟩,
    .ffma ⟨g7, .f32, .v 10, .v 20, .k 30, .v 40⟩ ⟨.rm, false, false, true⟩,
    .fmin ⟨g7, .f32, .v 10, .v 20, .k 30⟩ .rn true,
    .fmax ⟨g7, .f32, .v 10, .v 20, .k 30⟩ .rp false,
    .fcmp g7 3 .ltu (.v 20) (.k 30) .rn,
    .fabs ⟨g7, .bf16, .v 10, .v 20⟩ .rn true,
    .fclass ⟨g7, .e4m3, .v 10, .v 20⟩ .rn 3,
    .dadd ⟨g7, .f64, .v 10, .v 20, .k 30⟩ ⟨.rn, false, true, false⟩,
    .dmul ⟨g7, .f64, .v 10, .v 20, .k 30⟩ ⟨.rp, true, true, false⟩,
    .dfma ⟨g7, .f64, .v 10, .v 20, .k 30, .v 40⟩ ⟨.rn, true, false, true⟩,
    .dmin ⟨g7, .f64, .v 10, .v 20, .k 30⟩ .rn false,
    .dmax ⟨g7, .f64, .v 10, .v 20, .k 30⟩ .rn true,
    .dcmp g7 0 .uno (.v 20) (.v 22) .rn,
    .dclass ⟨g7, .f64, .v 10, .v 20⟩ .rz,
    .hadd2 ⟨g7, .f16, .v 10, .v 20, .k 30⟩ ⟨.rn, false, true, false⟩,
    .hmul2 ⟨g7, .bf16, .v 10, .v 20, .k 30⟩ ⟨.rz, false, false, false⟩,
    .hfma2 ⟨g7, .f16, .v 10, .v 20, .k 30, .v 40⟩ ⟨.rn, false, false, true⟩,
    .hmin2 ⟨g7, .bf16, .v 10, .v 20, .k 30⟩ .rn true,
    .hmax2 ⟨g7, .f16, .v 10, .v 20, .k 30⟩ .rn false,
    .hcmp2 ⟨g7, .f16, .v 10, .v 20, .k 30⟩ .rn .geu,
    .faddi ⟨g7, .f64, .v 10, .v 20⟩ 0x3f800000,
    .fmuli ⟨g7, .f32, .v 10, .v 20⟩ 0x40000000,
    .frcp ⟨g7, .f32, .v 10, .v 20⟩ .rn,
    .frsq ⟨g7, .f32, .v 10, .v 20⟩ .rz,
    .fsqrt ⟨g7, .f32, .v 10, .v 20⟩ .rp]

def forms4 : List Instr := [
    .fex2 ⟨g7, .f32, .v 10, .v 20⟩ .rm,
    .flg2 ⟨g7, .f32, .v 10, .v 20⟩ .rn,
    .fsin ⟨g7, .f32, .v 10, .v 20⟩ .rz,
    .fcos ⟨g7, .f32, .v 10, .v 20⟩ .rp,
    .ftanh ⟨g7, .f32, .v 10, .v 20⟩ .rm,
    .dsqrt ⟨g7, .f64, .v 10, .v 20⟩ .rm,
    .drcp ⟨g7, .f64, .v 10, .v 20⟩ .rn,
    .cvff ⟨g7, .e5m2, .v 10, .v 20⟩ ⟨.rz, .f16, 1, 3, true⟩,
    .cvfi ⟨g7, .s16, .v 10, .v 20⟩ ⟨.rn, .e2m1, 7, 1, false⟩,
    .cvif ⟨g7, .f64, .v 10, .v 20⟩ ⟨.rp, .n8, 2, 0, false⟩,
    .cvii ⟨g7, .s8, .v 10, .v 20⟩ ⟨.rn, .s64, 0, 2, true⟩,
    .pkf8 ⟨g7, .e5m2, .v 10, .v 20, .k 30⟩ .rn true,
    .pkf4 ⟨g7, .e2m1, .v 10, .v 20, .k 30⟩ .rm 6,
    .mxsc ⟨g7, .e2m1, .v 10, .v 20⟩ .rn true,
    .ld ⟨g7, .s8, 0xffc, (.k 20), (.v 10), .acq, .pod, .register⟩ true,
    .st ⟨g7, .n16, 0x0, (.k 20), (.v 10), .rel, .grp, .generic⟩,
    .ldb ⟨g7, .n64, 0x10, (.k 20), (.v 10), .plain, .thr, .core⟩ false,
    .stb ⟨gn2, .n32, 0x0, (.k 20), (.v 10), .plain, .thr, .cluster⟩,
    .ldw ⟨g7, .n64, 0x0, (.k 20), (.v 10), .acq, .cls, .core⟩ true,
    .setempty ⟨g7, .f32, 0x0, (.k 20), .zero, .plain, .thr, .core⟩,
    .atadd ⟨g7, .n32, 0x0, (.k 20), (.v 10), .ar, .die, .global⟩ (some 3),
    .atmin ⟨g7, .s64, 0x0, (.k 20), (.v 10), .plain, .thr, .global⟩ none,
    .atmax ⟨g7, .f32, 0x0, (.k 20), (.v 10), .plain, .thr, .global⟩ (some 7),
    .atand ⟨g7, .n32, 0x0, (.k 20), (.v 10), .plain, .thr, .global⟩ none,
    .ator ⟨g7, .n64, 0x0, (.k 20), (.v 10), .plain, .thr, .global⟩ none,
    .atxor ⟨g7, .n32, 0x0, (.k 20), (.v 10), .plain, .thr, .global⟩ none,
    .atexch ⟨g7, .n64, 0x0, (.k 20), (.v 10), .plain, .thr, .global⟩ none,
    .atcas ⟨g7, .n32, 0x0, (.k 20), (.v 10), .plain, .thr, .global⟩ none (.v 30),
    .redadd ⟨g7, .f32, 0x0, (.k 20), (.v 10), .rel, .mod, .global⟩,
    .redmin ⟨g7, .n32, 0x0, (.k 20), (.v 10), .plain, .thr, .global⟩]

def forms5 : List Instr := [
    .redmax ⟨g7, .s32, 0x0, (.k 20), (.v 10), .plain, .thr, .global⟩,
    .redand ⟨g7, .n32, 0x0, (.k 20), (.v 10), .plain, .thr, .global⟩,
    .redor ⟨g7, .n64, 0x0, (.k 20), (.v 10), .plain, .thr, .global⟩,
    .redxor ⟨g7, .n32, 0x0, (.k 20), (.v 10), .plain, .thr, .global⟩,
    .fxadd ⟨g7, .bf16, 0x0, (.k 20), (.v 10), .plain, .thr, .global⟩,
    .fxrd ⟨g7, .f64, 0x0, (.k 20), (.v 10), .plain, .thr, .global⟩ .rp,
    .nins ⟨g7, .e2m1, 0x0, (.k 20), (.v 10), .plain, .thr, .global⟩ (.v 30),
    .lock ⟨g7, .f32, 0x0, (.k 20), .zero, .plain, .grp, .global⟩,
    .unlock ⟨g7, .f32, 0x0, (.k 20), .zero, .plain, .pod, .generic⟩,
    .fence ⟨g7, .f32, 0x0, .zero, .zero, .ar, .wrp, .generic⟩,
    .mma ⟨g7, .bf16, .k 20, .k 21, 33, true, some 5⟩,
    .mmag ⟨g7, .s8, .k 20, .k 21, 33, true, some 5⟩ (.v 40),
    .mmas ⟨g7, .e2m1, .k 20, .k 21, 33, true, some 5⟩,
    .mmx ⟨g7, .f16, .k 20, .k 21, 33, true, some 5⟩ true,
    .sfpush g7 .e8m0 (.v 20) true none,
    .sfpushFlush g7,
    .aalloc g7 (.k 9) 0xF,
    .afree g7 3,
    .acqa g7 (.k 8) 5,
    .rela g7 6,
    .amv g7 (.a2v (.v 10)) (.k 30) 63 none,
    .amv g7 (.v2a (.v 20)) (.k 30) 1 none,
    .amv g7 (.a2c (.k 20)) (.k 30) 2 (some 1),
    .amv g7 (.c2a (.k 20)) (.k 30) 0 none,
    .tcon8 g7 (.k 1) (.k 2) (.k 3) .z true false none,
    .rsub g7 .die (.v 20) (.k 8) (.k 10) (.k 12),
    .cpost g7 .pod (.k 8) (.k 10),
    .ctok g7 .chp (.k 8) (.k 10),
    .abort g7 .mod (.k 8) (.k 10),
    .abortRoot g7 .die (.k 8)]

def forms6 : List Instr := [
    .mcst ⟨g7, .n32, 0x0, (.k 20), (.v 10), .rel, .pod, .global⟩ true (.k 30),
    .rfence g7 .die .zero,
    .cdecl g7 .die (.k 8) (.k 10),
    .sweep g7 .die (.k 2) (.k 8) (.k 10) (.k 12),
    .byield g7 .grp true (.v 8) (.v 10) (.v 12),
    .bwakeNow g7 .grp (.v 8) (.k 10),
    .bwakeNext g7 .cls (.v 8) (.k 10),
    .bstate g7 (.v 1) (.v 8) (.k 10),
    .sget g7 .n64 (.v 10) 0x0001,
    .sset g7 .n32 (.k 5) 0x0021,
    .tret g7,
    .clkrd g7 .n64 (.v 10) true,
    .preempt g7 (.v 10),
    .unassignedOpcode 0x5F,
    .cmdNop,
    .cmdSeti 3 0x3001,
    .cmdAddi 4 5 0x800,
    .cmdAdd 1 2 3 0xFFFFFFFF,
    .cmdMad 7 8 9 6,
    .cmdLdg 1 2 8,
    .cmdStg 1 2 8 true,
    .cmdAtom 1 2 5,
    .cmdMove 1 2 64,
    .cmdPush 4 1 3,
    .cmdPushmc 4 1 3 32,
    .cmdStep 3 1,
    .cmdRed 1 2 64 9 true,
    .cmdSum 1 2 3 64 false,
    .cmdSig 1 16,
    .cmdTok 77 0x3FF]

def forms7 : List Instr := [
    .cmdWtok 77 true 5,
    .cmdWbar 1 true 5,
    .cmdWmem 1 2 .geu true 5,
    .cmdBr 0xFFFFFFFD,
    .cmdBrc 1 2 .lts 4,
    .cmdLoop 5 0xFFFFFFFD,
    .cmdFence .pod,
    .cmdChunk,
    .cmdEnd,
    .cmdBadOpcode 0x19]


theorem test_wf_refuses1 : ([
    .iadd ⟨gn2, .e8m0, .v 10, .v 20, .k 30⟩ true,
    .isub ⟨g7, .e8m0, .v 10, .v 20, .k 30⟩ false,
    .imul ⟨g7, .e8m0, .v 10, .v 20, .k 30⟩,
    .imulhi ⟨g7, .e8m0, .v 10, .v 20, .k 30⟩,
    .imad ⟨g7, .e8m0, .v 10, .v 20, .k 30, .v 40⟩,
    .imadw ⟨g7, .e8m0, .v 10, .v 20, .k 30, .v 40⟩,
    .iadd64 ⟨g7, .e8m0, .v 10, .v 20, .k 30⟩ true,
    .isub64 ⟨g7, .e8m0, .v 10, .v 20, .k 30⟩ false,
    .imul64 ⟨g7, .e8m0, .v 10, .v 20, .k 30⟩,
    .imad64 ⟨g7, .e8m0, .v 10, .v 20, .k 30, .v 40⟩,
    .shl ⟨g7, .e8m0, .v 10, .v 20, .k 30⟩,
    .shr ⟨g7, .e8m0, .v 10, .v 20, .k 30⟩,
    .sar ⟨g7, .e8m0, .v 10, .v 20, .k 30⟩,
    .mix3 ⟨g7, .e8m0, .v 10, .v 20, .k 30, .v 40⟩ 0x96,
    .imin ⟨g7, .e8m0, .v 10, .v 20, .k 30⟩,
    .imax ⟨g7, .e8m0, .v 10, .v 20, .k 30⟩,
    .iabs ⟨g7, .e8m0, .v 10, .v 20⟩ true,
    .icmp g7 .e8m0 2 .ge (.v 20) (.v 22),
    .sel ⟨g7, .e8m0, .v 10, .v 20, .k 30⟩ 3,
    .popc ⟨g7, .e8m0, .v 10, .v 20⟩,
    .clz ⟨g7, .e8m0, .v 10, .v 20⟩,
    .brev ⟨g7, .e8m0, .v 10, .v 20⟩,
    .bfe ⟨g7, .e8m0, .v 10, .v 20, .k 30⟩,
    .bfi ⟨g7, .e8m0, .v 10, .v 20, .k 30, .v 40⟩,
    .iaddp ⟨g7, .e8m0, .v 10, .v 20, .k 30⟩ true] : List Instr).all (fun i => !i.wf) = true := by decide +kernel

theorem test_wf_refuses2 : ([
    .isubp ⟨g7, .e8m0, .v 10, .v 20, .k 30⟩ false,
    .iminp ⟨g7, .e8m0, .v 10, .v 20, .k 30⟩,
    .imaxp ⟨g7, .e8m0, .v 10, .v 20, .k 30⟩,
    .iabsp ⟨g7, .e8m0, .v 10, .v 20⟩ false,
    .idp4 ⟨g7, .e8m0, .v 10, .v 20, .k 30, .v 40⟩ true,
    .mov ⟨g7, .e8m0, .v 10, .v 20⟩,
    .movi g7 .e8m0 (.v 10) 0x29,
    .xlane ⟨g7, .e8m0, .v 10, .v 20, .k 30, .v 40⟩ .fly,
    .wred ⟨g7, .e8m0, .v 10, .v 20⟩ .max,
    .wext ⟨g7, .e8m0, .v 10, .v 20, .k 30, .v 40⟩ .rot,
    .iaddi ⟨g7, .e8m0, .v 10, .v 20⟩ 0x1,
    .imuli ⟨g7, .e8m0, .v 10, .v 20⟩ 0xffffffff,
    .icmpi g7 .e8m0 1 .lt .laneid 4,
    .fadd ⟨g7, .e8m0, .v 10, .v 20, .k 30⟩ ⟨.rz, true, false, false⟩,
    .fmul ⟨g7, .e8m0, .v 10, .v 20, .k 30⟩ ⟨.rn, false, true, false⟩,
    .ffma ⟨g7, .e8m0, .v 10, .v 20, .k 30, .v 40⟩ ⟨.rm, false, false, true⟩,
    .fmin ⟨g7, .e8m0, .v 10, .v 20, .k 30⟩ .rn true,
    .fmax ⟨g7, .e8m0, .v 10, .v 20, .k 30⟩ .rp false,
    .fabs ⟨g7, .e8m0, .v 10, .v 20⟩ .rn true,
    .fclass ⟨g7, .e8m0, .v 10, .v 20⟩ .rn 3,
    .dadd ⟨g7, .e8m0, .v 10, .v 20, .k 30⟩ ⟨.rn, false, true, false⟩,
    .dmul ⟨g7, .e8m0, .v 10, .v 20, .k 30⟩ ⟨.rp, true, true, false⟩,
    .dfma ⟨g7, .e8m0, .v 10, .v 20, .k 30, .v 40⟩ ⟨.rn, true, false, true⟩,
    .dmin ⟨g7, .e8m0, .v 10, .v 20, .k 30⟩ .rn false,
    .dmax ⟨g7, .e8m0, .v 10, .v 20, .k 30⟩ .rn true] : List Instr).all (fun i => !i.wf) = true := by decide +kernel

theorem test_wf_refuses3 : ([
    .dclass ⟨g7, .e8m0, .v 10, .v 20⟩ .rz,
    .hadd2 ⟨g7, .e8m0, .v 10, .v 20, .k 30⟩ ⟨.rn, false, true, false⟩,
    .hmul2 ⟨g7, .e8m0, .v 10, .v 20, .k 30⟩ ⟨.rz, false, false, false⟩,
    .hfma2 ⟨g7, .e8m0, .v 10, .v 20, .k 30, .v 40⟩ ⟨.rn, false, false, true⟩,
    .hmin2 ⟨g7, .e8m0, .v 10, .v 20, .k 30⟩ .rn true,
    .hmax2 ⟨g7, .e8m0, .v 10, .v 20, .k 30⟩ .rn false,
    .hcmp2 ⟨g7, .e8m0, .v 10, .v 20, .k 30⟩ .rn .geu,
    .faddi ⟨g7, .e8m0, .v 10, .v 20⟩ 0x3f800000,
    .fmuli ⟨g7, .e8m0, .v 10, .v 20⟩ 0x40000000,
    .frcp ⟨g7, .e8m0, .v 10, .v 20⟩ .rn,
    .frsq ⟨g7, .e8m0, .v 10, .v 20⟩ .rz,
    .fsqrt ⟨g7, .e8m0, .v 10, .v 20⟩ .rp,
    .fex2 ⟨g7, .e8m0, .v 10, .v 20⟩ .rm,
    .flg2 ⟨g7, .e8m0, .v 10, .v 20⟩ .rn,
    .fsin ⟨g7, .e8m0, .v 10, .v 20⟩ .rz,
    .fcos ⟨g7, .e8m0, .v 10, .v 20⟩ .rp,
    .ftanh ⟨g7, .e8m0, .v 10, .v 20⟩ .rm,
    .dsqrt ⟨g7, .e8m0, .v 10, .v 20⟩ .rm,
    .drcp ⟨g7, .e8m0, .v 10, .v 20⟩ .rn,
    .cvff ⟨g7, .e8m0, .v 10, .v 20⟩ ⟨.rz, .f16, 1, 3, true⟩,
    .cvfi ⟨g7, .e8m0, .v 10, .v 20⟩ ⟨.rn, .e2m1, 7, 1, false⟩,
    .cvif ⟨g7, .e8m0, .v 10, .v 20⟩ ⟨.rp, .n8, 2, 0, false⟩,
    .cvii ⟨g7, .e8m0, .v 10, .v 20⟩ ⟨.rn, .s64, 0, 2, true⟩,
    .pkf8 ⟨g7, .e8m0, .v 10, .v 20, .k 30⟩ .rn true,
    .pkf4 ⟨g7, .e8m0, .v 10, .v 20, .k 30⟩ .rm 6] : List Instr).all (fun i => !i.wf) = true := by decide +kernel

theorem test_wf_refuses4 : ([
    .mxsc ⟨g7, .e8m0, .v 10, .v 20⟩ .rn true,
    .ld ⟨g7, .e8m0, 0xffc, (.k 20), (.v 10), .acq, .pod, .register⟩ true,
    .st ⟨g7, .e8m0, 0x0, (.k 20), (.v 10), .rel, .grp, .generic⟩,
    .ldb ⟨g7, .e8m0, 0x10, (.k 20), (.v 10), .plain, .thr, .core⟩ false,
    .stb ⟨gn2, .e8m0, 0x0, (.k 20), (.v 10), .plain, .thr, .cluster⟩,
    .ldw ⟨g7, .e8m0, 0x0, (.k 20), (.v 10), .acq, .cls, .core⟩ true,
    .setempty ⟨g7, .e8m0, 0x0, (.k 20), .zero, .plain, .thr, .core⟩,
    .atadd ⟨g7, .e8m0, 0x0, (.k 20), (.v 10), .ar, .die, .global⟩ (some 3),
    .atmin ⟨g7, .e8m0, 0x0, (.k 20), (.v 10), .plain, .thr, .global⟩ none,
    .atmax ⟨g7, .e8m0, 0x0, (.k 20), (.v 10), .plain, .thr, .global⟩ (some 7),
    .atand ⟨g7, .e8m0, 0x0, (.k 20), (.v 10), .plain, .thr, .global⟩ none,
    .ator ⟨g7, .e8m0, 0x0, (.k 20), (.v 10), .plain, .thr, .global⟩ none,
    .atxor ⟨g7, .e8m0, 0x0, (.k 20), (.v 10), .plain, .thr, .global⟩ none,
    .atexch ⟨g7, .e8m0, 0x0, (.k 20), (.v 10), .plain, .thr, .global⟩ none,
    .atcas ⟨g7, .e8m0, 0x0, (.k 20), (.v 10), .plain, .thr, .global⟩ none (.v 30),
    .redadd ⟨g7, .e8m0, 0x0, (.k 20), (.v 10), .rel, .mod, .global⟩,
    .redmin ⟨g7, .e8m0, 0x0, (.k 20), (.v 10), .plain, .thr, .global⟩,
    .redmax ⟨g7, .e8m0, 0x0, (.k 20), (.v 10), .plain, .thr, .global⟩,
    .redand ⟨g7, .e8m0, 0x0, (.k 20), (.v 10), .plain, .thr, .global⟩,
    .redor ⟨g7, .e8m0, 0x0, (.k 20), (.v 10), .plain, .thr, .global⟩,
    .redxor ⟨g7, .e8m0, 0x0, (.k 20), (.v 10), .plain, .thr, .global⟩,
    .fxadd ⟨g7, .e8m0, 0x0, (.k 20), (.v 10), .plain, .thr, .global⟩,
    .fxrd ⟨g7, .e8m0, 0x0, (.k 20), (.v 10), .plain, .thr, .global⟩ .rp,
    .nins ⟨g7, .e8m0, 0x0, (.k 20), (.v 10), .plain, .thr, .global⟩ (.v 30),
    .lock ⟨g7, .e8m0, 0x0, (.k 20), .zero, .plain, .grp, .global⟩] : List Instr).all (fun i => !i.wf) = true := by decide +kernel

theorem test_wf_refuses5 : ([
    .unlock ⟨g7, .e8m0, 0x0, (.k 20), .zero, .plain, .pod, .generic⟩,
    .fence ⟨g7, .e8m0, 0x0, .zero, .zero, .ar, .wrp, .generic⟩,
    .mma ⟨g7, .e8m0, .k 20, .k 21, 33, true, some 5⟩,
    .mmag ⟨g7, .e8m0, .k 20, .k 21, 33, true, some 5⟩ (.v 40),
    .mmas ⟨g7, .e8m0, .k 20, .k 21, 33, true, some 5⟩,
    .mmx ⟨g7, .e8m0, .k 20, .k 21, 33, true, some 5⟩ true,
    .sfpush g7 .s8 (.v 20) true none,
    .rsub g7 .cls (.v 20) (.k 8) (.k 10) (.k 12),
    .cpost g7 .cls (.k 8) (.k 10),
    .ctok g7 .cls (.k 8) (.k 10),
    .abort g7 .cls (.k 8) (.k 10),
    .abortRoot g7 .cls (.k 8),
    .mcst ⟨g7, .e8m0, 0x0, (.k 20), (.v 10), .rel, .pod, .global⟩ true (.k 30),
    .rfence g7 .cls .zero,
    .cdecl g7 .cls (.k 8) (.k 10),
    .sweep g7 .cls (.k 2) (.k 8) (.k 10) (.k 12),
    .byield g7 .wrp true (.v 8) (.v 10) (.v 12),
    .bwakeNow g7 .wrp (.v 8) (.k 10),
    .bwakeNext g7 .wrp (.v 8) (.k 10),
    .sget g7 .e8m0 (.v 10) 0x0001,
    .sset g7 .e8m0 (.k 5) 0x0021,
    .clkrd g7 .e8m0 (.v 10) true,
    .wait g7 .zero .zero ⟨2 ^ 28, false, 0⟩,
    .bar g7 0 65,
    .cbar g7 0 513] : List Instr).all (fun i => !i.wf) = true := by decide +kernel

theorem test_wf_refuses6 : ([
    .fadd ⟨g7, .f32, .v 1, .v 2, .v 3⟩ ⟨.rn, false, false, true⟩,
    .dmul ⟨g7, .f64, .v 2, .v 4, .v 6⟩ ⟨.rn, false, false, true⟩,
    .hadd2 ⟨g7, .f16, .v 2, .v 4, .v 6⟩ ⟨.rn, false, false, true⟩,
    .fclass ⟨g7, .bf16, .v 1, .v 2⟩ .rn 2,
    .cvff ⟨g7, .f32, .v 1, .v 2⟩ ⟨.rn, .f32, 0, 0, false⟩,
    .cvff ⟨g7, .f16, .v 1, .v 2⟩ ⟨.rn, .f32, 0, 0, true⟩,
    .cvff ⟨g7, .f16, .v 1, .v 2⟩ ⟨.rn, .f32, 1, 0, false⟩,
    .cvff ⟨g7, .f16, .v 1, .v 2⟩ ⟨.rn, .f32, 0, 2, false⟩,
    .cvfi ⟨g7, .s32, .v 1, .v 2⟩ ⟨.rn, .f32, 0, 0, true⟩,
    .cvfi ⟨g7, .s32, .v 1, .v 2⟩ ⟨.rn, .n32, 0, 0, false⟩,
    .pkf8 ⟨g7, .e4m3, .v 1, .v 4, .v 3⟩ .rn true,
    .ld ⟨g7, .n32, 0, .v 2, .v 1, .rel, .grp, .global⟩ false,
    .st ⟨g7, .n32, 0, .v 2, .v 1, .acq, .grp, .global⟩,
    .ld ⟨g7, .n32, 0, .v 2, .v 1, .acq, .thr, .global⟩ false,
    .ld ⟨g7, .n32, 0, .v 2, .v 1, .plain, .grp, .global⟩ false,
    .ldw ⟨g7, .n32, 0, .v 2, .v 1, .plain, .thr, .global⟩ false,
    .setempty ⟨g7, .f32, 0, .v 2, .v 1, .plain, .thr, .core⟩,
    .atadd ⟨g7, .n32, 0, .v 2, .v 1, .plain, .thr, .register⟩ none,
    .redadd ⟨g7, .n32, 0, .v 2, .v 1, .acq, .grp, .global⟩,
    .fxrd ⟨g7, .f32, 0, .v 2, .v 1, .rel, .grp, .global⟩ .rn,
    .lock ⟨g7, .f32, 0, .v 2, .zero, .plain, .wrp, .global⟩,
    .unlock ⟨g7, .f32, 0, .v 2, .zero, .plain, .grp, .core⟩,
    .fence ⟨g7, .f32, 0, .zero, .zero, .plain, .grp, .generic⟩,
    .fence ⟨g7, .f32, 8, .zero, .zero, .rel, .grp, .generic⟩,
    .fence ⟨g7, .f32, 0, .zero, .zero, .rel, .thr, .generic⟩] : List Instr).all (fun i => !i.wf) = true := by decide +kernel

theorem test_wf_refuses7 : ([
    .mcst ⟨g7, .n16, 0, .v 2, .v 4, .plain, .thr, .global⟩ true (.k 1),
    .mcst ⟨g7, .n32, 0, .v 2, .v 4, .rel, .wrp, .global⟩ false (.k 1),
    .mcst ⟨g7, .n32, 0, .v 2, .v 4, .plain, .thr, .core⟩ false (.k 1),
    .sget g7 .n32 (.v 1) 0x0001,
    .sget g7 .n32 (.v 1) 0x0003,
    .sset g7 .n32 (.k 1) 0x0030,
    .sset g7 .n32 (.k 1) 0x0200,
    .cmdFence .wrp,
    .cmdBadOpcode 0x18,
    .unassignedOpcode 0x20] : List Instr).all (fun i => !i.wf) = true := by decide +kernel


/-! ### States for one step -/

/-- A released module in which quarter 0 runs a clause of one word and root context 0 of die 0 runs a program; virtual
addresses below 2^30 of context slot 0 are mapped, writable, to the same physical addresses. -/
def base : State := (State.reset.withFetchWord 128 0).withFetchWord 64 0

/-- A group with every register and bank, in a reservation of 64 KiB. -/
def grp : Group := { hostGroup with nreg := 192, accMask := 0xFF }
/-- Its warp. -/
def wrp : Warp := hostWarp
/-- Its clause, privileged and with every port. -/
def cls : Clause := { hostClause 0 with header := { (hostClause 0).header with priv := true } }

/-- Quarter 0 runs clause c of warp W of group g. -/
def put (s : State) (c : Clause) (W : Warp) (g : Group) : State :=
  { s with
    sched := { agenda := [], agent := .quarter 0 }
    comp := { s.comp with groups := tput s.comp.groups 0 g, warps := tput s.comp.warps 0 W,
                          clauses := tput s.comp.clauses 0 c } }

theorem runs_put (s : State) (c : Clause) (W : Warp) (g : Group) (hc : c.ending = none) (hw : c.warp = 0) :
    Runs (put s c W g) 0 c W g := by
  refine ⟨rfl, tfind_tput_same .., hc, ?_, ?_⟩ <;> rw [hw] <;> exact tfind_tput_same ..

/-- The warp that issues in `put`. -/
def there : State := put base cls wrp grp

theorem runs_there : Runs there 0 cls wrp grp := runs_put _ _ _ _ rfl rfl

/-- An instruction that issues there. -/
def issuable (i : Instr) : Bool :=
  match needsOf i with
  | some p => (issueFault p cls grp).isNone && decide (activeLanes cls wrp p.guard ≠ 0)
  | none =>
    match i with
    | .unassignedOpcode _ => true
    | _ => decide ((encode i).length = 2)

/-- Every form of instruction issues there with its needs: what the statements about issue suppose can be met. -/
theorem issues_there {i p} (hn : needsOf i = some p) (h : issuable i = true) : Issues p there 0 cls wrp grp := by
  unfold issuable at h
  rw [hn] at h
  simp only [Bool.and_eq_true, decide_eq_true_eq, Option.isNone_iff_eq_none] at h
  exact ⟨runs_there, h⟩

/-- DecodeInvertsEncode, and every statement that supposes Issues or Runs: each form is well formed, has an encoding and
issues. -/
theorem witness_forms :
    (forms1.all fun i => i.wf && encode i ≠ [] && issuable i) ∧ (forms2.all fun i => i.wf && encode i ≠ [] && issuable i) ∧
    (forms3.all fun i => i.wf && encode i ≠ [] && issuable i) ∧ (forms4.all fun i => i.wf && encode i ≠ [] && issuable i) ∧
    (forms5.all fun i => i.wf && encode i ≠ [] && issuable i) ∧
    (forms6.all fun i => i.wf && encode i ≠ [] && issuable i) ∧
    (forms7.all fun i => i.wf && encode i ≠ [] && issuable i) := by decide +kernel

/-! ### Witnesses: checks at issue, registers, arithmetic -/

/-- Guard !p7, true in no lane. -/
def gnone : Guard := ⟨true, 7⟩
/-- What an instruction of warp W sees in `put`. -/
def seen (W : Warp) : Ctx := sees 0 cls W grp g7

/-- StepRunsWhatIsThere and DecodedWordIsItsEncoding: words that decode and one that does not, a command that is fetched and
decoded, an event on the agenda. -/
theorem witness_StepRunsWhatIsThere :
    decodeInstr (nth 0 cls.words cls.index) = .error .undefinedBits ∧
    decodeInstr (nth 0 (hostClause 0x0000AAF8C30B0C20).words 0) = .ok (.iadd ⟨⟨true, 2⟩, .s32, .v 12, .v 11, .k 3⟩ false) ∧
    there.sched.agenda = [] ∧ there.on = true ∧ there.mod.startAt = none ∧
    (let e : EngRef := .root 0 0 0
     let s := (State.reset.withFetchWord 128 0x18).pass 1
     s.prog? e = some hostProg ∧ hostProg.phase = .running ∧ hostProg.internal = false ∧ s.myTurn e = true ∧
       ∃ b, s.engRead 0 0 0x10000 16 = .ok b ∧ decodeCommand (ofBytes (b.take 8)) (ofBytes (b.drop 8)) = .ok .cmdEnd) ∧
    encode (.warpEnd 3) = [] := by
  refine ⟨?_, ?_, ?_, ?_, ?_, ⟨?_, rfl, rfl, ?_, toBytes 16 0x18, ?_, ?_⟩, ?_⟩ <;> decide +kernel

/-- EveryStepKeepsTheInvariant: reset meets the invariant, and a step leads on from it. -/
theorem witness_EveryStepKeepsTheInvariant : State.reset.Inv ∧ Goes (step State.reset) := by
  refine ⟨⟨?_, ?_, ?_⟩, _, rfl⟩ <;> decide +kernel

/-- OnlyPowerLossOrFailureStops: a module without power and one that is held failed. -/
theorem witness_OnlyPowerLossOrFailureStops :
    step { State.reset with sched := { agenda := [], agent := .quarter 0 }, mod := { State.reset.mod with power := false } } =
      .fault .powerOff ∧
    step { State.reset with sched := { agenda := [], agent := .quarter 0 }, mod := { State.reset.mod with heldFailed := true } } =
      .fault .heldFailed := ⟨rfl, rfl⟩

/-- OperandCodesRead and ResultsReachTheirRegisters: the last pairs and the lanes at the ends. -/
theorem witness_OperandCodesRead :
    ((190 : Fin 191).val % 2 = 0 ∧ (54 : Fin 55).val % 2 = 0) ∧
    (wr (.v 191) true).illegal = true ∧ (wr (.v 190) true).outOfRange 191 = true ∧ (rd (.v 190)).outOfRange 190 = true ∧
    (lowest 0 = none ∧ lowest 0x80000000 = some 31 ∧ inSet (0x80000000 : LaneSet) 31 = true) := by decide

/-- ChecksAtIssueInOrder: each fault, and no fault, at the boundary between two checks. -/
theorem witness_ChecksAtIssueInOrder :
    let no3 : Clause := { cls with header := { cls.header with ports := 7 } }
    let plain : Clause := { cls with header := { cls.header with priv := false } }
    let two : Clause := { cls with header := { cls.header with count := 1 } }
    let matrix : Group := { grp with roles := 0x000100 }
    (no3.header.ports.toNat.testBit 3 = false ∧ issueFault (engNeeds g7 []) no3 grp = some 1) ∧
    (matrix.role 0 = 2 ∧ issueFault (memNeeds g7 []) cls matrix = some 6 ∧
      issueFault (memNeeds g7 [] true) cls matrix = none) ∧
    (two.index ≠ two.header.count.val ∧ issueFault (lastNeeds g7 []) two grp = some 1) ∧
    issueFault { needs g7 [] with priv := true } plain grp = some 5 ∧
    issueFault { needs g7 [] with denied := true } cls grp = some 5 ∧
    issueFault (needs g7 [wr .ones, rd (.v 191)]) cls { grp with nreg := 191 } = some 2 ∧
    issueFault (needs g7 [rd (.v 191)]) cls { grp with nreg := 191 } = some 3 ∧
    issueFault (needs g7 [rd (.v 190)]) cls { grp with nreg := 191 } = none := by decide +kernel

/-- FailedCheckIsAPreciseFault and ResultsReachTheirRegisters: an instruction with a bad code, and one whose guard is false. -/
theorem witness_FailedCheckIsAPreciseFault :
    (needsOf (.mov ⟨g7, .n32, .bad 200, .v 1⟩)).map (issueFault · cls grp) = some (some 2) ∧
    (needsOf (.mov ⟨gnone, .n32, .v 2, .v 1⟩)).map (fun p => (issueFault p cls grp, activeLanes cls wrp p.guard)) =
      some (none, 0) := by decide +kernel

/-- IntegerArithmeticAndShifts, BitFieldsLogicAndMoves: types and numbers at the ends of the ranges that they bound. -/
theorem witness_IntegerArithmeticAndShifts :
    (Ty.s8.isInt = true ∧ Ty.s8.minInt ≤ -128 ∧ (-128 : Int) ≤ Ty.s8.maxInt) ∧ (Ty.n64.isInt = true ∧ Ty.n64.plain = true) ∧
    (31 < 32 ∧ 0xFFFFFFFF < 2 ^ 32) ∧ (0 < 1 ∧ 1 < 2 ^ 64) := by decide

/-- SpecialFunctions: NaNs, both infinities, both zeros, numbers below and from 2^-12, and the ends of the range where ftanh is one. -/
theorem witness_SpecialFunctions :
    (Fl.decode f32Fmt 0x7FC00001 = .nan false ∧ Fl.decode f32Fmt 0x7F800001 = .nan true) ∧
    Fl.decode f32Fmt 0x7F800000 = .inf false ∧
    Fl.decode f32Fmt 0xFF800000 = .inf true ∧ Fl.decode f32Fmt 0x80000000 = .num true 0 (-149) ∧
    Fl.decode f32Fmt 0x80000001 = .num true 1 (-149) ∧
    Fl.decode f32Fmt 0x397FFFFF = .num false 0xFFFFFF (-36) ∧ ((Nat.log2 0xFFFFFF : Nat) : Int) + -36 < -12 ∧
    Fl.decode f32Fmt 0x39800000 = .num false 0x800000 (-35) ∧ (-12 : Int) ≤ ((Nat.log2 0x800000 : Nat) : Int) + -35 ∧
    (0xC1180000 < 2 ^ 32 ∧ 0x41180000 ≤ 0xC1180000 % 2 ^ 31 ∧ 0xFF800000 % 2 ^ 31 ≤ 0x7F800000) := by
  decide +kernel

/-- RoundingIsWithinAStep: a tie and an exact value; the largest code of each format; values that round to the largest and beyond it. -/
theorem witness_RoundingIsWithinAStep :
    ((-1 : Int) < 0) ∧ 2 * (5 % 2 ^ ((0 : Int) - -1).toNat) = 2 ^ ((0 : Int) - -1).toNat ∧ 4 % 2 ^ ((0 : Int) - -1).toNat = 0 ∧
    ([f64Fmt, f32Fmt, bf16Fmt, f16Fmt, e5m2Fmt, e4m3Fmt, e2m1Fmt].all fun f =>
      match Fl.decode f f.maxCode with
      | .num false _ _ => true
      | _ => false) = true ∧
    (Fl.decode f16Fmt f16Fmt.maxCode = .num false 2047 5 ∧
      -- 65519 rounds to the largest f16 value and 65520 beyond it
      (let q (m : Nat) : Int := max ((Nat.log2 m : Int) + 0 - f16Fmt.manBits) f16Fmt.minExp
       let value (m : Nat) : Nat := (roundAt .rn false m 0 (q m)).1 * 2 ^ (q m - f16Fmt.minExp).toNat
       let most : Nat := 2047 * 2 ^ ((5 : Int) - f16Fmt.minExp).toNat
       value 65519 ≤ most ∧ most < value 65520)) := by
  decide +kernel

/-! ### Witnesses: control and system instructions -/

/-- BranchesRecordTargets: good targets of every form, and a register that holds a bad one in lane 3. -/
theorem witness_BranchesRecordTargets :
    wrap 64 ((cls.h : Int) + 8 * (5 : Word).toInt) % 8 = 0 ∧ wrap 64 ((cls.h : Int) + 8 * (5 : Word).toInt) < 2 ^ 57 ∧
    wrap 64 ((cls.h : Int) + 8 * (0xFFFFFF00 : Word).toInt) < 2 ^ 57 ∧
    (lanesOf (seen wrp).act).find? (fun l => badTarget (wrp.srcN 0 true (.v 2) l)) = none ∧
    (let W : Warp := { wrp with v := [(32 * 2 + 3, 4)] }
     (lanesOf (seen W).act).find? (fun l => badTarget (W.srcN 0 true (.v 2) l)) = some 3) := by decide +kernel

/-- MeetSignExitYieldTrap: addresses a meet admits. -/
theorem witness_MeetSignExitYieldTrap :
    displaced cls.h 3 % 8 = 0 ∧ displaced cls.h 3 < 2 ^ 57 ∧
    ∀ l ∈ lanesOf (activeLanes cls wrp g7), wrp.srcN cls.warp true (.v 2) l % 8 = 0 ∧ wrp.srcN cls.warp true (.v 2) l < 2 ^ 57 := by
  decide +kernel

/-- A warp whose k1 and k5 hold a token condition and the offset of k0 in its uniform block. -/
def waiter : Warp := { wrp with k := [(1, 0xC0000000), (5, 24576)] }
/-- Its clause, with the registers as the last boundary left them. -/
def waitClause : Clause := { cls with k := waiter.k }
/-- Quarter 0 runs it. -/
def waiting : State := put base waitClause waiter grp

/-- The hypotheses of a wait on the block at an offset, with what the wait comes to. -/
def waits (s : State) (off : Nat) : Option Bool :=
  let entries := [ofBytes (s.coreRead 0 off 16).1]
  if off % 16 = 0 ∧ grp.holds off 16 = true ∧ entries.any badCond = false then
    match s.placeConds 0 entries with
    | (t, none) =>
      let r := t.readConds 0 0x1000 0 (oneLane 0) (entries.map fun e => { entry := BitVec.ofNat 128 e, seen := none })
      some (r.1.waitMet 0 { clause := 0, index := 0, took := 0, next := 0, signed := [], lanes := 0, dst := .zero, all := true,
                            conds := r.2, deadline := none })
    | _ => none
  else none

/-- WaitsBarriersAndReturns: a wait that is met, and one that is not; a block and a barrier that cannot be corrected. -/
theorem witness_WaitsBarriersAndReturns :
    (waits there ((seen wrp).one .zero) = some true ∧ waits waiting ((seen waiter).one (.k 5)) = some false) ∧
    -- the same blocks, with the granule of the block poisoned, and with a poisoned barrier
    (let bad (s : State) (o : Nat) : State := s.onCore 0 fun c => { c with poison := [(o / 16, true)] }
     ((bad waiting 24576).coreRead 0 24576 16).2 = true ∧ (waiting.coreRead 0 24576 16).2 = false ∧
     (let W : Warp := { wrp with k := [(0, 0x10A100), (1, 0x40000000), (5, 24576)] }
      let s := put base { cls with k := W.k } W grp
      waits s 24576 = some false ∧ waits (bad s 41216) 24576 = some false ∧
        (let e : WaitCond := { entry := BitVec.ofNat 128 (2 ^ 62 + 0x10A100), seen := none }
         ofBytes (s.coreRead 0 24576 16).1 = e.entry.toNat ∧ (bad s 41216).condPoison 0 e = some 41216 ∧ s.condPoison 0 e = none))) := by
  decide +kernel

/-- SystemRegisterMoves: the privileged and the plain registers of its clauses. -/
theorem witness_SystemRegisterMoves :
    sysReadPriv 0x100 = true ∧ sysReadPriv 0xFF = false ∧ issuable (.sget g7 .n32 (.v 1) 0x13F) = true ∧
    issuable (.sset g7 .n32 (.k 1) 2) = true ∧ issuable (.sset g7 .n64 (.k 2) 0x17) = true ∧
    issuable (.sset g7 .n32 (.k 1) 0x21) = true ∧ issuable (.sset g7 .n64 (.k 2) 0x13F) = true ∧
    issueFault (needs g7 [rd (.k 1)]) cls grp = none := by decide +kernel

/-! ### Witnesses: memory, matrix and engine instructions at issue -/

/-- An outstanding operation of a class. -/
def opOf (seq : Nat) (cls : Option Nat) (kind : OpKind) (acc : List Access := []) : Op :=
  { seq := seq, cls := cls, kind := kind, clause := 0x1000, index := 0, lanes := allLanes, order := .plain, scope := .thr,
    ty := .n32, dst := .v 6, slot := none, acc := acc, results := [], flags := 0, landed := false, done := false }
/-- An access of a lane. -/
def accOf (lane : Nat) (loc : Loc) (data : List Byte := []) (done : Bool := false) : Access :=
  { lane := lane, dest := 0, loc := loc, size := 4, data := data, cmp := 0, done := done }
/-- A warp with n operations of each of the eight classes. -/
def busyWarp (n : Nat) : Warp :=
  { wrp with ops := (List.range 8).flatMap fun c => (List.range n).map fun i => opOf (c * 64 + i) (some c) .post }
/-- A warp whose eight scoreboard slots are taken. -/
def slotsTaken : Warp :=
  { wrp with ops := (List.range 8).map fun n => { opOf n (some 0) (.atomic (.nop g7)) with slot := some n } }

/-- A form on address v4 with data v6. -/
def form (ty : Ty) (space : Space) : MForm := ⟨g7, ty, 0, .v 4, .v 6, .plain, .thr, space⟩
/-- No check fails for a form of a shape where warp W issues. -/
def clear (W : Warp) (m : MForm) (sh : Shape) : Bool := (there.accessFault (seen W) m sh).isNone

/-- MemoryInstructionsIssue: the shapes of all its forms pass the checks, with 62 operations of each class outstanding, and a
slot is free, named or not; for fxadd with no bad input, some and only bad ones. -/
theorem witness_MemoryInstructionsIssue :
    let W := busyWarp 62
    (W.counter 0 = 62 ∧ W.counter 1 = 62 ∧ W.takeSlot none = some 0 ∧ W.takeSlot (some 7) = some 7) ∧
    (clear W (form .n32 .global) { size := 4, align := 4 } && clear W (form .n64 .generic) { size := 8, align := 8 } &&
      clear W (form .n32 .global) { size := 128, align := 16, block := true } &&
      clear W (form .n32 .global) (atomicShape 4) &&
      clear W (form .f32 .global) { size := 32, align := 32, register := false } &&
      clear W (form .n8 .global) { size := 1, align := 1, register := false }) = true ∧
    (seen W).badSums (form .f32 .global) = 0 ∧
    (seen { wrp with v := [(32 * 6 + 5, 0x7F800000)] }).badSums (form .f32 .global) = 0x20 ∧
    (seen { wrp with v := (List.range 32).map fun l => (32 * 6 + l, 0x7FC00000) }).badSums (form .f32 .global) = allLanes := by
  decide +kernel

/-- WindowLockAndFenceInstructionsIssue: window loads with no absent window and with one, a setempty, a lock word, and counters
just below 63. -/
theorem witness_WindowLockAndFenceInstructionsIssue :
    let W := busyWarp 62
    let sh : Shape := { size := 4, align := 4, global := false, cluster := false }
    let sh16 : Shape := { size := 16, align := 16, global := false, cluster := false }
    let m := form .n32 .core
    let acc := (seen W).accesses m sh (fun _ => []) (fun _ => 0)
    let win : Window := { offset := 0, size := 64, bar := none, record := 0, coords := 0, mode := 0, state := .absent }
    clear W m sh = true ∧ clear W m sh16 = true ∧ clear W (form .n32 .global) lockShape = true ∧
    (absentWindows grp acc).length = 0 ∧ W.counter 2 + (absentWindows { grp with windows := [(3, win)] } acc).length = 63 ∧
    W.counter 0 = 62 ∧ W.counter 5 = 62 ∧ (4 ≤ Scope.die.level ∧ ¬4 ≤ Scope.cls.level) := by decide +kernel

/-- OperandsStallOrFault: counters at 63, no slot free, and the first failing check for each cause that an access can raise. -/
theorem witness_OperandsStallOrFault :
    let W := busyWarp 63
    let cause (m : MForm) (W : Warp) (sh : Shape := { size := 4, align := 4 }) := (there.accessFault (seen W) m sh).map Trouble.cause
    let at' (l : Nat) (lo hi : Word) : Warp := { wrp with v := [(32 * 4 + l, lo), (32 * 5 + l, hi)] }
    ([0, 1, 2, 5].all fun n => W.counter n = 63) ∧ clear W (form .n32 .global) { size := 4, align := 4 } = true ∧
    slotsTaken.takeSlot none = none ∧ slotsTaken.takeSlot (some 5) = none ∧ slotsTaken.counter 0 < 63 ∧
    ((List.range 8).all slotsTaken.busy = true ∧ wrp.busy 7 = false) ∧
    (accessOf (Instr.atadd (form .n32 .global) none)).isSome = true ∧ Machine.slotOf (Instr.atadd (form .n32 .global) none) = some none ∧
    cause (form .n32 .global) (at' 2 0 0xFFFFFFFF) = some 0x0C ∧ cause (form .n32 .global) (at' 2 2 0) = some 0x0D ∧
    cause (form .n32 .generic) (at' 0 0xFCFFFFC0 0x01FFFFFF) { size := 128, align := 16, block := true } = some 0x0E ∧
    cause (form .n32 .global) (at' 31 0 0) { size := 4, align := 4, global := false, cluster := false } = some 0x0F ∧
    cause (form .n32 .core) (at' 31 65536 0) = some 0x0B ∧
    (let win : Window := { offset := 0, size := 64, bar := none, record := 0, coords := 0, mode := 0, state := .absent }
     let m := form .n32 .core
     let acc := (seen W).accesses m { size := 4, align := 4, global := false, cluster := false } (fun _ => []) (fun _ => 0)
     63 < W.counter 2 + (absentWindows { grp with windows := [(3, win)] } acc).length) := by decide +kernel

/-- A state whose core 0 has banks 0 and 1 of the group, the second with its token at the warp, and a bank of another group. -/
def banked (W : Warp) : State :=
  (put base cls W grp).onCore 0 fun y =>
    { y with banks := [(0, { owner := 0, set := none, holders := 0 }), (1, { owner := 0, set := some 1, holders := 1 }),
                       (2, { owner := 5, set := none, holders := 0 })] }
/-- A warp with scale entries, offsets in the scratchpad and 62 matrix operations. -/
def matrixWarp : Warp :=
  { busyWarp 62 with
    k := [(20, 24832), (22, 1)]
    v := (List.range 32).map fun l => (32 * 8 + l, if l = 31 then 0xFFFFFFFF else 0)
    scales := (2 : Word) :: List.replicate 32 0 ++ 3 :: List.replicate 32 0
    cvs := [(3, 0x0000000F0000000F)] }

/-- MatrixOperationsQueue: operands in the scratchpad, a gathered row of every lane but one, scales at the front of the FIFO, a
complete convergence register, tokens where they must be, and 62 matrix operations outstanding. -/
theorem witness_MatrixOperationsQueue :
    let z := seen matrixWarp
    let s := banked matrixWarp
    let row : StoreOperand := { off := 24832, size := 64, align := 64, lanes := oneLane 0 }
    (z.cvFault none).isNone ∧ (z.cvFault (some 3)).isNone ∧ matrixWarp.scalesOk .e8m0 = true ∧ matrixWarp.counter 3 = 62 ∧
    (z.storeFault [z.operand (.k 20) 2048, z.operand (.k 20) 2048] [row]).isNone ∧
    (z.storeFault [z.operand (.k 20) 2048, z.operand (.k 20) 256, z.operand (.k 20) 2048] []).isNone ∧
    (s.bankFault z Bank.atUnit [0]).isNone ∧ (s.bankFault z (Bank.holds 0) [1]).isNone ∧
    z.one .zero / 2 ^ 5 % 8 = 0 ∧ z.one .zero / 2 ^ 13 % 2 ^ 19 = 0 ∧
    (tget { owner := 0, set := none, holders := 0 } (s.core 0).banks 1).band 0 = (0, 32) ∧
    ([AmvMode.a2v (.v 191), .v2a (.v 191), .a2c (.k 20), .c2a (.k 20)].all fun m => (z.amvFault m 1).isNone) ∧
    nth 0 ((List.range 32).map fun l => matrixWarp.src 0 (.v 8) l) 31 = 0xFFFFFFFF := by decide +kernel

/-- ScalesAndBanks: a FIFO with room and a full one, grants refused, given and denied, and sets that acqa allows. -/
theorem witness_ScalesAndBanks :
    let s := banked wrp
    let z := seen wrp
    wrp.scales.length < 8 * 33 ∧ 8 * 33 ≤ (List.replicate 264 (0 : Word)).length ∧
    ((0x100 : Word) &&& ~~~grp.accMask ≠ 0 ∧ (0x88 : Word) &&& ~~~grp.accMask = 0) ∧
    (∃ b ∈ banksOf 4, ∃ k, tfind (s.core 0).banks b = some k ∧ k.owner ≠ groupOf 0) ∧
    (∀ b ∈ banksOf 0x83, ∀ k, tfind (s.core 0).banks b = some k → k.owner = groupOf 0) ∧
    (s.bankFault z Bank.atUnit (banksOf 1)).isNone ∧ s.setAllowed z ((seen matrixWarp).one64 (.k 22)) = true ∧
    (s.bankFault z (Bank.holds 0) (banksOf 2)).isNone := by
  refine ⟨by decide, by decide +kernel, by decide, ⟨2, by decide, _, rfl, by decide⟩, ?_, by decide +kernel, by decide +kernel,
    by decide +kernel⟩
  have h : (banksOf 0x83).all (fun b => match tfind ((banked wrp).core 0).banks b with
      | some k => k.owner = groupOf 0
      | none => true) = true := by decide +kernel
  intro b hb k hk
  have := List.all_eq_true.mp h b hb
  rw [hk] at this
  simpa using this

/-- A dispatch on core 0 of a context slot, as accepted. -/
def disp : Dispatch :=
  { mailbox := 0, entry := 0, slot := 0, record := 0, header := 0, buds := [], windows := [], attempts := 1, nfault := 0,
    faddr := 0, bound := [[0]], nextRank := 1, live := 1, started := true, startEnded := false, order := 0, ran := [0],
    colls := [], named := [], pages := [], phase := .accepted }
/-- A cambium dispatch with two buds and slot 3 named. -/
def camDisp : Dispatch := { disp with header := 2 ^ 144 * 2 + 2 ^ 64, named := [3], buds := [0x1000, 0x2000] }
/-- The dispatch stands as dispatch 0. -/
def withDispatch (s : State) (d : Dispatch) : State :=
  { s with ctl := { s.ctl with dispatches := tput s.ctl.dispatches 0 d } }

/-- A warp with operands for engine instructions: k10 an address, k12 unit 31, k14 a slot, k16 the offset of k0, which starts an
mcst's list of one base. -/
def engineWarp : Warp :=
  { busyWarp 62 with
    k := [(0, 1), (2, 0x4000), (10, 0x10000), (12, 31), (14, 3), (16, 24576), (18, 0x3FF), (24, 8), (26, 0x10000), (28, 256)]
    v := (List.range 32).map fun l => (32 * 8 + l, 3)
    buds := (List.range 32).map fun l => (l, (3, l)) }
/-- Its clause, with the registers as the last boundary left them. -/
def engineState : State := withDispatch (put base { cls with k := engineWarp.k } engineWarp grp) camDisp

/-- EngineCommandsAreHandedOver: operands that pass every check of R176, counters at 62. -/
theorem witness_EngineCommandsAreHandedOver :
    let z := seen engineWarp
    (z.one64 (.k 10) % 128 = 0 ∧ z.one64 (.k 10) < 2 ^ 57) ∧ z.one (.k 12) = 31 ∧ z.one (.k 14) < 256 ∧
    z.one (.k 18) = 0x3FF ∧ z.one .zero < 2 ∧ z.one .zero / 2 ^ 16 % 2 ^ 16 = 0 ∧
    (engineWarp.counter 6 = 62 ∧ engineWarp.counter 4 = 62 ∧ engineWarp.counter 1 = 62) ∧
    engineState.mcstList z (.k 16) = .ok [0x4000] ∧
    mcstFault { size := 4, align := 4 } (lanesOf z.act) (fun _ => [0x4000]) = none := by decide +kernel

/-- CambiumCommandsAreHandedOver: a cambium dispatch with a named slot, buds in every lane, counters at 62. -/
theorem witness_CambiumCommandsAreHandedOver :
    let z := seen engineWarp
    let s := engineState
    let v (l : Nat) : Nat := (engineWarp.src 0 .zero l).toNat
    z.one64 (.k 10) % 64 = 0 ∧ z.one (.k 14) = 3 ∧ s.cambial z = true ∧ s.slotNamed z 3 = true ∧
    engineWarp.counter 7 = 62 ∧ engineWarp.counter 0 = 62 ∧ z.one .ones = 0xFFFFFFFF ∧ s.nbud z = 2 ∧
    laneFault z.act [(3, fun l => bits (v l) 31 24 ≠ 0), (4, fun l => (tfind engineWarp.buds l).isNone),
      (5, fun l => s.nbud z ≤ bits (v l) 15 0 || 3 ≤ bits (v l) 23 16)] = none ∧
    s.slotFault z (.v 8) = none := by decide +kernel

/-- OperandsStallOrFault: operands that fail each check of an engine instruction that acts for the warp, and of one with an operand
in each lane. -/
theorem witness_OperandsStallOrFault_engines :
    let z := seen engineWarp
    let s := engineState
    (z.one64 (.k 24) % 16 ≠ 0 ∧ z.one64 (.k 24) % 64 ≠ 0 ∧ z.one64 (.k 24) % 128 ≠ 0 ∧ 2 ^ 57 ≤ z.one64 .ones) ∧
    (32 ≤ z.one (.k 28) ∧ 2 ≤ z.one (.k 12) ∧ 0x400 ≤ z.one (.k 10) ∧ 256 ≤ z.one (.k 28) ∧ 4 ≤ z.one (.k 12)) ∧
    z.one (.k 26) / 2 ^ 16 % 2 ^ 16 ≠ 0 ∧ (z.one (.k 12) ≠ 0xFFFFFFFF ∧ z.one (.k 12) % 16 ≠ 0) ∧
    there.cambial z = false ∧ (s.cambial z = true ∧ s.slotNamed z 2 = false) ∧ Opnd.k 24 ≠ .zero ∧
    (let v (x : Word) : Warp := { engineWarp with v := [(32 * 8 + 31, x)] }
     let bits (x : Word) : Nat := ((v x).src 0 (.v 8) 31).toNat
     bits 0x1000000 / 2 ^ 24 % 2 ^ 8 ≠ 0 ∧ (tfind wrp.buds 31).isNone = true ∧ s.nbud z ≤ bits 2 % 2 ^ 16 ∧
       3 ≤ bits 0x30000 / 2 ^ 16 % 2 ^ 8 ∧ 4 ≤ bits 4 ∧ s.slotNamed z (bits 2) = false) ∧
    ([0, 4, 6, 7].all fun n => (busyWarp 63).counter n = 63) := by decide +kernel

/-- OperandsStallOrFault: destination lists of mcst that are misaligned, outside the reservation, of 0 and 33 destinations, with a reserved
byte, too long for the reservation, and good ones with an address that fails each check. -/
theorem witness_OperandsStallOrFault_mcst :
    let with' (off : Nat) (head base : Nat) : State := engineState.onCore 0 fun c =>
      { c with store := ((toBytes 8 head ++ toBytes 8 base).zipIdx.map fun e => (off + e.2, e.1)).foldl (fun t e => tset 0 t e.1 e.2) c.store }
    let head (off h base : Nat) : Nat := ofBytes ((with' off h base).coreRead 0 off 8).1
    let z := seen engineWarp
    z.one (.k 24) % 16 ≠ 0 ∧ (65536 % 16 = 0 ∧ grp.holds 65536 8 = false) ∧
    (41216 % 16 = 0 ∧ grp.holds 41216 8 = true ∧ head 41216 0 0 % 256 = 0 ∧ 32 < head 41216 33 0 % 256 ∧
      head 41216 257 0 / 256 ≠ 0 ∧ head 41216 1 0 / 256 = 0) ∧
    (grp.holds 65520 8 = true ∧ grp.holds 65520 (8 + 8 * 2) = false ∧ grp.holds 65520 (8 + 8 * 1) = true) ∧
    (let a (base : Nat) : Nat := (ofBytes ((with' 41216 1 base).coreRead 0 41224 8).1 + z.address (form .n32 .global) 0) % 2 ^ 64
     0x01FFFFFFFD000000 ≤ a 0x01FFFFFFFD000000 ∧ a 0x20002 % 4 ≠ 0 ∧
       (a 0x01FFFFFFFCFFFFC0 < 0x01FFFFFFFD000000 ∧ 0x01FFFFFFFD000000 ≤ a 0x01FFFFFFFCFFFFC0 + 128 - 1) ∧
       (a 0x20000 < 0x01FFFFFFFD000000 ∧ a 0x20000 % 16 = 0)) := by decide +kernel

/-! ### Witnesses: engine commands -/

/-- Writes bytes of HBM. -/
def poke (s : State) (a : Nat) (bytes : List Byte) : State :=
  bytes.zipIdx.foldl (fun s e => s.putHbm (a + e.2) e.1) s

/-- A record of one dimension: a tile of 16 words at 0x8000. -/
def rec16 : BitVec 512 := 14 <<< 496 ||| 16 <<< 416 ||| 16 <<< 64 ||| 0x8000
/-- A descriptor of the group's scratchpad with a barrier, and one without. -/
def descBar : Nat := 24832 + 41216 * 2 ^ 38
def descPlain : Nat := 24832 + 0xFFFFF * 2 ^ 38

/-- Registers g1 to g7 of a program: an address, a destination, a length, descriptors, the record's address, a list of one
descriptor, an odd address. -/
def prog : Prog :=
  { hostProg with
    regs := [(1, 0x20000), (2, 0x30000), (3, 1), (4, BitVec.ofNat 64 descBar), (5, 0x40000), (6, 0x50000), (7, 0x20004),
             (8, 0x8000000000000000)] }

/-- The context that has its engine's turn runs prog; the record, a list and a number stand in memory. -/
def running (e : EngRef) (p : Prog := prog) : State :=
  let s := put base cls wrp grp
  let s := poke (poke (poke s 0x40000 (toBytes 64 rec16.toNat)) 0x50000 (toBytes 8 descPlain)) 0x20000 (toBytes 8 7)
  let s := match e with
    | .root d n c => s.onRoot (d * 32 + n) fun r => { r with ctxs := [(c, p)], turn := c }
    | .canopy d n c => s.onCanopy (d * 2 + n) fun r => { r with ctxs := [(c, p)] }
  { s with sched := { agenda := [], agent := .engine e } }

def root0 : EngRef := .root 0 0 0
def canopy0 : EngRef := .canopy 0 0 0

/-- What Starts supposes, for every kind of command that reads some ranges. -/
def startable (s : State) (e : EngRef) (p : Prog) (reads : List (Nat × Nat) := []) : Bool :=
  decide (s.sched.agent = .engine e) && decide (s.prog? e = some p) && decide (p.phase = .running) && s.myTurn e &&
    s.progReleased e && !s.chunkTaken e p && reads.all fun r => !s.rangeWaits (engDie e) p.slot r.1 r.2

theorem starts_of {s e p reads} (h : startable s e p reads = true) : ∀ r d, Starts s e p r d reads := by
  simp only [startable, Bool.and_eq_true, decide_eq_true_eq, Bool.not_eq_true', List.all_eq_true] at h
  obtain ⟨⟨⟨⟨⟨⟨h1, h2⟩, h3⟩, h4⟩, h5⟩, h6⟩, h7⟩ := h
  exact fun _ _ => ⟨h1, h2, h3, h4, fun _ => h5, fun _ => h6, h7⟩

/-- What the commands of the statements read: a number, arrays, a record, a list. -/
def readRanges : List (Nat × Nat) :=
  [(prog.g 1, 8), (prog.g 1, 64), (prog.g 2, 64), (prog.g 5, 64), (prog.g 6, 8), ((prog.g 1 + 4) % 2 ^ 64, 8)]

/-- Every statement that supposes Starts: a root and a canopy context, with nothing to read and with every range. -/
theorem witness_Starts : ∀ r d, Starts (running root0) root0 prog r d ∧ Starts (running canopy0) canopy0 prog r d ∧
    Starts (running root0) root0 prog r d readRanges ∧ Starts (running canopy0) canopy0 prog r d readRanges :=
  fun r d => ⟨starts_of (by decide +kernel) r d, starts_of (by decide +kernel) r d, starts_of (by decide +kernel) r d,
    starts_of (by decide +kernel) r d⟩

/-- The code of a read or check that must be good. -/
def good {α β} : Except α β → Bool
  | .ok _ => true
  | .error _ => false

/-- EngineMemoryCommands: reads that are good and that fail, writes that are good, odd addresses, overlapping and distinct
ranges, sums over distinct and the same arrays. -/
theorem witness_EngineMemoryCommands :
    let t := (running root0).started root0
    let d := (running root0).started root0 true
    (prog.g 1 + (4 : Double).toNat) % 2 ^ 64 % 8 ≠ 0 ∧ (prog.g 1 + (8 : Double).toNat) % 2 ^ 64 % 8 = 0 ∧
    good (t.engRead 0 0 (prog.g 1) 8) = true ∧ good (t.engRead 0 0 (prog.g 8) 8) = false ∧
    t.engWriteFault 0 0 (prog.g 1) 8 = none ∧
    overlaps (prog.g 2) 64 (prog.g 1) 64 = false ∧ overlaps (prog.g 7) 64 (prog.g 1) 64 = true ∧
    good (d.engRead 0 0 (prog.g 1) 64) = true ∧ d.engWriteFault 0 0 (prog.g 2) 64 = none ∧
    (64 % 4 = 0 ∧ prog.g 1 % 4 = 0 ∧ prog.g 2 % 4 = 0) ∧ 2 ≤ Scope.grp.level := by decide +kernel

/-- EnginePushAndSignalCommands: a record and descriptors that are good, in a register and in a list, with a barrier and
without, a descriptor with a reserved bit, a die that is up. -/
theorem witness_EnginePushAndSignalCommands :
    let s := running root0
    let t := s.started root0 true
    s.descSaved 0 (prog.g 4) = false ∧ good (t.pushRecord root0 0 (prog.g 5) (prog.g 0)).2 = true ∧
    good ((t.pushRecord root0 0 (prog.g 5) (prog.g 0)).1.checkDescs 0 0 (recSize rec16.toNat) [prog.g 4]) = true ∧
    (s.passTurn root0).descList root0 prog (prog.g 6) 1 = .ok [descPlain] ∧ s.descSaved 0 descPlain = false ∧
    (t.pushRecord root0 0 (prog.g 5) (prog.g 0)).1.descList root0 prog (prog.g 6) 1 = .ok [descPlain] ∧
    good ((t.pushRecord root0 0 (prog.g 5) (prog.g 0)).1.checkDescs 0 0 (recSize rec16.toNat) [descPlain]) = true ∧
    (1 ≤ (1 : Word).toNat ∧ (32 : Word).toNat ≤ 32) ∧ bits (prog.g 8) 63 58 ≠ 0 ∧ bits (prog.g 4) 63 58 = 0 ∧
    (s.started root0).barFault 0 0 (descOf (prog.g 4)) = none ∧ (s.started root0).barFault 0 0 (descOf descPlain) = none ∧
    (s.started root0).dieUp 0 = true ∧ (0x3FF : BitVec 10).toNat = 0x3FF := by decide +kernel

/-- A communicator of one die. -/
def comm1 : Comm :=
  { members := [0], rank := 0, version := 1, attempt := 5, channel := 0, redtmo := 1000, seq := 0 }
/-- It stands on die 0 as communicator 9 of context slot 0. -/
def withComm (s : State) (c : Comm := comm1) : State := s.onDie 0 fun d => { d with comms := tput d.comms 9 c }

/-- A communicator of two dies, of which die 0 is rank 0. -/
def comm2 : Comm := { comm1 with members := [0, 1] }
/-- A program of a block: a ring all-reduce of communicator 9, a ring reduce-scatter, and a direct all-gather. -/
def ringProg (op alg : Nat) : Prog :=
  { prog with block := some (BitVec.ofNat 1024 (op * 2 ^ 404 + alg * 2 ^ 412 + 64 * 2 ^ 480)), script := [commandWord .cmdEnd] }

/-- EnginePushAndSignalCommands: RED on a communicator that the die has, in a tree, and in a ring as the first rank of its block and as
another; CHUNK of a program of commands, of a tree and of a ring. -/
theorem witness_EnginePushAndSignalCommands_RED :
    let s := withComm (running canopy0)
    let ring := ringProg 0 1
    startable s canopy0 prog (prog.redReads 1024 (prog.g 1) 64) = true ∧ isCanopy canopy0 = true ∧
    tfind (s.die 0).comms (0 * 256 + (9 : BitVec 8).toNat) = some comm1 ∧
    prog.tree = true ∧ good ((s.started canopy0 true).contributed canopy0 prog comm1 (prog.g 1) 64) = true ∧
    (ring.tree = false ∧ ring.internal = true ∧ prog.internal = false) ∧
    startable (withComm (running canopy0 ring) comm2) canopy0 ring (ring.redReads 1024 (prog.g 1) 64) = true ∧
    good (((withComm (running canopy0 ring) comm2).started canopy0 true).engRead 0 0 (prog.g 1) 64) = true ∧
    (comm2.rank = (1 + 1) % comm2.members.length ∧ comm2.rank ≠ (0 + 1) % comm2.members.length) := by decide +kernel

/-- RingPassesBlocks: ranks that own their block and that do not, of an all-reduce, a reduce-scatter and a direct collective. -/
theorem witness_RingPassesBlocks :
    comm2.rank ≠ 1 ∧ comm2.rank = 0 ∧ (ringProg 0 1).op ≠ 4 ∧ (ringProg 4 1).op = 4 ∧
    (∃ b, (ringProg 0 2).block = some b ∧ bits b.toNat 415 412 = 2) ∧ (∃ b, (ringProg 0 1).block = some b ∧ bits b.toNat 415 412 = 1) := by
  refine ⟨?_, rfl, ?_, ?_, ⟨_, rfl, ?_⟩, ⟨_, rfl, ?_⟩⟩ <;> decide +kernel

/-- EngineWaits: a token that is there and one that is not, a barrier phase, a word of memory, waiting and charging contexts,
a deadline that is past. -/
theorem witness_EngineWaits :
    let t := (running root0).started root0
    let u := t.setTokens 0 0 77 1
    let w (i : Instr) : Prog := { prog with phase := .waiting i (some 0) }
    u.tokens 0 0 77 = 1 ∧ t.tokens 0 0 77 = 0 ∧ (descOf (prog.g 4)).bar = some 41216 ∧ t.barrierPhase 0 41216 = b2n false ∧
    t.barrierPhase 0 41216 ≠ b2n true ∧ prog.g 1 % 8 = 0 ∧ good (t.engRead 0 0 (prog.g 1) 8) = true ∧
    (running root0 (w (.cmdWtok 77 true 5))).engineCond root0 (w (.cmdWtok 77 true 5)) (.cmdWtok 77 true 5) = .ok false ∧
    (running root0 (w (.cmdWmem 1 0 .ne true 5))).engineCond root0 (w (.cmdWmem 1 0 .ne true 5)) (.cmdWmem 1 0 .ne true 5) =
      .ok true ∧
    0 ≤ (running root0).rt ∧
    ((running root0 { prog with phase := .charging [] }).prog? root0).map Prog.phase = some (.charging []) := by
  decide +kernel

/-- EngineMemoryCommands, EnginePushAndSignalCommands, EngineWaits: reads and writes that fail, a contribution that cannot be corrected and
one that does not translate, a barrier that cannot be corrected, waits whose reading fails. -/
theorem witness_EngineCommandsFail :
    let t := (running root0).started root0
    let high : Prog := { prog with regs := tput prog.regs 1 0x200000000000000 }
    let bad (s : State) : State := { s with mem := { s.mem with poison := [(0x20000 / 32, true)] } }
    let barBad (s : State) : State := s.onCore 0 fun c => { c with poison := [(41216 / 16, true)] }
    (t.engWriteFault 0 0 (2 ^ 57) 8).isSome = true ∧ good (t.engRead 0 0 (2 ^ 57) 64) = false ∧
    overlaps (prog.g 2) 64 (2 ^ 57) 64 = false ∧
    (let s := (withComm (running canopy0)).started canopy0 true
     s.contributed canopy0 high comm1 (high.g 1) 64 = .error 2 ∧ (bad s).contributed canopy0 prog comm1 (prog.g 1) 64 = .error 3) ∧
    ((barBad t).barPoison 0 41216 = true ∧ t.barPoison 0 41216 = false ∧
      ((barBad t).barFault 0 0 (descOf (prog.g 4))).isNone = true) ∧
    (let w (i : Instr) (p : Prog) : Prog := { p with phase := .waiting i (some 0) }
     let bar : Instr := .cmdWbar 4 true 5
     let mem : Instr := .cmdWmem 1 0 .ne true 5
     (barBad (running root0 (w bar prog))).engineCond root0 (w bar prog) bar = .error 3 ∧
       (bad (running root0 (w mem prog))).engineCond root0 (w mem prog) mem = .error 3) := by decide +kernel

/-! ### Witnesses: arbitration, boundaries, traps -/

/-- A warp of a status and a phase at 0x1000. -/
def warpAt (st : Status) (ph : Phase) : Warp :=
  { wrp with status := (List.range 32).map fun l => (l, st), phase := ph }
/-- No clause runs; warps 0 and 4, of one quarter, are W and V. -/
def idle (W V : Warp) : State :=
  let s := put base cls W { grp with wpg := 5 }
  { s with comp := { s.comp with warps := tput s.comp.warps 4 V, clauses := tdel s.comp.clauses 0 } }

/-- ArbitrationFollowsItsOrder: two ready warps that differ in having yielded, in their passes, and in the yield hint. -/
theorem witness_ArbitrationFollowsItsOrder :
    let W := warpAt .running .between
    let ok (s : State) : Bool := (tfind s.comp.clauses 0).isNone && s.coreUp (coreOfQuarter 0) &&
      (s.die (dieOfCore (coreOfQuarter 0))).clock.stepping.isNone && decide (s.readyWarps 0 = [0, 4])
    (ok (idle W { W with yielded := true }) && ok (idle { W with passed := 63 } { W with passed := 64 }) &&
      ok (idle W { W with yhint := true })) = true := by decide +kernel

/-- BoundaryStepsConverge: boundaries that leave threads running, all held at an incomplete register, all ended; one that
holds threads at a meeting. -/
theorem witness_BoundaryStepsConverge :
    let W := warpAt .running .issuing
    let held : Warp := { W with cvs := [(0, 0xFFFFFFFF)] }
    let V := W.boundarySteps allLanes 0x1010 [(3, 0x2000)] []
    let H := { held with cvs := [(0, 0x0000FFFFFFFFFFFF)] }.boundarySteps allLanes 0x1010 [] [(0, 0xFFFF)]
    let M := { W with mrs := (List.range 32).map fun l => (l, 0x1010) }.boundarySteps 0xFFFF 0x1010 [] []
    let N := { held with status := (List.range 32).map fun l => (l, .sign), heldCv := [(0, 1)] }.boundarySteps 0 0 [] []
    let X := { W with status := [] }.boundarySteps allLanes 0x1010 [] []
    (∃ l, l < 32 ∧ V.statusOf l = .running) ∧ (∃ l n, l < 32 ∧ n < 8 ∧ H.statusOf l = .sign ∧ (tget 0 H.heldCv l).testBit n = true) ∧
    (∃ l, l < 32 ∧ M.statusOf l = .meeting) ∧
    ((∀ l, l < 32 → N.statusOf l ≠ .running) ∧ ∃ l, l < 32 ∧ N.statusOf l ≠ .exited) ∧
    (∀ l, l < 32 → X.statusOf l = .exited) := by
  refine ⟨⟨0, by decide, by decide +kernel⟩, ⟨0, 0, by decide, by decide, by decide +kernel, by decide +kernel⟩,
    ⟨0, by decide, by decide +kernel⟩, ⟨by decide +kernel, 0, by decide, by decide +kernel⟩, by decide +kernel⟩

/-- A bar of the running warp that has not arrived, of barrier 3 with COUNT 2. -/
def atBar : Arriving :=
  { clause := 0x1000, index := 0, took := allLanes, next := 0x1010, signed := [], lanes := allLanes, cluster := false, id := 3,
    count := 2 }

/-- ClauseBoundaryTakesItsSteps: clauses that end in every way, of a dispatch that lives, with and without a pre-emption
request. -/
theorem witness_ClauseBoundaryTakesItsSteps :
    let ends (e : Ending) : Bool :=
      match (tfind (put base { cls with ending := some e } wrp grp).comp.clauses 0) with
      | some c => c.ending = some e
      | none => false
    let y : Waiting := { clause := 0, index := 0, took := 0, next := 0, signed := [], lanes := 0, dst := .zero, all := true,
                         conds := [], deadline := none }
    let asked := there.onSlot 0 fun x => { x with ctxctl := 1 }
    (ends .done && ends (.trap 7) && ends .yield && ends (.barrier atBar) && ends .fault && ends .withdrawn &&
      ends (.wait y) && ends (.preempt .zero allLanes) && ends .tret) = true ∧
    (there.onWarp 0 fun W => { W.applyAll with phase := .between }).dying 0 = false ∧
    (asked.slot (asked.ctxOfWarp 0)).preq = true ∧ (there.slot (there.ctxOfWarp 0)).preq = false := by decide +kernel

/-- A fault record. -/
def fault (order cause : Nat) (deferred : Bool) : FaultRec :=
  { order := order, clause := 0x1000, index := 2, cause := cause, sub := 0, addr := 0, lanes := 1, code := 0,
    deferred := deferred }
/-- A warp that enters its handler, with its context slot's TVEC. -/
def trapping (tvec : Double) (handler : Bool) : State :=
  let s := put base cls { warpAt .running .entering with handler := handler, faults := [fault 7 0x14 false, fault 3 0x20 true] } grp
  withDispatch (s.onSlot 0 fun x => { x with tvec := tvec }) disp

/-- TrapEntryAndReturn: entries with a handler, without one, and inside it; returns to a boundary and inside a clause. -/
theorem witness_TrapEntryAndReturn :
    let s := trapping 0x8000 false
    let sound (s : State) : Bool := match s.warp? 0 with
      | some W => (earliest W.faults).map FaultRec.cause = some 0x20
      | none => false
    (resident 0 = true ∧ (s.warp 0).phase = .entering ∧ s.dying 0 = false ∧ s.entryMet 0 = true) ∧
    sound s = true ∧ (s.slot (s.ctxOfWarp 0)).tvec ≠ 0 ∧ sound (trapping 0 false) = true ∧
    ((trapping 0 false).slot ((trapping 0 false).ctxOfWarp 0)).tvec = 0 ∧ sound (trapping 0x8000 true) = true ∧
    ((trapping 0x8000 true).warp 0).handler = true ∧
    (16 : Double).toNat = 16 ∧ (15 : Double).toNat ≠ 16 := by decide +kernel

/-- TrapEntryAndReturn: a warp of a dispatch that is being killed; a return to a thread that stands at TRADDR, and to none. -/
theorem witness_TrapEntryAndReturn_dying :
    (withDispatch (trapping 0x8000 false) { disp with phase := .killing 5 false }).dying 0 = true ∧
    (let W : Warp := { warpAt .exited .between with handler := true, trap := { Warp.reset.trap with raddr := 0x1000, ridx := 3 } }
     let V : Warp := { W with trap := { W.trap with stat := 0, pcs := [(4, 0x1000)] } }
     (V.trap.ridx.toNat ≠ 16 ∧ V.restoreThreads.statusOf 4 = .running ∧ V.restoreThreads.pcOf 4 = V.trap.raddr.toNat) ∧
     ((List.range 32).all fun l =>
       !(W.restoreThreads.statusOf l = .running && W.restoreThreads.pcOf l = W.trap.raddr.toNat)) = true) := by decide +kernel

/-- WaitsAndWarpsEnd: a wait that is met and whose deadline has come, an ended warp with nothing outstanding, and a context all
of whose warps wait at a barrier since 2^20 clk. -/
theorem witness_WaitsAndWarpsEnd :
    let y : Waiting := { clause := 0, index := 0, took := allLanes, next := 0x1010, signed := [], lanes := allLanes, dst := .zero,
                         all := true, conds := [], deadline := some 0 }
    let s := put base cls (warpAt .running (.waiting y)) grp
    let ended := put base cls (warpAt .exited .ended) grp
    let late := idle (warpAt .running (.barrier false 3 0)) (warpAt .running (.barrier false 3 0))
    let late : State := { late with time := { late.time with now := 2 ^ 20 } }
    ((s.warp 0).phase = .waiting y ∧ s.waitMet 0 y = true ∧ 0 ≤ s.rt) ∧
    ((ended.warp 0).phase = .ended ∧ (∀ c ∈ [0, 1, 3, 5], (ended.warp 0).counter c = 0) ∧
      (ended.cambium (siteOf (coreOf 0))).ends = [] ∧ (ended.warp 0).buds = []) ∧
    (((late.warpsOn 0 0).filter fun (_, W) => W.phase ≠ .gone).map Prod.fst = [0, 4] ∧
      (∀ e ∈ (late.warpsOn 0 0).filter fun (_, W) => W.phase ≠ .gone, (late.stuck e.1).isSome = true) ∧
      tget (late.clk 0) (late.core 0).watch 0 = 2 ^ 20 ∧ (late.die 0).pause = none) ∧
    (let s := late.onCore 0 fun c => { c with watch := [(0, 0)] }
     tget (s.clk 0) (s.core 0).watch 0 + 2 ^ 20 ≤ s.clk 0) := by decide +kernel

/-- WaitsAndWarpsEnd: a wait on a barrier that cannot be corrected. -/
theorem witness_WaitsAndWarpsEnd_poison :
    let y : Waiting := { clause := 0, index := 0, took := allLanes, next := 0x1010, signed := [], lanes := allLanes, dst := .zero,
                         all := true, conds := [{ entry := BitVec.ofNat 128 (2 ^ 62 + 0x10A100), seen := none }], deadline := none }
    let s := (put base cls (warpAt .running (.waiting y)) grp).onCore 0 fun c => { c with poison := [(41216 / 16, true)] }
    (s.warp 0).phase = .waiting y ∧ s.waitMet 0 y = false ∧ s.waitPoison 0 y = some 41216 := by decide +kernel

/-! ### Witnesses: memory -/

/-- Addresses of n bytes from a on, each with a value. -/
def bytesFrom (a n : Nat) (b : Byte) : List (Nat × Byte) := (List.range n).map fun i => (a + i, b)
/-- A module in confidential mode whose world 1 has a key. -/
def secret : State := { there with mod := { there.mod with mode := true, worldKeys := [(1, 3)] } }
/-- A sector and a granule of core 0 marked poisoned. -/
def marked : State :=
  { (there.onCore 0 fun c => { c with poison := [(1552, true)], empty := [(1553, true)] }) with
    mem := { there.mem with poison := [(0x20000 / 32, true)] } }

/-- MemoryKeepsWhatIsWritten: writes of a part and of a whole sector, good and poisoned; of a whole line in confidential mode;
of a part and of a whole granule of a scratchpad. -/
theorem witness_MemoryKeepsWhatIsWritten :
    there.mod.mode = false ∧ tget false marked.mem.poison (0x20000 / 32) = true ∧
    covers ((bytesFrom 0x20000 32 1).map (·.1)) (0x2001F / 32 * 32) 32 = true ∧
    covers ((bytesFrom 0x20000 31 1).map (·.1)) (0x20000 / 32 * 32) 32 = false ∧
    (bytesFrom 0x20000 32 1).reverse.find? (fun e => e.1 = 0x2001F) = some (0x2001F, 1) ∧
    (secret.mod.mode = true ∧ secret.keyOf 1 ≠ 0 ∧ covers ((bytesFrom 0x20000 128 1).map (·.1)) (0x2007F / 128 * 128) 128 = true) ∧
    (0 < 2 ^ 18 ∧ (marked.areaAt 0 24832).map (fun x => x.2.2.isRegister) = some false ∧
      (marked.areaAt 0 24831).map (fun x => x.2.2.isRegister) = some true ∧ marked.areaAt 1 24832 = none) ∧
    covers ((bytesFrom 24832 16 1).map (·.1)) (24847 / 16 * 16) 16 = true ∧
    (∃ e ∈ bytesFrom 24848 1 1, e.1 / 16 = 24863 / 16) ∧
    (let s : State := { secret with mem := { secret.mem with lineKeys := [(0x400, 5)] } }
     s.badLine 1 0x20000 = true ∧ covers ((bytesFrom 0x20000 4 1).map (·.1)) (0x20000 / 128 * 128) 128 = false) := by
  refine ⟨?_, ?_, ?_, ?_, ?_, ?_, ?_, ?_, ⟨(24848, 1), ?_, ?_⟩, ?_⟩ <;> decide +kernel

/-- A barrier at 41216 with an EXPECT of 4 and three arrivals, and LIMIT 100. -/
def barred : State :=
  there.onCore 0 fun c => { c with store := [(41216, 4), (41220, 3), (41228, 100)] }

/-- BarriersCountArrivals: an arrival that completes the phase, one that does not, a barrier without EXPECT; 32-bit additions to
its ARRIVED and LIMIT words. -/
theorem witness_BarriersCountArrivals :
    (0 < 2 ^ 18 ∧ 41216 % 16 = 0) ∧
    (∀ i, i < 16 → (barred.areaAt 0 (41216 + i)).map (fun x => x.2.2.isRegister) = some false) ∧
    barred.barrierWord 0 41216 0 = 4 ∧ (barred.barrierWord 0 41216 1 + 1) % 2 ^ 32 = 4 ∧
    (barred.barrierWord 0 41216 1 + 0) % 2 ^ 32 < 4 ∧ there.barrierWord 0 41216 0 = 0 ∧
    (barred.coreRead 0 41220 4).2 = false ∧ isAdd32 (.atadd (form .n32 .core) none) .n32 = true ∧
    (barred.areaAt 0 41220).map (fun x => x.2.2) = some .barrier ∧ (barred.areaAt 0 41228).map (fun x => x.2.2) = some .barrier ∧
    41220 % 16 = 4 ∧ 41228 % 16 = 12 := by decide +kernel

/-- Warp 0 is about to arrive at barrier 3, whose phase stands as given, with COUNT 2; warp 4 of its group runs. -/
def arriving (count : Nat) (arrived : List Nat) (ops : List Op := []) : State :=
  (idle { warpAt .running (.arriving atBar) with ops := ops } (warpAt .running .between)).onGroup 0 fun g =>
    { g with bars := [(3, { count := count, arrived := arrived, complete := 0 })] }

/-- BarriersCountArrivals: warps whose release is done and is not; arrivals short of the target, at it, and with another COUNT. -/
theorem witness_BarriersCountArrivals_warps :
    let s := arriving 0 []
    ((s.warp 0).phase = .arriving atBar ∧ (s.warp? 0).isSome = true ∧ s.released 0 0 .grp = true ∧ resident 0 = true ∧
      s.dying 0 = false) ∧
    (let late := (arriving 0 [] [opOf 2 (some 1) .store [accOf 0 (.store 0 24832)]]).onWarp 0 fun W => { W with seq := 3 }
     late.released 0 3 .grp = false) ∧
    s.barPhase 0 false 3 = { count := 0, arrived := [], complete := 0 } ∧
    (arriving 2 [4]).barPhase 0 false 3 = { count := 2, arrived := [4], complete := 0 } ∧
    (arriving 5 [4]).barPhase 0 false 3 = { count := 5, arrived := [4], complete := 0 } ∧
    (s.group? (groupOf 0)).isSome = true := by and_intros <;> decide +kernel

/-! ### Witnesses: accesses as they are performed -/

/-- The running warp has operations; its group is in the dispatch that stands. -/
def withOps (l : List Op) : State := withDispatch (put base cls { wrp with ops := l, seq := 9 } grp) disp
/-- An operation of lanes 0 to 3 on words from an address, with data. -/
def wordsOp (seq : Nat) (kind : OpKind) (loc : Nat → Loc) (done : Bool := false) : Op :=
  opOf seq (some 0) kind ((List.range 4).map fun l => accOf l (loc (4 * l)) (toBytes 4 l) done)
/-- Words of device memory from 0x20000 on, and of the group's scratchpad. -/
def inMem (o : Nat) : Loc := .global (0x20000 + o)
def inStore (o : Nat) : Loc := .store 0 (24832 + o)

/-- Operation 5 of the state may be performed for its first access. -/
def mayFirst (s : State) : Bool :=
  match (s.warp 0).op? 5 with
  | some o => match o.acc.find? fun a => !a.done with
    | some a => s.mayPerform 0 o a && !o.done
    | none => false
  | none => false

/-- MemoryKeepsWhatIsWritten: units of a store, of the granules of a block load, and of a multicast store that one lane's event performs
whole. -/
theorem witness_MemoryKeepsWhatIsWritten_units :
    let units (k : OpKind) (loc : Nat → Loc) : List Nat :=
      ((withOps [wordsOp 5 k loc]).readyUnits 0 (wordsOp 5 k loc) 1 fun _ => true).map Access.lane
    units .store inStore = [0] ∧ units .store (fun _ => inStore 0) = [0, 1, 2, 3] ∧ units (.blockLoad false) inMem = [0, 1, 2, 3] ∧
    units .blockStore inStore = [0, 1, 2, 3] ∧ units .multicast inMem = [0, 1, 2, 3] := by decide +kernel

/-- The page at 0x20000, as die 0 translates it. -/
def page2 : Phys := { pa := 0x20000, home := 0 }

/-- LoadsAndStoresArePerformed: loads, block loads, sum reads, bstate and stores that may be performed, at a core store and at
a home, fresh or from a level-1 line; an address that does not translate; a path with a write; a program with one. -/
theorem witness_LoadsAndStoresArePerformed :
    (mayFirst (withOps [wordsOp 5 (.load true) inMem]) && mayFirst (withOps [wordsOp 5 (.blockLoad false) inStore]) &&
      mayFirst (withOps [wordsOp 5 (.sumRead .rn) inMem]) && mayFirst (withOps [wordsOp 5 .bud inMem]) &&
      mayFirst (withOps [wordsOp 5 .store inStore]) && mayFirst (withOps [wordsOp 5 .blockStore inMem])) = true ∧
    (there.coreRead 0 24832 4).2 = false ∧ (there.coreTranslate 0 0 0x20000 .read).2 = .ok page2 ∧
    (((there.coreTranslate 0 0 0x20000 .read).1.dropLine 0 0x20000).homeRead 0 (there.slot 0).world 0x20000 4).2.2 = false ∧
    (let line : Line := { bytes := List.replicate 128 7, world := 0, pinned := false, bad := [] }
     let s := there.onCore 0 fun c => { c with level1 := [(0x400, line)] }
     let t := (s.coreTranslate 0 0 0x20000 .read).1
     (s.coreTranslate 0 0 0x20000 .read).2 = .ok page2 ∧ t.badLine (s.slot 0).world 0x20000 = false ∧
       tfind (t.core 0).level1 (0x20000 / 128) = some line ∧ line.bad = []) ∧
    good (there.coreTranslate 0 0 (2 ^ 57) .read).2 = false ∧ good (there.coreTranslate 0 0 (2 ^ 57) .write).2 = false ∧
    (there.coreTranslate 0 0 0x20000 .write).2 = .ok page2 ∧
    (let t := there.enterPath 0 (wordsOp 5 .store inMem) [(0x20000, 1)] (pathKey 0 0x20000)
     (tget [] t.mem.paths (pathKey 0 0x20000)).length = 1 ∧ t.routeWaits (dieOfSite 0) 0 = false) ∧
    (let p := { prog with writes := [{ place := 1, va := 0x20000, bytes := [1] }] }
     let s := running root0 p
     s.prog? root0 = some p ∧ s.rangeWaits 0 0 0x20000 1 = false ∧
       (s.onProg root0 fun p => { p with writes := p.writes.eraseIdx 0 }).engWriteFault 0 0 0x20000 1 = none) := by
  and_intros <;> decide +kernel

/-- LoadsAndStoresArePerformed: writes at the front of a path whose home a route reaches, one whole and one that combines, and writes to
a home that no route reaches and whose route waits. -/
theorem witness_LoadsAndStoresArePerformed_paths :
    let x : PathWrite :=
      { warp := 0, seq := 5, clause := 0x1000, index := 0, lanes := 1, va := 0x20000, dispatch := 0, world := 0, after := [], rels := [],
        cls := false, bytes := [(0x20000, 1)], combine := none }
    let c : Combine := { instr := .redadd (form .n32 .global), ty := .n32, pa := 0x20000, size := 4, operand := 3, cmp := 0 }
    let key := pathKey 0 0x20000
    let s (x : PathWrite) : State := { there with mem := { there.mem with paths := [(key, [x])] } }
    (tget [] (s x).mem.paths key = x :: [] ∧ dieOfSite (key / 32768) = 0 ∧ key / 32 % 1024 = 0) ∧
    ((s x).routeWaits 0 0 = false ∧ there.reachable 0 0 = true ∧ x.combine = none ∧ { x with combine := some c }.combine = some c) ∧
    (tget 0 (there.atomicHome 0 0 c.pa c.instr c.ty c.size c.operand c.cmp).1.mem.hbm 0x20000 = 3 ∧
      (there.atomicHome 0 0 c.pa c.instr c.ty c.size c.operand c.cmp).2.2 = false) ∧
    (let far := { there with dies := tdel there.dies 1 }
     far.reachable 0 1 = false ∧ far.routeWaits 0 1 = false) ∧
    (let held := there.onLink 0 0 fun l => { l with retraining := some 5 }
     (List.range 32).any (fun d => held.routeWaits 0 d) = true) := by decide +kernel

/-- A lock of the warp on the word at 0x20000, held as given. -/
def locked (kind : OpKind) (holder : Option (Nat × Nat)) (queue : List (Nat × Nat)) : State :=
  let s := withOps [{ wordsOp 5 kind inMem with scope := .die, order := .rel }]
  { s with eng := { s.eng with locks := [(0x20000, { dispatch := 0, world := 0, holder := holder, owner := 0, queue := queue })] } }
/-- The hypotheses of a lock or unlock request, with the lock that it finds. -/
def found (s : State) : Option Lock :=
  match (s.warp 0).op? 5 with
  | some o =>
    if o.done = false ∧ (∀ e ∈ s.eng.locks, (0, 5) ∉ e.2.queue) ∧ (s.warp 0).heldBack 5 = false ∧ s.released 0 5 o.scope = true then
      match s.lockWord 0 o with
      | (t, .ok pa) => some ((t.reachLock 0 pa).lockAt 0 pa)
      | _ => none
    else none
  | none => none

/-- AtomicsLocksAndFencesArePerformed: atomics and reductions of every order, one whose lanes are done; requests of one cycle, and one
that an open fence holds back; locks that are free, held by the warp and by another; unlocks by the holder with and without
requests and by a warp that does not hold; a fence whose condition holds; a record fence whose release is done. -/
theorem witness_AtomicsLocksAndFencesArePerformed :
    let atomic := OpKind.atomic (.atadd (form .n32 .global) none)
    (mayFirst (withOps [wordsOp 5 atomic inMem]) &&
      mayFirst (withOps [{ wordsOp 5 atomic inMem with order := .acq, scope := .die }]) &&
      mayFirst (withOps [wordsOp 5 (.reduce (.redadd (form .n32 .global))) inMem])) = true ∧
    (let o := wordsOp 5 atomic inMem true
     o.landed = false ∧ o.done = false ∧ ∀ a ∈ o.acc, a.done = true) ∧
    sameCycleLocks [(0, .event (.lockRequestArrive 4 7)), (0, .event (.lockRequestArrive 2 7)), (9, .event (.lockRequestArrive 1 7))] =
      [(4, 7), (2, 7)] ∧
    ((withOps [opOf 3 (some 5) .fence, wordsOp 5 .lock inMem]).warp 0).heldBack 5 = true ∧
    ((found (locked .lock none [])).map Lock.holder = some none ∧
      (found (locked .lock (some (0, 3)) [])).map Lock.holder = some (some (0, 3)) ∧ sameRun 3 5 = true ∧
      (found (locked .lock (some (7, 3)) [])).map Lock.holder = some (some (7, 3))) ∧
    ((found (locked .unlock (some (0, 3)) [])).map Lock.queue = some [] ∧
      (found (locked .unlock (some (0, 3)) [(7, 1)])).map Lock.queue = some [(7, 1)] ∧
      (found (locked .unlock (some (7, 3)) [])).map Lock.holder = some (some (7, 3))) ∧
    (let o : Op := { opOf 5 (some 5) .fence with order := .ar, scope := .die }
     (withOps [o]).fenceMet 0 o = true ∧ 4 ≤ o.scope.level) ∧
    (let f : RecordFence := { warp := 0, seq := 5, die := 0, scope := .die, slot := 0, record := some 0x40000 }
     let s := (withOps []).addFence f
     s.fence? 0 5 = some f ∧ s.handed 0 5 f.scope = true) := by and_intros <;> decide +kernel

/-- AtomicsLocksAndFencesArePerformed: a reduction of global memory, and a lock request whose word's routes wait. -/
theorem witness_AtomicsLocksAndFencesArePerformed_routes :
    (let o := wordsOp 5 (.reduce (.redadd (form .n32 .global))) inMem
     let s := withOps [o]
     o.acc.find? (fun a => !a.done) = some (accOf 0 (inMem 0) (toBytes 4 0)) ∧
       (s.coreTranslate 0 (s.ctxOfWarp 0) 0x20000 .write).2 = .ok page2) ∧
    (let o := { wordsOp 5 .lock inMem with scope := .die, order := .rel }
     (withOps [o]).lockWaits 0 o = false) ∧
    -- a word of die 1, while a reroute holds the pair of the warp's site and that die
    (let o := { opOf 5 (some 5) .lock [accOf 0 (.global 0x40000000)] with scope := .die, order := .rel }
     let s := poke (withOps [o]) 0x3008 (toBytes 8 (2 ^ 44 + 0xF))
     s.lockWaits 0 o = false ∧ (s.onDie 0 fun x => { x with rerouting := [(pairKey 0 1, 2)] }).lockWaits 0 o = true) := by decide +kernel

/-- A window copy of the record rec16 to the scratchpad, with a barrier. -/
def copyOf (source : Source) (bar : Option Nat) (charged : Bool) (trouble : Option Nat) : Transfer :=
  { source := source, place := 5, slot := 0, group := 0, record := rec16, coords := 0, core := 0, offset := 24832, size := 64, bar := bar,
    barGroup := 0, started := true, trouble := trouble, charged := charged, paid := false, claims := none, left := [0, 1, 2, 3], batch := 0,
    many := false, image := [] }
/-- It stands as transfer 0, held at its barrier. -/
def moving (s : State) (t : Transfer) : State :=
  let s := s.onCore 0 fun c => { c with held := [{ barrier := 41216, transfer := 0 }] }
  { s with comp := { s.comp with transfers := [(0, t)] } }

/-- WindowsTransfersAndMatrixQueuesGoOn: an ldw whose granules are full, transfers held at a barrier with an unlimited, a
sufficient and an exhausted limit, copies that land, that read an uncorrectable granule and one that is not mapped, and that met an
error at the start, a push that lands what it reads and what it has read, a queued operation that reads nothing. -/
theorem witness_WindowsTransfersAndMatrixQueuesGoOn :
    (let o := wordsOp 5 (.windowLoad true) inStore
     let s := (withOps [o]).onCore 0 fun c => { c with ldws := [(0, 5)] }
     (0, 5) ∈ (s.core 0).ldws ∧ s.ldwReady 0 o = true ∧ s.ldwOlder 0 5 o = false ∧
       (o.acc.all fun a => match a.loc with
         | .store c off => !(s.coreRead c off a.size).2
         | .global _ => false) = true) ∧
    (let t := copyOf (.copy 0 5 3) (some 41216) false none
     let s (limit : Nat) := (moving there t).putBarrier 0 41216 3 limit
     ((s 64).core 0).held.find? (fun h => h.barrier = 41216) = some { barrier := 41216, transfer := 0 } ∧
       (s 0xFFFFFFFF).barrierWord 0 41216 3 = 0xFFFFFFFF ∧ t.size ≤ (s 64).barrierWord 0 41216 3 ∧
       (s 63).barrierWord 0 41216 3 < t.size) ∧
    (let t := copyOf (.copy 0 5 3) none true none
     let s := moving (withOps [opOf 5 (some 2) (.copy 0)]) t
     let bad (s : State) (t : Transfer) : Option Bool :=
       match (s.granuleBytes (dieOfCore t.core) (some (siteOf t.core)) t 3).2 with
       | .ok (_, b) => some b
       | .error _ => none
     t.started = true ∧ t.trouble = none ∧ t.charged = true ∧ 3 ∈ t.left ∧ s.copyMayRead 0 t 3 = true ∧
       s.sourceWaits (siteOf t.core % 32) (dieOfCore t.core) t 3 = false ∧ bad s t = some false ∧
       bad { s with mem := { s.mem with poison := [(0x8030 / 32, true)] } } t = some true ∧
       bad s { t with record := t.record ||| (2 ^ 40) } = none ∧ ((s.warp 0).op? 5).isSome = true) ∧
    (copyOf (.copy 0 5 3) none false (some 8)).trouble = some 8 ∧
    (let t := copyOf (.push root0) none true none
     let s := moving (running root0) t
     t.charged = true ∧ 0 ∈ t.left ∧ t.lands = true ∧ (s.prog? root0).map Prog.phase = some .running ∧
       s.sourceWaits fabricUnit (engDie root0) t 0 = false ∧ tfind t.image 0 = none ∧
       tfind { t with image := [(0, 7)] }.image 0 = some 7 ∧ bitOf 7 128 = false ∧
       (match (s.granuleBytes (engDie root0) none t 0).2 with
       | .ok (_, bad) => !bad
       | .error _ => false) = true) ∧
    (let q : Queued := { warp := 0, seq := some 5, op := .toRegs 2 0 1 4, aOff := 0, bOff := 0, aLen := 0, bLen := 0, vector := [],
                         scales := [], image := [] }
     let s := (withOps [opOf 5 (some 3) .matrix]).onCore 0 fun c => { c with queue := [q] }
     granulesIn q.reads = [] ∧ (s.perform 0 q []).2 = false) := by and_intros <;> decide +kernel

/-- WindowsTransfersAndMatrixQueuesGoOn: a queued operation that no earlier operation of its warp holds, and one that a setempty holds. -/
theorem witness_WindowsTransfersAndMatrixQueuesGoOn_held :
    let q : Queued := { warp := 0, seq := some 5, op := .toRegs 2 0 1 4, aOff := 0, bOff := 0, aLen := 0, bLen := 0, vector := [],
                        scales := [], image := [] }
    ((withOps [opOf 5 (some 3) .matrix]).warp 0).matrixHeld q = false := by decide +kernel

/-! ### Witnesses: dispatches and host accesses -/

/-- Mailbox 0 is enabled, bound to context 0, and holds one entry in host memory. -/
def mailed (v : Nat) (ctl : Word := 1) : State :=
  let s := there.onMailbox 0 fun x => { x with ctl := ctl, tail := 1 }
  s.hostWrite 0 (toBytes 256 v)
/-- The controller takes mailbox 0's entry next. -/
def takes (s : State) : Option (Option Nat) :=
  if s.mailboxOrder.find? (fun i => (s.takeable i).isSome) = some 0 ∧ s.takeable 0 = some 0 then some (s.readEntry 0 0) else none

/-- A kernel header of one warp of 8 registers, and a record that launches one group of it on die 0. -/
def header1 : BitVec 256 := BitVec.ofNat 256 (0x58424B48 + 2 ^ 40 + 8 * 2 ^ 72 + 2 ^ 128)
def record1 (flags : Nat := 0) : BitVec 2048 :=
  BitVec.ofNat 2048 (0x101 + flags + 0x20000 * 2 ^ 128 + 2 ^ 256 + 2 ^ 394)
/-- A dispatch of that record, at a phase. -/
def disp1 (ph : DispatchPhase) (flags : Nat := 0) : Dispatch :=
  { disp with record := record1 flags, header := header1, nextRank := 0, live := 0, ran := [], phase := ph }
/-- A module with the header in memory, no group resident, and the dispatch. -/
def launching (x : Dispatch) : State :=
  let s := poke there 0x20000 (toBytes 32 header1.toNat)
  withDispatch { s with comp := { s.comp with groups := [], warps := [], clauses := [] }, eng := { s.eng with roots := [] } } x

/-- DispatchesRunTheirCourse: entries of each kind, good and bad, and one that cannot be read. -/
theorem witness_DispatchesRunTheirCourse_entries :
    takes (mailed 0x101) = some (some 0x101) ∧ takes (mailed 0x102) = some (some 0x102) ∧ takes (mailed 0x201) = some (some 0x201) ∧
    takes (mailed 3) = some (some 3) ∧
    takes ((mailed 0x101 3).onMailbox 0 fun x => { x with base := 0x8000000000000000 }) = some none ∧
    (let s := (mailed 0x101).onMailbox 0 fun x => { x with tail := 0xFFFFFFFF }
     (takes s).isSome = true ∧ (s.mailbox 0).size < (s.mailbox 0).waiting ∧
       ((mailed 0x101).mailbox 0).waiting ≤ ((mailed 0x101).mailbox 0).size) ∧
    (0x101 % 2 ^ 8 = 1 ∧ 0x101 / 2 ^ 8 % 2 ^ 8 = 1 ∧ bits 0x101 575 512 % 32 = 0 ∧ bits 0x102 2047 320 = 0) := by
  decide +kernel

/-- DispatchesRunTheirCourse: a held dispatch that is bad and one that is good, one whose group is placed, ended ones, killed
ones, and replays with each outcome. -/
theorem witness_DispatchesRunTheirCourse_phases :
    (let bad := { disp1 .held with record := 0 }
     (launching bad).serialWaits 0 bad = false ∧ good ((launching bad).checkDispatch 0 bad.record true) = false) ∧
    (let x := disp1 .held
     (launching x).serialWaits 0 x = false ∧ good ((launching x).checkDispatch 0 x.record true) = true) ∧
    (let x := disp1 .accepted
     let s := launching x
     let ds := (x.domain x.nextRank).filter fun e => !(s.ahead x 0).2.contains e
     ((s.slot 0).resuming = false ∧ s.wantsPlace x = true ∧ (∀ e ∈ ds, e ∉ (s.ahead x 0).1) ∧
       (s.placeNext 0 x ds).isSome = true) ∧
     ((s.onSlot 0 fun y => { y with resuming := true }).slot 0).resuming = true) ∧
    (let x := { disp1 .accepted with nextRank := 1 }
     (launching x).hasPrograms 0 = false ∧ hdrBits x.header 64 64 ≠ 1 ∧ totalGroups x.record ≤ x.nextRank ∧
       (launching x).groupsOf 0 = []) ∧
    (let x := { disp1 .accepted with header := header1 ||| BitVec.ofNat 256 (2 ^ 64), startEnded := true }
     (launching x).hasPrograms 0 = false ∧ hdrBits x.header 64 64 = 1 ∧ x.startEnded = true ∧ (launching x).sweeping 0 = false ∧
       (launching x).warpsOf 0 = [] ∧ (launching x).recordWaits 0 x = false ∧
       ((launching x).endCambium 0).dispatch? 0 = some { x with live := 0, nextRank := totalGroups x.record } ∧
       ((launching x).endCambium 0).groupsOf 0 = [] ∧ ((launching x).endCambium 0).hasPrograms 0 = false) ∧
    ((launching (disp1 (.killing 5 false))).dispatch? 0).map Dispatch.phase = some (.killing 5 false) ∧
    ((launching (disp1 (.stopped 5 false))).dispatch? 0).map Dispatch.phase = some (.stopped 5 false) ∧
    (let x := { disp1 (.stopped 6 true) with pages := [(2, some { bytes := [(0x20000, 0x48)], poison := [(0x20020 / 32, true)], lineKeys := [], keyed := [] })] }
     let t := x.pages.foldl (fun s e =>
       match e.2 with
       | some b => s.restorePage e.1 b
       | none => s) (poke (launching x) 0x20000 (toBytes 32 header1.toNat))
     (tget 0 t.mem.hbm 0x20000 = 0x48 ∧ tget 0 t.mem.hbm 0x20001 = 0 ∧ tget false t.mem.poison (0x20020 / 32) = true)) ∧
    (let x := { disp1 (.aborting 6 true) with colls := [(0, 9, 5)] }
     let s := launching x
     let t : State := { s with eng := { s.eng with flights := [(4, { src := 0, msg := .abort 0 9 5 0 })] } }
     s.aborting x = false ∧ t.aborting x = true ∧ s.recordWaits 0 x = false ∧
       good (s.checkDispatch 0 (record1 0) false) = true ∧ good (s.checkDispatch 0 0 false) = false) := by
  and_intros <;> decide +kernel

/-- A module whose context slot 0 is asked for pre-emption, with a group whose warp stands at a boundary. -/
def asked (g : Group) : State :=
  let s := put base cls (warpAt .running .between) g
  ({ s with comp := { s.comp with clauses := [] } }).onSlot 0 fun x => { x with ctxctl := 1 }

set_option maxRecDepth 100000 in
/-- The room that the group of `asked` needs in a save area. -/
theorem asked_saveBytes (n : Nat) :
    let t := (tkeys ((asked { grp with size := n }).slotWarps 0)).foldl State.stopForSave (asked { grp with size := n })
    t.saveBytes 0 (t.slotGroups 0) = 65536 + roundUp n 65536 := by
  have h1 : (let t := (tkeys ((asked { grp with size := n }).slotWarps 0)).foldl State.stopForSave (asked { grp with size := n })
      t.slotGroups 0) = [0] := by rfl
  have h2 : (let t := (tkeys ((asked { grp with size := n }).slotWarps 0)).foldl State.stopForSave (asked { grp with size := n })
      t.group? 0) = some { grp with size := n } := by rfl
  have h3 : (let t := (tkeys ((asked { grp with size := n }).slotWarps 0)).foldl State.stopForSave (asked { grp with size := n })
      (t.core (coreOfGroup 0)).banks) = [] := by rfl
  have h4 : (let t := (tkeys ((asked { grp with size := n }).slotWarps 0)).foldl State.stopForSave (asked { grp with size := n })
      tget [] t.ctl.saves 0) = [] := by rfl
  dsimp only at h1 h2 h3 h4 ⊢
  rw [h1]
  simp [State.saveBytes, State.saveSize, saveNeed, h2, h3, h4]

/-- DispatchesRunTheirCourse: a pre-emption of a context that cannot be saved yet, of one with nothing to save, and of one whose
save area is too small, whatever room the free value of Config gives it. -/
theorem witness_DispatchesRunTheirCourse_preemption :
    (let s := there.onSlot 0 fun x => { x with ctxctl := 1 }
     (s.slot 0).preq = true ∧
       (let t := (tkeys (s.slotWarps 0)).foldl State.stopForSave s
        t.saveable (t.slotGroups 0) = false)) ∧
    (let s := (launching disp).onSlot 0 fun x => { x with ctxctl := 1 }
     (s.slot 0).preq = true ∧
       (let t := (tkeys (s.slotWarps 0)).foldl State.stopForSave s
        t.saveable (t.slotGroups 0) = true ∧ t.saveBytes 0 (t.slotGroups 0) ≤ Config.saveFrames 0 * 65536)) ∧
    (∃ g, ((asked g).slot 0).preq = true ∧
       (let t := (tkeys ((asked g).slotWarps 0)).foldl State.stopForSave (asked g)
        t.saveable (t.slotGroups 0) = true ∧ Config.saveFrames 0 * 65536 < t.saveBytes 0 (t.slotGroups 0))) := by
  refine ⟨⟨by decide +kernel, by decide +kernel⟩, ⟨by decide +kernel, by decide +kernel, ?_⟩, ?_⟩
  · have : ∀ t : State, t = (tkeys (((launching disp).onSlot 0 fun x => { x with ctxctl := 1 }).slotWarps 0)).foldl
        State.stopForSave ((launching disp).onSlot 0 fun x => { x with ctxctl := 1 }) → t.saveBytes 0 (t.slotGroups 0) = 0 := by
      intro t ht; subst ht; decide +kernel
    rw [this _ rfl]
    omega
  · refine ⟨{ grp with size := Config.saveFrames 0 * 65536 }, by decide +kernel, by decide +kernel, ?_⟩
    have h := asked_saveBytes (Config.saveFrames 0 * 65536)
    dsimp only at h ⊢
    rw [h]
    unfold roundUp
    omega

/-- DispatchesRunTheirCourse: an entry in device memory that cannot be read; paths that are empty. -/
theorem witness_DispatchesRunTheirCourse_more :
    (let s := (mailed 0x101 3).onMailbox 0 fun x => { x with base := 0x8000000000000000 }
     takes s = some none ∧ (s.mailbox 0).local = true ∧ (s.mailbox 0).waiting ≤ (s.mailbox 0).size) ∧
    (launching { disp1 .accepted with nextRank := 1 }).pathsWait 0 = false ∧
    (let x := { disp1 .accepted with header := header1 ||| BitVec.ofNat 256 (2 ^ 64), startEnded := true }
     ((launching x).endCambium 0).pathsWait 0 = false) := by decide +kernel

/-- `there` with a dispatch, and with windows 0 and 1 of every interface on device memory by physical addresses and on context
slot 0. -/
def hosted : State :=
  (List.range 4).foldl (fun s i =>
    (s.onAperture i 0 fun x => { x with ctl := 0xC0000000 }).onAperture i 1 fun x => { x with ctl := 0x80000000 })
    (withDispatch there disp)

/-- The physical function of an interface, and a virtual one. -/
def pf (iface : Nat) : HostPort := { iface := iface, pf := true, stream := none }
def vf (iface : Nat) : HostPort := { pf iface with pf := false }

theorem hosted_open : ∀ i : Fin 4, hosted.portOpen (pf i.val) = true := by decide +kernel

/-- The port of mailbox 0's interface, whichever the free value of Config names, and another one. -/
def owner0 : HostPort := pf (Config.mailboxOwner 0).val
def other0 : HostPort := pf ((Config.mailboxOwner 0).val + 1)

theorem hosted_own : hosted.ownMailbox owner0 0 = true := by
  simpa [State.ownMailbox, owner0, pf] using hosted_open (Config.mailboxOwner 0)

theorem hosted_other : hosted.ownMailbox other0 0 = false := by
  simp [State.ownMailbox, other0, pf]

/-- HostAccessesTakeEffect: an access of a mailbox by its own interface and by none, in and past its size, with a dispatch of it;
context slots that are busy and free, saved and not, with and without an invalidation. -/
theorem witness_HostAccessesTakeEffect_registers :
    (hosted.ownMailbox (pf 0) 64 = false ∧ hosted.ownMailbox owner0 0 = true) ∧
    ((hosted.onMailbox 0 fun x => { x with tail := 0 }).mailbox 0).waiting ≤
      ((hosted.onMailbox 0 fun x => { x with tail := 0 }).mailbox 0).size ∧
    ((hosted.onMailbox 0 fun x => { x with tail := 0xFFFFFFFF }).mailbox 0).size <
      ((hosted.onMailbox 0 fun x => { x with tail := 0xFFFFFFFF }).mailbox 0).waiting ∧
    (hosted.dispatch? 0).map Dispatch.phase = some .accepted ∧ hosted.slotBusy 0 = true ∧
    (hosted.slotBusy 63 = false ∧ (hosted.slot 63).valid = false) ∧ (hosted.slot 63).saved = false ∧
    ((hosted.onSlot 63 fun x => { x with ctxctl := 4 }).slot 63).saved = true ∧
    (hosted.slot 0).tlbictl.getLsbD 0 = false ∧ (1 : Word).getLsbD 0 = true ∧
    (let s := hosted.onSlot 0 fun x => { x with tlbictl := 1 }
     (s.slot 0).tlbictl.getLsbD 0 = true ∧ s.mem.paths = []) ∧
    (hosted.portOpen (pf 3) = true ∧ (pf 3).pf = true ∧ (vf 3).pf = false) := by
  refine ⟨⟨by decide +kernel, hosted_own⟩, ?_⟩
  decide +kernel

/-- HostAccessesTakeEffect: BAR2 windows that name physical addresses, translated ones, and nothing. -/
theorem witness_HostAccessesTakeEffect_windows :
    hosted.hostTarget (pf 0) 0 0x20000 = some ({ ctl := 0xC0000000, base := 0 }, 0, 0x20000) ∧
    hosted.hostBytes { ctl := 0xC0000000, base := 0 } 0x20000 3 .read = some [0x20000, 0x20001, 0x20002] ∧
    hosted.hostTarget (pf 0) 1 0x20000 = some ({ ctl := 0x80000000, base := 0 }, 0, 0x20000) ∧
    hosted.hostBytes { ctl := 0x80000000, base := 0 } 0x20000 3 .write = some [0x20000, 0x20001, 0x20002] ∧
    hosted.hostBytes { ctl := 0x80000000, base := 0 } (2 ^ 40) 3 .read = none ∧
    hosted.hostTarget (pf 0) 2 0x20000 = none ∧ hosted.hostTarget { pf 0 with stream := some true } 0 0x20000 = none := by
  decide +kernel

/-- HostAccessesTakeEffect: a dispatch that a KILL reaches while it awaits its replay; a byte that a slice keys for world 2. -/
theorem witness_HostAccessesTakeEffect_more :
    (((withDispatch there { disp with phase := .stopped 6 true }).dispatch? 0).map Dispatch.phase = some (.stopped 6 true) ∧
      ((withDispatch there { disp with phase := .aborting 6 true }).dispatch? 0).map Dispatch.phase = some (.aborting 6 true)) ∧
    (let s : State := { hosted with mem := { hosted.mem with keyed := [(0x20000, 3)] } }
     tget 0 s.mem.keyed 0x20000 = 2 + 1 ∧ s.badLine 0 0x20000 = false) := by decide +kernel

/-- Interface 0 of a module in confidential mode has a stream in use. -/
def keyed0 : State := { secret with mod := { secret.mod with ide := [(0, { Ide.reset with state := 1 })] } }

/-- HostRegistersReadBack: an interface that is not live, one whose access is outside its stream in confidential mode, and an open one;
a mailbox of another interface; a valid slot with a mailbox's context; a read on the agenda; a write that takes effect. -/
theorem witness_HostRegistersReadBack :
    hosted.ifaceLive 7 = false ∧ keyed0.ifaceLive 0 = true ∧ keyed0.streamOk (pf 0) = false ∧ hosted.portOpen (pf 0) = true ∧
    (Config.mailboxOwner 0).val ≠ other0.iface ∧ hosted.ownMailbox owner0 0 = true ∧
    hosted.slotOf (hosted.mailbox 0).ctx.toNat = some 0 ∧
    (let s : State := { hosted with sched := { hosted.sched with agenda := [(0, .readRegister (pf 0) .truststat)] } }
     s.sched.agenda = (0, .readRegister (pf 0) .truststat) :: []) ∧
    Goes (exec (.registerWrite (pf 0) (.tvec 5) 0x8000) hosted) ∧ Goes (exec (.mbctlKill owner0 0 8) hosted) := by
  refine ⟨?_, ?_, ?_, ?_, by simp [other0, pf], hosted_own, ?_, rfl, ⟨_, rfl⟩, ⟨_, rfl⟩⟩ <;> decide +kernel

/-! ### Witnesses: root and canopy engines -/

/-- Root engine 0 of die 0 in a state. -/
def rootWith (r : Root) : State := { there with eng := { there.eng with roots := [(0, r)] } }
/-- An abort of root engine 0 by a warp whose release is done. -/
def rootAbort : RootAbort := { warp := 0, seq := 0, scope := .thr, dispatch := 0, ctxs := none }

/-- Fields of a block of communicator 9, at attempt 5 and version 1 unless it says otherwise, of OP 0 over 16 bytes, with an input token. -/
def block9 (token : Nat := 0xFFFFFFFF) (version : Nat := 1) (attempt : Nat := 5) (tmo : Nat := 0) : Nat :=
  9 * 2 ^ 430 + version * 2 ^ 448 + attempt * 2 ^ 464 + 16 * 2 ^ 480 + 0x20000 * 2 ^ 512 + 0x30000 * 2 ^ 576 + tmo * 2 ^ 640 +
    token * 2 ^ 672 + 0xFFFFFFFF * 2 ^ 704 + 0xFFFFFFFF * 2 ^ 736 + 0xFFFFFFFF * 2 ^ 768 + 0xFFFFFFFF * 2 ^ 832 +
    0xFFFFF * 2 ^ 934 + 0x38000 * 2 ^ 960
/-- A message in front of canopy engine 0, behind warp 0's operation. -/
def front1 (m : CanopyMsg) : CanopyFront :=
  { warp := 0, seq := 0, clause := 0x1000, index := 0, scope := .thr, dispatch := 0, slot := 0, msg := m }
/-- Canopy engine 0 of die 0 with a message, a queue, and block b in memory at 0x40000. -/
def canopyWith (m : List CanopyFront) (queue : List Prog) (b : Nat) : State :=
  let s := withComm (poke there 0x40000 (toBytes 128 b))
  { s with eng := { s.eng with canopies := [(0, { front := m, queue := queue, ctxs := [] })] } }
/-- A queued program of a block. -/
def queued (b : Nat) : Prog := blockProg 0 0 0x40000 b
/-- Message m stands in front of engine 0 and is taken next. -/
def nextIs (m : CanopyMsg) : Bool := decide ((canopyWith [front1 m] [] 0).nextMessage 0 = some (front1 m))

/-- EnginesTakeTheirWork: a root engine with a submission, with an abort that is due, with a queue and a free context. -/
theorem witness_EnginesTakeTheirWork_root :
    (let p := { hostProg with phase := .queued }
     let s := rootWith { Root.reset with front := [p] }
     (s.root 0).aborts.find? (s.abortDue 0) = none ∧ s.nextSubmission 0 = some p ∧ (s.root 0).queue.length < 16) ∧
    (let s := rootWith { Root.reset with aborts := [rootAbort] }
     (s.root 0).aborts.find? (s.abortDue 0) = some rootAbort) ∧
    (let s := rootWith { Root.reset with queue := [hostProg] }
     (s.root 0).queue = [hostProg] ∧ (List.range 4).find? (fun c => (tfind (s.root 0).ctxs c).isNone) = some 0) := by
  decide +kernel

/-- EnginesTakeTheirWork: messages of each kind; a good block without tokens and with one, and a bad one. -/
theorem witness_EnginesTakeTheirWork_canopy :
    (nextIs (.post 0x40000) && nextIs (.token 7 0) && nextIs (.abort 9 5)) = true ∧ there.dieUp 0 = true ∧
    ((canopyWith [front1 (.abort 9 5)] [] 0).comm? 0 0 9).isSome = true ∧
    (let s := canopyWith [front1 (.post 0x40000)] [] (block9)
     s.engRead 0 0 0x40000 128 = .ok (toBytes 128 block9) ∧ s.blockFault 0 0 (ofBytes (toBytes 128 block9)) = none ∧
       blockTokens (ofBytes (toBytes 128 block9)) = [] ∧ (s.canopy 0).queue.length < 32) ∧
    (let s := canopyWith [front1 (.post 0x40000)] [] (block9 77)
     s.engRead 0 0 0x40000 128 = .ok (toBytes 128 (block9 77)) ∧ s.blockFault 0 0 (ofBytes (toBytes 128 (block9 77))) = none ∧
       blockTokens (ofBytes (toBytes 128 (block9 77))) ≠ [] ∧ (s.die 0).waiting.length < 256) := by
  decide +kernel

/-- A block accepted at rt 0 waits for its tokens on die 0, behind engine 0, 3 rt later. -/
def waitsFor (p : Prog) : State :=
  let s := there.onDie 0 fun d => { d with waiting := [(0, p)] }
  { s with time := { s.time with now := 54 } }

/-- EnginesTakeTheirWork: blocks that may start, of a communicator with their version and attempt, with others, and of none; tokens
that are counted and refused; blocks that fire, have no token, and are past their timeout. -/
theorem witness_EnginesTakeTheirWork_starts :
    (let starts (b : Nat) : Bool :=
       let f := (canopyWith [] [queued b] 0).fireBlocks 0
       decide ((f.canopy 0).queue.find? (f.blockFirst 0) = some (queued b)) && (queued b).block.isSome &&
         ((List.range 8).find? fun c => (tfind (f.canopy 0).ctxs c).isNone).isSome
     (starts block9 && starts (block9 0xFFFFFFFF 2 5) && starts (block9 0xFFFFFFFF 1 4) && starts 0) = true) ∧
    (bits block9 463 448 = comm1.version.toNat ∧ bits block9 479 464 = comm1.attempt.toNat ∧
      bits (block9 0xFFFFFFFF 2 5) 463 448 ≠ comm1.version.toNat ∧ bits (block9 0xFFFFFFFF 1 4) 479 464 ≠ comm1.attempt.toNat) ∧
    (canopyWith [] [] 0).comm? 0 0 (blockComm block9) = some comm1 ∧ (canopyWith [] [] 0).comm? 0 0 0 = none ∧
    (canopyWith [] [] 0).blockFault 0 0 (block9 0xFFFFFFFF 1 4) = some (3, 6) ∧
    (let flying (id : Nat) : State := { there with eng := { there.eng with flights := [(4, { src := 0, msg := .token 0 id 0 none })] } }
     (flying 7).pairWaits fabricUnit 0 0 = false ∧ ((flying 7).landed 4).dieUp 0 = true ∧ ((flying 7).landed 4).refuses 0 0 7 = false ∧
       ((flying 0xFFFFFFFF).landed 4).refuses 0 0 0xFFFFFFFF = true) ∧
    (let p := queued (block9 77 1 5 3)
     ((waitsFor p).die 0).waiting = [(0, p)] ∧ p.block = some (BitVec.ofNat 1024 (block9 77 1 5 3)) ∧
       bits (BitVec.ofNat 1024 (block9 77 1 5 3)).toNat 667 640 = 3 ∧ p.accepted + 3 ≤ (waitsFor p).rt) ∧
    (let p := queued (block9 77 1 5 4)
     blockTokens (BitVec.ofNat 1024 (block9 77 1 5 4)).toNat = [77] ∧ ((waitsFor p).setTokens 0 0 77 1).tokens 0 0 77 = 1 ∧
       (waitsFor p).tokens 0 0 77 = 0 ∧ (waitsFor p).rt < p.accepted + 4 ∧ ((waitsFor p).canopy 0).queue.length < 32) := by
  and_intros <;> decide +kernel

/-- EnginesTakeTheirWork: blocks held by a round, blocks ready in the store behind a full queue, blocks that start with a ROOT that the
entry has not, for no communicator, and behind a full queue. -/
theorem witness_EnginesTakeTheirWork_judged :
    let root1 := block9 + 2 ^ 404 + 2 ^ 438
    (blockMalformed root1 (some comm1.members.length) = true ∧ blockMalformed root1 (some comm2.members.length) = false ∧
      blockMalformed root1 none = false ∧ blockMalformed block9 (some comm1.members.length) = false ∧ blockMalformed 1 none = true) ∧
    (let r : Round :=
       { mailbox := 0, ticket := 0, slot := 0, command := BitVec.ofNat 320 (9 * 2 ^ 24), members := [], old := [0], voters := [0], votes := [],
         holds := [0], lastVote := 0, acks := [], proposed := 0, phase := .proposed }
     let s := canopyWith [front1 (.post 0x40000)] [] block9
     ({ s with eng := { s.eng with rounds := [(6, r)] } } : State).roundHolds 0 0 (blockComm block9) = true ∧
       s.roundHolds 0 0 (blockComm block9) = false) ∧
    (let p := { queued root1 with phase := .blocked }
     let full := List.replicate 32 { queued block9 with phase := .queued }
     let s := (canopyWith [] full 0).onDie 0 fun d => { d with waiting := [(0, p)] }
     ¬(s.canopy 0).queue.length < 32 ∧ p.phase = .blocked ∧ (queued (block9 77)).phase ≠ .blocked) ∧
    (let p := { queued root1 with phase := .blocked }
     let s := (canopyWith [] [] 0).onDie 0 fun d => { d with waiting := [(0, p)] }
     let f := s.fireBlocks 0
     ((f.canopy 0).queue ++ ((f.die 0).waiting.filter fun x => x.1 = 0 && x.2.phase = .blocked).map Prod.snd).find? (f.blockFirst 0) ≠ none) := by
  decide +kernel

/-! ### Witnesses: collectives and agreements -/

/-- A contribution of one f32 element. -/
def contrib (op : Nat := 0) : Contribution := { op := op, bf16 := false, length := 4, data := [0x3F800000] }
/-- Something flies to die 0, which has the communicator, and a node of it with a contribution of child 1 waits. -/
def flying (f : Flight) (reds : Table RedNode := []) (c : Comm := comm2) : State :=
  let s := withComm there c
  { s with eng := { s.eng with flights := [(4, { src := 0, msg := f })], reds := reds } }
def node1 (op : Nat) (deadline : Nat := 1000) : RedNode :=
  { ctx := 0, comm := 9, attempt := 5, seq := 0, level := 0, die := 0, children := [0, 1], arrived := [(1, contrib op)],
    deadline := deadline, closed := false }

/-- CollectivesGoOn: a child that is the first, the last, and one that does not match; a node past its time, and a closed one. -/
theorem witness_CollectivesGoOn_children :
    (let s := flying (.child 0 9 5 0 0 0 0 0 contrib)
     let j := (s.landed 4).judgePacket 0 0 9 5
     s.pairWaits fabricUnit 0 0 = false ∧ j.2 = true ∧ j.1.comm? 0 0 9 = some comm2 ∧ j.1.redNode? 0 9 5 0 0 0 = none) ∧
    (let s := flying (.child 0 9 5 0 0 0 0 0 contrib) [(3, node1 0)]
     let j := (s.landed 4).judgePacket 0 0 9 5
     j.2 = true ∧ j.1.redNode? 0 9 5 0 0 0 = some (3, node1 0) ∧ (node1 0).closed = false ∧ ¬(node1 0).deadline ≤ s.rt ∧
       ∀ x ∈ [0, 1], (tfind (tput (node1 0).arrived 0 contrib) x).isSome = true) ∧
    (let s := flying (.child 0 9 5 0 0 0 0 0 contrib) [(3, { node1 0 with children := [0, 1, 2] })]
     ((s.landed 4).judgePacket 0 0 9 5).2 = true ∧ tfind (tput (node1 0).arrived 0 contrib) 2 = none) ∧
    (let s := flying (.child 0 9 5 0 0 0 0 0 contrib) [(3, node1 1)]
     let j := (s.landed 4).judgePacket 0 0 9 5
     j.2 = true ∧ j.1.redNode? 0 9 5 0 0 0 = some (3, node1 1) ∧ ((node1 1).arrived.any fun x => x.2.op ≠ (contrib 0).op) = true) ∧
    (let s := flying (.token 0 7 0 none) [(3, node1 0 0)]
     tfind s.eng.reds 3 = some (node1 0 0) ∧ (node1 0 0).deadline ≤ s.rt ∧ (node1 0 0).arrived ≠ []) ∧
    ((node1 0).level < 2 ∧ 2 ≤ { node1 0 with level := 2 }.level ∧ { node1 0 with closed := true }.closed = true) := by
  and_intros <;> decide +kernel

/-- A module whose canopy context 2 of engine 0 on die 0 has a RED of communicator 9 outstanding, while something flies there. -/
def awaiting (f : Flight) (p : Prog) : State :=
  let s := flying f
  { s with eng := { s.eng with canopies := [(0, { front := [], queue := [], ctxs := [(2, p)] })] } }
/-- The RED, in a tree or for a block, and a program with it. -/
def red9 (block : Option Nat := none) : RedWait := { place := 2, src := 0x20000, dst := 0x30000, length := 4, block := block }
def redding (w : RedWait) : Prog := { prog with reds := [(9, w)], block := some (BitVec.ofNat 1024 (2 ^ 412)) }

/-- CollectivesGoOn: a result at a tree node, and one for a member that waits for it, with its release done and not; parts for a member
that waits and for one that does not; packets of the member's attempt, a newer and an older one; an abort of the attempt. -/
theorem witness_CollectivesGoOn_packets :
    let e : EngRef := .canopy 0 0 2
    (let s := flying (.result 0 9 5 0 (some (0, 0)) 0 contrib)
     let j := (s.landed 4).judgePacket 0 0 9 5
     s.pairWaits fabricUnit 0 0 = false ∧ j.2 = true ∧ j.1.comm? 0 0 9 = some comm2) ∧
    (let p := redding red9
     let s := awaiting (.result 0 9 5 0 none 0 contrib) p
     let late := awaiting (.result 0 9 5 0 none 0 contrib) { p with writes := [{ place := 1, va := 0x30000, bytes := [1] }] }
     let j := (s.landed 4).judgePacket 0 0 9 5
     s.waiter? 0 0 9 = some (e, p, red9) ∧ s.redReleased e p red9 = true ∧ (late.prog? e).map (late.redReleased e · red9) = some false ∧
       s.pairWaits fabricUnit 0 0 = false ∧ j.2 = true ∧ j.1.comm? 0 0 9 = some comm2 ∧ j.1.waiter? 0 0 9 = some (e, p, red9) ∧
       (j.1.onProg e fun p => { p with reds := tdel p.reds 9 }).engWriteFault 0 0 0x30000 4 = none) ∧
    (let p := redding (red9 (some 1))
     let s := awaiting (.part 0 9 5 0 1 true 0 [1, 2, 3, 4]) p
     let j := s.judgePacket 0 0 9 5
     j.2 = true ∧ j.1.waiter? 0 0 9 = some (e, p, red9 (some 1)) ∧ j.1.waiter? 0 0 (256 + 9) = none ∧
       good ((j.1.landed 4).engRead 0 0 0x20000 4) = true ∧ good ((j.1.landed 4).engRead 0 0 (2 ^ 63) 4) = false) ∧
    (withComm there).comm? 0 0 9 = some comm1 ∧
    ((5 : BitVec 16) = comm1.attempt ∧ ((6 : BitVec 16) ≠ comm1.attempt ∧ ((6 : BitVec 16) - comm1.attempt).toNat < 2 ^ 15) ∧
      2 ^ 15 ≤ ((4 : BitVec 16) - comm1.attempt).toNat) ∧
    ((flying (.abort 0 9 5 0)).landed 4).comm? 0 0 9 = some comm2 := by and_intros <;> decide +kernel

/-- CollectivesGoOn: a packet that has no member die on its way, one that a member on its way accepts, and one that it drops; a packet
judged on its way; one that comes to none. -/
theorem witness_CollectivesGoOn_way :
    let onWay (s : State) (x : Packet) : List Nat := ((s.pathOf x.src 3).map fun h => hopTo h.1 h.2 3).filter fun d =>
      d ≠ 3 && !x.passed.contains d && (s.comm? d 0 9).isSome
    let x (a : BitVec 16) : Packet := { src := 0, msg := .result 0 9 a 0 none 3 contrib, passed := [] }
    let s : State := there.onDie 2 fun d => { d with comms := [(9, comm2)] }
    onWay there (x 5) = [] ∧ onWay s (x 5) = [2] ∧ (s.judgePacket 2 0 9 5).2 = true ∧ (s.judgePacket 2 0 9 4).2 = false ∧
    (let f : State := { s with eng := { s.eng with flights := [(4, x 5)] } }
     f.eng.flights = [(4, x 5)] ∧ (x 5).msg.collective = some (0, 9, 5, 3) ∧ f.pairWaits fabricUnit 0 3 = false ∧
       (f.onTheWay (x 5) 0 9 3).head? = some 2) ∧
    there.eng.flights = [] ∧
    (let p := redding red9
     let s := awaiting (.result 0 9 5 0 none 0 contrib) p
     (s.onProg (.canopy 0 0 2) fun p => { p with reds := tdel p.reds 9 }).engWriteFault 0 0 (2 ^ 57) 4 ≠ none) := by decide +kernel

/-- A group command on communicator 9 over dies 0 and 1, whose list stands at 0x40000. -/
def command9 (opc expected n : Nat) (more : Nat := 0) : BitVec 320 :=
  BitVec.ofNat 320 (2 + 256 + opc * 2 ^ 16 + 9 * 2 ^ 24 + expected * 2 ^ 32 + n * 2 ^ 48 + 0x40000 * 2 ^ 64 + 100 * 2 ^ 128 +
    10 * 2 ^ 160 + 0x50000 * 2 ^ 192 + more)
def round9 (command : BitVec 320) (ph : RoundPhase) (voters : List Nat := []) (votes : Table Nat := []) : Round :=
  { mailbox := 0, ticket := 0, slot := 0, command := command, members := [0, 1], old := [], voters := voters, votes := votes,
    holds := [], lastVote := 20, acks := [], proposed := 0, phase := ph }
/-- A round stands, 20 rt after reset, with lists that are good and bad in memory; die 0 runs a collective where it is asked. -/
def agreeing (r : Round) (l : List Byte := [0, 0, 1, 0]) (runs : Bool := false) : State :=
  let s := poke (withComm there) 0x40000 l
  { s with
    time := { s.time with now := 360 }
    eng := { s.eng with
      rounds := [(6, r)]
      canopies := if runs then [(0, { front := [], queue := [], ctxs := [(2, queued block9)] })] else [] } }

/-- AgreementsGoOn: commands with a bad field, with a bad list, and good ones; voters that run the communicator
and that do not; votes that are all yes in time, one that is not, one that is missing; an outcome to report. -/
theorem witness_AgreementsGoOn :
    (let r := round9 (command9 3 0 2) .posted
     (agreeing r).roundBefore 6 r = false ∧ r.fieldsOk = false) ∧
    (let r := round9 (command9 0 0 2) .posted
     (agreeing r [0, 0, 0, 0]).roundBefore 6 r = false ∧ r.fieldsOk = true ∧ r.opc = 0 ∧
       (agreeing r [0, 0, 0, 0]).memberList r = none ∧ (agreeing r).memberList r = some [0, 1]) ∧
    (let r := round9 (command9 1 1 2) .posted
     r.fieldsOk = true ∧ (agreeing r).memberList r = some [0, 1] ∧ (agreeing r).oldMembers r ≠ []) ∧
    (let r := round9 (command9 1 1 2) .proposed [0, 1]
     let t (s : State) : State := s.onRound 6 fun x => { x with holds := [0] }
     tfind r.votes 0 = none ∧ (t (agreeing r [] true)).commRuns r 0 = true ∧ (t (agreeing r)).commRuns r 0 = false ∧
       r.proposed + r.timeout ≤ (agreeing r).rt) ∧
    (let r := round9 (command9 1 1 2) .proposed [0, 1] [(0, 0), (1, 13)]
     (∀ d ∈ r.voters, (tfind r.votes d).isSome = true) ∧ (tvals r.votes).find? (fun v => v ≠ 0) = some 13) ∧
    (let r := round9 (command9 1 1 2 (20 * 2 ^ 160)) .proposed [0, 1] [(0, 0), (1, 0)]
     (∀ d ∈ r.voters, (tfind r.votes d).isSome = true) ∧ (∀ v ∈ tvals r.votes, v = 0) ∧
       r.lastVote < r.proposed + r.timeout ∧ { r with lastVote := 40 }.proposed + r.timeout ≤ 40) ∧
    (let r := round9 (command9 1 1 2) (.committed true 0)
     (tfind (agreeing r).eng.rounds 6).map Round.phase = some (.committed true 0)) := by and_intros <;> decide +kernel

/-- AgreementsGoOn: voters that the coordinator reaches and does not reach. -/
theorem witness_AgreementsGoOn_routes :
    let r := round9 (command9 1 1 2) .proposed [0, 1] [(0, 0), (1, 0)]
    let s := agreeing r
    (∀ d ∈ r.voters, s.roundWaits r d = false) ∧ ({ s with dies := tdel s.dies 1 } : State).roundWaits r 1 = true := by decide +kernel

/-! ### Witnesses: cambium engines -/

/-- A descriptor of three elements of 16 bytes at 0x40000, with the maps at 0x50000 and 0x51000. -/
def camDesc : Nat := 0x40000 + 3 * 2 ^ 64 + 0x50000 * 2 ^ 128 + 0x51000 * 2 ^ 320
/-- A bud in a state, at clause 1. -/
def budIn (state : Nat) : List Byte := toBytes 16 (state * 2 ^ 16 + 1)
/-- A sweep that has scanned so far. -/
def sweepAt (scanned : Nat) (forming : List (Nat × Nat × Nat) := []) (limit : Nat := 1) : Sweep :=
  { warp := 0, seq := 5, clause := 0x1000, index := 0, limit := limit, k := 0, stop := none, barrier := none, cursor := none,
    launched := none, scanned := scanned, forming := forming }
/-- Slot 3 of the dispatch, declared at 0x48000. -/
def slot3 (x : Option Sweep) : CamSlot :=
  { dispatch := 0, ctx := 0, descriptor := 0x48000, desc := BitVec.ofNat 512 camDesc, scope := .thr, pending := [], sweep := x }
/-- A message or an ended run of warp 0's operation 5. -/
def camFront (m : CamMsg) : CamFront :=
  { warp := 0, seq := 5, clause := 0x1000, index := 0, scope := .thr, dispatch := 0, msg := m }
def ranOut (yielded : Option (Bool × Nat × Nat × Nat × Double)) : BudEnd :=
  { warp := 0, seq := 5, dispatch := 0, slot := 3, element := 2, yielded := yielded, clause := 0x1000, index := 0, scope := .thr }
/-- The engine of site 0, of a dispatch with a free warp; the descriptor and a dormant, a ready and a launched bud stand in
memory, the first element's dormancy bit set. -/
def cam (front : List CamFront) (ends : List BudEnd) (x : Option CamSlot) : State :=
  let s := put base cls { wrp with ops := [opOf 5 (some 7) (.cambium 1)], seq := 9 } { grp with wpg := 2 }
  let s := withDispatch s camDisp
  let s := poke (poke (poke s 0x40000 (budIn 0 ++ budIn 1 ++ budIn 2)) 0x48000 (toBytes 64 camDesc)) 0x50000 [1]
  { s with eng := { s.eng with
      cambiums := [(0, { front := front, ends := ends, slots := match x with
        | some x => [(3, x)]
        | none => [] })] } }

/-- CambiumEnginesGoOn: declarations that are good, of a slot that sweeps, and that cannot be read; sweep requests of a slot
that is declared, is not, and sweeps; wakes of a dormant, a ready and a launched element; runs that ended. -/
theorem witness_CambiumEnginesGoOn_messages :
    (let m := camFront (.declare 3 0x48000 .thr)
     let s := cam [m] [] none
     s.nextCam 0 CamMsg.isDeclare = some m ∧ s.slotOfDispatch 0 = 0 ∧ s.camRead 0 0 0x48000 64 = some (toBytes 64 camDesc) ∧
       camOk (ofBytes (toBytes 64 camDesc)) = true ∧ s.slotSweeps 0 3 = false) ∧
    (let m := camFront (.declare 3 0x48000 .thr)
     let s := cam [m] [] (some (slot3 (some (sweepAt 0))))
     s.nextCam 0 CamMsg.isDeclare = some m ∧ s.slotSweeps 0 3 = true ∧ s.camRead 0 0 (2 ^ 57) 64 = none ∧ s.sitesOf 0 = [0] ∧
       (s.cambium 0).front.contains m = true) ∧
    (let m := camFront (.sweep 3 1 none none)
     let s (x : Option CamSlot) : State := cam [m] [] x
     (s none).nextCam 0 CamMsg.isSweep = some m ∧ (((s none).warp m.warp).op? m.seq).isSome = true ∧
       ((s none).camSlot? 0 0 3).isNone = true ∧ (s (some (slot3 none))).nextCam 0 CamMsg.isSweep = some m ∧
       ((s (some (slot3 none))).camSlot? 0 0 3).isSome = true ∧ (s (some (slot3 none))).slotSweeps 0 3 = false) ∧
    (let m := camFront (.wake 3 0 false)
     let s := cam [m] [] (some (slot3 none))
     s.nextCam 0 CamMsg.isWake = some m ∧ s.camSlot? 0 0 3 = some (slot3 none) ∧ 0 < camCount (slot3 none).desc.toNat ∧
       s.camOwner 0 3 0 = 0 ∧ (s.wakeElement 0 0 3 (slot3 none) 0 false).isSome = true ∧
       [0, 1, 2].map (fun i => (s.readBud 0 0 camDesc i).map Bud.state) = [some 0, some 1, some 2] ∧
       (s.writeBud 0 0 0 camDesc 0 { locals := 0, wopnd := 0, wkind := 0, state := 1, clause := 1 }).isSome = true) ∧
    (let e := ranOut none
     let s := cam [] [e, ranOut (some (true, 1, 0, 0, 0))] (some (slot3 none))
     ((s.cambium 0).ends.find? fun e => !s.enginesWait (dieOfSite 0) && s.camFirst e.dispatch e.warp e.seq &&
       match e.yielded with
       | some _ => s.handed e.warp e.seq e.scope
       | none => true) = some e ∧
     (s.onCambium 0 fun c => { c with ends := c.ends.erase e }).camSlot? 0 0 3 = some (slot3 none)) := by
  and_intros <;> decide +kernel

/-- The state after the scan of the next element, as CambiumEnginesGoOn names it. -/
def scannedOnce (s : State) (x : Sweep) : State :=
  (s.scanElement 0 0 3 (slot3 (some x)) x 2 x.scanned).onSweep 0 0 3 fun z => { z with scanned := x.scanned + 1 }

/-- CambiumEnginesGoOn: a scan that goes on, of an element that is ready; one that launches; the last sweep, and one that is not
the last. -/
theorem witness_CambiumEnginesGoOn_sweeps :
    (let x := sweepAt 1
     let s := cam [] [] (some (slot3 (some x)))
     s.camSlot? 0 0 3 = some (slot3 (some x)) ∧ s.freeWarps 0 0 = [1] ∧ s.dispatch? 0 = some camDisp ∧
       camDisp.phase = .accepted ∧ s.away 0 = false ∧ s.gathersAlone 0 3 = true ∧ s.enginesWait (dieOfSite 0) = false ∧
       (s.camRange 0 0 3) = (0, 3) ∧
       ((scannedOnce s x).camSlot? 0 0 3).bind CamSlot.sweep = some { sweepAt 2 [(1, 1, 0)] with cursor := some 1 } ∧
       ((scannedOnce s x).freeWarps 0 0).head? = some 1 ∧
       s.mapBit 0 0 0x50000 1 = some false ∧ s.mapBit 0 0 0x51000 1 = some false ∧
       (s.readBud 0 0 camDesc 1).map (fun b => (b.state, b.clause)) = some (1, 1) ∧
       (s.writeBud 0 0 0 camDesc 1 { locals := 0, wopnd := 0, wkind := 0, state := 2, clause := 1 }).isSome = true) ∧
    (let x := sweepAt 2 [(1, 1, 0)]
     let s := cam [] [] (some (slot3 (some x)))
     ((scannedOnce s x).camSlot? 0 0 3).bind CamSlot.sweep = some (sweepAt 3 [(1, 1, 0)]) ∧
       ((scannedOnce s x).freeWarps 0 0).head? = some 1) ∧
    (let done (limit : Nat) : Option Bool :=
       let x := sweepAt 3 [] limit
       let c := slot3 (some x)
       let s := cam [] [] (some c)
       if s.camSlot? 0 0 3 = some c ∧ s.away 0 = false ∧ s.sweepExhausted 0 3 = true ∧ s.sitesOf 0 = [0] then
         match s.clearDeferrals 0 0 c with
         | some t =>
           if ((t.flushDispatch 0).camWrite 0 0 0 (0x48000 + 60) (toBytes 4 (2 ^ 31 + 1))).isSome then t.sweepDone 0 c { x with k := 1 } else none
         | none => none
       else none
     done 1 = some true ∧ done 2 = some false) := by and_intros <;> decide +kernel

/-- CambiumEnginesGoOn: scans of elements that are passed, dormant, ready at a bad clause, and launched, maps and buds that cannot be read
or written; a warp launched with one element; runs that end with each kind of wait, and one that cannot be judged; stop words that are
zero, set and unreadable; barriers inside the reservation and outside it. -/
theorem witness_CambiumEnginesGoOn_elements :
    let far : Nat := 2 ^ 57
    let c := slot3 (some (sweepAt 0))
    let s := cam [] [] (some c)
    (s.mapBit 0 0 far 0 = none ∧ s.mapBit 0 0 0x50000 0 = some true ∧ s.mapBit 0 0 0x51000 0 = some false ∧
      s.mapBit 0 0 0x50000 1 = some false) ∧
    ((s.readBud 0 0 (far + 3 * 2 ^ 64) 0).isNone = true ∧
      (s.writeBud 0 0 0 (far + 3 * 2 ^ 64) 0 { locals := 0, wopnd := 0, wkind := 0, state := 2, clause := 1 }).isNone = true ∧
      (s.setMapBit 0 0 0 far 0 true).isNone = true ∧ (s.setMapBit 0 0 0 0x50000 0 true).isSome = true) ∧
    ((poke s 0x40010 (toBytes 16 (2 ^ 16 + 7))).readBud 0 0 camDesc 1).map (fun b => (b.state, b.clause)) = some (1, 7) ∧
    (let x := sweepAt 2 [(1, 1, 0)]
     s.dispatch? 0 = some camDisp ∧ (s.group? (groupOf 1)).isSome = true ∧ x.forming[0]? = some (1, 1, 0) ∧ x.forming.length ≤ 31) ∧
    -- no neighbours, a neighbour array and one that cannot be read
    (let level : Nat := camDesc + 0x52000 * 2 ^ 192 + 0x53000 * 2 ^ 256
     let bare : Nat := camDesc
     camLevel bare = 0 ∧ camLevel level ≠ 0 ∧ (s.budWait 0 0 bare 0 2 5).isNone = true ∧ s.budWait 0 0 level 0 0 5 = some true ∧
       s.budWait 0 0 level 0 1 5 = some false ∧ s.budWait 0 0 level 0 2 5 = some false ∧ s.budWait 0 0 level 0 2 0 = some true ∧ (s.camRead 0 0 (camNbr level) 32).isSome = true) ∧
    ((s.camRead 0 0 0x50000 8).map ofBytes = some 1 ∧ (s.camRead 0 0 0x51000 8).map ofBytes = some 0 ∧ s.camRead 0 0 far 8 = none ∧
      ((List.range 3).all fun i => (s.mapBit 0 0 0x50000 i).isSome) = true) ∧
    (s.group? (groupOf 0) = some { grp with wpg := 2 } ∧ grp.holds 41216 16 = true ∧ grp.meetsRegisters 41216 16 = false ∧
      grp.holds 65536 16 = false) ∧
    s.pathsWait 0 = false ∧
    (let x := slot3 (some (sweepAt 3))
     let bad := { x with desc := BitVec.ofNat 512 (0x40000 + 3 * 2 ^ 64 + 0x50000 * 2 ^ 128 + far * 2 ^ 320) }
     ((cam [] [] (some bad)).clearDeferrals 0 0 bad).isNone = true) ∧
    (let m := camFront (.wake 3 7 false)
     let s := cam [m] [] (some c)
     s.nextCam 0 CamMsg.isWake = some m ∧ camCount c.desc.toNat ≤ 7) := by decide +kernel

/-! ### Witnesses: reliability, resets, start, controller, trust -/

/-- Link 0 of die 0 in a state; the time is past. -/
def linked (l : Link) (now : Nat := 0) : State :=
  let s := there.onDie 0 fun d => { d with links := tput d.links 0 l }
  { s with time := { s.time with now := now } }

/-- ScrubbingAndRetirement: a sector of a die that is up; corrections in flight with the sector's version and an older one; a core with
a group and one without. -/
theorem witness_ScrubbingAndRetirement :
    (homeDie (0x1000 * 32) = 0 ∧ tget false (there.die 0).scrub.retired (0x1000 / 2048) = false ∧ there.dieUp 0 = true) ∧
    (let s : State := there.onDie 0 fun d => { d with scrub := { d.scrub with inFlight := [(0x1000, 0), (0x1000, 1)] } }
     (s.die 0).scrub.inFlight = (0x1000, 0) :: [(0x1000, 1)] ∧ tget 0 s.mem.versions 0x1000 = 0 ∧ tget 0 s.mem.versions 0x1000 ≠ 1) ∧
    (there.coreUp 0 = true ∧ (there.groupsOn 0).isEmpty = false ∧ there.coreUp 1 = true ∧ (there.groupsOn 1).isEmpty = true) := by
  and_intros <;> decide +kernel

/-- ScrubbingAndRetirement: a core that is retired already and still has a group, one group of it; a context with room and without in its
save area, whatever the free value gives; dispatches that are accepted and held. -/
theorem witness_ScrubbingAndRetirement_moves :
    (let s := (asked grp).onDie 0 fun d => { d with cores := d.cores &&& ~~~1 }
     s.coreUp 0 = false ∧ (s.groupsOn 0).isEmpty = false ∧ tkeys (s.groupsOn 0) = [0] ∧ s.group? 0 = some grp ∧
       ((tkeys (s.slotWarps 0)).foldl State.stopForSave s).saveable [0] = true) ∧
    (tkeys (there.groupsOn 0) = [0] ∧ there.saveable [0] = false) ∧
    ((withDispatch there disp).dispatch? 0 = some disp ∧ disp.phase = .accepted ∧ (disp1 .held).phase ≠ .accepted) := by decide +kernel

/-- LinksRetrainAndRoutesChange: a link in use, with few replays and many; one that retrains with each number of earlier failures; a
failed one, whose pairs get another route; pairs that the failure affects and that it does not; a pair with nothing on its
path. -/
theorem witness_LinksRetrainAndRoutesChange :
    ((there.link 0 0).inUse = true ∧ (there.link 0 0).failed = false ∧ (there.link 0 0).retraining = none) ∧
    (let counted (n : Nat) : Nat :=
       (((linked { (there.link 0 0) with replays := List.replicate n 0 }).link 0 0).replays.filter fun t => 0 < t + 2 ^ 16).length + 1
     counted 15 ≤ 16 ∧ 16 < counted 16) ∧
    (let x (l : List Nat) : Link := { (there.link 0 0) with retraining := some 0, failures := l }
     let tries (s : State) : Nat := (((s.link 0 0).failures.filter fun t => s.rt < t + 2 ^ 24) ++ [s.rt]).length
     ((linked (x [])).link 0 0).retraining = some 0 ∧ tries (linked (x [0])) < 3 ∧ 3 ≤ tries (linked (x [0, 0]))) ∧
    (let s := linked { (there.link 0 0) with failed := true }
     let l := linkEnds 0 0
     (s.link 0 0).failed = true ∧ (s.link 0 0).rerouted = false ∧ (tfind s.dies 0).isSome = true ∧ 1 ∈ s.affected 0 l ∧
       2 ∉ s.affected 0 l ∧ (s.newRoute [] 0 1).isSome = true) ∧
    there.acknowledged 0 0 = true := by
  and_intros <;> decide +kernel

/-- LinksRetrainAndRoutesChange: dies that a reroute involves and that none does. -/
theorem witness_LinksRetrainAndRoutesChange_over :
    let s (d : Nat) : State := (there.onDie 0 fun x => { x with inReroute := true }).onDie d fun x => { x with rerouting := [(pairKey 0 1, 2)] }
    (tfind (s 3).dies 0).map Die.inReroute = some true ∧ ((s 3).dies.any fun e => e.1 / 32 = 0 && e.2.reroutes false) = true ∧
    (there.dies.any fun e => e.2.reroutes true || e.2.reroutes false) = false := by decide +kernel

/-- A module whose die 0 has a clock, at a time, with sensors. -/
def clocked (c : Clock) (now : Nat := 0) (r : Sensors := Sensors.reset) : State :=
  let s := there.onDie 0 fun d => { d with clock := c }
  { s with time := { s.time with now := now }, mod := { s.mod with sensors := r } }

/-- ClocksFollowTheirWindows: a core with the most late transitions; a die; windows that are loud, quiet and neither, at frequencies
where each step is and is not possible; a hot die and a cool one; a step in progress; readings above each limit. -/
theorem witness_ClocksFollowTheirWindows :
    ({ Clock.reset with lateCores := [(2, 40), (5, 41)] }.worstCore = some 5 ∧ (tfind there.dies (dieOfCore 5)).isSome = true) ∧
    (let c := { Clock.reset with windowLate := 81, lateCores := [(2, 40), (5, 41)], fmhz := 1200 }
     ((clocked c).die 0).clock.stepping = none ∧ ((clocked c).die 0).lthr < (c.roll (clocked c).rt).windowLate ∧ c.fmhz < 1300 ∧
       (c.roll (clocked c).rt).worstCore = some 5) ∧
    (let c := { Clock.reset with windowLate := 65 }
     ((clocked c).die 0).clock.stepping = none ∧ ((clocked c).die 0).lthr < (c.roll (clocked c).rt).windowLate ∧ 1300 ≤ c.fmhz ∧
       ((clocked c).die 0).lthr < 4 * ((c.roll (clocked c).rt).windowLate + 1)) ∧
    (let c := { Clock.reset with fmhz := 1200 }
     c.fmhz < 1300 ∧ c.quietSince + 2 ^ 24 ≤ (clocked c (18 * 2 ^ 24)).rt ∧ c.fmhz + 100 ≤ c.fmax ∧ c.hot = false) ∧
    Clock.reset.fmax < Clock.reset.fmhz + 100 ∧
    (let r := { Sensors.reset with junction := [(0, 106)] }
     105 < tget 0 (clocked Clock.reset 0 r).mod.sensors.junction 0 ∧ 1300 ≤ Clock.reset.fmhz) ∧
    (let c := { Clock.reset with fmhz := 1700, hot := true }
     let s := clocked c (18 * 2 ^ 24) { Sensors.reset with junction := [(0, 94)] }
     tget 0 s.mod.sensors.junction 0 < 95 ∧ c.hot = true ∧ c.coolSince + 2 ^ 24 ≤ s.rt ∧ c.fmhz + 100 ≤ c.fmax) ∧
    ((clocked { Clock.reset with stepping := some 1700 }).die 0).clock.stepping = some 1700 ∧
    (let s (r : Sensors) : State := clocked Clock.reset 0 r
     (s Sensors.reset).mod.power = true ∧
       (∃ e ∈ (s { Sensors.reset with junction := [(0, 116)] }).mod.sensors.junction, 115 < e.2) ∧
       45 < (s { Sensors.reset with inlet := 46 }).mod.sensors.inlet ∧ (s { Sensors.reset with flow := 17 }).mod.sensors.flow < 18) := by
  and_intros <;> decide +kernel

/-- A module without power, held failed, and with a start in progress. -/
def dark : State := { there with mod := { there.mod with power := false } }
def stuck : State := { there with mod := { there.mod with heldFailed := true } }
def starting (k : Nat) (fails : List StepFail) (scrubbing : Bool := false) (alt : BitVec 12 := 0) : State :=
  { State.reset with mod := { State.reset.mod with
      startAt := some k, fails := fails, scrubbing := scrubbing, record := { StartRecord.reset with nstart := 1, alt := alt } } }

/-- ResetsLeaveTheirState: a module held failed, one without power, and one of each mode, asked for each mode. -/
theorem witness_ResetsLeaveTheirState :
    stuck.mod.heldFailed = true ∧ dark.mod.power = false ∧ (there.mod.heldFailed = false ∧ there.mod.power = true) ∧
    there.mod.flash.pend = there.mod.mode ∧ secret.mod.flash.pend ≠ secret.mod.mode ∧ secret.mod.heldFailed = false := by
  decide +kernel

/-- StartSequenceRunsItsSteps: a start that nothing fails; steps that fail with their alternative still there and with it taken;
a step that finds a failing unit. -/
theorem witness_StartSequenceRunsItsSteps :
    (let s := starting 3 []
     s.mod.startAt = some 3 ∧ s.sched.agenda = [] ∧ s.on = true ∧ s.mod.fails = []) ∧
    (configOk ((starting 1 []).mod.flash.inForce (starting 1 []).mod.record) = true) ∧
    (starting 5 [] true).mod.scrubbing = true ∧
    (let s := starting 9 [{ step := 9, whole := true, units := [] }]
     s.mod.fails = { step := 9, whole := true, units := [] } :: [] ∧ s.mod.record.onAlt 9 = false) ∧
    (starting 4 [{ step := 4, whole := true, units := [] }]).mod.record.onAlt 4 = false ∧
    (starting 9 [{ step := 9, whole := true, units := [] }] false 0x200).mod.record.onAlt 9 = true ∧
    (let s := starting 7 [{ step := 7, whole := false, units := [0x1000000000000005] }]
     s.mod.fails = { step := 7, whole := false, units := [0x1000000000000005] } :: [] ∧ s.mod.record.units.length < 16 ∧
       (0x1000000000000005 : Double) ∉ s.mod.record.units) := by
  decide +kernel

/-- StartSequenceRunsItsSteps: alternatives of steps 2 and 1, failing stacks at a second failure of step 4, several units, interfaces at
step 10, seventeen units, scrub findings, a record that does not verify; ResetsLeaveTheirState: a record with an entry for die 0. -/
theorem witness_StartSequenceRunsItsSteps_more :
    (starting 2 [] false 0x004).mod.record.onAlt 2 = true ∧
    (let f : StepFail := { step := 4, whole := false, units := [0x4000000000000001, 0x4000000000000001, 0x4000000000000000] }
     let s := starting 4 [f] false 0x010
     s.mod.fails = f :: [] ∧ s.mod.record.onAlt 4 = true ∧
       (f.units.filter fun e => !s.mod.absent.contains e).eraseDups.length = 2 ∧ s.mod.record.units.length + 2 ≤ 16) ∧
    (let f : StepFail := { step := 7, whole := false, units := (List.range 17).map fun n => 0x2000000000000000 + BitVec.ofNat 64 n }
     let s := starting 7 [f]
     16 < s.mod.record.units.length + (f.units.filter fun e => !s.mod.absent.contains e).eraseDups.length) ∧
    (let f : StepFail := { step := 10, whole := false, units := [1, 2] }
     (starting 10 [f]).mod.fails = f :: [] ∧ f.units ≠ []) ∧
    (let f : StepFail := { step := 5, whole := false, units := [0x4000000000000001] }
     (starting 5 [f] true).mod.fails = f :: [] ∧ (starting 5 [f] true).mod.scrubbing = true) ∧
    (let s := starting 1 []
     let t : State := { s with mod := { s.mod with flash := { s.mod.flash with config := { ratedConfig with fmax := 1900 } } } }
     configOk (t.mod.flash.inForce t.mod.record) = false ∧ t.mod.record.onAlt 1 = false) ∧
    (ratedConfig.dies[0]?).isSome = true := by decide +kernel

/-- ControllerRequestsTakeEffect: a record that verifies and one that does not; an rt count that moves. -/
theorem witness_ControllerRequestsTakeEffect :
    configOk ratedConfig = true ∧ configOk { ratedConfig with fmax := 1900 } = false ∧
    (let s : State := { there with time := { there.time with now := 18 * 4096 } }
     s.live = true ∧ 4 ≤ (s.rt - s.time.lastMove) / 1024) := by decide +kernel

/-- ControllerRequestsTakeEffect: an rt count that may move and one that may not. -/
theorem witness_ControllerRequestsTakeEffect_move :
    let s (n : Nat) : State := { there with time := { there.time with now := 18 * n } }
    (s 1024).live = true ∧ (s 1024).time.lastMove + 1024 ≤ (s 1024).rt ∧ (s 1023).rt < (s 1023).time.lastMove + 1024 := by decide +kernel

/-- The connection of interface 0, a session of it, one that is not open, and an interface that the module has not. -/
def conn0 : Channel := { iface := 0, session := none, version := 0x12, key := 0 }
def session0 : Channel := { iface := 0, session := some 0, version := 0x13, key := 2 }
/-- A transcript with an entry. -/
def quiet : Session := { transcript := [1], stale := false, keys := 2, beat := 0 }
/-- What R339 lists for a session, and an offer of another version. -/
def listed : KeyOffer := { version := 0x12, asym := 0, hash := 0, group := 0, aead := 0, psk := false, auth := false, data := 1 }
/-- Interface 0 has session 0, and its transcripts stand as given; n sessions are open. -/
def talking (x : Session) (n : Nat := 1) : State :=
  { there with mod := { there.mod with responders := [(0, { conn := x, sessions := (List.range n).map fun i => (i, x) })] } }

/-- TrustRequestsAreAnswered: channels that are answered and not, while an activation runs, over a transcript that one ended in,
otherwise; an index with and without a block; with room for a session and with none, for an offer that is listed and one that is not;
with a receipt, without one, and while the module scrubs. -/
theorem witness_TrustRequestsAreAnswered :
    let s := talking quiet
    (s.channel { conn0 with iface := 7 } = none ∧ s.channel { session0 with session := some 3 } = none) ∧
    (s.channel conn0 = some quiet ∧ s.channel session0 = some quiet ∧ s.mod.act = false ∧ quiet.stale = false) ∧
    (talking { quiet with stale := true }).channel conn0 = some { quiet with stale := true } ∧
    (let t : State := { s with mod := { s.mod with act := true } }
     t.channel conn0 = some quiet ∧ t.mod.act = true) ∧
    (s.blocks 1 ≠ [] ∧ s.blocks 9 = []) ∧
    (s.mod.scrub = false ∧ s.answers 0 = true ∧ tfresh (s.responder 0).sessions 0 4 < 4 ∧
      4 ≤ tfresh ((talking quiet 4).responder 0).sessions 0 4 ∧ (1 : Byte).toNat < 2) ∧
    (listed.version = 0x12 ∧ { listed with version := 0x11 }.version ≠ 0x12 ∧ { listed with version := 0x11 }.version ≠ 0x13) ∧
    (let t : State := { s with mod := { s.mod with startAt := some 10, scrub := true } }
     t.channel conn0 = some quiet ∧ t.mod.scrub = true) ∧
    (let r : Receipt := { oldMode := 0, newMode := 1, frames := 0, retired := [], failed := [] }
     let t : State := { s with mod := { s.mod with receipt := some r } }
     t.channel conn0 = some quiet ∧ t.mod.receipt = some r ∧ { s with mod := { s.mod with receipt := none } }.mod.receipt = none) := by
  decide +kernel

/-- TrustRequestsAreAnswered, ActivationsAndStreams: requests of another version and under other keys; offers that are listed and not; a
session whose heartbeats stopped, whatever the free time is; keys for a link, for another stream, and for an unknown world. -/
theorem witness_TrustRequestsAreAnswered_versions :
    (let s := talking quiet
     s.channel { conn0 with version := 0x11 } = some quiet ∧ s.channel { session0 with key := 3 } = none ∧
       s.channel session0 = some quiet ∧ (conn0.version = 0x12 ∧ session0.version = 0x13)) ∧
    ((talking quiet).responder 0).sessions = [(0, quiet)] ∧
    (∃ now, ({ talking quiet with time := { (talking quiet).time with now := now } } : State).rt > quiet.beat + Config.heartbeat) ∧
    (let keys : IdeKeys := { link := true, stream := 0, posted := 3, nonPosted := 4, completion := 5 }
     let s : State := { talking quiet with mod := { (talking quiet).mod with ide := [(0, { state := 1, set := false, keys := keys, next := none, world := 0 })] } }
     keys.link = true ∧ (s.ideOf 0).state ≠ 0 ∧ ({ keys with stream := 1 }).stream ≠ (s.ideOf 0).keys.stream ∧ 64 ≤ 64) := by
  refine ⟨by decide +kernel, by decide +kernel, ⟨18 * (Config.heartbeat + 1), ?_⟩, by decide +kernel⟩
  have h : there.time.adjust = 0 := by decide +kernel
  simp [State.rt, talking, h, quiet]

/-- ActivationsAndStreams: a module where an activation may start, and one where it runs over a transcript; streams in each
state, with and without next keys, in each mode. -/
theorem witness_ActivationsAndStreams :
    let s := talking quiet
    let t : State := { s with mod := { s.mod with act := true, newRuntime := 5 } }
    let keys : IdeKeys := { link := false, stream := 0, posted := 3, nonPosted := 4, completion := 5 }
    let keyed (next : Option IdeKeys) : State :=
      { s with mod := { s.mod with ide := [(0, { state := 1, set := false, keys := keys, next := next, world := 0 })] } }
    (s.mod.act = false ∧ s.live = true) ∧ t.mod.act = true ∧ (tfind t.mod.responders 0).isSome = true ∧
    (s.channel session0 = some quiet ∧ (s.ideOf 0).state ≠ 1 ∧ (keyed none).channel session0 = some quiet ∧
      ((keyed none).ideOf 0).state = 1) ∧
    (((keyed (some keys)).ideOf 0).state = 1 ∧ ((keyed (some keys)).ideOf 0).next = some keys ∧ ((keyed none).ideOf 0).next = none) ∧
    (s.mod.mode = false ∧ secret.mod.mode = true) := by decide +kernel

/-! ### The spec's worked examples -/

/-- The warp after an instruction issues to warp W. -/
def ran (W : Warp) (i : Instr) : Warp :=
  match exec i (put base cls W grp) with
  | .next t => t.warp 0
  | _ => Warp.reset
/-- The same value of a vector register in every lane. -/
def fill (n : Nat) (x : Word) : Table Word := (List.range 32).map fun l => (32 * n + l, x)
/-- v9 in a lane after an instruction. -/
def v9 (W : Warp) (i : Instr) (l : Nat) : Word := (ran W i).src 0 (.v 9) l

/-- R65: `iaddi.s32 v11, v10, 1` and `(!p2) iadd.s32 v12, v11, k3`, from the words of the example: a step from reset with
the word placed reads 0 and gives 1; with v10 = 5 the pair gives 6 and 106. -/
theorem test_step_iaddi :
    (match step (State.reset.withFetchWord 64 0x000000017A0A0B47) with
      | .next t => ((t.warp 0).src 0 (.v 11) 0).toNat
      | _ => 0) = 1 ∧
    (let W := ran { wrp with v := fill 10 5, k := [(3, 100)] } (.iaddi ⟨g7, .s32, .v 11, .v 10⟩ 1)
     (W.src 0 (.v 11) 0).toNat = 6 ∧ ((ran W (.iadd ⟨gn2, .s32, .v 12, .v 11, .k 3⟩ false)).src 0 (.v 12) 0).toNat = 106) := by
  decide +kernel

/-- R97: the values of wext. -/
theorem test_wext :
    let f (m : WMode) (c : Word) : Word :=
      v9 { wrp with k := [(0, 0x89ABCDEF), (1, 0x01234567), (2, c)] } (.wext ⟨g7, .n32, .v 9, .k 0, .k 1, .k 2⟩ m) 31
    (f .lo 8, f .hi 8, f .rot 8, f .rot 68, f .lo 68) = (0x6789ABCD, 0x23456789, 0x6789ABCD, 0x789ABCDE, 0) := by
  decide +kernel

/-- R99: mix3.sel. -/
theorem test_mix3 :
    v9 { wrp with k := [(1, 0x0000FFFF), (2, 0xFFFF0000), (3, 0x00FF00FF)] } (.mix3 ⟨g7, .n32, .v 9, .k 1, .k 2, .k 3⟩ 0xCA) 0 =
      0x00FFFF00 := by decide +kernel

/-- R104: the three exchanges of v8[L] = 10 × L. -/
theorem test_xlane :
    let f (m : XMode) (b c : Word) (l : Nat) : Nat :=
      (v9 { wrp with v := (List.range 32).map fun l => (32 * 8 + l, BitVec.ofNat 32 (10 * l)), k := [(1, b), (2, c)] }
        (.xlane ⟨g7, .n32, .v 9, .v 8, .k 1, .k 2⟩ m) l).toNat
    [f .off 1 0xFF 0, f .off 1 0xFF 6, f .off 1 0xFF 7, f .off 1 0xFF 12, f .off 1 0xFF 31] = [10, 70, 70, 120, 310] ∧
    [f .off 0xFFFFFFFF 0xFFFFFFFF 0, f .off 0xFFFFFFFF 0xFFFFFFFF 1, f .off 0xFFFFFFFF 0xFFFFFFFF 31] = [0, 0, 300] ∧
    [f .rot 1 0xFFFFFFFF 0, f .rot 1 0xFFFFFFFF 31] = [10, 0] := by decide +kernel

/-- R105: lanes 0 to 15 are active, and q is true in lanes 3, 9 and 20. -/
theorem test_lpoll :
    let W : Warp := { wrp with preds := [(0, 0xFFFF), (1, 0x00100208)] }
    let g : Guard := ⟨false, 0⟩
    v9 W (.lpoll g (.mask (.v 9)) 1) 15 = 0x208 ∧ v9 W (.lpoll g (.count (.v 9)) 1) 0 = 2 ∧
    v9 W (.lpoll g (.first (.v 9)) 1) 0 = 3 ∧ v9 W (.lpoll g (.first (.v 9)) 1) 16 = 0 ∧
    ((ran W (.lpoll g (.some 2) 1)).pred 2, (ran W (.lpoll g (.every 3) 1)).pred 3) = (0xFFFF, 0) := by decide +kernel

/-- R41: −0.3 under each rounding code into s32, into n32, and −1.5 into n32. −0.3 as f32 is 0xBE99999A. -/
theorem test_cvfi :
    let f (ty : Ty) (rnd : Rnd) (x : Word) : Word × Word :=
      let W := ran { wrp with k := [(1, x)] } (.cvfi ⟨g7, ty, .v 9, .k 1⟩ ⟨rnd, .f32, 0, 0, false⟩)
      (W.src 0 (.v 9) 0, (W.pendFlags ||| W.fpst) &&& 1)
    [Rnd.rn, .rz, .rp, .rm].map (fun r => (f .s32 r 0xBE99999A).1) = [0, 0, 0, 0xFFFFFFFF] ∧
    f .n32 .rn 0xBE99999A = (0, 0) ∧ f .n32 .rn 0xBFC00000 = (0, 1) := by decide +kernel

/-- R43: the three cases of the example. -/
theorem test_dot :
    let t (c : Nat) (a0 a1 : Nat) : Nat :=
      dotRule (products ([a0, a1, 0x3FC0].map (Fl.decode bf16Fmt)) ([0x4E80, 0x4E80, 0x3F80].map (Fl.decode bf16Fmt)) ++
        [some (f32Val c)])
    (t 0x453B8000 0x4E80 0xCE80, t 0x447A0000 0x4E80 0xCE80, t 0x453B8000 0 0) = (0x45000000, 0, 0x453B9800) := by
  decide +kernel

/-- R49 to R51: four inputs in a sum cell, and the cell read as f32. -/
theorem test_sum_cell :
    let add (c : List Byte) (ty : Ty) (x : Nat) : List Byte := atomicBytes (.fxadd (form ty .global)) ty c x 0
    let c := add (add (add (add (toBytes 32 0) .f32 0x3FC00000) .f32 0x82800000) .s32 0xFFFFFFF9) .f32 0x03400000
    ofBytes c = 1 + 0xFA80000000000000 * 2 ^ 64 + (2 ^ 128 - 1) * 2 ^ 128 ∧ (cellRead .f32 .rn (ofBytes c)).1 = 0xC0B00000 := by
  decide +kernel

/-- R275: the nodes of the tree example. -/
theorem test_reduction_tree :
    combineWords [0x4B800000, 0x3F800000] = 0x4B800000 ∧ combineWords [0x3F800000, 0x3F800000] = 0x40000000 ∧
    combineWords [0x4B800000, 0x40000000] = 0x4B800001 := by decide +kernel

/-- The header of the clause under R65. -/
theorem test_decode_header :
    (decodeHeader 0xCA00000007E3F032).map (fun h => (h.ports, h.count.val, h.w1cls.val, h.w1thr, h.sbmask)) =
      some (3, 2, 0, 63, 0) := by decide +kernel

end Sys2Proof.Tests
end

section
/-! ## The scope: what reset leaves, and the clock of a die

Proofs of the statements over spec/00_scope.md: the values that the module holds right after reset, and how a die's clock
follows its windows of late transitions, its heat and its limits (R9, R329, R330, R358). -/

namespace Sys2Proof.Machine

/-! ### Dies listed in the order of their numbers -/

/-- A table made from a list, each element under its own place, holds at a place what the list holds there. -/
theorem tfind_map_zipIdx {α β : Type} (f : α → Nat → β) (l : List α) (n : Nat) :
    tfind (l.zipIdx.map fun e => (e.2, f e.1 e.2)) n = l[n]?.map fun x => f x n := by
  suffices h : ∀ k, tfind ((l.zipIdx k).map fun e => (e.2, f e.1 e.2)) (k + n) = l[n]?.map fun x => f x (k + n) by
    simpa using h 0
  induction l generalizing n with
  | nil => exact fun _ => rfl
  | cons x l ih =>
    intro k
    cases n with
    | zero => simp [tfind]
    | succ n => simpa [tfind, Nat.add_assoc, Nat.add_comm 1 n] using ih n (k + 1)

/-- Every die of the module stands at reset with the units that the rated configuration gives it. -/
theorem State.die_reset {n : Nat} (h : n < 32) : ∃ c, State.reset.die n = Die.reset true c := by
  have hfind : tfind diesReset n = ratedConfig.dies[n]?.map (Die.reset true) :=
    tfind_map_zipIdx (fun c _ => Die.reset true c) ratedConfig.dies n
  have hlen : n < ratedConfig.dies.length := by simpa [ratedConfig] using h
  refine ⟨ratedConfig.dies[n], ?_⟩
  show tget _ diesReset n = _
  rw [tget_eq, hfind, List.getElem?_eq_getElem hlen]
  rfl

/-- No engine context holds a program at reset. -/
theorem State.prog?_reset (e : EngRef) : State.reset.prog? e = none := by
  cases e <;> rfl

/-- Settles O6: the parts that reset leaves empty read as their reset values, and every die as the rated configuration. -/
theorem resetLeavesItsValues : Obligations.ResetLeavesItsValues := by
  unfold Obligations.ResetLeavesItsValues
  refine ⟨State.reset_inv, ⟨rfl, rfl, rfl, by decide⟩, fun n => ⟨rfl, rfl, rfl⟩, fun n => ⟨rfl, rfl, rfl, rfl⟩,
    State.prog?_reset, fun core => ⟨rfl, rfl⟩, fun n hn => ?_, rfl, by decide⟩
  obtain ⟨c, hc⟩ := State.die_reset hn
  rw [hc]
  exact ⟨rfl, rfl, rfl, fun i => rfl⟩

/-! ### Windows of late transitions -/

@[simp] theorem Clock.roll_fmhz (c : Clock) (rt : Nat) : (c.roll rt).fmhz = c.fmhz := by
  simp only [Clock.roll]; split <;> rfl
@[simp] theorem Clock.roll_stepping (c : Clock) (rt : Nat) : (c.roll rt).stepping = c.stepping := by
  simp only [Clock.roll]; split <;> rfl

/-- The entry that stands after another: the one of more late transitions, the earlier of two alike (R330). -/
def Clock.worse (best : Option (Nat × Nat)) (e : Nat × Nat) : Option (Nat × Nat) :=
  match best with
  | some b => if b.2 < e.2 then some e else best
  | none => some e

theorem Clock.worstCore_eq (c : Clock) : c.worstCore = (c.lateCores.foldl Clock.worse none).map Prod.fst := by
  unfold Clock.worstCore
  congr 2
  funext best e
  cases best <;> rfl

/-- What stands after an entry is that entry or what stood before, and neither exceeds it. -/
theorem Clock.worse_eq_some (best : Option (Nat × Nat)) (e : Nat × Nat) :
    ∃ r, Clock.worse best e = some r ∧ (r = e ∨ best = some r) ∧ e.2 ≤ r.2 ∧ ∀ b ∈ best, b.2 ≤ r.2 := by
  cases best with
  | none => exact ⟨e, rfl, .inl rfl, le_rfl, by simp⟩
  | some b =>
    by_cases h : b.2 < e.2
    · exact ⟨e, if_pos h, .inl rfl, le_rfl, by simpa using h.le⟩
    · exact ⟨b, if_neg h, .inr rfl, not_lt.1 h, by simp⟩

/-- The entry chosen from a list is in the list, or the one begun with, and none exceeds it. -/
theorem Clock.foldl_worse {l : List (Nat × Nat)} {best : Option (Nat × Nat)} {r : Nat × Nat}
    (h : l.foldl Clock.worse best = some r) :
    (r ∈ l ∨ best = some r) ∧ (∀ e ∈ l, e.2 ≤ r.2) ∧ ∀ b ∈ best, b.2 ≤ r.2 := by
  induction l generalizing best with
  | nil => cases h; simp
  | cons e l ih =>
    obtain ⟨x, hx, hfrom, hex, hbx⟩ := Clock.worse_eq_some best e
    rw [List.foldl_cons, hx] at h
    obtain ⟨hmem, hle, hxr⟩ := ih h
    have hxr : x.2 ≤ r.2 := hxr x rfl
    refine ⟨?_, ?_, fun b hb => (hbx b hb).trans hxr⟩
    · rcases hmem with hmem | hmem
      · exact .inl (List.mem_cons_of_mem e hmem)
      · cases hmem
        exact hfrom.imp_left fun he => by simp [he]
    · rintro y (_ | ⟨_, hy⟩)
      · exact hex.trans hxr
      · exact hle y hy

/-- The core that reports most has a count in the window, and none has a greater one. -/
theorem Clock.worstCore_max {c : Clock} {core : Nat} (h : c.worstCore = some core) :
    ∃ n, (core, n) ∈ c.lateCores ∧ ∀ e ∈ c.lateCores, e.2 ≤ n := by
  rw [Clock.worstCore_eq, Option.map_eq_some_iff] at h
  obtain ⟨⟨_, n⟩, hbest, rfl⟩ := h
  obtain ⟨hmem, hle, _⟩ := Clock.foldl_worse hbest
  exact ⟨n, hmem.resolve_right nofun, hle⟩

/-- A saturating counter fits its bits. -/
theorem bump_lt (n v : Nat) : bump n v < 2 ^ n := by
  have := Nat.two_pow_pos n
  unfold bump
  omega

/-! ### Clock steps -/

section
variable {s : State} {die : Nat}

/-- After a window above LTHR the clock steps down, and the next window counts afresh (R330). -/
theorem execClockStepDown_loud (hstep : (s.die die).clock.stepping = none)
    (hloud : (s.die die).lthr < ((s.die die).clock.roll s.rt).windowLate) (hfast : 1300 ≤ (s.die die).clock.fmhz) :
    execClockStepDown die s = .next (s.startStep die ((s.die die).clock.fmhz - 100) fun _ =>
      { (s.die die).clock.roll s.rt with windowLate := 0, lateCores := [] }) := by
  simp [execClockStepDown, hstep, hloud, hfast]

theorem execClockStepDown_quiet (hquiet : ((s.die die).clock.roll s.rt).windowLate ≤ (s.die die).lthr) :
    execClockStepDown die s = .next s := by
  simp [execClockStepDown, not_lt.2 hquiet]

/-- At the floor no slower step is left, and the core that reports most is retired (R330). -/
theorem execClockStepDown_floor {core : Nat} (hstep : (s.die die).clock.stepping = none)
    (hloud : (s.die die).lthr < ((s.die die).clock.roll s.rt).windowLate) (hfloor : (s.die die).clock.fmhz < 1300)
    (hworst : ((s.die die).clock.roll s.rt).worstCore = some core) :
    execClockStepDown die s = execCoreRetire core true (s.onClock die fun _ =>
      { (s.die die).clock.roll s.rt with windowLate := 0, lateCores := [] }) := by
  simp [execClockStepDown, hstep, hloud, hfloor, hworst]

/-- A die that heat has not stepped down takes back a step after 2^24 rt of quiet windows (R330). -/
theorem execClockStepUp_quiet (hstep : (s.die die).clock.stepping = none)
    (hquiet : (s.die die).clock.quietSince + 2 ^ 24 ≤ s.rt) (hmax : (s.die die).clock.fmhz + 100 ≤ (s.die die).clock.fmax)
    (hcool : (s.die die).clock.hot = false) :
    execClockStepUp die s = .next (s.startStep die ((s.die die).clock.fmhz + 100) id) :=
  if_pos ⟨hquiet, hstep, hmax, by simp [hcool]⟩

theorem execClockStepUp_highest (hmax : (s.die die).clock.fmax < (s.die die).clock.fmhz + 100) :
    execClockStepUp die s = .next s :=
  if_neg fun ⟨_, _, h, _⟩ => not_lt.2 h hmax

theorem execThermalClockStep_down (hstep : (s.die die).clock.stepping = none)
    (hhot : 105 < tget 0 s.mod.sensors.junction die) (hfast : 1300 ≤ (s.die die).clock.fmhz) :
    execThermalClockStep die false s =
      .next (s.startStep die ((s.die die).clock.fmhz - 100) fun c => { c with hot := true }) := by
  simp [execThermalClockStep, hstep, hhot, hfast]

/-- Once the junction has stayed cool, heat's steps are taken back one by one up to the highest clock (R358). -/
theorem execThermalClockStep_up (hstep : (s.die die).clock.stepping = none)
    (hjunction : tget 0 s.mod.sensors.junction die < 95) (hhot : (s.die die).clock.hot = true)
    (hcool : (s.die die).clock.coolSince + 2 ^ 24 ≤ s.rt)
    (hmax : (s.die die).clock.fmhz + 100 ≤ (s.die die).clock.fmax) :
    execThermalClockStep die true s = .next (s.startStep die ((s.die die).clock.fmhz + 100) fun c =>
      { c with hot := decide (c.fmhz + 100 < c.fmax), coolSince := s.rt }) := by
  unfold execThermalClockStep
  simp only [hstep, ne_eq, not_true_eq_false, if_false, if_true]
  exact if_pos ⟨hhot, hjunction, hcool, hmax⟩

end

/-! ### A step completes -/

/-- A change of a die that leaves the clock alone, at any die. -/
theorem State.die_onDie_clock (s : State) (die : Nat) {f : Die → Die} (hf : ∀ d, (f d).clock = d.clock) (e : Nat) :
    ((s.onDie die f).die e).clock = (s.die e).clock := by
  simp only [State.onDie, State.die, tget_eq, tfind_tmap]
  split
  · cases tfind s.dies e with
    | none => rfl
    | some d => exact hf d
  · rfl

/-- A ring entry leaves the count of clk as it is. -/
@[simp] theorem State.clk_ring (s : State) (die code ctx : Nat) (data : List Nat) (e : Nat) :
    (s.ring die code ctx data).clk e = s.clk e := by
  have hclock : ((s.ring die code ctx data).die e).clock = (s.die e).clock := by
    refine s.die_onDie_clock die ?_ e
    exact fun _ => rfl
  simp only [State.clk, hclock, State.ring_time]

/-- A die that a step is in progress at is one of the module's. -/
theorem State.exists_die_of_stepping {s : State} {die mhz : Nat} (h : (s.die die).clock.stepping = some mhz) :
    ∃ d, tfind s.dies die = some d := by
  cases hd : tfind s.dies die with
  | some d => exact ⟨d, rfl⟩
  | none =>
    rw [State.die, tget_eq, hd] at h
    exact absurd h nofun

/-- A clock that goes on from the count so far, at whatever frequency, counts on from it (R9). -/
theorem State.clk_onDie_rebased {s : State} {die : Nat} {d : Die} {f : Die → Die} (h : tfind s.dies die = some d)
    (hbase : ∀ d, (f d).clock.base = s.clk die) (hsince : ∀ d, (f d).clock.since = s.time.now) :
    (s.onDie die f).clk die = s.clk die := by
  rw [State.clk, State.die_onDie s f h]
  simp [hbase, hsince]

theorem execClockStepComplete_stepping {s : State} {die mhz : Nat} (h : (s.die die).clock.stepping = some mhz) :
    execClockStepComplete die s = .next ((s.onDie die fun d => { d with clock :=
      { d.clock with
        fmhz := mhz, base := s.clk die, since := s.time.now, stepping := none,
        quietSince := max d.clock.quietSince s.rt } }).ring die 0x07 0 [(s.die die).clock.fmhz, mhz]) := by
  simp only [execClockStepComplete, h]
  rfl

/-! ### The power cut -/

/-- The cut takes what a cold reset clears, the dies' units alone standing as they did (R358, log entries 6 and 45). -/
theorem execThermalPowerCut_above {s : State} (hpower : s.mod.power = true)
    (habove : (∃ e ∈ s.mod.sensors.junction, 115 < e.2) ∨ 45 < s.mod.sensors.inlet ∨ s.mod.sensors.flow < 18) :
    execThermalPowerCut s = .next { s.blank true with
      dies := s.dies.map fun (n, d) =>
        (n, Die.reset false { cores := d.cores, slices := d.slices, hbmStacks := d.hbmStacks, links := 0 })
      mod := { (s.blank true).mod with power := false } } := by
  refine if_pos ?_
  simpa [hpower, or_assoc] using habove

/-- Settles O55: each event's outcome by its own lemma; the rest is that a die which the module holds reads as changed. -/
theorem clocksFollowTheirWindows : Obligations.ClocksFollowTheirWindows := by
  unfold Obligations.ClocksFollowTheirWindows
  refine ⟨fun c core h => Clock.worstCore_max h, fun s core d hd => ?late, fun s die hstep => ?steps,
    fun s die mhz hstep => ?completes, fun s hpower habove => ?cut⟩
  case late =>
    refine ⟨_, rfl, ?_⟩
    rw [State.die_onDie s _ hd]
    refine ⟨by simp, fun c hc => by simp [tget_tset, hc.symm], ?_, rfl, fun hloud => if_pos hloud, rfl, rfl, rfl, rfl, rfl⟩
    exact Nat.mod_eq_of_lt (bump_lt 32 _)
  case steps =>
    exact ⟨execClockStepDown_loud hstep, execClockStepDown_quiet, fun core => execClockStepDown_floor hstep,
      execClockStepUp_quiet hstep, execClockStepUp_highest, execThermalClockStep_down hstep, execThermalClockStep_up hstep⟩
  case completes =>
    have hnext := execClockStepComplete_stepping hstep
    refine ⟨hnext, fun r hr => ?_⟩
    obtain ⟨d, hd⟩ := State.exists_die_of_stepping hstep
    cases hnext.symm.trans hr
    rw [State.clk_ring]
    exact State.clk_onDie_rebased hd (fun _ => rfl) fun _ => rfl
  case cut =>
    exact ⟨_, execThermalPowerCut_above hpower habove, rfl, rfl, rfl, rfl, rfl, rfl⟩

end Sys2Proof.Machine
end

section
/-! ## Architectural state: the invariant, operands, registers, predicates and faults at issue

Proofs of the statements over spec/01_architectural_state.md that speak of one instruction as it issues: what operand codes
read as, what a result leaves, what no active lane and what a failed check leave (R17, R19 to R22, R60, R61). -/

namespace Sys2Proof.Machine

/-! ### The invariant -/

/-- A step runs what a turn comes to, and both keep the invariant. -/
theorem step_keeps {s : State} (h : s.Inv) : Keeps (step s) := by
  have hturn := State.turn_keeps h
  unfold step
  split
  next i t e => exact exec_keeps (turn_eq_run e hturn)
  next t e => exact keeps_next (turn_eq_go e hturn)
  next f e => exact keeps_fault

/-- Settles O7: a turn and what it runs keep the invariant, one lemma for each meaning. -/
theorem everyStepKeepsTheInvariant : Obligations.EveryStepKeepsTheInvariant := by
  unfold Obligations.EveryStepKeepsTheInvariant
  intro s t h e
  have hkeeps := step_keeps h
  rwa [e] at hkeeps

/-! ### Operand codes -/

/-- Two words side by side, as a number. -/
theorem toNat_append_word (x y : Word) : (x ++ y).toNat = y.toNat + 2 ^ 32 * x.toNat := by
  rw [BitVec.toNat_append, ← Nat.shiftLeft_add_eq_or_of_lt y.isLt, Nat.shiftLeft_eq]
  omega

/-- Settles O8: a pair is its two registers side by side, and every other case is the code's own. -/
theorem operandCodesRead : Obligations.OperandCodesRead := by
  unfold Obligations.OperandCodesRead
  intro W w l hw hl
  refine ⟨fun n _ => toNat_append_word _ _, fun n _ => toNat_append_word _ _, fun n m => rfl, ?special, rfl, rfl, ?vpair,
    ?kpair, ?vword, fun n wide => ⟨rfl, rfl⟩, ?source⟩
  case special =>
    rintro (_ | _) <;> refine ⟨rfl, ?_, ?_⟩ <;> simp [Warp.srcN, Warp.src, Warp.src64] <;> omega
  case vpair =>
    rintro n u (rfl | rfl) <;> simp [Use.illegal, Use.outOfRange, rd, wr] <;> omega
  case kpair =>
    rintro n u (rfl | rfl) <;> simp [Use.illegal, rd, wr]
  case vword =>
    rintro n u (rfl | rfl) <;> simp [Use.illegal, Use.outOfRange, rd, wr]
  case source =>
    rintro o wide (rfl | rfl | rfl) <;> exact ⟨rfl, rfl⟩

/-! ### Lane sets -/

theorem mem_lanesOf {m : LaneSet} {l : Nat} : l ∈ lanesOf m ↔ l < 32 ∧ inSet m l = true := by
  simp [lanesOf]

/-- A fold whose elements each write a place of their own leaves at one place what its element writes. -/
theorem foldl_read {σ α : Type} {step : σ → Nat → σ} {read : σ → α} {j : Nat} {v : α} {L : List Nat}
    (hsame : ∀ V, read (step V j) = v) (hother : ∀ V, ∀ i ∈ L, i ≠ j → read (step V i) = read V) (W : σ) :
    read (L.foldl step W) = if j ∈ L then v else read W := by
  induction L generalizing W with
  | nil => simp
  | cons i L ih =>
    rw [List.foldl_cons, ih fun V k hk => hother V k (List.mem_cons_of_mem i hk)]
    by_cases hi : i = j
    · simp [hi, hsame]
    · simp [hother W i List.mem_cons_self hi, Ne.symm hi]

/-! ### Registers after a result (R17, R19, R20) -/

theorem Warp.src_putV (W : Warp) (w n i : Nat) (x : Word) (m : Fin 192) {l : Nat} (hi : i < 32) (hl : l < 32) :
    (W.putV n i x).src w (.v m) l = if n = m.val ∧ i = l then x else W.src w (.v m) l := by
  have hkey : 32 * n + i = 32 * m.val + l ↔ n = m.val ∧ i = l := by omega
  simp only [Warp.src, Warp.putV, tget_tset, hkey]

/-- A vector destination changes in the active lanes alone. -/
theorem Warp.dst_v_src (W : Warp) (w : Nat) (n m : Fin 192) (act : LaneSet) (f : Nat → Word) {l : Nat} (hl : l < 32) :
    (W.dst (.v n) act f).src w (.v m) l = if n = m ∧ inSet act l then f l else W.src w (.v m) l := by
  by_cases hn : n = m
  · subst hn
    refine (foldl_read (read := fun V : Warp => V.src w (.v n) l) (j := l) (v := f l) (fun V => ?_) (fun V i hi hne => ?_)
      W).trans ?_
    · simp [Warp.src_putV _ _ _ _ _ _ hl hl]
    · simp [Warp.src_putV _ _ _ _ _ _ (mem_lanesOf.1 hi).1 hl, hne]
    · simp [mem_lanesOf, hl]
  · simp only [hn, false_and, if_false]
    refine List.foldlRecOn (motive := fun V : Warp => V.src w (.v m) l = W.src w (.v m) l) _ _ rfl fun V hV i hi => ?_
    rw [Warp.src_putV _ _ _ _ _ _ (mem_lanesOf.1 hi).1 hl, if_neg fun h => hn (Fin.ext h.1), hV]

theorem Warp.dst_v_k (W : Warp) (n : Fin 192) (act : LaneSet) (f : Nat → Word) : (W.dst (.v n) act f).k = W.k :=
  List.foldlRecOn (motive := fun V : Warp => V.k = W.k) _ _ rfl fun _ hV _ _ => hV

theorem Warp.dst_k_v (W : Warp) (n : Fin 56) (act : LaneSet) (f : Nat → Word) : (W.dst (.k n) act f).v = W.v := by
  unfold Warp.dst
  cases lowest act <;> rfl

/-- A uniform destination takes the value of the lowest-numbered active lane. -/
theorem Warp.dst_k_src (W : Warp) (w : Nat) (n m : Fin 56) {act : LaneSet} (f : Nat → Word) (l : Nat) {i : Nat}
    (h : lowest act = some i) :
    (W.dst (.k n) act f).src w (.k m) l = if n = m then f i else W.src w (.k m) l := by
  simp [Warp.dst, h, Warp.src, Warp.putK, tget_tset, Fin.ext_iff]

theorem Warp.dst_k_none (W : Warp) (n : Fin 56) {act : LaneSet} (f : Nat → Word) (h : lowest act = none) :
    W.dst (.k n) act f = W := by
  simp only [Warp.dst, h]

theorem append_extract_words (x : Double) : x.extractLsb' 32 32 ++ x.extractLsb' 0 32 = x :=
  (BitVec.extractLsb'_append_extractLsb'_eq_extractLsb' rfl).trans BitVec.extractLsb'_eq_self

/-- A vector pair holds in an active lane what was written there. -/
theorem Warp.dst64_v_src64 (W : Warp) (w : Nat) (n : Fin 191) {act : LaneSet} (f : Nat → Double) {l : Nat} (hl : l < 32)
    (hact : inSet act l = true) :
    (W.dst64 (.v ⟨n.val, by omega⟩) act f).src64 w (.v ⟨n.val, by omega⟩) l = f l := by
  refine (foldl_read (read := fun V : Warp => V.src64 w (.v ⟨n.val, by omega⟩) l) (j := l) (v := f l) (fun V => ?_)
    (fun V i hi hne => ?_) W).trans ?_
  · simp [Warp.src64, Warp.putV, tget_tset, append_extract_words]
  · have hi := (mem_lanesOf.1 hi).1
    have hhigh : ¬ 32 * n.val + i = 32 * (n.val + 1) + l := by omega
    have hlow : ¬ 32 * (n.val + 1) + i = 32 * n.val + l := by omega
    simp [Warp.src64, Warp.putV, tget_tset, hhigh, hlow, hne]
  · simp [mem_lanesOf, hl, hact]

theorem Warp.dst64_k_src64 (W : Warp) (w : Nat) (n : Fin 55) {act : LaneSet} (f : Nat → Double) (l : Nat) {i : Nat}
    (h : lowest act = some i) :
    (W.dst64 (.k ⟨n.val, by omega⟩) act f).src64 w (.k ⟨n.val, by omega⟩) l = f i := by
  simp [Warp.dst64, h, Warp.src64, Warp.putK, tget_tset, append_extract_words]

/-! ### Predicates (R22) -/

/-- A predicate changes in the active lanes alone, and p7 never. -/
theorem Warp.inSet_putPred (W : Warp) (p r : Fin 8) (act value : LaneSet) {l : Nat} (hl : l < 32) :
    inSet ((W.putPred p act value).pred r) l =
      if p = r ∧ p ≠ 7 ∧ inSet act l = true then inSet value l else inSet (W.pred r) l := by
  have hlane (m : LaneSet) : inSet m l = m.getLsbD l := rfl
  by_cases h7 : p = 7
  · subst h7; simp [Warp.putPred]
  · have h7v : p.val ≠ 7 := fun h => h7 (Fin.ext h)
    by_cases hr : p = r
    · subst hr
      simp only [Warp.putPred, Warp.pred, h7v, h7, hlane, if_false, tget_tset_same, BitVec.getLsbD_or, BitVec.getLsbD_and,
        BitVec.getLsbD_not, hl, ne_eq, not_false_eq_true, true_and, decide_true, Bool.true_and]
      cases act.getLsbD l <;> simp
    · have hne : p.val ≠ r.val := fun h => hr (Fin.ext h)
      simp [Warp.putPred, Warp.pred, h7v, hr, tget_tset, hne]

/-! ### Every instruction that a warp issues goes through `issue` (R60, R61) -/

/-- An instruction with needs p is issued with them, whatever it then does. -/
theorem exec_eq_issue {i p} (h : needsOf i = some p) (s : State) : ∃ body, exec i s = issue p body s := by
  cases i with
  | meet g form d => cases form <;> (cases h; exact ⟨_, by simp only [exec, execMeet]; rfl⟩)
  | lpoll g form q => cases form <;> (cases h; exact ⟨_, by simp only [exec, execLpoll, alu]; rfl⟩)
  | amv g mode spec tile cv => cases mode <;> (cases h; exact ⟨_, by simp only [exec, execAmv]; rfl⟩)
  | _ =>
    cases h <;> exact ⟨_, by
      simp only [exec, execNop, execBra, execBrx, execCall, execCallx, execRet, execExit, execSign, execWait,
        execBar, execCbar, execYield, execTrap, execCvset, execIadd, execIsub, execImul, execImulhi, execImad, execImadw,
        execIadd64, execIsub64, execImul64, execImad64, execShl, execShr, execSar, execMix3, execImin, execImax, execIabs,
        execIcmp, execSel, execPopc, execClz, execBrev, execBfe, execBfi, execIaddp, execIsubp, execIminp, execImaxp,
        execIabsp, execIdp4, execMov, execMovi, execXlane, execWred, execPmix3, execPget, execPset, execWext,
        execIaddi, execImuli, execIcmpi, execMixi, execFadd, execFmul, execFfma, execFmin, execFmax, execFcmp, execFabs,
        execFclass, execDadd, execDmul, execDfma, execDmin, execDmax, execDcmp, execDclass, execHadd2, execHmul2, execHfma2,
        execHmin2, execHmax2, execHcmp2, execFaddi, execFmuli, execFrcp, execFrsq, execFsqrt, execFex2, execFlg2, execFsin,
        execFcos, execFtanh, execDsqrt, execDrcp, execCvff, execCvfi, execCvif, execCvii, execPkf8, execPkf4, execMxsc,
        execLd, execSt, execLdb, execStb, execLdw, execSetempty, execAtadd, execAtmin, execAtmax, execAtand, execAtor,
        execAtxor, execAtexch, execAtcas, execRedadd, execRedmin, execRedmax, execRedand, execRedor, execRedxor, execFxadd,
        execFxrd, execNins, execLock, execUnlock, execFence, execMma, execMmag, execMmas, execSfpush, execSfpushFlush,
        execMmx, execAalloc, execAfree, execAcqa, execRela, execTcon8, execRsub, execCpost, execCtok, execAbort,
        execAbortRoot, execMcst, execRfence, execCdecl, execSweep, execByield, execBwakeNow, execBwakeNext, execBstate,
        execSget, execSset, execTret, execClkrd, execPreempt, alu, unary, binary, ternary, arith, branchTo, arriveBar,
        atomicOp, convert, engineOp, flBinary, flCompare, flTernary, flUnary, packedArith, product, reduceOp, memory]
      rfl⟩

/-- Two functions that agree on an entry change it alike. -/
theorem tmap_congr {β : Type} {f g : β → β} {t : Table β} {a : Nat} (h : ∀ x, tfind t a = some x → f x = g x) :
    tmap f t a = tmap g t a := by
  induction t with
  | nil => rfl
  | cons e t ih =>
    obtain ⟨k, w⟩ := e
    by_cases hk : k = a
    · simp only [tmap, hk, if_true]
      rw [h w (by simp [tfind, hk])]
    · simp only [tmap, hk, if_false]
      rw [ih fun x hx => h x (by simpa [tfind, hk] using hx)]

theorem State.onClause_congr {s : State} {q : Nat} {c : Clause} {f g : Clause → Clause} (hc : tfind s.comp.clauses q = some c)
    (h : f c = g c) : s.onClause q f = s.onClause q g := by
  have hmap : tmap f s.comp.clauses q = tmap g s.comp.clauses q :=
    tmap_congr fun x hx => by rw [← Option.some.inj (hc.symm.trans hx), h]
  simp only [State.onClause, hmap]

/-- A running clause moves on to its next instruction, or ends after its last. -/
theorem Runs.advance {s q c W g} (h : Runs s q c W g) : s.advance q = s.onClause q fun c =>
    if c.index = c.header.count.val then { c with ending := some .done, stalled := false }
    else { c with index := c.index + 1, stalled := false } := by
  obtain ⟨_, hc, hend, _, _⟩ := h
  exact State.onClause_congr hc (by simp [hend])

/-- An instruction without an active lane that passes its checks moves its clause on. -/
theorem exec_of_idle {i p s q c W g} (hneeds : needsOf i = some p) (h : Runs s q c W g) (hf : issueFault p c g = none)
    (hact : activeLanes c W p.guard = 0) : exec i s = .next (s.advance q) := by
  obtain ⟨body, hexec⟩ := exec_eq_issue hneeds s
  rw [hexec, issue_of_idle h hf hact]

/-- An instruction that fails a check is a precise fault. -/
theorem exec_of_fault {i p s q c W g cause} (hneeds : needsOf i = some p) (h : Runs s q c W g)
    (hf : issueFault p c g = some cause) : exec i s = .next (s.precise q c { cause := cause, lanes := c.lanes }) := by
  obtain ⟨body, hexec⟩ := exec_eq_issue hneeds s
  rw [hexec, issue_of_fault h hf]

theorem exec_unassignedOpcode {s q c W g} (op : BitVec 8) (h : Runs s q c W g) :
    exec (.unassignedOpcode op) s = .next (s.precise q c { cause := 1, lanes := c.lanes }) := by
  simp only [exec, execUnassignedOpcode, State.illegal, h.issuing]

/-- Settles O9: registers and predicates read back as written, and an instruction with needs goes through `issue`. -/
theorem resultsReachTheirRegisters : Obligations.ResultsReachTheirRegisters := by
  unfold Obligations.ResultsReachTheirRegisters
  refine ⟨fun W w n m act f l hl => W.dst_v_src w n m act f hl, fun W w n m act f l => ?uniform,
    fun W w n act f l hl hact => W.dst64_v_src64 w n f hl hact, fun W w n act f l i h => W.dst64_k_src64 w n f l h,
    fun W wide act f => by cases wide <;> rfl, fun W w n m act f l => ⟨?vector, ?other⟩,
    fun W p r act value l hl => W.inSet_putPred p r act value hl, fun W act value => rfl, fun W => ⟨rfl, ?never⟩,
    fun i p hneeds s q c W g h hf hact => ?idle, fun op s q c W g h => exec_unassignedOpcode op h⟩
  case never => exact (by decide : ~~~allLanes = 0)
  case uniform =>
    cases h : lowest act with
    | none => rw [W.dst_k_none n f h]
    | some i => exact W.dst_k_src w n m f l h
  case vector => simp only [Warp.src, Warp.dst_v_k]
  case other => simp only [Warp.src, Warp.dst_k_v]
  case idle => rw [exec_of_idle hneeds h hf hact, h.advance]

/-! ### A failed check (R21) -/

theorem State.warp_precise {s : State} {q : Nat} {c : Clause} {t : Trouble} {W : Warp} (h : s.warp? c.warp = some W) :
    (s.precise q c t).warp? c.warp =
      some { W.addFault W.seq c.h c.index false t with resume := some (c.h, c.index), seq := W.seq + 1 } := by
  show (s.onWarp c.warp _).warp? c.warp = _
  rw [State.warp_onWarp, h]
  rfl

/-- Settles O11: the fault is entered in the warp and ends the clause; every other part is the one before. -/
theorem failedCheckIsAPreciseFault : Obligations.FailedCheckIsAPreciseFault := by
  unfold Obligations.FailedCheckIsAPreciseFault
  intro i p hneeds s q c W g cause h hf
  obtain ⟨_, hc, _, hW, _⟩ := id h
  refine ⟨_, _, exec_of_fault hneeds h hf, State.warp_precise hW, rfl, rfl, rfl, rfl, rfl, rfl, ?_, rfl, rfl, rfl, rfl, rfl, rfl,
    rfl⟩
  simp [State.precise, hc]

end Sys2Proof.Machine
end

section
/-! ## System registers

Proofs of the statement over the system registers: what sget gives, sset writes and clkrd reads (R16, R24, R109, R186, R188,
R312, R335). -/

namespace Sys2Proof.Machine

/-! ### Instructions that change their warp alone -/

theorem State.onWarp_congr {s : State} {w : Nat} {W : Warp} {f g : Warp → Warp} (hW : s.warp? w = some W) (h : f W = g W) :
    s.onWarp w f = s.onWarp w g := by
  have hmap : tmap f s.comp.warps w = tmap g s.comp.warps w :=
    tmap_congr fun x hx => by rw [← Option.some.inj (hW.symm.trans hx), h]
  simp only [State.onWarp, hmap]

/-- An instruction that changes its warp alone, by what it sees of it, writes it and moves on. -/
theorem issue_of_onWarp {p body s q c W g} {f : Warp → Warp} (h : Issues p s q c W g)
    (hb : body (sees q c W g p.guard) s = .done (s.onWarp c.warp f)) : issue p body s = .next (s.wrote q c (f W)) := by
  obtain ⟨⟨_, _, _, hW, _⟩, _, _⟩ := id h
  rw [issue_of_done h hb, State.onWarp_congr hW (g := fun _ => f W) rfl]
  rfl

/-! ### The instructions (R186, R188) -/

theorem exec_sget {g ty d} {n : BitVec 16} {s q c W gr}
    (h : Issues { needs g [wr d ty.wide] with priv := sysReadPriv n.toNat } s q c W gr) :
    exec (.sget g ty d n) s = .next (s.wrote q c (W.dstN ty.wide d (activeLanes c W g) fun _ =>
      s.sysRead (sees q c W gr g) n.toNat)) := by
  simp only [exec, execSget]
  exact issue_of_onWarp
    (f := fun V => V.dstN ty.wide d (activeLanes c W g) fun _ => s.sysRead (sees q c W gr g) n.toNat) h rfl

theorem exec_clkrd {g ty d rt s q c W gr} (h : Issues (needs g [wr d ty.wide]) s q c W gr) :
    exec (.clkrd g ty d rt) s = .next (s.wrote q c (W.dstN ty.wide d (activeLanes c W g) fun _ =>
      if rt then s.rt else s.clk (dieOfCore (coreOf c.warp)))) := by
  simp only [exec, execClkrd]
  exact issue_of_onWarp
    (f := fun V => V.dstN ty.wide d (activeLanes c W g) fun _ => if rt then s.rt else s.clk (dieOfCore (coreOf c.warp))) h rfl

/-- The value that an sset writes: the lowest active lane's. -/
def Ctx.sysValue (x : Ctx) (ty : Ty) (a : Opnd) : Nat := if ty.wide then x.one64 a else x.one a

theorem exec_sset_wdesc {g ty a s q c W gr} (h : Runs s q c W gr) (hf : issueFault (needs g [rd a ty.wide]) c gr = none) :
    exec (.sset g ty a 1) s = .next (s.precise q c { cause := 5, lanes := c.lanes }) := by
  refine exec_of_fault rfl h ?_
  revert hf
  simp only [issueFault, needs]
  split_ifs <;> simp_all


/-- An sset of any register but WDESC and CSCFG writes the warp. -/
theorem exec_sset {g ty a} {n : BitVec 16} {s q c W gr} (h1 : n.toNat ≠ 1) (h2 : n.toNat ≠ 2)
    (h : Issues { needs g [rd a ty.wide] with priv := sysWritePriv n.toNat } s q c W gr) :
    exec (.sset g ty a n) s = .next (s.wrote q c (
      if 0x10 ≤ n.toNat ∧ n.toNat < 0x20 then W.putCv (n.toNat - 0x10) (BitVec.ofNat 64 ((sees q c W gr g).sysValue ty a))
      else if n.toNat = 0x21 then W.setFpst (BitVec.ofNat 32 ((sees q c W gr g).sysValue ty a))
      else { W with trap := W.trap.write (n.toNat - 0x100) (BitVec.ofNat 64 ((sees q c W gr g).sysValue ty a)) })) := by
  simp only [exec, execSset, h1, h2, if_false, decide_false]
  exact issue_of_onWarp (f := fun V =>
    if 0x10 ≤ n.toNat ∧ n.toNat < 0x20 then V.putCv (n.toNat - 0x10) (BitVec.ofNat 64 ((sees q c W gr g).sysValue ty a))
    else if n.toNat = 0x21 then V.setFpst (BitVec.ofNat 32 ((sees q c W gr g).sysValue ty a))
    else { V with trap := V.trap.write (n.toNat - 0x100) (BitVec.ofNat 64 ((sees q c W gr g).sysValue ty a)) }) h rfl

theorem exec_sset_cscfg {g ty a s q c W gr} (h : Issues { needs g [rd a ty.wide] with priv := true } s q c W gr) :
    exec (.sset g ty a 2) s = .next ((
      let size := (sees q c W gr g).sysValue ty a / 2 ^ 24 % 256
      if 1 ≤ size ∧ size ≤ 8 then
        s.onCore (coreOf c.warp) fun x => { x with pl1sz := BitVec.ofNat 8 size } else s).advance q) := by
  simp only [exec, execSset]
  exact issue_of_done h rfl

/-! ### Masks and counts of bits -/

theorem bitOf_eq_testBit (w i : Nat) : bitOf w i = w.testBit i := by
  rw [bitOf, Nat.testBit_eq_decide_div_mod_eq]

theorem popCount_eq (n w : Nat) : popCount n w = ((List.range n).filter fun k => w.testBit k).length := by
  simp only [popCount, funext (bitOf_eq_testBit w)]

/-- The number whose bits below n are those that p is true of. -/
def maskOf (p : Nat → Bool) (n : Nat) : Nat := (List.range n).foldl (fun m i => m + b2n (p i) * 2 ^ i) 0

theorem maskOf_succ (p : Nat → Bool) (n : Nat) : maskOf p (n + 1) = 2 ^ n * b2n (p n) + maskOf p n := by
  simp only [maskOf, List.range_succ, List.foldl_append, List.foldl_cons, List.foldl_nil]
  ring

theorem maskOf_lt (p : Nat → Bool) (n : Nat) : maskOf p n < 2 ^ n := by
  induction n with
  | zero => exact Nat.one_pos
  | succ n ih =>
    rw [maskOf_succ, Nat.pow_succ]
    cases p n <;> simp [b2n] <;> omega

theorem testBit_maskOf (p : Nat → Bool) (n k : Nat) : (maskOf p n).testBit k = true ↔ k < n ∧ p k = true := by
  induction n with
  | zero => simp [maskOf]
  | succ n ih =>
    have hbit : b2n (p n) = (p n).toNat := by cases p n <;> rfl
    rw [maskOf_succ, Nat.testBit_two_pow_mul_add _ (maskOf_lt p n), hbit, Nat.testBit_bool_toNat]
    rcases Nat.lt_trichotomy k n with h | rfl | h
    · simp [h, ih, show k < n + 1 by omega]
    · simp
    · simp [show ¬ k < n by omega, show ¬ k < n + 1 by omega, show k - n ≠ 0 by omega]

theorem bits_ne_zero {w lo n : Nat} : bits w (lo + n) lo ≠ 0 ↔ ∃ j < n + 1, w.testBit (lo + j) = true := by
  have hbit (j : Nat) : (bits w (lo + n) lo).testBit j = (decide (j < n + 1) && w.testBit (lo + j)) := by
    rw [bits, show lo + n + 1 - lo = n + 1 by omega, Nat.testBit_mod_two_pow, Nat.testBit_div_two_pow, Nat.add_comm j]
  constructor
  · intro h
    obtain ⟨j, hj⟩ := Nat.exists_testBit_of_ne_zero h
    rw [hbit] at hj
    exact ⟨j, by simpa using hj⟩
  · rintro ⟨j, hj, h⟩ hzero
    have := hbit j
    simp [hzero, hj, h] at this


/-! ### The registers' values -/

theorem State.sysRead_wdesc (s : State) (x : Ctx) : s.sysRead x 1 = (x.g.descriptor (groupOf x.w) (x.w % 64)).toNat :=
  if_pos rfl

theorem State.sysRead_cv (s : State) (x : Ctx) {n : Nat} (h : n < 8) : s.sysRead x (0x10 + n) = (x.W.cv n).toNat := by
  unfold State.sysRead
  rw [if_neg (by omega), if_neg (by omega), if_pos (by omega), Nat.add_sub_cancel_left]

theorem State.sysRead_trap (s : State) (x : Ctx) {n : Nat} (h : n < 0x100) :
    s.sysRead x (0x100 + n) = (x.W.trap.read n).toNat := by
  unfold State.sysRead
  rw [if_neg (by omega), if_neg (by omega), if_neg (by omega), if_neg (by omega), if_neg (by omega), if_pos (by omega),
    Nat.add_sub_cancel_left]

/-- A lane's trapped pc (R312). -/
theorem TrapRegs.read_pc (t : TrapRegs) {n : Nat} (h : n < 32) : t.read (0x20 + n) = tget 0 t.pcs n := by
  unfold TrapRegs.read
  split
  case h_10 => rw [if_pos (by omega), Nat.add_sub_cancel_left]
  all_goals omega

/-- The numbers between the trap registers and the lanes' pcs name no register. -/
theorem TrapRegs.read_unnamed (t : TrapRegs) {n : Nat} (h : 9 ≤ n) (h' : n < 0x20) : t.read n = 0 := by
  unfold TrapRegs.read
  split
  case h_10 => exact if_neg (by omega)
  all_goals omega

theorem b2n_bit (w : Nat) : b2n (bitOf w 0) = w % 2 := by
  simp only [bitOf, b2n, Nat.pow_zero, Nat.div_one, decide_eq_true_eq]
  split <;> omega

theorem Group.descriptor_of_lt (g : Group) (place : Nat) {i : Nat} (h : i < 64) : g.descriptor place i =
    BitVec.ofNat 64 (i * 2 ^ 52 + g.nreg * 2 ^ 44 + (g.base + i * g.nreg * 128) / 1024 * 2 ^ 30 +
      (g.base + g.blocks + 256 * i) / 256 * 2 ^ 18 + g.prio % 4 * 2 ^ 16 + g.role i * 2 ^ 14 + place % 64 * 2 ^ 8) := by
  rw [Group.descriptor, Nat.mod_eq_of_lt h]

theorem Die.testBit_siteMask (d : Die) (k : Nat) : d.siteMask.testBit k = true ↔
    k < 18 ∧ ∃ j < 8, d.cores.toNat.testBit (8 * k + j) = true := by
  refine (testBit_maskOf (fun i => bits d.cores.toNat (8 * i + 7) (8 * i) ≠ 0) 18 k).trans ?_
  rw [decide_eq_true_eq, bits_ne_zero]

theorem Die.testBit_linkMask (d : Die) (k : Nat) : d.linkMask.testBit k = true ↔
    k < 7 ∧ ∃ l, tfind d.links k = some l ∧ l.inUse = true ∧ l.failed = false := by
  refine (testBit_maskOf (fun i => match tfind d.links i with
    | some l => l.inUse && !l.failed
    | none => false) 7 k).trans ?_
  cases tfind d.links k <;> simp

/-- Settles O23: each instruction is issued as its own lemma says, and each register number leads to its value. -/
theorem systemRegisterMoves : Obligations.SystemRegisterMoves := by
  unfold Obligations.SystemRegisterMoves
  refine ⟨fun g ty d n s q c W gr h => exec_sget h, fun g s q c W gr _ => ?values,
    fun g ty a s q c W gr h hf => exec_sset_wdesc h hf, fun g ty a s q c W gr h => exec_sset_cscfg h,
    fun g ty a n s q c W gr h => ?cv, fun g ty a s q c W gr h => exec_sset (n := 0x21) (by decide) (by decide) h,
    fun g ty a n s q c W gr h => ?trap, fun g ty d rt s q c W gr h => exec_clkrd h⟩
  case values =>
    intro v core i kept
    refine ⟨?wdesc, rfl, fun n hn => s.sysRead_cv _ hn, rfl, b2n_bit _, rfl, rfl, rfl, rfl, rfl, rfl, rfl, rfl, rfl,
      fun n hn => ?pcs, fun n hlow hhigh => ?unnamed, ?counts⟩
    case wdesc =>
      rw [← gr.descriptor_of_lt (groupOf c.warp) (Nat.mod_lt c.warp (by decide))]
      exact s.sysRead_wdesc (sees q c W gr g)
    case pcs =>
      show s.sysRead (sees q c W gr g) (0x120 + n) = _
      rw [show 0x120 + n = 0x100 + (0x20 + n) by omega, s.sysRead_trap _ (by omega), TrapRegs.read_pc _ hn]
      rfl
    case unnamed =>
      show s.sysRead (sees q c W gr g) n = 0
      obtain ⟨m, rfl⟩ := Nat.exists_eq_add_of_le (show 0x100 ≤ n by omega)
      rw [s.sysRead_trap _ (by omega), TrapRegs.read_unnamed _ (by omega) (by omega)]
      rfl
    case counts =>
      intro die d set
      refine ⟨popCount_eq _ _, d.testBit_siteMask, rfl, popCount_eq _ _, ?frames, d.testBit_linkMask, rfl, rfl, rfl, rfl,
        rfl, rfl, rfl, rfl, rfl, rfl⟩
      show s.hbmSize die / 65536 - d.scrub.retired.length = _
      rw [State.hbmSize, popCount_eq]
  case cv =>
    have hn : (BitVec.ofNat 16 (0x10 + n.val)).toNat = 0x10 + n.val := by simp; omega
    have hpriv : sysWritePriv (0x10 + n.val) = true := by simp [sysWritePriv]; omega
    rw [exec_sset (by omega) (by omega) (by rw [hn, hpriv]; exact h), hn, if_pos (by omega), Nat.add_sub_cancel_left]
    rfl
  case trap =>
    have hn : (BitVec.ofNat 16 (0x100 + n.val)).toNat = 0x100 + n.val := by simp; omega
    have hpriv : sysWritePriv (0x100 + n.val) = true := by simp [sysWritePriv, sysReadPriv]; omega
    rw [exec_sset (by omega) (by omega) (by rw [hn, hpriv]; exact h), hn, if_neg (by omega), if_neg (by omega),
      Nat.add_sub_cancel_left]
    rfl

end Sys2Proof.Machine
end

section
/-! ## Architectural state: memory instructions at issue

Proof of the statement that a memory instruction which its checks, its counter and its slot let pass enters warp order with its
accesses (R25, R128, R130, R131). -/

namespace Sys2Proof.Machine

/-- The slot that a form's operation holds once it enters: none for a form without one, the one that it takes otherwise (R26). -/
def Form.Grants (f : Form) (W : Warp) (slot : Option Nat) : Prop :=
  match f.slot with
  | none => slot = none
  | some named => W.takeSlot named = slot ∧ slot.isSome = true

theorem not_saturated {W : Warp} {n : Nat} (h : W.counter n < 63) : W.saturated n = false :=
  decide_eq_false (Nat.not_le.2 h)

/-- A memory instruction that its checks, its counter and its slot let pass enters warp order with its accesses. -/
theorem memory_of_passes {p : Spec} {m : MForm} {f : Form} {data cmp after} {s q c W g slot}
    (h : Issues { p with port := 1, guard := m.g } s q c W g) (hfault : s.accessFault (sees q c W g m.g) m f.shape = none)
    (hcounter : W.counter f.cls < 63) (hslot : f.Grants W slot) :
    memory p m f data cmp after s = .next ((after (sees q c W g m.g) (s.pushOp c.warp ((sees q c W g m.g).memOp m f slot
      ((sees q c W g m.g).accesses m f.shape (data (sees q c W g m.g)) (cmp (sees q c W g m.g)))))).advance q) := by
  refine issue_of_done h ?_
  have hsat : (sees q c W g m.g).W.saturated f.cls = false := not_saturated hcounter
  simp only [hfault, hsat]
  unfold Form.Grants at hslot
  cases hf : f.slot with
  | none =>
    rw [hf] at hslot
    subst hslot
    rfl
  | some named =>
    rw [hf] at hslot
    obtain ⟨htake, hsome⟩ := hslot
    obtain ⟨n, rfl⟩ := Option.isSome_iff_exists.1 hsome
    have htake : (sees q c W g m.g).W.takeSlot named = some n := htake
    simp only [htake]
    rfl

/-- An instruction that its checks, its counter and its slot let pass enters warp order with these accesses. -/
def Enters (i : Instr) (m : MForm) (p : Spec) (f : Form) (data : Ctx → Nat → List Byte) (cmp : Ctx → Nat → Nat) : Prop :=
  ∀ s q c W g, Issues p s q c W g →
    s.accessFault (sees q c W g m.g) m f.shape = none → W.counter f.cls < 63 → ∀ slot, f.Grants W slot →
    exec i s = .next ((s.pushOp c.warp ((sees q c W g m.g).memOp m f slot
      ((sees q c W g m.g).accesses m f.shape (data (sees q c W g m.g)) (cmp (sees q c W g m.g))))).advance q)

theorem enters_of_memory {i : Instr} {m : MForm} {p : Spec} {f : Form} {data cmp}
    (he : ∀ s, exec i s = memory p m f data cmp noMore s) (hport : p.port = 1) (hguard : p.guard = m.g) :
    Enters i m p f data cmp := by
  have hp : { p with port := 1, guard := m.g } = p := by rw [← hport, ← hguard]
  intro s q c W g h hfault hcounter slot hslot
  exact (he s).trans (memory_of_passes (hp.symm ▸ h) hfault hcounter hslot)

theorem atomic_enters {i : Instr} {m : MForm} {slot : Option (Fin 8)} {arrives : Bool}
    (he : ∀ s, exec i s = atomicOp i arrives m slot none s) :
    Enters i m (atomicNeeds m arrives none)
      { cls := 0, kind := .atomic i, shape := atomicShape m.ty.bytes, slot := some slot } (regBytes m.d m.ty.bytes) noCmp :=
  enters_of_memory he rfl rfl

theorem reduce_enters {i : Instr} {m : MForm} {arrives : Bool} (he : ∀ s, exec i s = reduceOp i arrives m s) :
    Enters i m (reduceNeeds m arrives) { cls := 1, kind := .reduce i, shape := atomicShape m.ty.bytes }
      (regBytes m.d m.ty.bytes) noCmp :=
  enters_of_memory he rfl rfl

theorem atcas_enters (m : MForm) (slot : Option (Fin 8)) (b : Opnd) :
    Enters (.atcas m slot b) m (atomicNeeds m false (some b))
      { cls := 0, kind := .atomic (.atcas m slot b), shape := atomicShape m.ty.bytes, slot := some slot }
      (regBytes m.d m.ty.bytes) (fun z l => z.W.srcN z.w (m.ty.bytes = 8) b l) :=
  enters_of_memory (fun _ => rfl) rfl rfl

theorem nins_enters (m : MForm) (b : Opnd) :
    Enters (.nins m b) m (memNeeds m.g [rd m.d, rd m.a true, rd b])
      { cls := 1, kind := .reduce (.nins m b), shape := { size := 1, align := 1, register := false } } (regBytes m.d 4)
      (fun z l => z.W.srcN z.w false b l) :=
  enters_of_memory (fun _ => rfl) rfl rfl

/-- What an fxadd leaves beside its operation: NV for a NaN or infinite input, whose lanes add nothing (R146). -/
def dropBadSums (m : MForm) (x : Ctx) (s : State) : State :=
  let flagged := s.onWarp x.w fun W => (W.flag { nv := true }).onOp x.W.seq fun o =>
    { o with acc := o.acc.map fun a => if inSet (x.badSums m) a.lane then { a with done := true } else a }
  if x.badSums m = 0 then s else if x.badSums m = x.act then flagged.retire x.w x.W.seq else flagged

theorem exec_fxadd (m : MForm) (s : State) :
    exec (.fxadd m) s = memory (memNeeds m.g [rd m.d, rd m.a true]) m
      { cls := 1, kind := .reduce (.fxadd m), shape := { size := 32, align := 32, register := false } } (regBytes m.d 4) noCmp
      (dropBadSums m) s := rfl

/-- Settles O24: each form is one use of the rule for memory instructions, fxadd with its bad inputs beside it. -/
theorem memoryInstructionsIssue : Obligations.MemoryInstructionsIssue := by
  unfold Obligations.MemoryInstructionsIssue
  intro enters loads stores lane block bytes atom red
  refine ⟨fun m fresh => enters_of_memory (fun _ => rfl) rfl rfl, fun m => enters_of_memory (fun _ => rfl) rfl rfl,
    fun m fresh => enters_of_memory (fun _ => rfl) rfl rfl, fun m => enters_of_memory (fun _ => rfl) rfl rfl,
    fun m n => atomic_enters fun _ => rfl, fun m n => atomic_enters fun _ => rfl, fun m n => atomic_enters fun _ => rfl,
    fun m n => atomic_enters fun _ => rfl, fun m n => atomic_enters fun _ => rfl, fun m n => atomic_enters fun _ => rfl,
    fun m n => atomic_enters fun _ => rfl, fun m n b => atcas_enters m n b,
    fun m => reduce_enters fun _ => rfl, fun m => reduce_enters fun _ => rfl, fun m => reduce_enters fun _ => rfl,
    fun m => reduce_enters fun _ => rfl, fun m => reduce_enters fun _ => rfl, fun m => reduce_enters fun _ => rfl,
    fun m rnd => enters_of_memory (fun _ => rfl) rfl rfl, fun m b => nins_enters m b, ?_⟩
  intro m s q c W g h z f t bad flagged hfault hcounter
  rw [exec_fxadd]
  exact memory_of_passes (after := dropBadSums m) h hfault hcounter rfl
end Sys2Proof.Machine
end

section
/-! ## Architectural state: stalls and failing operands

Proof of the statement over full counters, scoreboard slots and the checks of accesses and engine operands (R25, R26, R131,
R176, R180). -/

namespace Sys2Proof.Machine

/-! ### What a stall and a failing operand come to -/

/-- Where an instruction stalls: it issues nothing, and from the first stall on the watchdog counts (R25, R208). -/
def State.stalls (s : State) (q : Nat) (c : Clause) (g : Group) : State :=
  (if c.stalled then s else s.progress (coreOf c.warp) g.slot).onClause q fun c => { c with stalled := true }

theorem issue_of_trouble {p body s q c W g t} (h : Issues p s q c W g) (hb : body (sees q c W g p.guard) s = .fault t) :
    issue p body s = .next (s.precise q c t) := by
  rw [issue_of_issues h, hb]

theorem issue_of_stall {p body s q c W g} (h : Issues p s q c W g) (hb : body (sees q c W g p.guard) s = .stall) :
    issue p body s = .next (s.stalls q c g) := by
  rw [issue_of_issues h, hb]
  rfl

theorem saturated_of_le {W : Warp} {n : Nat} (h : 63 ≤ W.counter n) : W.saturated n = true := decide_eq_true h

/-! ### The first failing check -/

theorem lanesOf_sorted (m : LaneSet) : (lanesOf m).Pairwise (· < ·) := List.pairwise_lt_range.filter _

theorem Shape.lanes_sorted (sh : Shape) (act : LaneSet) : (sh.lanes act).Pairwise (· < ·) := by
  unfold Shape.lanes
  split
  · cases lowest act <;> simp
  · exact lanesOf_sorted act

/-- In a rising list the search finds the least that satisfies the condition. -/
theorem find?_least {l : List Nat} {p : Nat → Bool} {a : Nat} (hs : l.Pairwise (· < ·)) (ha : a ∈ l) (hp : p a = true)
    (hlt : ∀ b ∈ l, b < a → p b = false) : l.find? p = some a := by
  induction l with
  | nil => cases ha
  | cons x xs ih =>
    rw [List.pairwise_cons] at hs
    obtain ⟨hx, hs⟩ := hs
    rcases List.mem_cons.1 ha with rfl | ha
    · exact List.find?_cons_of_pos hp
    · have hxa : p x = false := hlt x List.mem_cons_self (hx a ha)
      rw [List.find?_cons_of_neg (by simp [hxa])]
      exact ih hs ha fun b hb => hlt b (List.mem_cons_of_mem _ hb)

theorem firstFailure_none {lanes addr} {checks : List (Nat × (Nat → Bool))}
    (h : ∀ e ∈ checks, ∀ l ∈ lanes, e.2 l = false) :
    firstFailure lanes addr checks = none := by
  induction checks with
  | nil => rfl
  | cons e t ih =>
    have hfind : lanes.find? e.2 = none := List.find?_eq_none.2 fun l hl => by simp [h e List.mem_cons_self l hl]
    simp only [firstFailure, hfind]
    exact ih fun e he => h e (List.mem_cons_of_mem _ he)

/-- The check that fails first, at its lowest lane, gives the trouble. -/
theorem firstFailure_at {lanes addr cause l} {bad : Nat → Bool} {checks : List (Nat × (Nat → Bool))} {k : Nat}
    (hs : lanes.Pairwise (· < ·)) (hk : checks[k]? = some (cause, bad)) (hl : l ∈ lanes) (hbad : bad l = true)
    (hearlier : ∀ e ∈ checks.take k, ∀ n ∈ lanes, e.2 n = false) (hlower : ∀ n ∈ lanes, n < l → bad n = false) :
    firstFailure lanes addr checks =
      some { cause := cause, addr := addr l, lanes := laneSet fun n => lanes.contains n && bad n } := by
  induction checks generalizing k with
  | nil => cases hk
  | cons e t ih =>
    cases k with
    | zero =>
      obtain rfl : e = (cause, bad) := Option.some.inj hk
      simp only [firstFailure, find?_least hs hl hbad hlower]
    | succ k =>
      have hfind : lanes.find? e.2 = none :=
        List.find?_eq_none.2 fun n hn => by simp [hearlier e List.mem_cons_self n hn]
      simp only [firstFailure, hfind]
      exact ih hk fun e he => hearlier e (List.mem_cons_of_mem _ he)

/-! ### Accesses -/

/-- The checks of R131, numbered in their order. -/
def State.fails (s : State) (z : Ctx) (m : MForm) (sh : Shape) (k l : Nat) : Bool :=
  match k with
  | 0 => (resolve m.space (z.address m l)).isNone
  | 1 => decide (z.address m l % sh.align ≠ 0)
  | 2 => sh.block && (resolve m.space (z.address m l)).any fun t =>
      !match resolve m.space (z.address m l + sh.size - 1) with
        | some u => t.sameWindow u
        | none => false
  | 3 => (resolve m.space (z.address m l)).any fun t => !s.admits sh (coreOf z.w) t
  | 4 => (resolve m.space (z.address m l)).any fun t => !s.allowed z sh.size t
  | _ => false

theorem not_onTarget (sp : Space) (a : Nat) (p : Target → Bool) : (!onTarget sp a p) = (resolve sp a).any fun t => !p t := by
  unfold onTarget
  cases resolve sp a <;> rfl

theorem accessFault_eq (s : State) (z : Ctx) (m : MForm) (sh : Shape) :
    s.accessFault z m sh = firstFailure (sh.lanes z.act) (z.address m)
      [(0x0C, s.fails z m sh 0), (0x0D, s.fails z m sh 1), (0x0E, s.fails z m sh 2), (0x0F, s.fails z m sh 3),
        (0x0B, s.fails z m sh 4)] := by
  unfold State.accessFault
  simp only [not_onTarget]
  rfl

theorem accessFault_none {s : State} {z m sh} (h : ∀ k < 5, ∀ l ∈ sh.lanes z.act, s.fails z m sh k l = false) :
    s.accessFault z m sh = none := by
  rw [accessFault_eq]
  refine firstFailure_none ?_
  simp only [List.forall_mem_cons, List.not_mem_nil, false_imp_iff, implies_true, and_true]
  exact ⟨h 0 (by omega), h 1 (by omega), h 2 (by omega), h 3 (by omega), h 4 (by omega)⟩

theorem accessFault_at {s : State} {z m sh} {k l : Nat} (hk : k < 5) (hl : l ∈ sh.lanes z.act)
    (hfails : s.fails z m sh k l = true) (hearlier : ∀ j < k, ∀ n ∈ sh.lanes z.act, s.fails z m sh j n = false)
    (hlower : ∀ n ∈ sh.lanes z.act, n < l → s.fails z m sh k n = false) :
    s.accessFault z m sh = some
      { cause := nth 0 [0x0C, 0x0D, 0x0E, 0x0F, 0x0B] k, addr := z.address m l,
        lanes := laneSet fun n => (sh.lanes z.act).contains n && s.fails z m sh k n } := by
  rw [accessFault_eq]
  refine firstFailure_at (k := k) (sh.lanes_sorted z.act) ?_ hl hfails ?_ hlower
  · interval_cases k <;> rfl
  · intro e he n hn
    obtain ⟨j, hj⟩ := List.mem_iff_getElem?.1 he
    have hjk : j < k := by
      have := (List.getElem?_eq_some_iff.1 hj).1
      simp at this
      omega
    rw [List.getElem?_take_of_lt hjk] at hj
    have hj5 : j < 5 := by omega
    interval_cases j <;> (cases hj; exact hearlier _ hjk n hn)

/-- An instruction that is an access answers its first failing check, and stalls where its counter or slot is not free. -/
def Judged (i : Instr) (p : Spec) (m : MForm) (sh : Shape) (cls : Option Nat) (slot : Option (Option (Fin 8))) : Prop :=
  ∀ s q c W g, Issues p s q c W g →
    (∀ t, s.accessFault (sees q c W g m.g) m sh = some t → exec i s = .next (s.precise q c t)) ∧
    (s.accessFault (sees q c W g m.g) m sh = none →
      (∀ n, cls = some n → 63 ≤ W.counter n → exec i s = .next (s.stalls q c g)) ∧
      (∀ named, slot = some named → W.takeSlot named = none → exec i s = .next (s.stalls q c g)))

theorem judged_of_memory {i : Instr} {p r : Spec} {m : MForm} {sh : Shape} {cls slot} {f : Form} {data cmp after}
    (he : ∀ s, exec i s = memory p m f data cmp after s) (hneeds : { p with port := 1, guard := m.g } = r)
    (hshape : f.shape = sh) (hcls : some f.cls = cls) (hslot : f.slot = slot) : Judged i r m sh cls slot := by
  subst hneeds hshape hcls hslot
  intro s q c W g h
  rw [he]
  refine ⟨fun t ht => issue_of_trouble h ?_, fun hnone => ⟨fun n hn hfull => issue_of_stall h ?_, fun named hslot htake =>
    issue_of_stall h ?_⟩⟩
  · simp only [ht]
  · obtain rfl := Option.some.inj hn
    have hsat : (sees q c W g m.g).W.saturated f.cls = true := saturated_of_le hfull
    simp only [hnone, hsat, if_true]
  · have htake : (sees q c W g m.g).W.takeSlot named = none := htake
    simp only [hnone, hslot, htake]
    split <;> rfl

theorem judged_of_lockOp {i : Instr} {kind m} (he : ∀ s, exec i s = lockOp kind m s) :
    Judged i (memNeeds m.g [rd m.a true]) m lockShape (some 5) none := by
  intro s q c W g h
  rw [he]
  refine ⟨fun t ht => issue_of_trouble h ?_, fun hnone => ⟨fun n hn hfull => issue_of_stall h ?_, fun _ h => nomatch h⟩⟩
  · simp only [ht]
  · obtain rfl := Option.some.inj hn
    have hsat : (sees q c W g m.g).W.saturated 5 = true := saturated_of_le hfull
    simp only [hnone, hsat, if_true]

theorem ldw_judged (m : MForm) (clr : Bool) :
    Judged (.ldw m clr) (memNeeds m.g [wr m.d (m.ty.bytes = 8), rd m.a true]) m
      { size := m.ty.bytes, align := m.ty.bytes, global := false, cluster := false } (some 0) none := by
  intro s q c W g h
  simp only [exec, execLdw]
  refine ⟨fun t ht => issue_of_trouble h ?_, fun hnone => ⟨fun n hn hfull => issue_of_stall h ?_, fun _ h => nomatch h⟩⟩
  · simp only [ht]
  · obtain rfl := Option.some.inj hn
    have hsat : (sees q c W g m.g).W.saturated 0 = true := saturated_of_le hfull
    simp only [hnone, hsat, Bool.true_or, if_true]

theorem ldw_stalls_of_windows {m : MForm} {clr s q c W g}
    (h : Issues (memNeeds m.g [wr m.d (m.ty.bytes = 8), rd m.a true]) s q c W g)
    (hnone : s.accessFault (sees q c W g m.g) m
      { size := m.ty.bytes, align := m.ty.bytes, global := false, cluster := false } = none)
    (hfull : 63 < W.counter 2 + (absentWindows g ((sees q c W g m.g).accesses m
      { size := m.ty.bytes, align := m.ty.bytes, global := false, cluster := false } (fun _ => []) fun _ => 0)).length) :
    exec (.ldw m clr) s = .next (s.stalls q c g) := by
  simp only [exec, execLdw]
  refine issue_of_stall h ?_
  simp only [hnone]
  exact if_pos (Bool.or_eq_true_iff.2 (.inr (decide_eq_true hfull)))

theorem setempty_judged (m : MForm) :
    Judged (.setempty m) (memNeeds m.g [rd m.a true]) m { size := 16, align := 16, global := false, cluster := false }
      none none := by
  intro s q c W g h
  rw [show exec (.setempty m) s = execSetempty m s from rfl]
  unfold execSetempty
  refine ⟨fun t ht => issue_of_trouble h ?_, fun _ => ⟨fun _ h => (nomatch h), fun _ h => nomatch h⟩⟩
  simp only [ht]

theorem judged_of_access {i p m sh cls} (hneeds : needsOf i = some p) (haccess : accessOf i = some (m, sh, cls)) :
    Judged i p m sh cls (Sys2Proof.Machine.slotOf i) := by
  cases i with
  | ldw m clr => cases haccess; cases hneeds; exact ldw_judged m clr
  | setempty m => cases haccess; cases hneeds; exact setempty_judged m
  | lock m => cases haccess; cases hneeds; exact judged_of_lockOp fun _ => rfl
  | unlock m => cases haccess; cases hneeds; exact judged_of_lockOp fun _ => rfl
  | _ =>
    cases haccess <;> cases hneeds <;>
    · apply judged_of_memory
      case he =>
        intro s
        simp only [exec, execLd, execSt, execLdb, execStb, execAtadd, execAtmin, execAtmax, execAtand, execAtor, execAtxor,
          execAtexch, execAtcas, execRedadd, execRedmin, execRedmax, execRedand, execRedor, execRedxor, execFxadd, execFxrd,
          execNins, atomicOp, reduceOp]
        rfl
      all_goals rfl


/-! ### Slots, fences, spaces and protection -/

theorem Warp.takeSlot_named_busy {W : Warp} {n : Fin 8} (h : W.busy n.val = true) : W.takeSlot (some n) = none := by
  simp [Warp.takeSlot, h]

theorem Warp.takeSlot_none_iff (W : Warp) (k : Nat) :
    W.takeSlot none = some k ↔ k < 8 ∧ W.busy k = false ∧ ∀ j < k, W.busy j = true := by
  unfold Warp.takeSlot
  rw [List.find?_range_eq_some]
  simp [and_left_comm]

theorem Warp.takeSlot_all_busy {W : Warp} (h : ∀ n < 8, W.busy n = true) : W.takeSlot none = none := by
  cases htake : W.takeSlot none with
  | none => rfl
  | some k =>
    obtain ⟨hk, hfree, -⟩ := (W.takeSlot_none_iff k).1 htake
    simp [h k hk] at hfree

theorem fence_stalls {m s q c W g} (h : Issues (memNeeds m.g []) s q c W g) (hwide : 4 ≤ m.scope.level)
    (hfull : 63 ≤ W.counter 5) : exec (.fence m) s = .next (s.stalls q c g) := by
  have hsat : (sees q c W g m.g).W.saturated 5 = true := saturated_of_le hfull
  simp only [exec, execFence]
  refine issue_of_stall h ?_
  simp only [hwide, hsat, decide_true, Bool.and_self, if_true]

theorem State.not_onRegisters_iff (s : State) (core off n : Nat) :
    s.onRegisters core off n = false ↔ ∀ e ∈ s.comp.groups, coreOfGroup e.1 = core → e.2.meetsRegisters off n = false := by
  simp [State.onRegisters]

theorem State.admits_core_iff (s : State) (sh : Shape) (core off : Nat) :
    s.admits sh core (.core off) = true ↔ sh.core = true ∧ (sh.register = true ∨
      ∀ e ∈ s.comp.groups, coreOfGroup e.1 = core → e.2.meetsRegisters off sh.size = false) := by
  simp only [State.admits, Bool.and_eq_true, Bool.or_eq_true, Bool.not_eq_true', State.not_onRegisters_iff]

theorem State.admits_cluster_iff (s : State) (sh : Shape) (core i off : Nat) :
    s.admits sh core (.cluster i off) = true ↔ sh.cluster = true ∧ (sh.register = true ∨
      ∀ e ∈ s.comp.groups, coreOfGroup e.1 = core / 8 * 8 + i → e.2.meetsRegisters off sh.size = false) := by
  simp only [State.admits, Bool.and_eq_true, Bool.or_eq_true, Bool.not_eq_true', State.not_onRegisters_iff]
  rfl

theorem Group.holds_iff (g : Group) (o n : Nat) : g.holds o n = true ↔ g.base ≤ o ∧ o + n ≤ g.base + g.size := by
  simp [Group.holds]

theorem State.allowed_cluster_iff (s : State) (z : Ctx) (n i off : Nat) :
    s.allowed z n (.cluster i off) = true ↔ s.coreUp (siteCore (coreOf z.w) i) = true ∧ ∃ e ∈ s.comp.groups,
      coreOfGroup e.1 = siteCore (coreOf z.w) i ∧ e.2.dispatch = z.g.dispatch ∧ e.2.base ≤ off ∧
      off + n ≤ e.2.base + e.2.size ∧ (e.1 = groupOf z.w ∨ e.2.meetsRegisters off n = false) := by
  simp only [State.allowed, Bool.and_eq_true, List.any_eq_true, Group.holds_iff, decide_eq_true_eq,
    Bool.or_eq_true, Bool.not_eq_true', and_assoc]

/-! ### Engine operands -/

/-- An engine instruction whose lowest active lane acts for the warp answers the first of these checks that fails, and stalls
where its counter is full. -/
def ActsForWarp (i : Instr) (p : Spec) (cls : Option Nat) (checks : State → Ctx → List (Nat × Nat × Bool)) : Prop :=
  ∀ s q c W g, Issues p s q c W g →
    (∀ k sub addr, (checks s (sees q c W g p.guard))[k]? = some (sub, addr, true) →
      (∀ x ∈ (checks s (sees q c W g p.guard)).take k, x.2.2 = false) →
      exec i s = .next (s.precise q c
        { cause := 0x10, sub := sub, addr := addr, lanes := oneLane ((lowest (activeLanes c W p.guard)).getD 0) })) ∧
    ((∀ x ∈ checks s (sees q c W g p.guard), x.2.2 = false) →
      ∀ n, cls = some n → 63 ≤ W.counter n → exec i s = .next (s.stalls q c g))

theorem engineFault_at {x : Ctx} {checks : List (Nat × Nat × Bool)} {k sub addr : Nat} (hk : checks[k]? = some (sub, addr, true))
    (hearlier : ∀ e ∈ checks.take k, e.2.2 = false) :
    x.engineFault checks = some (engineTrouble sub addr (oneLane ((lowest x.act).getD 0))) := by
  have hfind : checks.find? (fun c => c.2.2) = some (sub, addr, true) := by
    obtain ⟨hlt, hget⟩ := List.getElem?_eq_some_iff.1 hk
    refine List.find?_eq_some_iff_getElem.2 ⟨rfl, k, hlt, hget, fun j hj => ?_⟩
    have := hearlier checks[j] (List.mem_take_iff_getElem.2 ⟨j, by omega, rfl⟩)
    simp [this]
  rw [Ctx.engineFault, hfind]
  rfl

theorem engineFault_none {x : Ctx} {checks : List (Nat × Nat × Bool)} (h : ∀ e ∈ checks, e.2.2 = false) :
    x.engineFault checks = none := by
  have hfind : checks.find? (fun c => c.2.2) = none := List.find?_eq_none.2 fun e he => by simp [h e he]
  rw [Ctx.engineFault, hfind]
  rfl

theorem actsForWarp_of_engineOp {i p r cls kind scope} {send : State → Ctx → State → State}
    {checks : State → Ctx → List (Nat × Nat × Bool)}
    (he : ∀ s, exec i s = engineOp p cls kind scope (checks s) (send s) s) (hneeds : { p with port := 3 } = r) :
    ActsForWarp i r cls checks := by
  subst hneeds
  intro s q c W g h
  rw [he]
  refine ⟨fun k sub addr hk hearlier => issue_of_trouble h ?_, fun hgood n hn hfull => issue_of_stall h ?_⟩
  · simp only [engineFault_at hk hearlier]
    rfl
  · subst hn
    have hsat : (sees q c W g p.guard).W.saturated n = true := saturated_of_le hfull
    simp only [engineFault_none hgood, Option.map_some, Option.getD_some, hsat, if_true]

theorem rfence_actsForWarp (g : Guard) (scope : Scope) (a : Opnd) :
    ActsForWarp (.rfence g scope a) (engNeeds g (if a = .zero then [] else [rd a true])) none
      fun _ z => [(1, z.one64 a, a ≠ .zero && badAddress 64 (z.one64 a))] := by
  intro s q c W gr h
  rw [show exec (.rfence g scope a) s = execRfence g scope a s from rfl]
  unfold execRfence
  refine ⟨fun k sub addr hk hearlier => issue_of_trouble h ?_, fun _ _ hn => nomatch hn⟩
  dsimp only [engNeeds] at hk hearlier
  simp only [engineFault_at hk hearlier]
  rfl

/-- An engine instruction with operands of its own in each lane answers the first of these checks that fails in some lane, and
stalls where its counter is full. -/
def ActsByLane (i : Instr) (p : Spec) (cls : Option Nat) (checks : State → Ctx → List (Nat × (Nat → Bool))) : Prop :=
  ∀ s q c W g, Issues p s q c W g →
    (∀ k sub fails, (checks s (sees q c W g p.guard))[k]? = some (sub, fails) →
      (∃ n ∈ lanesOf (sees q c W g p.guard).act, fails n = true) →
      (∀ x ∈ (checks s (sees q c W g p.guard)).take k, ∀ n ∈ lanesOf (sees q c W g p.guard).act, x.2 n = false) →
      exec i s = .next (s.precise q c
        { cause := 0x10, sub := sub, addr := 0, lanes := laneSet fun n => inSet (sees q c W g p.guard).act n && fails n })) ∧
    ((∀ x ∈ checks s (sees q c W g p.guard), ∀ n ∈ lanesOf (sees q c W g p.guard).act, x.2 n = false) →
      ∀ n, cls = some n → 63 ≤ W.counter n → exec i s = .next (s.stalls q c g))

theorem laneFault_none {act} {checks : List (Nat × (Nat → Bool))} (h : ∀ e ∈ checks, ∀ n ∈ lanesOf act, e.2 n = false) :
    laneFault act checks = none := by
  induction checks with
  | nil => rfl
  | cons e t ih =>
    have hany : (lanesOf act).any e.2 = false := List.any_eq_false.2 fun n hn => by simp [h e List.mem_cons_self n hn]
    simp only [laneFault, hany]
    exact ih fun e he => h e (List.mem_cons_of_mem _ he)

theorem laneFault_at {act sub} {fails : Nat → Bool} {checks : List (Nat × (Nat → Bool))} {k : Nat}
    (hk : checks[k]? = some (sub, fails)) (hfails : ∃ n ∈ lanesOf act, fails n = true)
    (hearlier : ∀ e ∈ checks.take k, ∀ n ∈ lanesOf act, e.2 n = false) :
    laneFault act checks = some (engineTrouble sub 0 (laneSet fun n => inSet act n && fails n)) := by
  induction checks generalizing k with
  | nil => cases hk
  | cons e t ih =>
    cases k with
    | zero =>
      obtain rfl : e = (sub, fails) := Option.some.inj hk
      exact if_pos (List.any_eq_true.2 hfails)
    | succ k =>
      have hany : (lanesOf act).any e.2 = false :=
        List.any_eq_false.2 fun n hn => by simp [hearlier e List.mem_cons_self n hn]
      simp only [laneFault, hany]
      exact ih hk fun e he => hearlier e (List.mem_cons_of_mem _ he)

theorem bits_low_word (v : Nat) : bits v 15 0 = v % 2 ^ 16 := by
  simp [bits]

theorem byield_actsByLane (g : Guard) (scope : Scope) (retire : Bool) (a b k : Opnd) :
    ActsByLane (.byield g scope retire a b k) { engNeeds g [rd a, rd b, rd k true] with ends := true } none fun s z =>
      [(3, fun l => bits (z.W.src z.w a l).toNat 31 24 ≠ 0), (4, fun l => (tfind z.W.buds l).isNone),
        (5, fun l => s.nbud z ≤ bits (z.W.src z.w a l).toNat 15 0 || 3 ≤ bits (z.W.src z.w a l).toNat 23 16)] := by
  intro s q c W gr h
  rw [show exec (.byield g scope retire a b k) s = execByield g scope retire a b k s from rfl]
  unfold execByield
  refine ⟨fun k sub fails hk hfails hearlier => issue_of_trouble h ?_, fun _ _ hn => nomatch hn⟩
  dsimp only [engNeeds] at hk hfails hearlier
  simp only [laneFault_at hk hfails hearlier]
  rfl

/-- The checks of the slot that each lane names (R184, R185). -/
def slotChecks (b : Opnd) (s : State) (z : Ctx) : List (Nat × (Nat → Bool)) :=
  [(2, fun l => decide (4 ≤ (z.W.src z.w b l).toNat)), (4, fun l => !s.cambial z || !s.slotNamed z (z.W.src z.w b l).toNat)]

theorem slotFault_eq (s : State) (z : Ctx) (b : Opnd) : s.slotFault z b = laneFault z.act (slotChecks b s z) := rfl

theorem actsByLane_of_wakeOp {i g scope next a b} (he : ∀ s, exec i s = wakeOp g scope next a b s) :
    ActsByLane i (engNeeds g [rd a, rd b]) (some 7) (slotChecks b) := by
  intro s q c W gr h
  rw [he]
  refine ⟨fun k sub fails hk hfails hearlier => issue_of_trouble h ?_, fun hgood n hn hfull => issue_of_stall h ?_⟩
  · dsimp only [engNeeds] at hk hfails hearlier
    simp only [slotFault_eq, laneFault_at hk hfails hearlier]
    rfl
  · obtain rfl := Option.some.inj hn
    have hsat : (sees q c W gr g).W.saturated 7 = true := saturated_of_le hfull
    dsimp only [engNeeds] at hgood
    simp only [slotFault_eq, laneFault_none hgood]
    exact if_pos hsat

theorem bstate_actsByLane (g : Guard) (d a b : Opnd) :
    ActsByLane (.bstate g d a b) (engNeeds g [wr d, rd a, rd b]) (some 0) (slotChecks b) := by
  intro s q c W gr h
  rw [show exec (.bstate g d a b) s = execBstate g d a b s from rfl]
  unfold execBstate
  refine ⟨fun k sub fails hk hfails hearlier => issue_of_trouble h ?_, fun hgood n hn hfull => issue_of_stall h ?_⟩
  · dsimp only [engNeeds] at hk hfails hearlier
    simp only [slotFault_eq, laneFault_at hk hfails hearlier]
    rfl
  · obtain rfl := Option.some.inj hn
    have hsat : (sees q c W gr g).W.saturated 0 = true := saturated_of_le hfull
    dsimp only [engNeeds] at hgood
    simp only [slotFault_eq, laneFault_none hgood]
    exact if_pos hsat

/-! ### Multicast stores -/

/-- The first address of a lane's list that fails one check of an mcst (R180). -/
def firstAddress (lanes : List Nat) (addrs : Nat → List Nat) (p : Nat → Bool) (cause : Nat) : Option Trouble :=
  match lanes.find? fun l => (addrs l).any p with
  | some l =>
    some { cause := cause, addr := ((addrs l).find? p).getD 0, lanes := laneSet fun i => lanes.contains i && (addrs i).any p }
  | none => none

theorem firstAddress_none {lanes addrs cause} {p : Nat → Bool} (h : ∀ l ∈ lanes, ∀ a ∈ addrs l, p a = false) :
    firstAddress lanes addrs p cause = none := by
  have hfind : (lanes.find? fun l => (addrs l).any p) = none :=
    List.find?_eq_none.2 fun l hl => by simpa using h l hl
  simp only [firstAddress, hfind]

theorem firstAddress_at {lanes addrs cause l a} {p : Nat → Bool} (hs : lanes.Pairwise (· < ·)) (hl : l ∈ lanes)
    (ha : (addrs l).find? p = some a) (hlower : ∀ i ∈ lanes, i < l → ∀ x ∈ addrs i, p x = false) :
    firstAddress lanes addrs p cause =
      some { cause := cause, addr := a, lanes := laneSet fun i => lanes.contains i && (addrs i).any p } := by
  have hany : (addrs l).any p = true := List.any_eq_true.2 ⟨a, List.mem_of_find?_eq_some ha, List.find?_some ha⟩
  have hfind : (lanes.find? fun l => (addrs l).any p) = some l :=
    find?_least hs hl hany fun i hi hil => List.any_eq_false.2 fun x hx => by simp [hlower i hi hil x hx]
  simp only [firstAddress, hfind, ha, Option.getD_some]

/-- The checks of R131 over one address of an mcst, numbered in their order. -/
def Shape.mcstFails (sh : Shape) (k a : Nat) : Bool :=
  match k with
  | 0 => decide (apertures ≤ a)
  | 1 => decide (a % sh.align ≠ 0)
  | 2 => sh.block && decide (apertures ≤ a + sh.size - 1)
  | _ => false

theorem mcstFault_eq (sh : Shape) (lanes : List Nat) (addrs : Nat → List Nat) :
    mcstFault sh lanes addrs = (firstAddress lanes addrs (sh.mcstFails 0) 0x0C <|>
      firstAddress lanes addrs (sh.mcstFails 1) 0x0D <|> firstAddress lanes addrs (sh.mcstFails 2) 0x0E) := rfl

theorem mcstFault_none {sh : Shape} {lanes addrs} (h : ∀ k < 3, ∀ l ∈ lanes, ∀ a ∈ addrs l, sh.mcstFails k a = false) :
    mcstFault sh lanes addrs = none := by
  rw [mcstFault_eq, firstAddress_none (h 0 (by omega)), firstAddress_none (h 1 (by omega)), firstAddress_none (h 2 (by omega))]
  rfl

theorem mcstFault_at {sh : Shape} {lanes addrs} {k l a : Nat} (hs : lanes.Pairwise (· < ·)) (hk : k < 3) (hl : l ∈ lanes)
    (ha : (addrs l).find? (sh.mcstFails k) = some a)
    (hearlier : ∀ j < k, ∀ i ∈ lanes, ∀ x ∈ addrs i, sh.mcstFails j x = false)
    (hlower : ∀ i ∈ lanes, i < l → ∀ x ∈ addrs i, sh.mcstFails k x = false) :
    mcstFault sh lanes addrs = some { cause := nth 0 [0x0C, 0x0D, 0x0E] k, addr := a,
                                      lanes := laneSet fun i => lanes.contains i && (addrs i).any (sh.mcstFails k) } := by
  rw [mcstFault_eq]
  match k, hk with
  | 0, _ =>
    rw [firstAddress_at hs hl ha hlower]
    rfl
  | 1, _ =>
    rw [firstAddress_none (hearlier 0 (by omega)), firstAddress_at hs hl ha hlower]
    rfl
  | 2, _ =>
    rw [firstAddress_none (hearlier 0 (by omega)), firstAddress_none (hearlier 1 (by omega)), firstAddress_at hs hl ha hlower]
    rfl

/-- The first 8 bytes of an mcst's list: how many destinations follow, in bits 7:0 (R180). -/
def State.mcstHead (s : State) (z : Ctx) (b : Opnd) : Nat := ofBytes (s.coreRead (coreOf z.w) (z.one b) 8).1

/-- What an mcst's list faults with at a sub-cause: the engine-operand fault or the protection fault of its offset (R180). -/
def Ctx.listTrouble (z : Ctx) (b : Opnd) (cause sub : Nat) : Trouble :=
  { cause := cause, sub := sub, addr := z.one b, lanes := oneLane ((lowest z.act).getD 0) }

section
variable {s : State} {z : Ctx} {b : Opnd}

theorem mcstList_misaligned (hoff : z.one b % 16 ≠ 0) : s.mcstList z b = .error (z.listTrouble b 0x10 1) :=
  if_pos hoff

/-- Past the list's own address, what it faults with turns on its first 8 bytes. -/
theorem mcstList_of_aligned (hoff : z.one b % 16 = 0) : s.mcstList z b =
    if !z.g.holds (z.one b) 8 then .error (z.listTrouble b 0x0B 0)
    else if s.mcstHead z b % 256 = 0 || 32 < s.mcstHead z b % 256 then .error (z.listTrouble b 0x10 2)
    else if s.mcstHead z b / 256 ≠ 0 then .error (z.listTrouble b 0x10 3)
    else if !z.g.holds (z.one b) (8 + 8 * (s.mcstHead z b % 256)) then .error (z.listTrouble b 0x0B 0)
    else .ok ((List.range (s.mcstHead z b % 256)).map fun k =>
      ofBytes (s.coreRead (coreOf z.w) (z.one b + 8 + 8 * k) 8).1) :=
  if_neg (not_not.2 hoff)

theorem mcstList_outside (hoff : z.one b % 16 = 0) (hheld : z.g.holds (z.one b) 8 = false) :
    s.mcstList z b = .error (z.listTrouble b 0x0B 0) := by
  simp [mcstList_of_aligned hoff, hheld]

theorem mcstList_count (hoff : z.one b % 16 = 0) (hheld : z.g.holds (z.one b) 8 = true)
    (hn : s.mcstHead z b % 256 = 0 ∨ 32 < s.mcstHead z b % 256) : s.mcstList z b = .error (z.listTrouble b 0x10 2) := by
  simp [mcstList_of_aligned hoff, hheld, hn]

variable (hoff : z.one b % 16 = 0) (hheld : z.g.holds (z.one b) 8 = true) (hpos : 0 < s.mcstHead z b % 256)
  (hle : s.mcstHead z b % 256 ≤ 32)
include hoff hheld hpos hle

theorem mcstList_reserved (hzero : s.mcstHead z b / 256 ≠ 0) : s.mcstList z b = .error (z.listTrouble b 0x10 3) := by
  rw [mcstList_of_aligned hoff, if_neg (by simp [hheld]), if_neg (by simp; omega), if_pos hzero]

theorem mcstList_short (hzero : s.mcstHead z b / 256 = 0)
    (hshort : z.g.holds (z.one b) (8 + 8 * (s.mcstHead z b % 256)) = false) :
    s.mcstList z b = .error (z.listTrouble b 0x0B 0) := by
  rw [mcstList_of_aligned hoff, if_neg (by simp [hheld]), if_neg (by simp; omega), if_neg (not_not.2 hzero),
    if_pos (by simp [hshort])]

theorem mcstList_ok (hzero : s.mcstHead z b / 256 = 0)
    (hlong : z.g.holds (z.one b) (8 + 8 * (s.mcstHead z b % 256)) = true) :
    s.mcstList z b = .ok ((List.range (s.mcstHead z b % 256)).map fun k =>
      ofBytes (s.coreRead (coreOf z.w) (z.one b + 8 + 8 * k) 8).1) := by
  rw [mcstList_of_aligned hoff, if_neg (by simp [hheld]), if_neg (by simp; omega), if_neg (not_not.2 hzero),
    if_neg (by simp [hlong])]

end

/-- What an mcst's addresses are checked for: blocks or single elements. -/
def mcstShape (n : Nat) (blk : Bool) : Shape :=
  if blk then { size := 32 * n, align := 16, block := true } else { size := n, align := n }

section
variable {m : MForm} {blk : Bool} {b : Opnd} {s : State} {q : Nat} {c : Clause} {W : Warp} {g : Group}

theorem exec_mcst_of_error {t} (h : Issues (engNeeds m.g [rd m.d (m.ty.bytes = 8), rd m.a true, rd b]) s q c W g)
    (hlist : s.mcstList (sees q c W g m.g) b = .error t) : exec (.mcst m blk b) s = .next (s.precise q c t) := by
  rw [show exec (.mcst m blk b) s = execMcst m blk b s from rfl]
  unfold execMcst
  refine issue_of_trouble h ?_
  simp only [hlist]

theorem exec_mcst_of_fault {t bases} (h : Issues (engNeeds m.g [rd m.d (m.ty.bytes = 8), rd m.a true, rd b]) s q c W g)
    (hlist : s.mcstList (sees q c W g m.g) b = .ok bases)
    (hfault : mcstFault (mcstShape m.ty.bytes blk) ((mcstShape m.ty.bytes blk).lanes (sees q c W g m.g).act)
      (fun l => bases.map fun base => (base + (sees q c W g m.g).address m l) % 2 ^ 64) = some t) :
    exec (.mcst m blk b) s = .next (s.precise q c t) := by
  rw [show exec (.mcst m blk b) s = execMcst m blk b s from rfl]
  unfold execMcst
  refine issue_of_trouble h ?_
  simp only [mcstShape] at hfault
  simp only [hlist, hfault]

theorem exec_mcst_of_full {bases} (h : Issues (engNeeds m.g [rd m.d (m.ty.bytes = 8), rd m.a true, rd b]) s q c W g)
    (hlist : s.mcstList (sees q c W g m.g) b = .ok bases)
    (hfault : mcstFault (mcstShape m.ty.bytes blk) ((mcstShape m.ty.bytes blk).lanes (sees q c W g m.g).act)
      (fun l => bases.map fun base => (base + (sees q c W g m.g).address m l) % 2 ^ 64) = none)
    (hfull : 63 ≤ W.counter 1) : exec (.mcst m blk b) s = .next (s.stalls q c g) := by
  have hsat : (sees q c W g m.g).W.saturated 1 = true := saturated_of_le hfull
  rw [show exec (.mcst m blk b) s = execMcst m blk b s from rfl]
  unfold execMcst
  refine issue_of_stall h ?_
  simp only [mcstShape] at hfault
  simp only [hlist, hfault]
  exact if_pos hsat

end

/-! ### The statement -/

/-- Settles O26: each instruction answers through the rule of its group, with the first of its checks that fails. -/
theorem operandsStallOrFault : Obligations.OperandsStallOrFault := by
  unfold Obligations.OperandsStallOrFault
  intro stalled
  refine ⟨?accesses, fun s sh core => ⟨fun _ => rfl, fun _ => rfl, s.admits_core_iff sh core, s.admits_cluster_iff sh core⟩,
    fun s z n => ⟨fun _ => rfl, fun off => z.g.holds_iff off n, fun off => by simp [State.allowed], s.allowed_cluster_iff z n⟩,
    ?slots, fun W n => Warp.takeSlot_named_busy, fun W => Warp.takeSlot_all_busy, Warp.takeSlot_none_iff,
    ?windows, fun m s q c W g h => fence_stalls h, ?engines, ?lanes, ?mcst⟩
  case accesses =>
    intro i p m sh cls hneeds haccess s q c W g h z lanes at' fails
    obtain ⟨hfault, hstall⟩ := judged_of_access hneeds haccess s q c W g h
    have hfails : fails = s.fails z m sh := by
      funext k l
      match k with
      | 0 | 1 | 3 | 4 | _ + 5 => rfl
      | 2 =>
        simp only [fails, at', State.fails]
        cases resolve m.space (z.address m l) <;> cases resolve m.space (z.address m l + sh.size - 1) <;> rfl
    clear_value fails
    subst hfails
    exact ⟨fun k l hk hl hfail hearlier hlower => hfault _ (accessFault_at hk hl hfail hearlier hlower),
      fun hgood n hcls hfull => (hstall (accessFault_none hgood)).1 n hcls hfull⟩
  case slots =>
    intro i p m sh cls slot hneeds haccess hslot s q c W g h hnone htake
    exact ((judged_of_access hneeds haccess s q c W g h).2 hnone).2 slot hslot htake
  case windows =>
    intro m clr s q c W g h z sh hnone hfull
    exact ldw_stalls_of_windows h hnone hfull
  case engines =>
    intro bad one
    have hone {i p cls checks} (hneeds : needsOf i = some p) (h : ActsForWarp i p cls checks) : one i cls checks := by
      intro r hr
      obtain rfl : p = r := Option.some.inj (hneeds.symm.trans hr)
      exact h
    clear_value one
    refine ⟨fun g scope d a b k => hone rfl ?_, fun g scope a => hone rfl ?_, fun g scope a b => hone rfl ?_,
      fun g scope a b => hone rfl ?_, fun g scope a b => hone rfl ?_, fun g scope a => hone rfl (rfence_actsForWarp g scope a),
      fun g scope a b => hone rfl ?_, fun g scope d a b k => hone rfl ?_⟩
    all_goals
      apply actsForWarp_of_engineOp
      case he =>
        intro s
        simp only [exec, execRsub, execAbortRoot, execCpost, execCtok, execAbort, execCdecl, execSweep]
        rfl
      case hneeds => rfl
  case lanes =>
    intro each slots
    have heach {i p cls checks} (hneeds : needsOf i = some p) (h : ActsByLane i p cls checks) : each i cls checks := by
      intro r hr
      obtain rfl : p = r := Option.some.inj (hneeds.symm.trans hr)
      exact h
    have hbyield (g scope retire a b k) := byield_actsByLane g scope retire a b k
    simp only [bits_low_word] at hbyield
    exact ⟨fun g scope retire a b k => heach rfl (hbyield g scope retire a b k),
      fun g scope a b => ⟨heach rfl (actsByLane_of_wakeOp fun _ => rfl), heach rfl (actsByLane_of_wakeOp fun _ => rfl)⟩,
      fun g d a b => heach rfl (bstate_actsByLane g d a b)⟩
  case mcst =>
    intro m blk b s q c W gr h z off core head n list
    have hlist {t} (ht : s.mcstList z b = .error t) : exec (.mcst m blk b) s = .next (s.precise q c t) :=
      exec_mcst_of_error h ht
    refine ⟨fun hoff => hlist (mcstList_misaligned hoff), fun hoff hheld => hlist (mcstList_outside hoff hheld),
      fun hoff hheld => ⟨fun hn => hlist (mcstList_count hoff hheld hn),
        fun hpos hle hzero => hlist (mcstList_reserved hoff hheld hpos hle hzero),
        fun hpos hle hzero hheld' => hlist (mcstList_short hoff hheld hpos hle hzero hheld'),
        fun hpos hle hzero hheld' => ?_⟩⟩
    have hok := mcstList_ok (s := s) (z := z) (b := b) hoff hheld hpos hle hzero hheld'
    intro size align lanes addrs fails
    have haddrs : (fun l => ((List.range n).map fun k => ofBytes (s.coreRead core (off + 8 + 8 * k) 8).1).map fun base =>
        (base + z.address m l) % 2 ^ 64) = addrs := funext fun l => List.map_map
    have hlanes : (mcstShape m.ty.bytes blk).lanes z.act = lanes := by cases blk <;> rfl
    have hfails : (mcstShape m.ty.bytes blk).mcstFails = fails := by
      funext k a
      match k with
      | 0 | _ + 3 => rfl
      | 1 | 2 => cases blk <;> rfl
    clear_value addrs lanes fails
    subst haddrs hlanes hfails
    refine ⟨fun k l a hk hl ha hearlier hlower => exec_mcst_of_fault h hok ?_,
      fun hgood hfull => exec_mcst_of_full h hok ?_ hfull⟩
    · exact mcstFault_at ((mcstShape m.ty.bytes blk).lanes_sorted z.act) hk hl ha hearlier hlower
    · exact mcstFault_none hgood

end Sys2Proof.Machine
end

section
/-! ## Architectural state: the clause boundary

Proof of the statement over what ended a clause (R27, R56, R64, R83, R94, R209, R313). -/

namespace Sys2Proof.Machine

/-- What an ending leaves of the issuing warp beside its pending writes: a preempt names its destination or writes it (R189). -/
def Warp.beforeBoundary (preq : Bool) (e : Ending) (W : Warp) : Warp :=
  match e with
  | .preempt d lanes =>
    if preq then { W with resumed := some (d, lanes) } else W.deliver (resultWrites d false lanes fun _ => some 0)
  | _ => W

/-- What an ending does to its warp once the pending writes are applied (R83). -/
def Warp.takeEnding (c : Clause) (e : Ending) (W : Warp) : Warp :=
  match e with
  | .wait x => { W with phase := .waiting x }
  | .barrier x => { W with phase := .arriving x }
  | .fault | .withdrawn => (W.judgeSigns c.signed).settle.resumeInside
  | .tret => W.trapReturn
  | .yield => { W.boundarySteps c.lanes c.next c.targets c.signed with yielded := true }
  | _ => W.boundarySteps c.lanes c.next c.targets c.signed

theorem resumeInside_eq (V : Warp) :
    V.resumeInside = match V.resume with
      | some (h, _) =>
        if V.phase = .between && (lanesOf V.running).any fun l => V.pcOf l = h then { V with issuePc := h } else V
      | none => V := by
  unfold Warp.resumeInside
  rfl

/-- A clause boundary frees the quarter, applies the pending writes and lets the ending take effect. -/
theorem exec_clauseBoundary {s : State} {q : Nat} {c : Clause} {e : Ending} (hc : tfind s.comp.clauses q = some c)
    (he : c.ending = some e) :
    exec (.clauseBoundary q) s =
      let free : State := { s with comp := { s.comp with clauses := tdel s.comp.clauses q } }
      let t := (((free.onWarp c.warp fun W =>
        { (W.beforeBoundary (s.slot (s.ctxOfWarp c.warp)).preq e).applyAll with phase := .between }).onWarp c.warp
          (Warp.takeEnding c e)).afterBoundary c.warp).tryArrive c.warp
      let u := if e = .tret then t.handlerLeft c.warp else t
      .next ((u.progress (coreOfQuarter q) (u.ctxOfWarp c.warp)).wake c.warp) := by
  rw [show exec (.clauseBoundary q) s = execClauseBoundary q s from rfl]
  simp only [execClauseBoundary, hc, he]
  cases e <;> rfl

/-- Settles O38: one case for each way in which a clause ends. -/
theorem clauseBoundaryTakesItsSteps : Obligations.ClauseBoundaryTakesItsSteps := by
  unfold Obligations.ClauseBoundaryTakesItsSteps
  intro s q c e hc he w free applied steps settled ends
  have hexec := exec_clauseBoundary hc he
  refine ⟨?steps, ?yield, ?barrier, ?fault, ?wait, ?preempted, ?spared, ?tret⟩
  case steps =>
    rintro (rfl | ⟨code, rfl⟩)
    · exact hexec
    · exact hexec
  case yield =>
    rintro rfl
    exact hexec
  case barrier =>
    rintro x rfl
    exact hexec
  case fault =>
    intro h
    have hcut : exec (.clauseBoundary q) s =
        ends ((free.onWarp w applied).onWarp w fun W => (W.judgeSigns c.signed).settle.resumeInside) := by
      rcases h with rfl | rfl
      · exact hexec
      · exact hexec
    rw [hcut]
    refine congrArg (fun f => ends ((free.onWarp w applied).onWarp w f)) (funext fun W => ?_)
    generalize (W.judgeSigns c.signed).settle = V
    exact resumeInside_eq V
  case wait =>
    rintro y rfl
    exact hexec
  case preempted =>
    rintro d lanes rfl hpreq
    rw [hpreq] at hexec
    exact hexec
  case spared =>
    rintro d lanes rfl hpreq
    rw [hpreq] at hexec
    exact hexec
  case tret =>
    rintro rfl
    exact hexec

end Sys2Proof.Machine
end

section
/-! ## Architectural state: resets

Proof of the statement over what cold and warm resets leave (R16, R30, R336, R347 to R349, R352 to R359). -/

namespace Sys2Proof.Machine

/-! ### Units out of service -/

theorem getLsbD_clearBit {n : Nat} (x : BitVec n) (i : Nat) {j : Nat} (hj : j < n) :
    (clearBit x i).getLsbD j = true ↔ x.getLsbD j = true ∧ i ≠ j := by
  simp only [clearBit, BitVec.getLsbD_and, BitVec.getLsbD_not, BitVec.getLsbD_ofNat, Nat.testBit_two_pow, hj, decide_true,
    Bool.true_and, Bool.and_eq_true, Bool.not_eq_true', decide_eq_false_iff_not, ne_eq]

/-- A fold whose every step keeps a condition except at some elements keeps it unless it meets one of those. -/
theorem foldl_keeps_iff {α β : Type} {f : α → β → α} {P : α → Prop} {Q : β → Prop}
    (hstep : ∀ a b, P (f a b) ↔ P a ∧ ¬ Q b) (l : List β) (a : α) : P (l.foldl f a) ↔ P a ∧ ¬ ∃ b ∈ l, Q b := by
  induction l generalizing a with
  | nil => simp
  | cons b l ih => simp [ih, hstep, and_assoc]

/-- The list of units out of service names a unit of a die. -/
def Named (units : List Double) (d kind i : Nat) : Prop := ∃ e ∈ units, unitKind e = kind ∧ unitDie e = d ∧ unitNumber e = i

/-- A die's configuration without one unit, if the unit is the die's (R355). -/
def withoutUnit (d : Nat) (c : DieConfig) (e : Double) : DieConfig :=
  if unitDie e ≠ d then c
  else
    match unitKind e with
    | 1 => { c with cores := clearBit c.cores (unitNumber e) }
    | 2 => { c with slices := clearBit c.slices (unitNumber e) }
    | 4 => { c with hbmStacks := clearBit c.hbmStacks (unitNumber e) }
    | 5 => { c with links := clearBit c.links (unitNumber e) }
    | _ => c

/-- A part of a die's configuration from which each named unit of one kind is cleared keeps exactly the others. -/
theorem withoutUnits_clears {n kind d i : Nat} {part : DieConfig → BitVec n} (hi : i < n)
    (hpart : ∀ c e, part (withoutUnit d c e) =
      if unitKind e = kind ∧ unitDie e = d then clearBit (part c) (unitNumber e) else part c)
    (units : List Double) (c : DieConfig) :
    (part (withoutUnits units d c)).getLsbD i = true ↔ (part c).getLsbD i = true ∧ ¬ Named units d kind i := by
  refine foldl_keeps_iff (f := withoutUnit d) (P := fun c => (part c).getLsbD i = true) (fun c e => ?_) units c
  rw [hpart]
  split
  next hnamed =>
    obtain ⟨hkind, hdie⟩ := hnamed
    simp only [getLsbD_clearBit _ _ hi, hkind, hdie, true_and, ne_eq]
  next hother =>
    have hnot : ¬ (unitKind e = kind ∧ unitDie e = d ∧ unitNumber e = i) := fun ⟨hkind, hdie, _⟩ => hother ⟨hkind, hdie⟩
    simp only [hnot, not_false_eq_true, and_true]

theorem withoutUnit_cores (d : Nat) (c : DieConfig) (e : Double) : (withoutUnit d c e).cores =
    if unitKind e = 1 ∧ unitDie e = d then clearBit c.cores (unitNumber e) else c.cores := by
  unfold withoutUnit
  repeat' split
  all_goals simp_all

theorem withoutUnit_slices (d : Nat) (c : DieConfig) (e : Double) : (withoutUnit d c e).slices =
    if unitKind e = 2 ∧ unitDie e = d then clearBit c.slices (unitNumber e) else c.slices := by
  unfold withoutUnit
  repeat' split
  all_goals simp_all

theorem withoutUnit_hbmStacks (d : Nat) (c : DieConfig) (e : Double) : (withoutUnit d c e).hbmStacks =
    if unitKind e = 4 ∧ unitDie e = d then clearBit c.hbmStacks (unitNumber e) else c.hbmStacks := by
  unfold withoutUnit
  repeat' split
  all_goals simp_all

theorem withoutUnit_links (d : Nat) (c : DieConfig) (e : Double) : (withoutUnit d c e).links =
    if unitKind e = 5 ∧ unitDie e = d then clearBit c.links (unitNumber e) else c.links := by
  unfold withoutUnit
  repeat' split
  all_goals simp_all

theorem Die.reset_inUse (on : Bool) (c : DieConfig) {i : Nat} (hi : i < 7) :
    (tget (Link.reset false) (Die.reset on c).links i).inUse = c.links.getLsbD i := by
  interval_cases i <;> rfl

/-- A die as a reset leaves it: the units that the record enables and the list does not name (R355, R356). -/
def State.startDie (s : State) (c : ConfigRecord) (units : List Double) (keep : Bool) (d : Nat) (x : DieConfig) : Die :=
  let on := c.dieMask.toNat.testBit d && !(units.any fun e => unitKind e = 3 && unitDie e = d)
  let die := Die.reset on (withoutUnits units d x)
  { die with
    clock := { die.clock with fmhz := min c.fmax 1800, fmax := min c.fmax 1800 }
    lthr := if c.lthr = 0 then 64 else c.lthr.toNat
    scrub := { die.scrub with period := 2 ^ c.scrubp }
    ring := if keep then (s.die d).ring else []
    ringSeq := if keep then (s.die d).ringSeq else 0 }

/-! ### Resets -/

theorem exec_coldReset (fails : List StepFail) (s : State) :
    exec (.coldReset fails) s = .next (if s.mod.heldFailed then s else s.fullReset true fails) := rfl

theorem exec_warmReset (fails : List StepFail) (s : State) :
    exec (.warmReset fails) s = .next (if s.mod.heldFailed || !s.mod.power then s else s.fullReset false fails) := rfl

/-- A reset that clears HBM keeps no byte and no mark of it, any other keeps both; host memory is kept (R30). -/
theorem State.blank_mem (s : State) (clears : Bool) :
    (s.blank clears).mem.host = s.mem.host ∧
      (clears = true → (s.blank clears).mem.hbm = [] ∧ (s.blank clears).mem.poison = []) ∧
      (clears = false → (s.blank clears).mem.hbm = s.mem.hbm ∧ (s.blank clears).mem.poison = s.mem.poison) := by
  cases clears with
  | true => exact ⟨rfl, fun _ => ⟨rfl, rfl⟩, fun h => nomatch h⟩
  | false => exact ⟨rfl, fun h => (nomatch h), fun _ => ⟨rfl, rfl⟩⟩

/-- Settles O56: a full reset is read off its definition, and the dies that it leaves are those of the record without the named
units. -/
theorem resetsLeaveTheirState : Obligations.ResetsLeaveTheirState := by
  unfold Obligations.ResetsLeaveTheirState
  refine ⟨fun s fails hheld => ⟨?heldCold, ?heldWarm⟩, fun s fails hpower => ?unpowered, ?reset,
    fun s c units keep d x hx => ?dies⟩
  case heldCold => rw [exec_coldReset, if_pos hheld]
  case heldWarm => rw [exec_warmReset, if_pos (by simp [hheld])]
  case unpowered => rw [exec_warmReset, if_pos (by simp [hpower])]
  case reset =>
    intro s fails cold hheld hpower clears record
    have hexec : exec (if cold then .coldReset fails else .warmReset fails) s = .next (s.fullReset cold fails) := by
      cases cold with
      | true => simp [exec_coldReset, hheld]
      | false => simp [exec_warmReset, hheld, hpower rfl]
    obtain ⟨hhost, hcleared, hkept⟩ := s.blank_mem clears
    refine ⟨_, hexec, rfl, rfl, rfl, rfl, rfl, rfl, rfl, rfl, rfl, rfl, rfl, rfl, rfl, rfl, rfl, rfl, rfl, ?scrubbing,
      rfl, rfl, rfl, rfl, ?ticks, hhost, hcleared, hkept, rfl⟩
    case scrubbing => simp [State.fullReset]
    case ticks => simp [State.rt, State.fullReset, State.blank]
  case dies =>
    intro gone
    refine ⟨s.startDie c units keep d x, ?found, ?enabled, fun i hi => withoutUnits_clears hi (withoutUnit_cores d) units x,
      fun i hi => withoutUnits_clears hi (withoutUnit_slices d) units x,
      fun i hi => withoutUnits_clears hi (withoutUnit_hbmStacks d) units x, fun i hi => ?links, rfl, rfl, rfl, rfl, rfl, rfl⟩
    case found =>
      exact (tfind_map_zipIdx (fun x d => s.startDie c units keep d x) c.dies d).trans (by rw [hx]; rfl)
    case enabled => simp [State.startDie, Die.reset]
    case links =>
      have hinUse := Die.reset_inUse (s.startDie c units keep d x).enabled (withoutUnits units d x) hi
      exact (Bool.eq_iff_iff.1 hinUse).trans (withoutUnits_clears hi (withoutUnit_links d) units x)

end Sys2Proof.Machine
end

section
/-! ## Architectural state: memory keeps what is written

Proof of the statement over one write at a home and at a core's store, and over what is performed as one (R15, R133, R137, R142,
R218, R228, R323, R325, R344, R346). -/

namespace Sys2Proof.Machine

/-! ### Folds of writes, seen at one place -/

/-- A fold whose steps at other places leave a view alone, and whose step at this place changes it by g, changes it by g once. -/
theorem foldl_view {σ β : Type} {f : σ → Nat → σ} {view : σ → β} {n : Nat} {g : β → β}
    (hother : ∀ s a, a ≠ n → view (f s a) = view s) (hsame : ∀ s, view (f s n) = g (view s)) {l : List Nat} (hl : l.Nodup)
    (s : σ) : view (l.foldl f s) = if n ∈ l then g (view s) else view s := by
  induction l generalizing s with
  | nil => rfl
  | cons a l ih =>
    obtain ⟨ha, hl⟩ := List.nodup_cons.1 hl
    rw [List.foldl_cons, ih hl]
    by_cases han : a = n
    · subst han
      simp [ha, hsame]
    · simp [hother s a han, Ne.symm han]

/-- The last value that a list of writes gives for a place, or the one that stands there. -/
def lastOf {β : Type} (l : List (Nat × β)) (a : Nat) (v : β) : β := ((l.reverse.find? fun e => e.1 = a).map Prod.snd).getD v

theorem lastOf_unnamed {β : Type} {l : List (Nat × β)} {a : Nat} (v : β) (h : ∀ e ∈ l, e.1 ≠ a) : lastOf l a v = v := by
  have hfind : (l.reverse.find? fun e => e.1 = a) = none :=
    List.find?_eq_none.2 fun e he => by simpa using h e (List.mem_reverse.1 he)
  rw [lastOf, hfind]
  rfl

theorem lastOf_named {β : Type} {l : List (Nat × β)} {a : Nat} {b : β} (v : β)
    (h : l.reverse.find? (fun e => e.1 = a) = some (a, b)) : lastOf l a v = b := by
  rw [lastOf, h]
  rfl

theorem lastOf_append {β : Type} (l : List (Nat × β)) (e : Nat × β) (a : Nat) (v : β) :
    lastOf (l ++ [e]) a v = if e.1 = a then e.2 else lastOf l a v := by
  unfold lastOf
  by_cases h : e.1 = a <;> simp [h]

/-- A fold whose every step keeps a view keeps it. -/
theorem foldl_same {σ α β : Type} {f : σ → α → σ} {view : σ → β} (h : ∀ s a, view (f s a) = view s) (l : List α)
    (s : σ) :
    view (l.foldl f s) = view s := by
  induction l generalizing s with
  | nil => rfl
  | cons a l ih => rw [List.foldl_cons, ih, h]

theorem nodup_eraseDups (l : List Nat) : l.eraseDups.Nodup := by
  induction h : l.length using Nat.strong_induction_on generalizing l with
  | _ n ih =>
    cases l with
    | nil => simp
    | cons a l =>
      rw [List.eraseDups_cons, List.nodup_cons]
      refine ⟨by simp [List.mem_eraseDups], ih _ ?_ _ rfl⟩
      rw [← h, List.length_cons]
      exact Nat.lt_succ_of_le (List.length_filter_le _ _)

/-- The writes of one sector give a place in it what all of them give it. -/
theorem lastOf_sector {β : Type} (l : List (Nat × β)) (a : Nat) (v : β) :
    lastOf (l.filter fun e => e.1 / 32 = a / 32) a v = lastOf l a v := by
  unfold lastOf
  rw [← List.filter_reverse, List.find?_filter]
  congr 3
  funext e
  by_cases h : e.1 = a <;> simp [h]

theorem tget_foldl_tset (l : List Nat) (v : Nat) (t : Table Nat) (a : Nat) :
    tget 0 (l.foldl (fun t b => tset 0 t b v) t) a = if a ∈ l then v else tget 0 t a := by
  induction l generalizing t with
  | nil => rfl
  | cons b l ih =>
    rw [List.foldl_cons, ih, tget_tset]
    by_cases hl : a ∈ l
    · simp [hl]
    · by_cases hb : b = a <;> simp [hl, hb, Ne.symm]

/-! ### A home -/

/-- What stands at a physical address: its byte, the key of the slice that holds it, its sector's mark, its line's key. -/
structure Place where
  byte   : Byte
  keyed  : Nat
  marked : Bool
  key    : Nat
  mod    : Module

/-- What stands at a physical address. -/
def State.placeAt (s : State) (pa : Nat) : Place :=
  { byte := s.hbmByte pa, keyed := tget 0 s.mem.keyed pa, marked := tget false s.mem.poison (pa / 32),
    key := tget 0 s.mem.lineKeys (pa / 128), mod := s.mod }

/-- The line fails its MAC under a world's key (R346). -/
def Place.bad (h : Place) (world : Nat) : Bool :=
  h.mod.mode && (h.key ≠ tget 0 h.mod.worldKeys world || tget 0 h.mod.worldKeys world = 0)

theorem State.badLine_eq (s : State) (world pa : Nat) : s.badLine world pa = (s.placeAt pa).bad world := rfl

theorem badLine_sector (s : State) (world pa : Nat) : s.badLine world (pa / 32 * 32) = (s.placeAt pa).bad world := by
  unfold State.badLine
  rw [show pa / 32 * 32 / 128 = pa / 128 by omega]
  rfl

theorem retireFrame_placeAt (s : State) (die frame pa : Nat) : (s.retireFrame die frame).placeAt pa = s.placeAt pa := by
  unfold State.retireFrame
  split <;> rfl

theorem markSector_placeAt (s : State) (k pa : Nat) :
    (s.markSector k).placeAt pa = if k = pa / 32 then { s.placeAt pa with marked := true } else s.placeAt pa := by
  unfold State.markSector
  rw [retireFrame_placeAt]
  simp only [State.placeAt, State.hbmByte, State.ring_mem, State.ring_mod, tget_tset]
  split <;> rfl

theorem lineSectors_line (n : Nat) : lineSectors (n * 128) 128 = (List.range 4).map (n * 4 + ·) := by
  unfold lineSectors
  rw [show (n * 128 + 128 + 127) / 128 - n * 128 / 128 = 1 by omega, show n * 128 / 128 = n by omega]

/-- An access to a line that fails its MAC marks each of its sectors (R346). -/
theorem checkMac_placeAt (s : State) (world n pa : Nat) :
    (s.checkMac world (n * 128) 128).placeAt pa =
      if n = pa / 128 then { s.placeAt pa with marked := (s.placeAt pa).marked || (s.placeAt pa).bad world } else s.placeAt pa := by
  unfold State.checkMac
  split
  next hmode =>
    have hview := foldl_view (n := pa / 32) (view := fun t : State => t.placeAt pa)
      (g := fun h : Place => { h with marked := h.marked || h.bad world })
      (f := fun t k => if t.badLine world (k * 32) && !tget false t.mem.poison k then t.markSector k else t)
      (l := (List.range 4).map (n * 4 + ·)) ?other ?same ?nodup s
    rw [lineSectors_line]
    refine hview.trans ?_
    case other =>
      intro s k hk
      split
      · rw [markSector_placeAt, if_neg hk]
      · rfl
    case same =>
      intro s
      rw [badLine_sector]
      rw [show tget false s.mem.poison (pa / 32) = (s.placeAt pa).marked from rfl]
      have hor : ((s.placeAt pa).marked || (s.placeAt pa).bad world) =
          if (s.placeAt pa).bad world && !(s.placeAt pa).marked then true else (s.placeAt pa).marked := by
        cases (s.placeAt pa).marked <;> cases (s.placeAt pa).bad world <;> rfl
      rw [hor]
      split
      · rw [markSector_placeAt, if_pos rfl]
      · rfl
    case nodup => exact List.nodup_range.map fun a b h => by simpa using h
    have hmem : pa / 32 ∈ (List.range 4).map (n * 4 + ·) ↔ n = pa / 128 := by
      simp only [List.mem_map, List.mem_range]
      exact ⟨fun ⟨i, hi, h⟩ => by omega, fun h => ⟨pa / 32 - n * 4, by omega, by omega⟩⟩
    simp only [hmem]
  next hmode =>
    have hgood : (s.placeAt pa).bad world = false := by
      simp [Place.bad, State.placeAt, hmode]
    rw [hgood, Bool.or_false]
    exact (ite_self _).symm

/-- The first part of a write at a home: a line that it covers comes under the writer's key, one that it does not is checked. -/
def State.keyLine (world : Nat) (addrs : List Nat) (s : State) (n : Nat) : State :=
  if s.mod.mode && covers addrs (n * 128) 128 then
    { s with mem := { s.mem with lineKeys := tset 0 s.mem.lineKeys n (s.keyOf world) } }
  else s.checkMac world (n * 128) 128

/-- The second part: the bytes of one sector, unless they are lost. -/
def State.writeSector (world : Nat) (bytes : List (Nat × Byte)) (s : State) (n : Nat) : State :=
  let whole := covers (bytes.map Prod.fst) (n * 32) 32
  let bad := s.badLine world (n * 32) || (tget false s.mem.poison n && !whole)
  let s :=
    { s with
      mem :=
        { s.mem with
          versions := tset 0 s.mem.versions n (tget 0 s.mem.versions n + 1)
          poison := if whole && !bad then tset false s.mem.poison n false else s.mem.poison } }
  let here := bytes.filter fun e => e.1 / 32 = n
  if bad then s else here.foldl (fun s e => s.putHbm e.1 e.2) (s.keySlices world (here.map Prod.fst))

theorem hbmWrite_eq (s : State) (world : Nat) (bytes : List (Nat × Byte)) :
    s.hbmWrite world bytes = ((bytes.map Prod.fst).map (· / 32)).eraseDups.foldl (State.writeSector world bytes)
      (((bytes.map Prod.fst).map (· / 128)).eraseDups.foldl (State.keyLine world (bytes.map Prod.fst)) s) := rfl

/-- What the first part leaves at an address of the line: its key, or its mark. -/
def Place.keyLine (h : Place) (world : Nat) (whole : Bool) : Place :=
  if h.mod.mode && whole then { h with key := tget 0 h.mod.worldKeys world } else { h with marked := h.marked || h.bad world }

theorem keyLine_placeAt (s : State) (world : Nat) (addrs : List Nat) (n pa : Nat) :
    (s.keyLine world addrs n).placeAt pa =
      if n = pa / 128 then (s.placeAt pa).keyLine world (covers addrs (n * 128) 128) else s.placeAt pa := by
  unfold State.keyLine Place.keyLine
  by_cases hwhole : (s.mod.mode && covers addrs (n * 128) 128) = true
  · have hwhole' : ((s.placeAt pa).mod.mode && covers addrs (n * 128) 128) = true := hwhole
    rw [if_pos hwhole, if_pos hwhole']
    simp only [State.placeAt, State.hbmByte, tget_tset]
    split <;> rfl
  · have hwhole' : ¬ ((s.placeAt pa).mod.mode && covers addrs (n * 128) 128) = true := hwhole
    rw [if_neg hwhole, if_neg hwhole', checkMac_placeAt]

theorem keySlices_placeAt (s : State) (world : Nat) (addrs : List Nat) (pa : Nat) :
    (s.keySlices world addrs).placeAt pa =
      { s.placeAt pa with keyed := if s.mod.mode = false ∧ pa ∈ addrs then world + 1 else (s.placeAt pa).keyed } := by
  unfold State.keySlices
  cases hmode : s.mod.mode with
  | true => simp
  | false =>
    simp only [Bool.false_eq_true, if_false, State.placeAt, State.hbmByte, tget_foldl_tset, true_and]

theorem putHbm_placeAt (s : State) (a : Nat) (b : Byte) (pa : Nat) :
    (s.putHbm a b).placeAt pa = { s.placeAt pa with byte := if a = pa then b else (s.placeAt pa).byte } := by
  simp only [State.placeAt, State.hbmByte_putHbm]
  rfl

theorem putHbms_placeAt (l : List (Nat × Byte)) (s : State) (pa : Nat) :
    (l.foldl (fun s e => s.putHbm e.1 e.2) s).placeAt pa = { s.placeAt pa with byte := lastOf l pa (s.placeAt pa).byte } := by
  induction l using List.reverseRecOn with
  | nil => rfl
  | append_singleton l e ih => rw [List.foldl_append, List.foldl_cons, List.foldl_nil, putHbm_placeAt, ih, lastOf_append]

/-- What the second part leaves at an address of the sector: nothing new where the bytes are lost. -/
def Place.writeSector (h : Place) (world : Nat) (bytes : List (Nat × Byte)) (pa : Nat) (whole : Bool) : Place :=
  if h.bad world || (h.marked && !whole) then h
  else
    { h with
      byte := lastOf bytes pa h.byte
      keyed := if h.mod.mode = false ∧ pa ∈ bytes.map Prod.fst then world + 1 else h.keyed
      marked := if whole then false else h.marked }

/-- The version of a sector that a write reaches, and its mark, which a write of the whole sector clears (R323). -/
def State.stamp (s : State) (n : Nat) (clears : Bool) : State :=
  { s with
    mem :=
      { s.mem with
        versions := tset 0 s.mem.versions n (tget 0 s.mem.versions n + 1)
        poison := if clears then tset false s.mem.poison n false else s.mem.poison } }

theorem stamp_placeAt (s : State) (n : Nat) (clears : Bool) (pa : Nat) :
    (s.stamp n clears).placeAt pa =
      { s.placeAt pa with marked := if n = pa / 32 ∧ clears = true then false else (s.placeAt pa).marked } := by
  cases clears with
  | false => simp [State.stamp, State.placeAt, State.hbmByte]
  | true => simp [State.stamp, State.placeAt, State.hbmByte, tget_tset]

/-- The bytes of one sector are lost, or stand there under the writer's key. -/
theorem writeSector_eq (s : State) (world : Nat) (bytes : List (Nat × Byte)) (n : Nat) :
    s.writeSector world bytes n =
      if s.badLine world (n * 32) || (tget false s.mem.poison n && !covers (bytes.map Prod.fst) (n * 32) 32) then s.stamp n false
      else (bytes.filter fun e => e.1 / 32 = n).foldl (fun s e => s.putHbm e.1 e.2)
        ((s.stamp n (covers (bytes.map Prod.fst) (n * 32) 32)).keySlices world
          ((bytes.filter fun e => e.1 / 32 = n).map Prod.fst)) := by
  unfold State.writeSector State.stamp
  by_cases hbad : (s.badLine world (n * 32) || (tget false s.mem.poison n && !covers (bytes.map Prod.fst) (n * 32) 32)) = true
  · simp only [hbad, Bool.not_true, Bool.and_false, Bool.false_eq_true, if_true, if_false]
  · simp only [hbad, Bool.not_false, Bool.and_true, Bool.false_eq_true, if_false]

theorem writeSector_placeAt_other (s : State) (world : Nat) (bytes : List (Nat × Byte)) {n pa : Nat} (hn : n ≠ pa / 32) :
    (s.writeSector world bytes n).placeAt pa = s.placeAt pa := by
  have hhere : ∀ e ∈ bytes.filter (fun e => e.1 / 32 = n), e.1 ≠ pa := by
    intro e he hpa
    have := (List.mem_filter.1 he).2
    simp only [decide_eq_true_eq] at this
    exact hn (by rw [← this, hpa])
  have hnot : ¬ pa ∈ (bytes.filter fun e => e.1 / 32 = n).map Prod.fst := by
    intro hmem
    obtain ⟨e, he, hpa⟩ := List.mem_map.1 hmem
    exact hhere e he hpa
  rw [writeSector_eq]
  split
  · rw [stamp_placeAt]
    simp
  · rw [putHbms_placeAt, lastOf_unnamed _ hhere, keySlices_placeAt, stamp_placeAt]
    simp only [hn, hnot, and_false, false_and, if_false]

theorem writeSector_placeAt (s : State) (world : Nat) (bytes : List (Nat × Byte)) (pa : Nat) :
    (s.writeSector world bytes (pa / 32)).placeAt pa =
      (s.placeAt pa).writeSector world bytes pa (covers (bytes.map Prod.fst) (pa / 32 * 32) 32) := by
  have hmem : pa ∈ (bytes.filter fun e => e.1 / 32 = pa / 32).map Prod.fst ↔ pa ∈ bytes.map Prod.fst := by
    simp only [List.mem_map, List.mem_filter, decide_eq_true_eq]
    exact ⟨fun ⟨e, ⟨he, _⟩, h⟩ => ⟨e, he, h⟩, fun ⟨e, he, h⟩ => ⟨e, ⟨he, by rw [h]⟩, h⟩⟩
  rw [writeSector_eq, badLine_sector]
  unfold Place.writeSector
  rw [show tget false s.mem.poison (pa / 32) = (s.placeAt pa).marked from rfl]
  split
  · rw [stamp_placeAt]
    simp
  · rw [putHbms_placeAt, lastOf_sector, keySlices_placeAt, stamp_placeAt]
    simp only [hmem, true_and]
    rfl

/-! ### One write at a home -/

/-- What a write at a home leaves at an address: what its line's check and its sector's bytes leave there. -/
def Place.wrote (h : Place) (world : Nat) (bytes : List (Nat × Byte)) (pa : Nat) : Place :=
  let addrs := bytes.map Prod.fst
  let k := if pa / 128 ∈ addrs.map (· / 128) then h.keyLine world (covers addrs (pa / 128 * 128) 128) else h
  if pa / 32 ∈ addrs.map (· / 32) then k.writeSector world bytes pa (covers addrs (pa / 32 * 32) 32) else k

theorem hbmWrite_placeAt (s : State) (world : Nat) (bytes : List (Nat × Byte)) (pa : Nat) :
    (s.hbmWrite world bytes).placeAt pa = (s.placeAt pa).wrote world bytes pa := by
  have hlines (t : State) := foldl_view (view := fun t : State => t.placeAt pa) (f := State.keyLine world (bytes.map Prod.fst))
    (g := fun h => h.keyLine world (covers (bytes.map Prod.fst) (pa / 128 * 128) 128)) (n := pa / 128)
    (fun t n hn => by rw [keyLine_placeAt, if_neg hn]) (fun t => by rw [keyLine_placeAt, if_pos rfl])
    (nodup_eraseDups ((bytes.map Prod.fst).map (· / 128))) t
  have hsectors (t : State) := foldl_view (view := fun t : State => t.placeAt pa) (f := State.writeSector world bytes)
    (g := fun h => h.writeSector world bytes pa (covers (bytes.map Prod.fst) (pa / 32 * 32) 32)) (n := pa / 32)
    (fun t n hn => writeSector_placeAt_other t world bytes hn) (fun t => writeSector_placeAt t world bytes pa)
    (nodup_eraseDups ((bytes.map Prod.fst).map (· / 32))) t
  rw [hbmWrite_eq]
  simp only [List.mem_eraseDups] at hlines hsectors
  rw [hsectors, hlines]
  rfl

theorem covers_iff {addrs : List Nat} {first n : Nat} : covers addrs first n = true ↔ ∀ i < n, first + i ∈ addrs := by
  simp [covers]

theorem covers_sector_of_line {addrs : List Nat} {pa : Nat} (h : covers addrs (pa / 128 * 128) 128 = true) :
    covers addrs (pa / 32 * 32) 32 = true := by
  rw [covers_iff] at h ⊢
  intro i hi
  have := h (pa / 32 * 32 - pa / 128 * 128 + i) (by omega)
  rwa [show pa / 128 * 128 + (pa / 32 * 32 - pa / 128 * 128 + i) = pa / 32 * 32 + i by omega] at this

theorem mem_sectors_of_covers {addrs : List Nat} {pa : Nat} (h : covers addrs (pa / 32 * 32) 32 = true) :
    pa / 32 ∈ addrs.map (· / 32) :=
  List.mem_map.2 ⟨pa / 32 * 32 + 0, covers_iff.1 h 0 (by omega), by omega⟩

theorem mem_lines_of_covers {addrs : List Nat} {pa : Nat} (h : covers addrs (pa / 128 * 128) 128 = true) :
    pa / 128 ∈ addrs.map (· / 128) :=
  List.mem_map.2 ⟨pa / 128 * 128 + 0, covers_iff.1 h 0 (by omega), by omega⟩

theorem mem_of_last {bytes : List (Nat × Byte)} {pa : Nat} {b : Byte}
    (h : bytes.reverse.find? (fun e => e.1 = pa) = some (pa, b)) : pa ∈ bytes.map Prod.fst :=
  List.mem_map.2 ⟨(pa, b), List.mem_reverse.1 (List.mem_of_find?_eq_some h), rfl⟩

section
variable (h : Place) (world : Nat) (bytes : List (Nat × Byte)) (pa : Nat)

theorem Place.keyLine_keeps (whole : Bool) :
    (h.keyLine world whole).byte = h.byte ∧ (h.keyLine world whole).keyed = h.keyed ∧ (h.keyLine world whole).mod = h.mod := by
  unfold Place.keyLine
  split <;> exact ⟨rfl, rfl, rfl⟩

theorem Place.keyLine_standard (hmode : h.mod.mode = false) (whole : Bool) : h.keyLine world whole = h := by
  simp [Place.keyLine, Place.bad, hmode]

theorem Place.keyLine_marked (hmarked : h.marked = true) (whole : Bool) : (h.keyLine world whole).marked = true := by
  unfold Place.keyLine
  split
  · exact hmarked
  · simp [hmarked]

variable {h world bytes pa}

theorem Place.writeSector_lost {whole : Bool} (hlost : h.bad world = true ∨ (h.marked = true ∧ whole = false)) :
    h.writeSector world bytes pa whole = h :=
  if_pos (by simpa using hlost)

theorem Place.writeSector_kept {whole : Bool} (hbad : h.bad world = false) (hmarked : h.marked = false ∨ whole = true) :
    h.writeSector world bytes pa whole =
      { h with
        byte := lastOf bytes pa h.byte
        keyed := if h.mod.mode = false ∧ pa ∈ bytes.map Prod.fst then world + 1 else h.keyed
        marked := if whole then false else h.marked } :=
  if_neg (by rcases hmarked with hmarked | hmarked <;> simp [hbad, hmarked])

/-- An address that a write does not name keeps its byte and its slice's key. -/
theorem Place.wrote_unnamed (hnot : ∀ e ∈ bytes, e.1 ≠ pa) :
    (h.wrote world bytes pa).byte = h.byte ∧ (h.wrote world bytes pa).keyed = h.keyed := by
  have hmem : pa ∉ bytes.map Prod.fst := fun hmem => by
    obtain ⟨e, he, hpa⟩ := List.mem_map.1 hmem
    exact hnot e he hpa
  have hsector (k : Place) (whole : Bool) :
      (k.writeSector world bytes pa whole).byte = k.byte ∧ (k.writeSector world bytes pa whole).keyed = k.keyed := by
    unfold Place.writeSector
    split
    · exact ⟨rfl, rfl⟩
    · exact ⟨lastOf_unnamed _ hnot, if_neg fun hk => hmem hk.2⟩
  obtain ⟨hbyte, hkeyed, -⟩ := h.keyLine_keeps world (covers (bytes.map Prod.fst) (pa / 128 * 128) 128)
  unfold Place.wrote
  dsimp only
  split <;> split <;> simp only [hsector, hbyte, hkeyed, and_self]

/-- In standard mode a write reaches its address unless the sector is poisoned and the write partial. -/
theorem Place.wrote_standard (hmode : h.mod.mode = false)
    (hgood : h.marked = false ∨ covers (bytes.map Prod.fst) (pa / 32 * 32) 32 = true)
    (hmem : pa / 32 ∈ (bytes.map Prod.fst).map (· / 32)) :
    h.wrote world bytes pa =
      { h with
        byte := lastOf bytes pa h.byte
        keyed := if pa ∈ bytes.map Prod.fst then world + 1 else h.keyed
        marked := if covers (bytes.map Prod.fst) (pa / 32 * 32) 32 then false else h.marked } := by
  have hbad : h.bad world = false := by simp [Place.bad, hmode]
  unfold Place.wrote
  simp only [h.keyLine_standard world hmode, ite_self, if_pos hmem, Place.writeSector_kept hbad hgood, hmode, true_and]

/-- Where a sector is marked, by the write's own check too, and not covered, the write's bytes are lost. -/
theorem Place.wrote_lost (hline : pa / 128 ∈ (bytes.map Prod.fst).map (· / 128))
    (hlost : let k := h.keyLine world (covers (bytes.map Prod.fst) (pa / 128 * 128) 128)
      k.bad world = true ∨ (k.marked = true ∧ covers (bytes.map Prod.fst) (pa / 32 * 32) 32 = false)) :
    h.wrote world bytes pa = h.keyLine world (covers (bytes.map Prod.fst) (pa / 128 * 128) 128) := by
  unfold Place.wrote
  simp only [if_pos hline, Place.writeSector_lost hlost, ite_self]

/-- A partial write to a poisoned sector changes no byte and keeps the mark. -/
theorem Place.wrote_marked (hmarked : h.marked = true) (hpart : covers (bytes.map Prod.fst) (pa / 32 * 32) 32 = false) :
    (h.wrote world bytes pa).byte = h.byte ∧ (h.wrote world bytes pa).marked = true := by
  obtain ⟨hbyte, -, -⟩ := h.keyLine_keeps world (covers (bytes.map Prod.fst) (pa / 128 * 128) 128)
  have hkmarked := h.keyLine_marked world hmarked (covers (bytes.map Prod.fst) (pa / 128 * 128) 128)
  have hlost (k : Place) (hk : k.marked = true) : k.writeSector world bytes pa false = k :=
    Place.writeSector_lost (.inr ⟨hk, rfl⟩)
  unfold Place.wrote
  dsimp only
  rw [hpart]
  by_cases hline : pa / 128 ∈ (bytes.map Prod.fst).map (· / 128)
  · simp only [if_pos hline, hlost _ hkmarked, ite_self, hbyte, hkmarked, and_self]
  · simp only [if_neg hline, hlost _ hmarked, ite_self, hmarked, and_self]

/-- In confidential mode a write of a whole line reaches every byte of it, under the writer's key. -/
theorem Place.wrote_line (hmode : h.mod.mode = true) (hline : covers (bytes.map Prod.fst) (pa / 128 * 128) 128 = true)
    (hkey : tget 0 h.mod.worldKeys world ≠ 0) :
    (h.wrote world bytes pa).key = tget 0 h.mod.worldKeys world ∧ (h.wrote world bytes pa).byte = lastOf bytes pa h.byte := by
  have hsector := covers_sector_of_line hline
  have hkeyLine : h.keyLine world true = { h with key := tget 0 h.mod.worldKeys world } := by simp [Place.keyLine, hmode]
  have hgood : (h.keyLine world true).bad world = false := by simp [hkeyLine, Place.bad, hkey]
  unfold Place.wrote
  dsimp only
  rw [if_pos (mem_lines_of_covers hline), if_pos (mem_sectors_of_covers hsector), hline, hsector,
    Place.writeSector_kept hgood (.inr rfl), hkeyLine]
  exact ⟨rfl, rfl⟩

/-- A partial write to a line whose MAC fails marks its sectors, and its bytes are lost. -/
theorem Place.wrote_badLine (hline : pa / 128 ∈ (bytes.map Prod.fst).map (· / 128))
    (hpart : covers (bytes.map Prod.fst) (pa / 128 * 128) 128 = false) (hbad : h.bad world = true) :
    (h.wrote world bytes pa).marked = true ∧ (h.wrote world bytes pa).byte = h.byte := by
  have hkeyLine : h.keyLine world false = { h with marked := true } := by simp [Place.keyLine, hbad]
  have hlost : h.wrote world bytes pa = h.keyLine world false := by
    rw [← hpart]
    refine Place.wrote_lost hline (.inl ?_)
    rw [hpart, hkeyLine]
    exact hbad
  rw [hlost, hkeyLine]
  exact ⟨rfl, rfl⟩

end

/-! ### What a write at a home leaves alone -/

/-- Everything of a state that no write at a home changes, but for its dies. -/
def State.besideHbm (s : State) := (s.mem.host, s.comp, s.eng, s.ctl, s.mod)

theorem markSector_beside (s : State) (k : Nat) : (s.markSector k).besideHbm = s.besideHbm := by
  unfold State.markSector State.retireFrame
  dsimp only
  split <;> rfl

theorem checkMac_beside (s : State) (world pa n : Nat) : (s.checkMac world pa n).besideHbm = s.besideHbm := by
  unfold State.checkMac
  split
  · refine foldl_same (view := State.besideHbm) (fun s k => ?_) _ s
    split
    · exact markSector_beside s k
    · rfl
  · rfl

theorem keyLine_beside (s : State) (world : Nat) (addrs : List Nat) (n : Nat) :
    (s.keyLine world addrs n).besideHbm = s.besideHbm := by
  unfold State.keyLine
  split
  · rfl
  · exact checkMac_beside ..

theorem keyLine_standard {s : State} (hmode : s.mod.mode = false) (world : Nat) (addrs : List Nat) (n : Nat) :
    s.keyLine world addrs n = s := by
  simp [State.keyLine, State.checkMac, hmode]

/-- A write of one sector changes nothing that HBM's own tables do not change. -/
theorem writeSector_view {β : Type} {view : State → β}
    (hmem : ∀ (s : State) (m : Mem), m.host = s.mem.host → view { s with mem := m } = view s) (s : State) (world : Nat)
    (bytes : List (Nat × Byte)) (n : Nat) : view (s.writeSector world bytes n) = view s := by
  rw [writeSector_eq]
  split
  · exact hmem s _ rfl
  · rw [foldl_same (f := fun (s : State) (e : Nat × Byte) => s.putHbm e.1 e.2) fun s e => hmem s _ rfl]
    unfold State.keySlices
    split
    · exact hmem s _ rfl
    · refine (hmem (s.stamp n _) _ ?_).trans (hmem s _ rfl)
      rfl

theorem State.besideHbm_mem (s : State) (m : Mem) (h : m.host = s.mem.host) :
    ({ s with mem := m } : State).besideHbm = s.besideHbm := by
  simp only [State.besideHbm, h]

theorem hbmWrite_beside (s : State) (world : Nat) (bytes : List (Nat × Byte)) :
    (s.hbmWrite world bytes).besideHbm = s.besideHbm ∧ (s.mod.mode = false → (s.hbmWrite world bytes).dies = s.dies) := by
  rw [hbmWrite_eq]
  constructor
  · rw [foldl_same (view := State.besideHbm) fun s n => writeSector_view State.besideHbm_mem s world bytes n]
    exact foldl_same (view := State.besideHbm) (fun s n => keyLine_beside s world _ n) _ s
  · intro hmode
    rw [foldl_same (view := State.dies) fun s n => writeSector_view (fun _ _ _ => rfl) s world bytes n,
      List.foldl_fixed' fun n => keyLine_standard hmode world _ n]

/-! ### A core's store -/

/-- A byte of a core's store outside register areas and uniform blocks (R28). -/
def State.Plain (s : State) (core o : Nat) : Prop := ∀ g x a, s.areaAt core o = some (g, x, a) → a.isRegister = false

theorem State.Plain.congr {s t : State} {core o : Nat} (h : s.Plain core o) (hgroups : t.comp.groups = s.comp.groups) :
    t.Plain core o := by
  unfold State.Plain State.areaAt State.groupAt at *
  rwa [hgroups]

theorem coreByte_plain {s : State} {core o : Nat} (h : s.Plain core o) : s.coreByte core o = tget 0 (s.core core).store o := by
  unfold State.coreByte
  split
  next e => cases h _ _ _ e
  next e => cases h _ _ _ e
  next => rfl

theorem putCore_groups (s : State) (core e : Nat) (b : Byte) : (s.putCore core e b).comp.groups = s.comp.groups := by
  unfold State.putCore State.windowStore
  repeat' split
  all_goals simp

/-- A byte written to a core's store is a register's, and no core changes, or one byte of that core's store. -/
theorem putCore_cases (s : State) (core e : Nat) (b : Byte) :
    (¬ s.Plain core e ∧ (s.putCore core e b).comp.cores = s.comp.cores) ∨
      s.putCore core e b = s.onCore core fun c => { c with store := tset 0 c.store e b } := by
  unfold State.putCore
  split
  next harea => exact .inl ⟨fun h => (by cases h _ _ _ harea), rfl⟩
  next harea => exact .inl ⟨fun h => (by cases h _ _ _ harea), by split <;> rfl⟩
  next => exact .inr rfl

theorem putCore_bits (s : State) {core : Nat} (hcore : core < 2 ^ 18) (e : Nat) (b : Byte) :
    ((s.putCore core e b).core core).empty = (s.core core).empty ∧
      ((s.putCore core e b).core core).poison = (s.core core).poison := by
  rcases putCore_cases s core e b with ⟨-, hcores⟩ | hput
  · simp only [State.core, hcores, and_self]
  · simp only [hput, State.core_onCore _ _ hcore, and_self]

theorem putCore_other (s : State) {core d : Nat} (hd : core ≠ d) (e : Nat) (b : Byte) :
    (s.putCore core e b).core d = s.core d := by
  rcases putCore_cases s core e b with ⟨-, hcores⟩ | hput
  · simp only [State.core, hcores]
  · rw [hput, State.core_onCore_other _ _ hd]

theorem putCore_store {s : State} {core o : Nat} (hcore : core < 2 ^ 18) (h : s.Plain core o) (e : Nat) (b : Byte) :
    tget 0 ((s.putCore core e b).core core).store o = if e = o then b else tget 0 (s.core core).store o := by
  rcases putCore_cases s core e b with ⟨hregister, hcores⟩ | hput
  · have hne : e ≠ o := by
      rintro rfl
      exact hregister h
    rw [if_neg hne]
    simp only [State.core, hcores]
  · rw [hput, State.core_onCore _ _ hcore, tget_tset]

/-- The bytes of a write at a core's store, made in turn. -/
def State.putCores (s : State) (core : Nat) (bytes : List (Nat × Byte)) : State :=
  bytes.foldl (fun s e => s.putCore core e.1 e.2) s

section
variable (s : State) {core : Nat} (bytes : List (Nat × Byte))

theorem putCores_view {β : Type} {view : State → β} (h : ∀ s e b, view (State.putCore s core e b) = view s) :
    view (s.putCores core bytes) = view s :=
  foldl_same (f := fun (s : State) (e : Nat × Byte) => s.putCore core e.1 e.2) (fun s e => h s e.1 e.2) bytes s

theorem putCores_groups : (s.putCores core bytes).comp.groups = s.comp.groups :=
  putCores_view s bytes (view := fun t => t.comp.groups) fun s e b => putCore_groups s core e b

theorem putCores_other {d : Nat} (hd : core ≠ d) : (s.putCores core bytes).core d = s.core d :=
  putCores_view s bytes (view := fun t => t.core d) fun s e b => putCore_other s hd e b

theorem putCores_bits (hcore : core < 2 ^ 18) : ((s.putCores core bytes).core core).empty = (s.core core).empty ∧
    ((s.putCores core bytes).core core).poison = (s.core core).poison :=
  ⟨putCores_view s bytes (view := fun t => (t.core core).empty) fun s e b => (putCore_bits s hcore e b).1,
    putCores_view s bytes (view := fun t => (t.core core).poison) fun s e b => (putCore_bits s hcore e b).2⟩

theorem putCores_store (hcore : core < 2 ^ 18) {o : Nat} (h : s.Plain core o) :
    tget 0 ((s.putCores core bytes).core core).store o = lastOf bytes o (tget 0 (s.core core).store o) := by
  induction bytes using List.reverseRecOn with
  | nil => rfl
  | append_singleton l e ih =>
    rw [State.putCores, List.foldl_append, List.foldl_cons, List.foldl_nil, ← State.putCores,
      putCore_store hcore (h.congr (putCores_groups s l)), ih, lastOf_append]

end

/-- What a write leaves of one granule's bits: full, and not poisoned when it is written whole (R15, R323). -/
def State.fillGranule (core : Nat) (addrs : List Nat) (s : State) (g : Nat) : State :=
  let s := s.fill core g
  let s := if covers addrs (g * 16) 16 then s.onCore core fun c => { c with poison := tset false c.poison g false } else s
  match s.groupAt core (g * 16) with
  | some (_, x) => s.progress core x.slot
  | none => s

theorem coreWrite_eq (s : State) (core : Nat) (bytes : List (Nat × Byte)) :
    s.coreWrite core bytes = ((bytes.map Prod.fst).map (· / 16)).eraseDups.foldl (State.fillGranule core (bytes.map Prod.fst))
      (s.putCores core bytes) := by
  unfold State.coreWrite State.fillGranule State.putCores
  rfl

section
variable (s : State) {core : Nat} (addrs : List Nat) (g : Nat)

theorem fillGranule_groups : (s.fillGranule core addrs g).comp.groups = s.comp.groups := by
  unfold State.fillGranule State.fill State.progress
  dsimp only
  repeat' split
  all_goals simp

theorem fillGranule_other {d : Nat} (hd : core ≠ d) : (s.fillGranule core addrs g).core d = s.core d := by
  unfold State.fillGranule State.fill State.progress
  dsimp only
  repeat' split
  all_goals simp only [State.core_onCore_other _ _ hd]

theorem fillGranule_core (hcore : core < 2 ^ 18) : ∃ watch, (s.fillGranule core addrs g).core core =
    { s.core core with
      empty := tset false (s.core core).empty g false
      poison := if covers addrs (g * 16) 16 then tset false (s.core core).poison g false else (s.core core).poison
      watch := watch } := by
  unfold State.fillGranule State.fill State.progress
  dsimp only
  repeat' split
  all_goals
    simp only [State.core_onCore _ _ hcore, *]
    exact ⟨_, rfl⟩

end

/-- A granule's full and poison bits. -/
def State.granuleAt (s : State) (core m : Nat) : Bool × Bool :=
  (tget false (s.core core).empty m, tget false (s.core core).poison m)

section
variable (s : State) {core : Nat} (bytes : List (Nat × Byte))

theorem coreWrite_groups : (s.coreWrite core bytes).comp.groups = s.comp.groups := by
  rw [coreWrite_eq, foldl_same (view := fun t : State => t.comp.groups) fun s g => fillGranule_groups s _ g, putCores_groups]

theorem coreWrite_other {d : Nat} (hd : core ≠ d) : (s.coreWrite core bytes).core d = s.core d := by
  rw [coreWrite_eq, foldl_same (view := fun t : State => t.core d) fun s g => fillGranule_other s _ g hd, putCores_other s _ hd]

theorem coreWrite_store (hcore : core < 2 ^ 18) {o : Nat} (h : s.Plain core o) :
    tget 0 ((s.coreWrite core bytes).core core).store o = lastOf bytes o (tget 0 (s.core core).store o) := by
  have hstore (s : State) (g : Nat) :
      ((s.fillGranule core (bytes.map Prod.fst) g).core core).store = (s.core core).store := by
    obtain ⟨watch, hfill⟩ := fillGranule_core s (bytes.map Prod.fst) g hcore
    rw [hfill]
  rw [coreWrite_eq, foldl_same (view := fun t : State => (t.core core).store) hstore, putCores_store s bytes hcore h]

theorem coreWrite_granule (hcore : core < 2 ^ 18) (m : Nat) : (s.coreWrite core bytes).granuleAt core m =
    if m ∈ (bytes.map Prod.fst).map (· / 16) then
      (false, if covers (bytes.map Prod.fst) (m * 16) 16 then false else (s.granuleAt core m).2)
    else s.granuleAt core m := by
  have hother (s : State) (g : Nat) (hg : g ≠ m) :
      (s.fillGranule core (bytes.map Prod.fst) g).granuleAt core m = s.granuleAt core m := by
    obtain ⟨watch, hfill⟩ := fillGranule_core s (bytes.map Prod.fst) g hcore
    simp only [State.granuleAt, hfill, tget_tset, if_neg hg]
    split <;> simp only [tget_tset, if_neg hg]
  have hsame (s : State) : (s.fillGranule core (bytes.map Prod.fst) m).granuleAt core m =
      (false, if covers (bytes.map Prod.fst) (m * 16) 16 then false else (s.granuleAt core m).2) := by
    obtain ⟨watch, hfill⟩ := fillGranule_core s (bytes.map Prod.fst) m hcore
    simp only [State.granuleAt, hfill, tget_tset_same]
    split <;> simp only [tget_tset_same]
  have hbits := putCores_bits s bytes hcore
  have hputs : (s.putCores core bytes).granuleAt core m = s.granuleAt core m := by simp only [State.granuleAt, hbits]
  rw [coreWrite_eq]
  refine (foldl_view (view := fun t : State => t.granuleAt core m)
    (g := fun e => (false, if covers (bytes.map Prod.fst) (m * 16) 16 then false else e.2)) hother hsame
    (nodup_eraseDups _) _).trans ?_
  simp only [List.mem_eraseDups, hputs]

end

/-! ### What is performed as one -/

theorem sameBytes_self (s : State) (w : Nat) (a : Loc) {n : Nat} (hn : 0 < n) : s.sameBytes w a n a n = true := by
  cases a <;> simp [State.sameBytes, Loc.meets, overlaps, hn]

theorem together_self (s : State) (w : Nat) (o : Op) (a : Access) (hsize : 0 < a.size) : s.together w o a a = true := by
  unfold State.together
  cases o.kind <;> simp [sameBytes_self s w a.loc hsize]

theorem mem_readyUnits {s : State} {w : Nat} {o : Op} {lanes : LaneSet} {p : Access → Bool} {a : Access} :
    a ∈ s.readyUnits w o lanes p ↔ a ∈ o.acc ∧ a.done = false ∧ p a = true ∧
      (∃ b ∈ o.acc, inSet lanes b.lane = true ∧ s.together w o a b = true) ∧
      ∀ b ∈ o.acc, s.together w o a b = true → b.done = false → s.mayPerform w o b = true := by
  have hheld (b : Access) : ((s.together w o a b = false ∨ b.done = true) ∨ s.mayPerform w o b = true) ↔
      (s.together w o a b = true → b.done = false → s.mayPerform w o b = true) := by
    cases s.together w o a b <;> cases b.done <;> simp
  simp only [State.readyUnits, List.mem_filter, Bool.and_eq_true, Bool.not_eq_true', List.any_eq_true, List.all_eq_true,
    Bool.or_eq_true, hheld, and_assoc]

/-- An access that belongs with all that another belongs with is ready with it. -/
theorem readyUnits_together {s : State} {w : Nat} {o : Op} {lanes : LaneSet} {p : Access → Bool} {a b : Access}
    (ha : a ∈ s.readyUnits w o lanes p) (hb : b ∈ o.acc) (hdone : b.done = false) (hp : p b = true)
    (hsame : ∀ c, s.together w o b c = s.together w o a c) : b ∈ s.readyUnits w o lanes p := by
  obtain ⟨-, -, -, hlane, hall⟩ := mem_readyUnits.1 ha
  refine mem_readyUnits.2 ⟨hb, hdone, hp, ?_, fun c hc htogether => hall c hc (hsame c ▸ htogether)⟩
  simpa only [hsame] using hlane

/-! ### The statement -/

/-- A byte as a world reads it, from what stands at its address. -/
def Place.seen (h : Place) (world pa : Nat) : Byte :=
  match h.keyed with
  | 0 => h.byte
  | n + 1 => reseen n world (sliceUnit pa) pa h.byte

theorem seenByte_eq (s : State) (world pa : Nat) : s.seenByte world pa = (s.placeAt pa).seen world pa := rfl

theorem Place.seen_own (h : Place) (world pa : Nat) (hkeyed : h.keyed = world + 1) : h.seen world pa = h.byte := by
  rw [Place.seen, hkeyed]
  exact if_pos rfl

/-- Settles O41: a write is followed through its lines, sectors and granules as one place sees it; what is performed as one shares
what it is performed with. -/
theorem memoryKeepsWhatIsWritten : Obligations.MemoryKeepsWhatIsWritten := by
  unfold Obligations.MemoryKeepsWhatIsWritten
  refine ⟨?home, ?store, ?units⟩
  case home =>
    intro s world bytes pa t whole marked
    have hplace : t.placeAt pa = (s.placeAt pa).wrote world bytes pa := hbmWrite_placeAt s world bytes pa
    have hbyte : t.hbmByte pa = ((s.placeAt pa).wrote world bytes pa).byte := congrArg Place.byte hplace
    have hmarked : tget false t.mem.poison (pa / 32) = ((s.placeAt pa).wrote world bytes pa).marked := congrArg Place.marked hplace
    have hkey : tget 0 t.mem.lineKeys (pa / 128) = ((s.placeAt pa).wrote world bytes pa).key := congrArg Place.key hplace
    obtain ⟨hbeside, hdies⟩ := hbmWrite_beside s world bytes
    simp only [State.besideHbm, Prod.ext_iff] at hbeside
    obtain ⟨hhost, hcomp, heng, hctl, hmod⟩ := hbeside
    refine ⟨fun hnot => ?unnamed, fun hmode hgood b hlast => ?named, fun hm hw => ?poisoned, fun hmode hw => ?cleared,
      fun hmode hline hkey0 => ?line, fun htouch hpart hbad => ?badLine, hhost, hcomp, heng, hctl, hmod, hdies⟩
    case unnamed =>
      obtain ⟨hb, hk⟩ := Place.wrote_unnamed (h := s.placeAt pa) (world := world) hnot
      refine ⟨hbyte.trans hb, fun reader => ?_⟩
      rw [seenByte_eq, seenByte_eq, hplace, Place.seen, Place.seen, hb, hk]
    case named =>
      have hmem := mem_of_last hlast
      have hwrote := Place.wrote_standard (h := s.placeAt pa) (world := world) hmode hgood (List.mem_map_of_mem hmem)
      have hlastOf : t.hbmByte pa = b := by rw [hbyte, hwrote]; exact lastOf_named _ hlast
      refine ⟨hlastOf, ?_⟩
      rw [seenByte_eq, Place.seen_own _ _ _ (by rw [hplace, hwrote]; exact if_pos hmem)]
      exact hlastOf
    case poisoned =>
      obtain ⟨hb, hm'⟩ := Place.wrote_marked (h := s.placeAt pa) (world := world) (bytes := bytes) hm hw
      exact ⟨hbyte.trans hb, hmarked.trans hm'⟩
    case cleared =>
      rw [hmarked, Place.wrote_standard hmode (.inr hw) (mem_sectors_of_covers hw)]
      exact if_pos hw
    case line =>
      obtain ⟨hk, hb⟩ := Place.wrote_line (h := s.placeAt pa) (world := world) hmode hline hkey0
      exact ⟨hkey.trans hk, fun b hlast => hbyte.trans (hb.trans (lastOf_named _ hlast))⟩
    case badLine =>
      obtain ⟨e, he, hea⟩ := htouch
      have hline : pa / 128 ∈ (bytes.map Prod.fst).map (· / 128) := List.mem_map.2 ⟨e.1, List.mem_map_of_mem he, hea⟩
      obtain ⟨hm', hb⟩ := Place.wrote_badLine (h := s.placeAt pa) (world := world) hline hpart hbad
      exact ⟨hmarked.trans hm', hbyte.trans hb⟩
  case store =>
    intro s core bytes o hcore hplain t
    have hgroups : t.comp.groups = s.comp.groups := coreWrite_groups s bytes
    have hbyte : t.coreByte core o = lastOf bytes o (s.coreByte core o) := by
      rw [coreByte_plain (State.Plain.congr hplain hgroups), coreByte_plain hplain]
      exact coreWrite_store s bytes hcore hplain
    have hgranule := coreWrite_granule s bytes hcore (o / 16)
    have hempty : tget false (t.core core).empty (o / 16) = (t.granuleAt core (o / 16)).1 := rfl
    have hpoison : tget false (t.core core).poison (o / 16) = (t.granuleAt core (o / 16)).2 := rfl
    refine ⟨fun hnot => hbyte.trans (lastOf_unnamed _ hnot), fun b hlast => hbyte.trans (lastOf_named _ hlast),
      fun d p hd hp => ?other, fun htouch => ?full, fun hnot => ?untouched, fun hwhole => ?whole⟩
    case other =>
      rw [coreByte_plain (State.Plain.congr hp hgroups), coreByte_plain hp, coreWrite_other s bytes (Ne.symm hd)]
    case full =>
      obtain ⟨e, he, heo⟩ := htouch
      rw [hempty, hgranule, if_pos (List.mem_map.2 ⟨e.1, List.mem_map_of_mem he, heo⟩)]
    case untouched =>
      have hmem : o / 16 ∉ (bytes.map Prod.fst).map (· / 16) := by
        simpa using fun a b hab h => hnot (a, b) hab h
      rw [hempty, hpoison, hgranule, if_neg hmem]
      exact ⟨rfl, rfl⟩
    case whole =>
      have hmem : o / 16 ∈ (bytes.map Prod.fst).map (· / 16) :=
        List.mem_map.2 ⟨o / 16 * 16 + 0, covers_iff.1 hwhole 0 (by omega), by omega⟩
      rw [hpoison, hgranule, if_pos hmem, if_pos hwhole]
  case units =>
    intro s w o lanes p a ha
    obtain ⟨hacc, hdone, hp, -, hall⟩ := mem_readyUnits.1 ha
    refine ⟨hacc, hdone, hp, fun hsize => hall a hacc (together_self s w o a hsize) hdone,
      fun b hb hbdone hbp hdest => ⟨fun hkind => ?multicast, fun hkind hgranule => ?block, fun hkind hbytes => ?store⟩⟩
    case multicast =>
      exact readyUnits_together ha hb hbdone hbp fun c => by simp only [State.together, hkind, hdest]
    case block =>
      refine readyUnits_together ha hb hbdone hbp fun c => ?_
      rcases hkind with hkind | ⟨fresh, hkind⟩
      · simp only [State.together, hkind, hdest, hgranule]
      · simp only [State.together, hkind, hdest, hgranule]
    case store =>
      refine hall b hb ?_ hbdone
      simp only [State.together, hkind, hdest, hbytes, decide_true, Bool.and_self]

end Sys2Proof.Machine
end

section
/-! ## Number formats: rounding

Proof of the statement over rounding (R37, R38, R40). A magnitude rounds to a whole number of steps, at most one step away, and stays
between the powers of two around it. The codes of a format below its sign count up through its magnitudes, so that the code
delivered, which is put together from the rounded multiple and its exponent, has that multiple's value, and it lies beyond the largest
code exactly when the value lies beyond the largest value. -/

namespace Sys2Proof.Machine

/-! ### The kept multiple of a step (R38) -/

theorem b2n_le_one (b : Bool) : b2n b ≤ 1 := by cases b <;> decide

/-- A step that divides the magnitude keeps it exactly. -/
theorem roundAt_of_le {rnd : Rnd} {neg : Bool} {m : Nat} {e q : Int} (h : q ≤ e) :
    roundAt rnd neg m e q = (m * 2 ^ (e - q).toNat, false) := if_pos h

/-- A coarser step keeps the whole steps below the magnitude, and one more where the rest rounds up. -/
theorem roundAt_of_lt {rnd : Rnd} {neg : Bool} {m : Nat} {e q : Int} (h : e < q) :
    roundAt rnd neg m e q =
      (m / 2 ^ (q - e).toNat + b2n (roundsUp rnd neg (m / 2 ^ (q - e).toNat) (m % 2 ^ (q - e).toNat) (q - e).toNat),
        decide (m % 2 ^ (q - e).toNat ≠ 0)) := if_neg (by omega)

/-- The modes that keep at most the magnitude: toward zero, and toward the other infinity. -/
def Inward (r : Rnd) (neg : Bool) : Prop := r = .rz ∨ (r = .rp ∧ neg = true) ∨ (r = .rm ∧ neg = false)

/-- The modes that keep at least the magnitude: toward the infinity of its own sign. -/
def Outward (r : Rnd) (neg : Bool) : Prop := (r = .rp ∧ neg = false) ∨ (r = .rm ∧ neg = true)

theorem roundsUp_inward {r : Rnd} {neg : Bool} (h : Inward r neg) (kept rest sh : Nat) : roundsUp r neg kept rest sh = false := by
  obtain rfl | ⟨rfl, rfl⟩ | ⟨rfl, rfl⟩ := h <;> simp [roundsUp]

theorem roundsUp_outward {r : Rnd} {neg : Bool} (h : Outward r neg) (kept rest sh : Nat) :
    roundsUp r neg kept rest sh = decide (rest ≠ 0) := by
  obtain ⟨rfl, rfl⟩ | ⟨rfl, rfl⟩ := h <;> simp [roundsUp]

theorem roundsUp_nearest (neg : Bool) (kept rest sh : Nat) :
    roundsUp .rn neg kept rest sh = true ↔ 2 ^ sh < 2 * rest ∨ (2 * rest = 2 ^ sh ∧ kept % 2 = 1 ∧ rest ≠ 0) := by
  simp [roundsUp, and_assoc]

section
variable {neg : Bool} {m : Nat} {e q : Int} (h : e < q)
include h

/-- The kept steps and the rest make the magnitude, but for the step that rounding up adds. -/
theorem roundAt_mul_step (r : Rnd) :
    (roundAt r neg m e q).1 * 2 ^ (q - e).toNat + m % 2 ^ (q - e).toNat =
      m + b2n (roundsUp r neg (m / 2 ^ (q - e).toNat) (m % 2 ^ (q - e).toNat) (q - e).toNat) * 2 ^ (q - e).toNat := by
  rw [roundAt_of_lt h, Nat.add_mul, Nat.add_right_comm, Nat.div_add_mod']

theorem roundAt_nearest_bounds :
    2 * ((roundAt .rn neg m e q).1 * 2 ^ (q - e).toNat) ≤ 2 * m + 2 ^ (q - e).toNat ∧
    2 * m ≤ 2 * ((roundAt .rn neg m e q).1 * 2 ^ (q - e).toNat) + 2 ^ (q - e).toNat := by
  have hkept := roundAt_mul_step (neg := neg) (m := m) h .rn
  cases hup : roundsUp .rn neg (m / 2 ^ (q - e).toNat) (m % 2 ^ (q - e).toNat) (q - e).toNat with
  | true =>
    have hrest := (roundsUp_nearest ..).1 hup
    simp only [hup, b2n, if_true, Nat.one_mul] at hkept
    have hlt := Nat.mod_lt m (Nat.two_pow_pos (q - e).toNat)
    omega
  | false =>
    have hrest := mt (roundsUp_nearest ..).2 (Bool.eq_false_iff.1 hup)
    simp only [hup, b2n, Bool.false_eq_true, if_false, Nat.zero_mul, Nat.add_zero] at hkept
    omega

theorem roundAt_tie_even (htie : 2 * (m % 2 ^ (q - e).toNat) = 2 ^ (q - e).toNat) : (roundAt .rn neg m e q).1 % 2 = 0 := by
  have hrest : m % 2 ^ (q - e).toNat ≠ 0 := by have := Nat.two_pow_pos (q - e).toNat; omega
  have hup := roundsUp_nearest neg (m / 2 ^ (q - e).toNat) (m % 2 ^ (q - e).toNat) (q - e).toNat
  rw [roundAt_of_lt h]
  rcases Nat.mod_two_eq_zero_or_one (m / 2 ^ (q - e).toNat) with heven | hodd
  · rw [Bool.eq_false_iff.2 (mt hup.1 (by omega))]
    exact heven
  · rw [hup.2 (.inr ⟨htie, hodd, hrest⟩)]
    simp only [b2n, if_true]
    omega

theorem roundAt_inward_bounds {r : Rnd} (hr : Inward r neg) :
    (roundAt r neg m e q).1 * 2 ^ (q - e).toNat ≤ m ∧ m < (roundAt r neg m e q).1 * 2 ^ (q - e).toNat + 2 ^ (q - e).toNat := by
  have hkept := roundAt_mul_step (neg := neg) (m := m) h r
  have hlt := Nat.mod_lt m (Nat.two_pow_pos (q - e).toNat)
  simp only [roundsUp_inward hr, b2n, Bool.false_eq_true, if_false, Nat.zero_mul, Nat.add_zero] at hkept
  omega

theorem roundAt_outward_bounds {r : Rnd} (hr : Outward r neg) :
    m ≤ (roundAt r neg m e q).1 * 2 ^ (q - e).toNat ∧ (roundAt r neg m e q).1 * 2 ^ (q - e).toNat < m + 2 ^ (q - e).toNat := by
  have hkept := roundAt_mul_step (neg := neg) (m := m) h r
  have hlt := Nat.mod_lt m (Nat.two_pow_pos (q - e).toNat)
  rw [roundsUp_outward hr] at hkept
  by_cases hrest : m % 2 ^ (q - e).toNat = 0
  · simp only [hrest, b2n, ne_eq, not_true_eq_false, decide_false, Bool.false_eq_true, if_false] at hkept
    omega
  · simp only [hrest, b2n, ne_eq, not_false_eq_true, decide_true, if_true, Nat.one_mul] at hkept
    omega

theorem roundAt_inexact_iff (r : Rnd) : (roundAt r neg m e q).2 = true ↔ m % 2 ^ (q - e).toNat ≠ 0 := by
  rw [roundAt_of_lt h, decide_eq_true_iff]

end

/-- A magnitude below 2^(q + n) rounds to at most 2^n steps of 2^q. -/
theorem roundAt_le_two_pow {rnd : Rnd} {neg : Bool} {m n : Nat} {e q : Int} (h : (Nat.log2 m : Int) + e < q + n) :
    (roundAt rnd neg m e q).1 ≤ 2 ^ n := by
  have hm : m < 2 ^ (Nat.log2 m + 1) := Nat.lt_log2_self
  rcases le_or_gt q e with hqe | hqe
  · rw [roundAt_of_le hqe]
    calc m * 2 ^ (e - q).toNat ≤ 2 ^ (Nat.log2 m + 1) * 2 ^ (e - q).toNat := Nat.mul_le_mul_right _ hm.le
      _ = 2 ^ (Nat.log2 m + 1 + (e - q).toNat) := (Nat.pow_add ..).symm
      _ ≤ 2 ^ n := Nat.pow_le_pow_right two_pos (by omega)
  · have hdiv : m / 2 ^ (q - e).toNat < 2 ^ n := Nat.div_lt_of_lt_mul <| calc
      m < 2 ^ (Nat.log2 m + 1) := hm
      _ ≤ 2 ^ ((q - e).toNat + n) := Nat.pow_le_pow_right two_pos (by omega)
      _ = 2 ^ (q - e).toNat * 2 ^ n := Nat.pow_add ..
    rw [roundAt_of_lt hqe]
    exact (Nat.add_le_add_left (b2n_le_one _) _).trans hdiv

/-- A magnitude of 2^(q + n) or more rounds to at least 2^n steps of 2^q. -/
theorem two_pow_le_roundAt {rnd : Rnd} {neg : Bool} {m n : Nat} {e q : Int} (hm : m ≠ 0) (h : q + n ≤ (Nat.log2 m : Int) + e) :
    2 ^ n ≤ (roundAt rnd neg m e q).1 := by
  have hlog : 2 ^ Nat.log2 m ≤ m := Nat.log2_self_le hm
  rcases le_or_gt q e with hqe | hqe
  · rw [roundAt_of_le hqe]
    calc 2 ^ n ≤ 2 ^ (Nat.log2 m + (e - q).toNat) := Nat.pow_le_pow_right two_pos (by omega)
      _ = 2 ^ Nat.log2 m * 2 ^ (e - q).toNat := Nat.pow_add ..
      _ ≤ m * 2 ^ (e - q).toNat := Nat.mul_le_mul_right _ hlog
  · rw [roundAt_of_lt hqe]
    refine le_add_right ((Nat.le_div_iff_mul_le (Nat.two_pow_pos _)).2 ?_)
    calc 2 ^ n * 2 ^ (q - e).toNat = 2 ^ (n + (q - e).toNat) := (Nat.pow_add ..).symm
      _ ≤ 2 ^ Nat.log2 m := Nat.pow_le_pow_right two_pos (by omega)
      _ ≤ m := hlog

/-! ### The magnitudes of a format's codes (R32) -/

/-- The magnitude of a code below the sign, in units of the least subnormal of its format. -/
def Fmt.units (f : Fmt) (code : Nat) : Nat :=
  if code / 2 ^ f.manBits = 0 then code % 2 ^ f.manBits
  else (code % 2 ^ f.manBits + 2 ^ f.manBits) * 2 ^ (code / 2 ^ f.manBits - 1)

theorem Fmt.units_fields (f : Fmt) (x : Nat) {m : Nat} (hm : m < 2 ^ f.manBits) :
    f.units (x * 2 ^ f.manBits + m) = if x = 0 then m else (m + 2 ^ f.manBits) * 2 ^ (x - 1) := by
  have hdiv : (x * 2 ^ f.manBits + m) / 2 ^ f.manBits = x := by
    rw [Nat.mul_comm, Nat.mul_add_div (Nat.two_pow_pos _), Nat.div_eq_of_lt hm, Nat.add_zero]
  have hmod : (x * 2 ^ f.manBits + m) % 2 ^ f.manBits = m := by rw [Nat.mul_add_mod', Nat.mod_eq_of_lt hm]
  rw [Fmt.units, hdiv, hmod]

/-- The code put together from a significand of one or two binades and its exponent has their value; the top end of the
upper binade is the first code of the next. -/
theorem Fmt.units_code (f : Fmt) {k r : Nat} (hr : r ≤ 2 ^ (f.manBits + 1)) (hnormal : k = 0 ∨ 2 ^ f.manBits ≤ r) :
    f.units (k * 2 ^ f.manBits + r) = r * 2 ^ k := by
  have hpos := Nat.two_pow_pos f.manBits
  rw [Nat.pow_succ'] at hr
  rcases lt_or_ge r (2 ^ f.manBits) with hsub | hge
  · obtain rfl : k = 0 := by omega
    rw [f.units_fields 0 hsub, if_pos rfl, Nat.pow_zero, Nat.mul_one]
  rcases hr.lt_or_eq with hlt | rfl
  · obtain ⟨m, rfl⟩ := Nat.exists_eq_add_of_le hge
    have hcode : k * 2 ^ f.manBits + (2 ^ f.manBits + m) = (k + 1) * 2 ^ f.manBits + m := by ring
    rw [hcode, f.units_fields (k + 1) (by omega), if_neg k.succ_ne_zero, Nat.add_sub_cancel, Nat.add_comm]
  · have hcode : k * 2 ^ f.manBits + 2 * 2 ^ f.manBits = (k + 2) * 2 ^ f.manBits + 0 := by ring
    rw [hcode, f.units_fields (k + 2) hpos, if_neg (by omega)]
    show (0 + 2 ^ f.manBits) * 2 ^ (k + 1) = _
    ring

/-- Codes in their order have magnitudes in theirs. -/
theorem Fmt.units_strictMono (f : Fmt) : StrictMono f.units := by
  refine strictMono_nat_of_lt_succ fun c => ?_
  have hpos := Nat.two_pow_pos f.manBits
  obtain ⟨k, r, rfl, hr, hnormal⟩ : ∃ k r, c = k * 2 ^ f.manBits + r ∧ r < 2 ^ (f.manBits + 1) ∧ (k = 0 ∨ 2 ^ f.manBits ≤ r) := by
    have hmod := Nat.mod_lt c hpos
    rw [← Nat.div_add_mod' c (2 ^ f.manBits)]
    generalize c / 2 ^ f.manBits = x, c % 2 ^ f.manBits = m at hmod
    rw [Nat.pow_succ']
    cases x with
    | zero => exact ⟨0, m, rfl, by omega, .inl rfl⟩
    | succ k => exact ⟨k, 2 ^ f.manBits + m, by ring, by omega, .inr (Nat.le_add_right ..)⟩
  rw [Nat.add_assoc, f.units_code hr.le hnormal, f.units_code hr (hnormal.imp_right Nat.le_succ_of_le)]
  exact Nat.mul_lt_mul_of_pos_right r.lt_succ_self (Nat.two_pow_pos k)

/-! ### Codes and their values -/

/-- The codes of a format up to its largest finite one are finite values: they lie below the sign, and no infinity or NaN is
among them. -/
structure Fmt.Standard (f : Fmt) : Prop where
  below_sign : f.maxCode < 2 ^ f.width
  below_inf : f.hasInf = true → f.maxCode / 2 ^ f.manBits < 2 ^ f.expBits - 1
  below_nan : f.nan ≠ 0 → f.maxCode < f.nan

/-- The floating-point formats of R32. -/
def floatFormats : List Fmt := [f64Fmt, f32Fmt, bf16Fmt, f16Fmt, e5m2Fmt, e4m3Fmt, e2m1Fmt]

theorem Fmt.standard_of_mem {f : Fmt} (hf : f ∈ floatFormats) : f.Standard := by
  have hcodes : ∀ f ∈ floatFormats, f.maxCode < 2 ^ f.width ∧
      (f.hasInf = true → f.maxCode / 2 ^ f.manBits < 2 ^ f.expBits - 1) ∧ (f.nan ≠ 0 → f.maxCode < f.nan) := by
    decide
  obtain ⟨hsign, hinf, hnan⟩ := hcodes f hf
  exact ⟨hsign, hinf, hnan⟩

/-- A code below the sign keeps its fields when the sign joins it. -/
theorem Fmt.signed_fields (f : Fmt) (neg : Bool) {c : Nat} (hc : c < 2 ^ f.width) :
    bitOf (f.signed neg c) f.width = neg ∧ f.signed neg c % f.signBit = c ∧
    f.signed neg c / 2 ^ f.manBits % 2 ^ f.expBits = c / 2 ^ f.manBits ∧
    f.signed neg c % 2 ^ f.manBits = c % 2 ^ f.manBits := by
  have hpos := Nat.two_pow_pos f.manBits
  have hsplit : b2n neg * f.signBit = b2n neg * 2 ^ f.expBits * 2 ^ f.manBits := by
    rw [Fmt.signBit, Fmt.width, Nat.pow_add, Nat.mul_assoc]
  have hexp : c / 2 ^ f.manBits < 2 ^ f.expBits :=
    Nat.div_lt_of_lt_mul (by rwa [← Nat.pow_add, Nat.add_comm])
  refine ⟨?sign, ?code, ?exponent, ?mantissa⟩
  case sign =>
    rw [bitOf, Fmt.signed, Fmt.signBit, Nat.add_mul_div_right _ _ (Nat.two_pow_pos _), Nat.div_eq_of_lt hc]
    cases neg <;> rfl
  case code => rw [Fmt.signed, Nat.add_mul_mod_self_right, Fmt.signBit, Nat.mod_eq_of_lt hc]
  case exponent =>
    rw [Fmt.signed, hsplit, Nat.add_mul_div_right _ _ hpos, Nat.add_mul_mod_self_right, Nat.mod_eq_of_lt hexp]
  case mantissa => rw [Fmt.signed, hsplit, Nat.add_mul_mod_self_right]

/-- The value that a finite code's fields give. -/
def Fmt.finiteValue (f : Fmt) (neg : Bool) (c : Nat) : Fl :=
  if c / 2 ^ f.manBits = 0 then .num neg (c % 2 ^ f.manBits) f.minExp
  else .num neg (c % 2 ^ f.manBits + 2 ^ f.manBits) (f.minExp + (c / 2 ^ f.manBits : Nat) - 1)

/-- A finite code with a sign is read as its fields' value. -/
theorem Fl.decode_signed {f : Fmt} (hf : f.Standard) {neg : Bool} {c : Nat} (hc : c ≤ f.maxCode) :
    Fl.decode f (f.signed neg c) = f.finiteValue neg c := by
  obtain ⟨hneg, hcode, hexp, hman⟩ := f.signed_fields neg (hc.trans_lt hf.below_sign)
  simp only [Fl.decode, hneg, hcode, hexp, hman]
  cases hinf : f.hasInf with
  | true =>
    have hfield : c / 2 ^ f.manBits ≠ 2 ^ f.expBits - 1 :=
      ((Nat.div_le_div_right hc).trans_lt (hf.below_inf hinf)).ne
    rw [if_pos rfl, if_neg hfield, Fmt.finiteValue]
  | false =>
    have hnan : ¬(f.nan ≠ 0 ∧ c = f.nan) := fun ⟨h0, h⟩ => (hc.trans_lt (hf.below_nan h0)).ne h
    rw [if_neg Bool.false_ne_true, if_neg hnan, Fmt.finiteValue]

/-- The value of a finite code has the code's sign and its magnitude. -/
theorem Fmt.finiteValue_units (f : Fmt) (neg : Bool) (c : Nat) :
    ∃ n y, f.finiteValue neg c = .num neg n y ∧ n * 2 ^ (y - f.minExp).toNat = f.units c := by
  by_cases h : c / 2 ^ f.manBits = 0
  · exact ⟨_, _, if_pos h, by simp [Fmt.units, h]⟩
  · refine ⟨_, _, if_neg h, ?_⟩
    rw [Fmt.units, if_neg h]
    congr 2
    omega

/-- The largest finite value of a format, in units of its least subnormal. -/
theorem Fmt.units_maxCode {f : Fmt} (hf : f.Standard) {top : Nat} {x : Int} (h : Fl.decode f f.maxCode = .num false top x) :
    f.units f.maxCode = top * 2 ^ (x - f.minExp).toNat := by
  obtain ⟨n, y, hval, hunits⟩ := f.finiteValue_units false f.maxCode
  have hplain : f.signed false f.maxCode = f.maxCode := by simp [Fmt.signed, b2n]
  rw [← hplain, Fl.decode_signed hf le_rfl, hval] at h
  obtain ⟨-, rfl, rfl⟩ := Fl.num.inj h
  exact hunits.symm

/-! ### The delivered code (R37, R40) -/

/-- The exponent of a magnitude's last place when the format's exponents have no lower bound. -/
def Fmt.freeExp (f : Fmt) (m : Nat) (e : Int) : Int := (Nat.log2 m : Int) + e - f.manBits

/-- The exponent of the last place that the format keeps of a magnitude. -/
def Fmt.lastExp (f : Fmt) (m : Nat) (e : Int) : Int := max (f.freeExp m e) f.minExp

/-- The code put together for a rounded magnitude, before the format's largest code bounds it. -/
def Fmt.codeOf (f : Fmt) (rnd : Rnd) (neg : Bool) (m : Nat) (e : Int) : Nat :=
  (f.lastExp m e - f.minExp).toNat * 2 ^ f.manBits + (roundAt rnd neg m e (f.lastExp m e)).1

/-- Whether a magnitude is tiny after rounding too (R37). -/
def Fmt.tiny (f : Fmt) (rnd : Rnd) (neg : Bool) (m : Nat) (e : Int) : Bool :=
  decide (f.freeExp m e < f.minExp) &&
    decide ((roundAt rnd neg m e (f.freeExp m e)).1 < 2 ^ (f.minExp + f.manBits - f.freeExp m e).toNat)

theorem Fmt.tiny_and_iff (f : Fmt) (rnd : Rnd) (neg : Bool) (m : Nat) (e : Int) (inexact : Bool) :
    (f.tiny rnd neg m e && inexact) = true ↔ inexact = true ∧ f.freeExp m e < f.minExp ∧
      (roundAt rnd neg m e (f.freeExp m e)).1 < 2 ^ (f.minExp + f.manBits - f.freeExp m e).toNat := by
  rw [Bool.and_comm, Fmt.tiny, Bool.and_eq_true, Bool.and_eq_true, decide_eq_true_iff, decide_eq_true_iff]

theorem roundNum_overflow {f : Fmt} {rnd : Rnd} {sat neg : Bool} {m : Nat} {e : Int} (hm : m ≠ 0)
    (h : f.maxCode < f.codeOf rnd neg m e) :
    roundNum f rnd sat neg m e = (f.signed neg (overflowCode f rnd sat neg), { of := true, nx := true }) :=
  (if_neg hm).trans (if_pos h)

theorem roundNum_finite {f : Fmt} {rnd : Rnd} {sat neg : Bool} {m : Nat} {e : Int} (hm : m ≠ 0)
    (h : f.codeOf rnd neg m e ≤ f.maxCode) :
    roundNum f rnd sat neg m e =
      (f.signed neg (f.codeOf rnd neg m e),
        { uf := f.tiny rnd neg m e && (roundAt rnd neg m e (f.lastExp m e)).2,
          nx := (roundAt rnd neg m e (f.lastExp m e)).2 }) :=
  (if_neg hm).trans (if_neg h.not_gt)

/-- The code put together has the value of the rounded multiple. -/
theorem Fmt.units_codeOf (f : Fmt) (rnd : Rnd) (neg : Bool) {m : Nat} (hm : m ≠ 0) (e : Int) :
    f.units (f.codeOf rnd neg m e) =
      (roundAt rnd neg m e (f.lastExp m e)).1 * 2 ^ (f.lastExp m e - f.minExp).toNat := by
  have hlast : f.lastExp m e = max (f.freeExp m e) f.minExp := rfl
  have hfree : f.freeExp m e = (Nat.log2 m : Int) + e - f.manBits := rfl
  refine f.units_code (roundAt_le_two_pow (by push_cast; omega)) ?_
  rcases le_total (f.freeExp m e) f.minExp with hsub | hnormal
  · exact .inl (by omega)
  · exact .inr (two_pow_le_roundAt hm (by omega))

/-! ### The statement -/

theorem overflowCode_eq (f : Fmt) (rnd : Rnd) (sat neg : Bool) : overflowCode f rnd sat neg =
    if sat = true ∨ f.hasInf = false ∨ rnd = .rz ∨ (rnd = .rp ∧ neg = true) ∨ (rnd = .rm ∧ neg = false) then f.maxCode
    else f.maxCode + 1 := by
  cases sat with
  | true => simp [overflowCode]
  | false =>
    cases hinf : f.hasInf with
    | false => simp [overflowCode, hinf]
    | true => cases rnd <;> cases neg <;> simp [overflowCode, Fmt.infCode, hinf]

theorem roundFl_inf (f : Fmt) (rnd : Rnd) (sat neg : Bool) : roundFl f rnd sat (.inf neg) =
    if f.hasInf = true ∧ sat = false then (f.signed neg (f.maxCode + 1), {}) else (f.signed neg f.maxCode, { nv := true }) := by
  cases hinf : f.hasInf <;> cases sat <;> simp [roundFl, Fmt.infCode, hinf]

/-- Settles O19: the bounds of the kept multiple by direction, and the delivered code by the order and the values of a format's
codes. -/
theorem roundingIsWithinAStep : Obligations.RoundingIsWithinAStep := by
  unfold Obligations.RoundingIsWithinAStep
  refine ⟨?kept, fun r neg m e q h => roundAt_of_le h, ?delivered, overflowCode_eq, ?special⟩
  case kept =>
    intro m e q neg h d kept
    exact ⟨roundAt_nearest_bounds h, roundAt_tie_even h, fun r hr => roundAt_inward_bounds h hr,
      fun r hr => roundAt_outward_bounds h hr, roundAt_inexact_iff h⟩
  case delivered =>
    intro f hf rnd sat neg m e top x hm htop free q r value most z
    have hstd := Fmt.standard_of_mem hf
    have hvalue : f.units (f.codeOf rnd neg m e) = value := f.units_codeOf rnd neg hm e
    have hmost : f.units f.maxCode = most := Fmt.units_maxCode hstd htop
    rw [← hvalue, ← hmost, f.units_strictMono.lt_iff_lt, f.units_strictMono.le_iff_le]
    refine ⟨roundNum_overflow hm, fun hle => ?_⟩
    have hz : z = _ := roundNum_finite hm hle
    rw [hz, Fl.decode_signed hstd hle]
    exact ⟨f.finiteValue_units neg _, rfl, rfl, rfl, rfl, f.tiny_and_iff rnd neg m e _⟩
  case special =>
    intro f rnd sat neg
    exact ⟨fun s => rfl, fun e => rfl, fun m e => rfl, roundFl_inf f rnd sat neg⟩

end Sys2Proof.Machine
end

section
/-! ## Clauses, encoding and the fetch

Proofs of the statements over spec/03_clauses_encoding_assembly.md: words decode to their instructions and instructions to
their words (R66 to R71), what one step runs (R60, R190 to R192), the checks of an instruction at issue (R61, R62) and the targets
of branches (R69, R84). -/

namespace Sys2Proof

open Laws

/-! ### Encoding and decoding -/

/-- Settles O1: each word is read by its fields. -/
theorem writtenWordsDecode : Obligations.WrittenWordsDecode := by
  unfold Obligations.WrittenWordsDecode
  and_intros <;> decide +kernel

/-- The family RoundTrip for every instruction: the constructors that have an encoding, and the events that have none. -/
theorem roundTrip (i : Instr) : RoundTrip.Statement i := by
  cases i with
  -- control and convergence (R82)
  | nop => apply RoundTrip.nop | bra => apply RoundTrip.bra | brx => apply RoundTrip.brx | call => apply RoundTrip.call
  | callx => apply RoundTrip.callx | ret => apply RoundTrip.ret | exit => apply RoundTrip.exit | meet => apply RoundTrip.meet
  | sign => apply RoundTrip.sign | wait => apply RoundTrip.wait | bar => apply RoundTrip.bar | cbar => apply RoundTrip.cbar
  | yield => apply RoundTrip.yield | trap => apply RoundTrip.trap | cvset => apply RoundTrip.cvset
  -- integer, logic and predicates (R96 to R106)
  | iadd => apply RoundTrip.iadd | isub => apply RoundTrip.isub | imul => apply RoundTrip.imul
  | imulhi => apply RoundTrip.imulhi | imad => apply RoundTrip.imad | imadw => apply RoundTrip.imadw
  | iadd64 => apply RoundTrip.iadd64 | isub64 => apply RoundTrip.isub64 | imul64 => apply RoundTrip.imul64
  | imad64 => apply RoundTrip.imad64 | shl => apply RoundTrip.shl | shr => apply RoundTrip.shr | sar => apply RoundTrip.sar
  | mix3 => apply RoundTrip.mix3 | imin => apply RoundTrip.imin | imax => apply RoundTrip.imax | iabs => apply RoundTrip.iabs
  | icmp => apply RoundTrip.icmp | sel => apply RoundTrip.sel | popc => apply RoundTrip.popc | clz => apply RoundTrip.clz
  | brev => apply RoundTrip.brev | bfe => apply RoundTrip.bfe | bfi => apply RoundTrip.bfi | iaddp => apply RoundTrip.iaddp
  | isubp => apply RoundTrip.isubp | iminp => apply RoundTrip.iminp | imaxp => apply RoundTrip.imaxp
  | iabsp => apply RoundTrip.iabsp | idp4 => apply RoundTrip.idp4 | mov => apply RoundTrip.mov | movi => apply RoundTrip.movi
  | xlane => apply RoundTrip.xlane | lpoll => apply RoundTrip.lpoll | wred => apply RoundTrip.wred
  | pmix3 => apply RoundTrip.pmix3 | pget => apply RoundTrip.pget | pset => apply RoundTrip.pset | wext => apply RoundTrip.wext
  | iaddi => apply RoundTrip.iaddi | imuli => apply RoundTrip.imuli | icmpi => apply RoundTrip.icmpi
  | mixi => apply RoundTrip.mixi
  -- floating point and conversion (R107 to R126)
  | fadd => apply RoundTrip.fadd | fmul => apply RoundTrip.fmul | ffma => apply RoundTrip.ffma | fmin => apply RoundTrip.fmin
  | fmax => apply RoundTrip.fmax | fcmp => apply RoundTrip.fcmp | fabs => apply RoundTrip.fabs
  | fclass => apply RoundTrip.fclass | dadd => apply RoundTrip.dadd | dmul => apply RoundTrip.dmul
  | dfma => apply RoundTrip.dfma | dmin => apply RoundTrip.dmin | dmax => apply RoundTrip.dmax | dcmp => apply RoundTrip.dcmp
  | dclass => apply RoundTrip.dclass | hadd2 => apply RoundTrip.hadd2 | hmul2 => apply RoundTrip.hmul2
  | hfma2 => apply RoundTrip.hfma2 | hmin2 => apply RoundTrip.hmin2 | hmax2 => apply RoundTrip.hmax2
  | hcmp2 => apply RoundTrip.hcmp2 | faddi => apply RoundTrip.faddi | fmuli => apply RoundTrip.fmuli
  | frcp => apply RoundTrip.frcp | frsq => apply RoundTrip.frsq | fsqrt => apply RoundTrip.fsqrt | fex2 => apply RoundTrip.fex2
  | flg2 => apply RoundTrip.flg2 | fsin => apply RoundTrip.fsin | fcos => apply RoundTrip.fcos | ftanh => apply RoundTrip.ftanh
  | dsqrt => apply RoundTrip.dsqrt | drcp => apply RoundTrip.drcp | cvff => apply RoundTrip.cvff | cvfi => apply RoundTrip.cvfi
  | cvif => apply RoundTrip.cvif | cvii => apply RoundTrip.cvii | pkf8 => apply RoundTrip.pkf8 | pkf4 => apply RoundTrip.pkf4
  | mxsc => apply RoundTrip.mxsc
  -- memory (R128)
  | ld => apply RoundTrip.ld | st => apply RoundTrip.st | ldb => apply RoundTrip.ldb | stb => apply RoundTrip.stb
  | ldw => apply RoundTrip.ldw | setempty => apply RoundTrip.setempty | atadd => apply RoundTrip.atadd
  | atmin => apply RoundTrip.atmin | atmax => apply RoundTrip.atmax | atand => apply RoundTrip.atand
  | ator => apply RoundTrip.ator | atxor => apply RoundTrip.atxor | atexch => apply RoundTrip.atexch
  | atcas => apply RoundTrip.atcas | redadd => apply RoundTrip.redadd | redmin => apply RoundTrip.redmin
  | redmax => apply RoundTrip.redmax | redand => apply RoundTrip.redand | redor => apply RoundTrip.redor
  | redxor => apply RoundTrip.redxor | fxadd => apply RoundTrip.fxadd | fxrd => apply RoundTrip.fxrd
  | nins => apply RoundTrip.nins | lock => apply RoundTrip.lock | unlock => apply RoundTrip.unlock
  | fence => apply RoundTrip.fence
  -- the matrix unit (R166)
  | mma => apply RoundTrip.mma | mmag => apply RoundTrip.mmag | mmas => apply RoundTrip.mmas | sfpush => apply RoundTrip.sfpush
  | sfpushFlush => apply RoundTrip.sfpushFlush | mmx => apply RoundTrip.mmx | aalloc => apply RoundTrip.aalloc
  | afree => apply RoundTrip.afree | acqa => apply RoundTrip.acqa | rela => apply RoundTrip.rela | amv => apply RoundTrip.amv
  | tcon8 => apply RoundTrip.tcon8
  -- engines (R174)
  | rsub => apply RoundTrip.rsub | cpost => apply RoundTrip.cpost | ctok => apply RoundTrip.ctok
  | abort => apply RoundTrip.abort | abortRoot => apply RoundTrip.abortRoot | mcst => apply RoundTrip.mcst
  | rfence => apply RoundTrip.rfence | cdecl => apply RoundTrip.cdecl | sweep => apply RoundTrip.sweep
  | byield => apply RoundTrip.byield | bwakeNow => apply RoundTrip.bwakeNow | bwakeNext => apply RoundTrip.bwakeNext
  | bstate => apply RoundTrip.bstate
  -- system (R186, R188)
  | sget => apply RoundTrip.sget | sset => apply RoundTrip.sset | tret => apply RoundTrip.tret | clkrd => apply RoundTrip.clkrd
  | preempt => apply RoundTrip.preempt
  -- an unassigned opcode (R71)
  | unassignedOpcode => apply RoundTrip.unassignedOpcode
  -- engine commands (R191)
  | cmdNop => apply RoundTrip.cmdNop | cmdSeti => apply RoundTrip.cmdSeti | cmdAddi => apply RoundTrip.cmdAddi
  | cmdAdd => apply RoundTrip.cmdAdd | cmdMad => apply RoundTrip.cmdMad | cmdLdg => apply RoundTrip.cmdLdg
  | cmdStg => apply RoundTrip.cmdStg | cmdAtom => apply RoundTrip.cmdAtom | cmdMove => apply RoundTrip.cmdMove
  | cmdPush => apply RoundTrip.cmdPush | cmdPushmc => apply RoundTrip.cmdPushmc | cmdStep => apply RoundTrip.cmdStep
  | cmdRed => apply RoundTrip.cmdRed | cmdSum => apply RoundTrip.cmdSum | cmdSig => apply RoundTrip.cmdSig
  | cmdTok => apply RoundTrip.cmdTok | cmdWtok => apply RoundTrip.cmdWtok | cmdWbar => apply RoundTrip.cmdWbar
  | cmdWmem => apply RoundTrip.cmdWmem | cmdBr => apply RoundTrip.cmdBr | cmdBrc => apply RoundTrip.cmdBrc
  | cmdLoop => apply RoundTrip.cmdLoop | cmdFence => apply RoundTrip.cmdFence | cmdChunk => apply RoundTrip.cmdChunk
  | cmdEnd => apply RoundTrip.cmdEnd | cmdBadOpcode => apply RoundTrip.cmdBadOpcode
  -- events, which have no encoding
  | _ => exact fun _ he => absurd rfl he

/-- Settles O2: the lemmas of the family RoundTrip, one for each constructor. -/
theorem decodeInvertsEncode : Obligations.DecodeInvertsEncode := by
  unfold Obligations.DecodeInvertsEncode
  exact roundTrip

/-- An assigned word that decodes is the encoding of a well-formed instruction. -/
theorem encode_of_decodeInstr {w : Nat} {i : Instr} (h : decodeInstr w = .ok i) (ha : opAssigned (fld w 0 8) = true) :
    i.wf = true ∧ encode i = [w] := by
  unfold decodeInstr at h
  rw [if_pos ha] at h
  cases hr : rawInstr w with
  | none => simp [hr] at h
  | some j =>
    simp only [hr] at h
    split at h
    · cases h
    next hw =>
      split at h
      next he =>
        obtain rfl := Except.ok.inj h
        exact ⟨by simpa using hw, he⟩
      · cases h

/-- An assigned command that decodes is the encoding of a well-formed instruction. -/
theorem encode_of_decodeCommand {w x : Nat} {i : Instr} (h : decodeCommand w x = .ok i) (ha : fld w 0 8 < 0x19) :
    i.wf = true ∧ encode i = [w, x] := by
  unfold decodeCommand at h
  rw [if_neg (Nat.not_le.2 ha)] at h
  cases hr : rawCommand w x with
  | none => simp [hr] at h
  | some j =>
    simp only [hr] at h
    split at h
    · cases h
    next hw =>
      split at h
      next he =>
        obtain rfl := Except.ok.inj h
        exact ⟨by simpa using hw, he⟩
      · cases h

/-- Settles O3: the decoder accepts an instruction only when it is well formed and its encoding is that very word. -/
theorem decodedWordIsItsEncoding : Obligations.DecodedWordIsItsEncoding := by
  unfold Obligations.DecodedWordIsItsEncoding
  exact ⟨fun _ _ h ha => encode_of_decodeInstr h ha, fun _ _ _ h ha => encode_of_decodeCommand h ha⟩

/-! ### The opcode of a word -/

@[simp] theorem fld_frWord {op : Nat} (ho : op < 256) (d a b c : Nat) (g : Guard) (ty m : Nat) :
    fld (frWord op d a b c g ty m) 0 8 = op := by
  simp only [fld, frWord]; omega

@[simp] theorem fld_fiWord {op : Nat} (ho : op < 256) (d a : Nat) (g : Guard) (ty imm : Nat) :
    fld (fiWord op d a g ty imm) 0 8 = op := by
  simp only [fld, fiWord]; omega

@[simp] theorem fld_mWord {op : Nat} (ho : op < 256) (b mm : Nat) (x : MForm) : fld (mWord op b mm x) 0 8 = op := by
  simp only [fld, mWord]; omega

end Sys2Proof

namespace Sys2Proof.Machine

/-! ### The step -/

/-- With nothing on the agenda, a module that runs gives the turn to its agent, one clk later. -/
theorem State.turn_of_agent {s : State} (ha : s.sched.agenda = []) (hon : s.on = true) (hst : s.mod.startAt = none) :
    s.turn = (s.pass 1).agentTurn := by
  simp only [State.on, Bool.and_eq_true, Bool.not_eq_true'] at hon
  simp [State.turn, ha, hst, hon]

/-- The fetch of an engine command waits while the routes to its bytes hold packets (R331, R332): nothing is run. -/
theorem step_of_held_fetch {s e p} (hagent : s.sched.agent = .engine e) (ha : s.sched.agenda = []) (hon : s.on = true)
    (hst : s.mod.startAt = none) (hp : (s.pass 1).prog? e = some p) (hrun : p.phase = .running) (hi : p.internal = false)
    (hmine : (s.pass 1).myTurn e = true) (hwait : (s.pass 1).rangeWaits (engDie e) p.slot p.pc 16 = true) :
    step s = .next (s.pass 1) := by
  have hturn : s.turn = (s.pass 1).engineTurn e := by
    rw [State.turn_of_agent ha hon hst]
    simp only [State.agentTurn, show (s.pass 1).sched.agent = .engine e from hagent]
  rw [step, hturn]
  simp [State.engineTurn, hp, hrun, hmine, hi, hwait]

/-- A NOP that starts is counted, so it does not leave the state as it was. -/
theorem execCmdNop_ne {s e p} (h : Starts s e p) : exec .cmdNop s ≠ .next s := by
  intro heq
  rw [show exec .cmdNop s = command {} (fun _ _ s => s) s from rfl, command_of_starts h rfl] at heq
  have hprog := congrArg (fun t => t.prog? e) (Host.Outcome.next.inj heq)
  obtain ⟨_, hp, _⟩ := h
  simp [hp, Prog.startCmd] at hprog
  have := congrArg Prog.issued hprog
  simp at this

/-- A root engine of die 1 whose program stands at a NOP in memory of die 0, while a reroute holds the requests of die 1's engines to
die 0 (R332). -/
def heldFetch : State :=
  let s := State.reset.withFetchWord 128 0
  let s := (s.onRoot 32 fun r => { r with ctxs := [(0, hostProg)], turn := 0 }).onDie 1 fun d =>
    { d with rerouting := [(pairKey fabricUnit 0, 0)] }
  { s with sched := { s.sched with agent := .engine (.root 1 0 0) } }

theorem heldFetch_waits : (heldFetch.pass 1).rangeWaits 1 hostProg.slot hostProg.pc 16 = true := by decide +kernel

theorem heldFetch_reads : (heldFetch.pass 1).engRead 1 hostProg.slot hostProg.pc 16 = .ok (toBytes 16 0) := by decide +kernel

/-- Refutes O4: the command at a program's address can be read at once by its value, and yet its fetch waits while the route to its
home is held (R331, R332), as in `heldFetch`; the step then leaves the command for later. -/
theorem not_stepRunsWhatIsThere : ¬ Obligations.StepRunsWhatIsThere := by
  unfold Obligations.StepRunsWhatIsThere
  rintro ⟨-, hengine, -⟩
  have hprog : (heldFetch.pass 1).prog? (.root 1 0 0) = some hostProg := rfl
  have hmine : (heldFetch.pass 1).myTurn (.root 1 0 0) = true := rfl
  have hon : heldFetch.on = true := rfl
  have hruns := hengine heldFetch (.root 1 0 0) hostProg _ .cmdNop rfl rfl hon rfl hprog rfl rfl hmine heldFetch_reads rfl
  rw [step_of_held_fetch rfl rfl hon rfl hprog rfl rfl hmine heldFetch_waits] at hruns
  exact execCmdNop_ne ⟨rfl, hprog, rfl, hmine, nofun, nofun, nofun⟩ hruns.symm

/-! ### Checks at issue (R58, R61, R62) -/

/-- An instruction goes to the port of its opcode's range. -/
theorem port_of_opcode {i p w} (hn : needsOf i = some p) (he : encode i = [w]) :
    let op := fld w 0 8
    p.port = if op ≤ 0x9F ∨ 0xF8 ≤ op then 0 else if op ≤ 0xCF then 1 else if op ≤ 0xE7 then 2 else 3 := by
  cases i with
  | meet g form d => cases form <;> (cases hn; cases he; simp; rfl)
  | lpoll g form q => cases form <;> (cases hn; cases he; simp; rfl)
  | amv g mode spec t cv => cases mode <;> (cases hn; cases he; simp; rfl)
  | _ => cases hn <;> (cases he; simp; rfl)

/-- Settles O10: the checks stand one behind the other in `issueFault`, and each constructor has its port and its place. -/
theorem checksAtIssueInOrder : Obligations.ChecksAtIssueInOrder := by
  unfold Obligations.ChecksAtIssueInOrder
  refine ⟨fun p c g => ?order, fun i p w hn he => ⟨port_of_opcode hn he, ?ends⟩⟩
  case order =>
    intro port role place privilege illegal range
    have hfault : issueFault p c g = if port = false then some 1 else if role then some 6 else if place then some 1 else
        if privilege then some 5 else if illegal then some 2 else if range then some 3 else none := by
      simp [issueFault, port, role, place, privilege, illegal, range, operandFault, and_assoc]
    rw [hfault]
    and_intros <;> intros <;> simp_all
  case ends =>
    cases i with
    | bra | brx | call | callx | ret | exit | wait | bar | cbar | yield | trap | tret | byield | preempt =>
      cases hn
      exact iff_of_true rfl trivial
    | meet g form d => cases form <;> (cases hn; exact iff_of_false nofun id)
    | lpoll g form q => cases form <;> (cases hn; exact iff_of_false nofun id)
    | amv g mode spec t cv => cases mode <;> (cases hn; exact iff_of_false nofun id)
    | _ => cases hn <;> exact iff_of_false nofun id

/-! ### Branches (R84) -/

/-- A target passes the check of R84 when it is aligned and below 2^57. -/
theorem badTarget_eq_false {t : Nat} : badTarget t = false ↔ t % 8 = 0 ∧ t < 2 ^ 57 := by
  simp [badTarget]

/-- What a branch of these needs, targets and link comes to where it issues. -/
theorem branchTo_of_issues {p target link s q c W g} (h : Issues { p with ends := true } s q c W g) :
    let z := sees q c W g p.guard
    ((∀ l ∈ lanesOf z.act, badTarget (target z l) = false) →
      branchTo p target link s = .next (((match link with
          | some d => s.onWarp c.warp fun W => W.dst64 d z.act fun _ => BitVec.ofNat 64 c.after
          | none => s).onClause q fun c =>
        { c with targets := (lanesOf z.act).foldl (fun t l => tput t l (target z l)) c.targets }).advance q)) ∧
    (∀ l, (lanesOf z.act).find? (fun l => badTarget (target z l)) = some l →
      branchTo p target link s = .next (s.precise q c
        { cause := 4, addr := target z l, lanes := laneSet fun l => inSet z.act l && badTarget (target z l) })) := by
  intro z
  constructor
  · intro hgood
    have hnone : (lanesOf z.act).find? (fun l => badTarget (target z l)) = none :=
      List.find?_eq_none.2 fun l hl => by simp [hgood l hl]
    refine issue_of_done h ?_
    simp only [z] at hnone
    simp only [hnone]
    rfl
  · intro l hl
    simp only [z] at hl
    rw [branchTo, issue_of_issues h]
    simp only [hl]
    rfl

/-- Settles O20: every branch is `branchTo` with its needs, targets and link. -/
theorem branchesRecordTargets : Obligations.BranchesRecordTargets := by
  unfold Obligations.BranchesRecordTargets
  intro goes direct indirect
  have hgoes (i g uses target link) (he : ∀ s, exec i s = branchTo { guard := g, uses := uses } target link s) :
      goes i (lastNeeds g uses) target link := by
    intro s q c W gr h z
    obtain ⟨hgood, hbad⟩ := branchTo_of_issues (p := { guard := g, uses := uses }) (target := target) (link := link) h
    rw [he]
    exact ⟨fun hl => hgood fun l hm => badTarget_eq_false.2 (hl l hm), hbad⟩
  exact ⟨fun g disp => hgoes (.bra g disp) g [] (direct disp) none fun _ => rfl,
    fun g a disp => hgoes (.brx g a disp) g [rd a true] (indirect a disp) none fun _ => rfl,
    fun g d disp => hgoes (.call g d disp) g [wr d true] (direct disp) (some d) fun _ => rfl,
    fun g d a disp => hgoes (.callx g d a disp) g [wr d true, rd a true] (indirect a disp) (some d) fun _ => rfl,
    fun g a => hgoes (.ret g a) g [rd a true] (fun z l => z.W.srcN z.w true a l) none fun _ => rfl,
    fun g s q c W gr h => issue_of_done (body := fun _ s => .done s) h rfl⟩

end Sys2Proof.Machine
end

section
/-! ## Clauses: accesses as they are performed

Proof of the statement over what the events of an access do: lanes of loads get their values, lanes of stores reach the core store or
their path, and the oldest write of a path its home (R64, R133 to R138, R147, R185, R216, R219). -/

namespace Sys2Proof.Machine

/-! ### Loads (R64, R134 to R138, R147) -/

/-- A lane of an operation holds its value and conditions, and its access is performed. -/
def State.laneResult (s : State) (w seq l : Nat) (v : Nat × Flags) : State :=
  (s.setResult w seq l v.1 v.2.word).markDone w seq fun b => b.lane = l

section
variable {s t u : State} {w : Nat} {o : Op} {fresh level1 : Bool} {value : List Byte → Nat × Flags} {a : Access}

/-- A lane that reads good bytes gets their value. -/
theorem performLoad_of_good {r : Found} (h : s.loadAccess w o fresh level1 a = (t, .ok r)) (hbad : r.bad = false) :
    s.performLoad w o fresh level1 value a = t.laneResult w o.seq a.lane (value r.bytes) := by
  simp only [State.performLoad, h, hbad]
  rfl

/-- A lane whose read fails gets poison and takes a deferred fault. -/
theorem performLoad_of_error {c : Nat} (h : s.loadAccess w o fresh level1 a = (t, .error c)) :
    s.performLoad w o fresh level1 value a = (t.accessError w o a c).laneResult w o.seq a.lane (poisonPair, {}) := by
  simp only [State.performLoad, h]
  rfl

theorem loadAccess_store {c off : Nat} (h : a.loc = .store c off) : s.loadAccess w o fresh level1 a =
    (s, .ok { bytes := (s.coreRead c off a.size).1, bad := (s.coreRead c off a.size).2, place := off }) := by
  simp only [State.loadAccess, h]

theorem loadAccess_global {va : Nat} (h : a.loc = .global va) :
    s.loadAccess w o fresh level1 a = s.loadGlobal w o fresh level1 va a.size := by
  simp only [State.loadAccess, h]

theorem loadGlobal_of_error {va n c : Nat} (h : s.coreTranslate (coreOf w) (s.ctxOfWarp w) va .read = (t, .error c)) :
    s.loadGlobal w o fresh level1 va n = (t, .error c) := by
  simp only [State.loadGlobal, h]

/-- A load that is fresh, ordered or of a page of home code 3 reads at the home. -/
theorem loadGlobal_of_fresh {va n : Nat} {p : Phys} {b : List Byte} {bad : Bool}
    (ht : s.coreTranslate (coreOf w) (s.ctxOfWarp w) va .read = (t, .ok p)) (hfresh : fresh = true ∨ o.order ≠ .plain ∨ p.home = 3)
    (hread : (t.dropLine (coreOf w) p.pa).homeRead (siteOf (coreOf w)) (s.slot (s.ctxOfWarp w)).world p.pa n = (u, b, bad)) :
    s.loadGlobal w o fresh level1 va n = (u, .ok { bytes := b, bad := bad, place := p.pa }) := by
  have hplain : (!fresh && decide (o.order = .plain) && decide (p.home ≠ 3)) = false := by
    rcases hfresh with h | h | h <;> simp [h]
  simp only [State.loadGlobal, ht, hplain, Bool.false_and, hread]
  rfl

/-- A plain load reads a line that the level-1 region holds, as its world sees the line. -/
theorem loadGlobal_of_line {va n : Nat} {p : Phys} {l : Line}
    (ht : s.coreTranslate (coreOf w) (s.ctxOfWarp w) va .read = (t, .ok p)) (hfresh : fresh = false) (horder : o.order = .plain)
    (hhome : p.home ≠ 3) (hlevel : level1 = true) (hline : t.badLine (s.slot (s.ctxOfWarp w)).world p.pa = false)
    (hl : tfind (t.core (coreOf w)).level1 (p.pa / 128) = some l) :
    s.loadGlobal w o fresh level1 va n = (t, .ok
      { bytes := ((l.bytes.zipIdx.map fun e =>
          reseen l.world (s.slot (s.ctxOfWarp w)).world (coreOf w) (2 ^ 20 + p.pa / 128 * 128 + e.2) e.1).drop (p.pa % 128)).take n
        bad := l.bad.any fun g => overlaps (16 * g) 16 (p.pa % 128) n, place := p.pa }) := by
  simp [State.loadGlobal, ht, hfresh, horder, hhome, hlevel, hline, hl]

end

/-! ### Writes as they are performed (R133, R135, R215) -/

theorem releaseOf_eq (s : State) (w : Nat) (o : Op) :
    s.releaseOf w o = if o.order = .rel ∨ o.order = .ar then s.markRelease w o.seq o.scope else s := by
  unfold State.releaseOf
  cases o.order <;> simp

section
variable {s t : State} {w : Nat} {o : Op} {acc : List Access} {a : Access}

/-- Accesses to one core's store name that core alone. -/
theorem storeCores_of_store {c : Nat} (hne : acc ≠ []) (h : ∀ a ∈ acc, ∃ off, a.loc = .store c off) : storeCores acc = [c] := by
  have hcores : storeCores acc = (List.replicate acc.length c).eraseDups := by
    rw [← List.map_const', ← List.filterMap_eq_map, storeCores]
    refine congrArg List.eraseDups (List.filterMap_congr fun a ha => ?_)
    obtain ⟨off, hloc⟩ := h a ha
    simp [hloc]
  obtain ⟨a, l, rfl⟩ := List.exists_cons_of_ne_nil hne
  simp [hcores, List.replicate_succ, List.eraseDups_cons]

theorem storeBytes_of_store {c : Nat} (h : ∀ a ∈ acc, ∃ off, a.loc = .store c off) :
    storeBytes c acc = acc.flatMap fun a => a.data.zipIdx.map fun e => (a.loc.address + e.2, e.1) := by
  unfold storeBytes
  refine List.flatMap_congr fun a ha => ?_
  obtain ⟨off, hloc⟩ := h a ha
  simp [hloc, Loc.address]

/-- Accesses to core stores place nothing in a path. -/
theorem placeWrites_of_store {c : Nat} (h : ∀ a ∈ acc, ∃ off, a.loc = .store c off) : s.placeWrites w o acc = (s, []) := by
  induction acc with
  | nil => rfl
  | cons a l ih =>
    obtain ⟨⟨off, hloc⟩, hl⟩ := List.forall_mem_cons.1 h
    simp only [State.placeWrites, hloc]
    exact ih hl

theorem placeWrites_of_global {va : Nat} {p : Phys} (hloc : a.loc = .global va)
    (ht : s.coreTranslate (coreOf w) (s.ctxOfWarp w) va .write = (t, .ok p)) :
    s.placeWrites w o [a] = (t.dropLine (coreOf w) p.pa, a.data.zipIdx.map fun e => (p.pa + e.2, e.1)) := by
  simp [State.placeWrites, hloc, ht]

theorem placeWrites_of_error {va c : Nat} (hloc : a.loc = .global va)
    (ht : s.coreTranslate (coreOf w) (s.ctxOfWarp w) va .write = (t, .error c)) :
    s.placeWrites w o [a] = (t.accessError w o a c, []) := by
  simp [State.placeWrites, hloc, ht]

/-- What is left when the writes of some accesses have entered the core stores that they name. -/
theorem writeAll_eq {l : List (Nat × Byte)} (hne : acc ≠ [])
    (h : ((storeCores acc).foldl (fun s c => s.coreWrite c (storeBytes c acc)) (s.releaseOf w o)).placeWrites w o acc = (t, l)) :
    s.writeAll w o acc = (((l.map fun e => pathKey (siteOf (coreOf w)) e.1).eraseDups).foldl
      (fun s k => s.enterPath w o l k) t).markDone w o.seq fun b => acc.any fun a => a.lane = b.lane && a.dest = b.dest := by
  rw [State.writeAll, List.isEmpty_eq_false_iff.2 hne]
  simp only [Bool.false_eq_true, if_false, h]

/-- Writes to one core's store are one write there. -/
theorem writeAll_of_store {c : Nat} (hne : acc ≠ []) (h : ∀ a ∈ acc, ∃ off, a.loc = .store c off) :
    s.writeAll w o acc = ((s.releaseOf w o).coreWrite c
      (acc.flatMap fun a => a.data.zipIdx.map fun e => (a.loc.address + e.2, e.1))).markDone w o.seq
        fun b => acc.any fun a => a.lane = b.lane && a.dest = b.dest := by
  rw [← storeBytes_of_store h]
  refine writeAll_eq hne (t := (s.releaseOf w o).coreWrite c (storeBytes c acc)) (l := []) ?_
  rw [storeCores_of_store hne h, List.foldl_cons, List.foldl_nil, placeWrites_of_store h]

/-- A write to global memory names no core store. -/
theorem storeCores_of_global {va : Nat} (hloc : a.loc = .global va) : storeCores [a] = [] := by
  simp [storeCores, hloc]

end

/-! ### Writes at their homes (R192, R215, R216) -/

section
variable {s : State} {key : Nat} {p : PathWrite} {l : List PathWrite}

/-- A path without its oldest write. -/
def State.popPath (s : State) (key : Nat) (l : List PathWrite) : State :=
  { s with mem := { s.mem with paths := tset [] s.mem.paths key l } }

theorem applyPath_of_reachable (hp : tget [] s.mem.paths key = p :: l)
    (h : (s.popPath key l).reachable (pathSource key) (pathHome key) = true) :
    s.applyPath key = (s.popPath key l).applyPathWrite (pathSource key) p := by
  simp only [State.applyPath, hp]
  exact if_pos h

theorem applyPath_of_unreachable (hp : tget [] s.mem.paths key = p :: l)
    (h : (s.popPath key l).reachable (pathSource key) (pathHome key) = false) :
    s.applyPath key = (s.popPath key l).deferFault p.warp p.seq p.clause p.index
      { cause := 0x20, sub := 10, addr := p.va, lanes := p.lanes } := by
  simp only [State.applyPath, hp]
  exact if_neg (ne_true_of_eq_false h)

/-- A path whose route holds packets stays as it is. -/
theorem pathArrive_of_waits (hp : tget [] s.mem.paths key = p :: l) (h : s.routeWaits (pathSource key) (pathHome key) = true) :
    s.pathArrive key = s := by
  simp only [State.pathArrive, hp]
  exact if_pos h

/-- The oldest write of a path is applied when its route lets it through. -/
theorem pathArrive_of_passes (hp : tget [] s.mem.paths key = p :: l)
    (h : s.routeWaits (pathSource key) (pathHome key) = false) :
    s.pathArrive key = ((s.applyPath key).retire p.warp p.seq).wake p.warp := by
  simp only [State.pathArrive, hp]
  exact if_neg (ne_true_of_eq_false h)

/-- A write of an engine program that its routes let through is performed. -/
theorem engineWrite_of_passes {e : EngRef} {p : Prog} {i : Nat} {x : EngineWrite} (hp : s.prog? e = some p)
    (hx : p.writes[i]? = some x) (hpass : s.rangeWaits (engDie e) p.slot x.va x.bytes.length = false)
    (hgood : (s.onProg e fun p => { p with writes := p.writes.eraseIdx i }).engWriteFault (engDie e) p.slot x.va x.bytes.length =
      none) :
    s.engineWrite e i = ((s.onProg e fun p => { p with writes := p.writes.eraseIdx i }).engWrite (engDie e) p.dispatch p.slot x.va
      x.bytes).tryFinish e := by
  simp [State.engineWrite, hp, hx, hpass, hgood]

end

/-- Settles O43: what each event performs, by where the access lies: a core store, a home, a line of the level-1 region, a path. -/
theorem loadsAndStoresArePerformed : Obligations.LoadsAndStoresArePerformed := by
  unfold Obligations.LoadsAndStoresArePerformed
  intro any result
  refine ⟨?events, ?loads, ?stores, ?writes, ?paths, ?engines⟩
  case events =>
    intro s w seq o lanes level1 hop hdone
    refine ⟨fun fresh hkind => ?load, fun rnd hkind => ?sum, fun hkind => ?bud⟩
    case load =>
      rcases hkind with hkind | hkind
      all_goals
        simp only [exec, execLongLatencyResult, hop, hdone, hkind]
        rfl
    case sum | bud =>
      simp only [exec, execLongLatencyResult, hop, hdone, hkind]
      rfl
  case loads =>
    intro s w o fresh level1 value a
    refine ⟨fun c off hloc hgood => ?store, fun va t p u b hloc ht hfresh hread => ?home,
      fun va t p l hloc ht hfresh horder hhome hlevel hline hl hgood => ?line, fun va t c hloc ht => ?error⟩
    case store => exact performLoad_of_good (loadAccess_store hloc) hgood
    case home => exact performLoad_of_good ((loadAccess_global hloc).trans (loadGlobal_of_fresh ht hfresh hread)) rfl
    case line =>
      exact performLoad_of_good ((loadAccess_global hloc).trans
        (loadGlobal_of_line ht hfresh horder hhome hlevel hline hl)) (by rw [hgood]; rfl)
    case error => exact performLoad_of_error ((loadAccess_global hloc).trans (loadGlobal_of_error ht))
  case stores =>
    intro s w seq o lanes dest hop hkind register hdest
    have hperform (r : Bool) : s.performStores w seq lanes dest r = ((s.writeAll w o (s.readyUnits w o lanes fun a =>
        a.dest = dest && s.onWindowBytes a = r)).retire w seq).wake w := by
      rcases hkind with hkind | hkind | hkind <;> simp only [State.performStores, hop, hkind]
    cases register with
    | false => exact congrArg Host.Outcome.next (hperform false)
    | true =>
      obtain rfl := hdest rfl
      exact congrArg Host.Outcome.next (hperform true)
  case writes =>
    intro s w o acc done r
    have hr : r = s.releaseOf w o := (releaseOf_eq s w o).symm
    refine ⟨fun c hne hstore => ?store, fun a va t p hacc hloc ht => ?home, fun a va t c hacc hloc ht => ?error⟩
    case store => rw [writeAll_of_store hne hstore, ← hr]
    case home =>
      subst hacc
      refine writeAll_eq (List.cons_ne_nil a []) ?_
      rw [storeCores_of_global hloc, ← hr]
      exact placeWrites_of_global hloc ht
    case error =>
      subst hacc
      refine writeAll_eq (List.cons_ne_nil a []) (l := []) ?_
      rw [storeCores_of_global hloc, ← hr]
      exact placeWrites_of_error hloc ht
  case paths =>
    intro s key p l hp source home u
    have harrive (t : State) (hpass : s.routeWaits source home = false) (h : s.applyPath key = t) :
        exec (.writePerformed (.home key)) s = .next ((t.retire p.warp p.seq).wake p.warp) :=
      congrArg Host.Outcome.next (h ▸ pathArrive_of_passes hp hpass)
    refine ⟨fun hwait => congrArg Host.Outcome.next (pathArrive_of_waits hp hwait),
      fun hpass hreach => ⟨fun hcombine => harrive _ hpass ?write, fun c v old bad hcombine hhome => harrive _ hpass ?reduce⟩,
      fun hpass hreach => harrive _ hpass (applyPath_of_unreachable hp hreach)⟩
    case write =>
      rw [applyPath_of_reachable hp hreach]
      simp only [State.applyPathWrite, hcombine]
      rfl
    case reduce =>
      rw [applyPath_of_reachable hp hreach]
      have hhome : (s.popPath key l).atomicHome p.dispatch p.world c.pa c.instr c.ty c.size c.operand c.cmp = (v, old, bad) := hhome
      simp only [State.applyPathWrite, hcombine, hhome]
      rfl
  case engines =>
    intro s e p i x hp hx hpass t hgood
    exact congrArg Host.Outcome.next (engineWrite_of_passes hp hx hpass hgood)

end Sys2Proof.Machine
end

section
/-! ## Integer instructions: arithmetic and shifts

Proofs of the statement over integer arithmetic, shifts and wext (R96, R97). -/

namespace Sys2Proof.Machine

/-! ### Exact integers and the words that hold them (R96) -/

theorem wrap_eq_ofInt (n : Nat) (i : Int) : wrap n i = (BitVec.ofInt n i).toNat := (BitVec.toNat_ofInt i).symm

theorem wrap_lt (n : Nat) (i : Int) : wrap n i < 2 ^ n := by
  rw [wrap_eq_ofInt]
  exact BitVec.isLt _

theorem wrap_natCast (n m : Nat) : wrap n (m : Int) = m % 2 ^ n := by
  unfold wrap
  norm_cast

theorem wrap_modEq (n : Nat) (i : Int) : (wrap n i : Int) ≡ i [ZMOD (2 ^ n : Nat)] := by
  rw [wrap, Int.toNat_of_nonneg (Int.emod_nonneg i (by positivity))]
  exact Int.mod_modEq i _

/-- Integers that agree modulo the word wrap to the same word. -/
theorem wrap_congr {n : Nat} {i j : Int} (h : i ≡ j [ZMOD (2 ^ n : Nat)]) : wrap n i = wrap n j := congrArg Int.toNat h

theorem toSigned_eq_toInt (n w : Nat) : toSigned n w = (BitVec.ofNat n w).toInt := by
  rw [BitVec.toInt_eq_toNat_cond, BitVec.toNat_ofNat]
  unfold toSigned
  cases n with
  | zero => simp [Nat.mod_one]
  | succ n =>
    have hcond : w % 2 ^ (n + 1) < 2 ^ n ↔ 2 * (w % 2 ^ (n + 1)) < 2 ^ (n + 1) := by rw [Nat.pow_succ']; omega
    simp only [Nat.add_sub_cancel, hcond, Nat.cast_pow, Nat.cast_ofNat]

theorem toSigned_modEq (n w : Nat) : toSigned n w ≡ (w : Int) [ZMOD (2 ^ n : Nat)] := by
  rw [toSigned_eq_toInt, BitVec.toInt_eq_toNat_bmod, Int.ModEq, Int.bmod_emod, BitVec.toNat_ofNat]
  norm_cast
  simp

/-- A number in the range of signed words of n bits is what its word reads as. -/
theorem toSigned_wrap {n : Nat} (hn : 0 < n) {i : Int} (hlo : -(2 ^ (n - 1) : Nat) ≤ i) (hhi : i < (2 ^ (n - 1) : Nat)) :
    toSigned n (wrap n i) = i := by
  have hpow : 2 ^ n = 2 * 2 ^ (n - 1) := by rw [← Nat.pow_succ', Nat.succ_eq_add_one, Nat.sub_add_cancel hn]
  rw [toSigned_eq_toInt, wrap_eq_ofInt, BitVec.ofNat_toNat, BitVec.setWidth_eq, BitVec.toInt_ofInt]
  exact Int.bmod_eq_of_le (by omega) (by omega)

/-- A number in the range of words of n bits is what its word holds. -/
theorem wrap_of_lt {n : Nat} {i : Int} (hlo : 0 ≤ i) (hhi : i < (2 ^ n : Nat)) : (wrap n i : Int) = i := by
  rw [wrap, Int.emod_eq_of_lt hlo hhi, Int.toNat_of_nonneg hlo]

theorem clampInt_mem {lo hi : Int} (h : lo ≤ hi) (i : Int) : lo ≤ clampInt lo hi i ∧ clampInt lo hi i ≤ hi := by
  unfold clampInt
  omega

end Sys2Proof.Machine

namespace Sys2Proof.Ty

open Machine

theorem bits_pos (t : Ty) : 0 < t.bits := by cases t <;> decide

theorem bits_dvd (t : Ty) : ((2 ^ t.bits : Nat) : Int) ∣ (2 ^ (if t.wide then 64 else 32) : Nat) := by
  cases t <;> decide

theorem bits_of_plain {t : Ty} (h : t.plain = true) : t.bits = if t.wide then 64 else 32 := by
  cases t <;> simp_all [Ty.plain, Ty.bits, Ty.wide]

theorem int_modEq (t : Ty) (n : Nat) : t.int n ≡ (n : Int) [ZMOD (2 ^ t.bits : Nat)] := by
  unfold Ty.int
  split
  · exact toSigned_modEq t.bits n
  · push_cast
    exact Int.mod_modEq _ _

theorem minInt_le_maxInt (t : Ty) : t.minInt ≤ t.maxInt := by cases t <;> decide

/-- A number in a type's range is what its word reads as. -/
theorem int_wrap {t : Ty} {i : Int} (hlo : t.minInt ≤ i) (hhi : i ≤ t.maxInt) : t.int (wrap t.bits i) = i := by
  cases h : t.signed <;> simp only [Ty.minInt, Ty.maxInt, Ty.int, h, if_true, if_false, Bool.false_eq_true] at hlo hhi ⊢
  · norm_cast
    rw [Nat.mod_eq_of_lt (wrap_lt _ _), wrap_of_lt hlo (by omega)]
  · exact toSigned_wrap t.bits_pos hlo (by omega)

theorem deliver_lt (t : Ty) (sat : Bool) (i : Int) : t.deliver sat i < 2 ^ t.bits := wrap_lt _ _

theorem int_deliver_wraps (t : Ty) (i : Int) : t.int (t.deliver false i) ≡ i [ZMOD (2 ^ t.bits : Nat)] :=
  (t.int_modEq _).trans (wrap_modEq _ i)

theorem int_deliver_clamps (t : Ty) (i : Int) : t.int (t.deliver true i) = max t.minInt (min t.maxInt i) := by
  obtain ⟨hlo, hhi⟩ := clampInt_mem t.minInt_le_maxInt i
  exact int_wrap hlo hhi

theorem int_deliver_of_mem {t : Ty} {i : Int} (hlo : t.minInt ≤ i) (hhi : i ≤ t.maxInt) (sat : Bool) :
    t.int (t.deliver sat i) = i := by
  cases sat
  · exact int_wrap hlo hhi
  · rw [int_deliver_clamps]
    omega

end Sys2Proof.Ty

namespace Sys2Proof.Machine

/-! ### Instructions of one, two and three operands -/

/-- What a source of either width is below. -/
theorem Warp.srcN_lt (W : Warp) (w : Nat) (wide : Bool) (o : Opnd) (l : Nat) :
    W.srcN w wide o l < 2 ^ (if wide then 64 else 32) := by
  cases wide <;> exact BitVec.isLt _

/-- Two functions that agree on the values that an operand can hold give the same. -/
theorem gives1_of_eq {i x wd wa f g} (e : ∀ a, a < 2 ^ (if wa then 64 else 32) → f a = g a) (h : Gives1 i x wd wa f) :
    Gives1 i x wd wa g :=
  yields_of_eq h fun q c W gr => by simp only [e _ (Warp.srcN_lt ..)]

theorem gives2_of_eq {i x wd wa wb f g}
    (e : ∀ a b, a < 2 ^ (if wa then 64 else 32) → b < 2 ^ (if wb then 64 else 32) → f a b = g a b)
    (h : Gives2 i x wd wa wb f) : Gives2 i x wd wa wb g :=
  yields_of_eq h fun q c W gr => by simp only [e _ _ (Warp.srcN_lt ..) (Warp.srcN_lt ..)]

theorem gives3_of_eq {i x wd wa wb wc f g}
    (e : ∀ a b c, a < 2 ^ (if wa then 64 else 32) → b < 2 ^ (if wb then 64 else 32) → c < 2 ^ (if wc then 64 else 32) →
      f a b c = g a b c)
    (h : Gives3 i x wd wa wb wc f) : Gives3 i x wd wa wb wc g :=
  yields_of_eq h fun q c W gr => by simp only [e _ _ _ (Warp.srcN_lt ..) (Warp.srcN_lt ..) (Warp.srcN_lt ..)]

/-! ### Immediates (R66) -/

/-- An immediate is the signed number modulo the type's width. -/
theorem immOf_modEq (t : Ty) (imm : Word) : (immOf t imm : Int) ≡ imm.toInt [ZMOD (2 ^ t.bits : Nat)] := by
  refine Int.ModEq.of_dvd t.bits_dvd ?_
  unfold immOf
  cases t.wide
  · simp only [Bool.false_eq_true, if_false]
    have := (toSigned_modEq 32 imm.toNat).symm
    rwa [toSigned_eq_toInt, BitVec.ofNat_toNat, BitVec.setWidth_eq] at this
  · exact wrap_modEq 64 imm.toInt

theorem add_immOf (t : Ty) (a : Nat) (imm : Word) : (a + immOf t imm) % 2 ^ t.bits = t.deliver false (t.int a + imm.toInt) := by
  rw [← wrap_natCast]
  push_cast
  exact wrap_congr ((t.int_modEq a).symm.add (immOf_modEq t imm))

theorem mul_immOf (t : Ty) (a : Nat) (imm : Word) : a * immOf t imm % 2 ^ t.bits = t.deliver false (t.int a * imm.toInt) := by
  rw [← wrap_natCast]
  push_cast
  exact wrap_congr ((t.int_modEq a).symm.mul (immOf_modEq t imm))

/-! ### Shifts (R97) -/

theorem shl_eq (m a n : Nat) : (if m ≤ n then 0 else a * 2 ^ n % 2 ^ m) = (BitVec.ofNat m a <<< n).toNat := by
  rw [BitVec.toNat_shiftLeft, BitVec.toNat_ofNat, Nat.shiftLeft_eq, Nat.mod_mul_mod]
  split
  next h => rw [Nat.mod_eq_zero_of_dvd (Dvd.dvd.mul_left (Nat.pow_dvd_pow 2 h) a)]
  next => rfl

theorem shr_eq {m a : Nat} (ha : a < 2 ^ m) (n : Nat) : (if m ≤ n then 0 else a / 2 ^ n) = (BitVec.ofNat m a >>> n).toNat := by
  rw [BitVec.toNat_ushiftRight, BitVec.toNat_ofNat, Nat.mod_eq_of_lt ha, Nat.shiftRight_eq_div_pow]
  split
  next h => rw [Nat.div_eq_of_lt (ha.trans_le (Nat.pow_le_pow_right two_pos h))]
  next => rfl

/-- Shifting a signed word by its width or more leaves its sign everywhere, as a shift by one bit less does. -/
theorem toInt_shiftRight_min {m : Nat} (x : BitVec m) (n : Nat) : x.toInt / (2 ^ min n (m - 1) : Nat) = x.toInt >>> n := by
  rw [Int.shiftRight_eq_div_pow]
  rcases le_total n (m - 1) with h | h
  · rw [min_eq_left h]
  · rw [min_eq_right h]
    have hlo := x.le_toInt
    have hhi := x.toInt_lt
    have hpow : (2 : Int) ^ (m - 1) ≤ 2 ^ n := pow_le_pow_right₀ (by decide) h
    have hpos : (0 : Int) < 2 ^ (m - 1) := by positivity
    push_cast
    rcases le_or_gt 0 x.toInt with hx | hx
    · rw [Int.ediv_eq_zero_of_lt hx hhi, Int.ediv_eq_zero_of_lt hx (by omega)]
    · rw [Int.ediv_eq_neg_one_of_neg_of_le hx (by omega), Int.ediv_eq_neg_one_of_neg_of_le hx (by omega)]

theorem sar_eq (m a n : Nat) :
    wrap m (toSigned m a / (2 ^ min n (m - 1) : Nat)) = ((BitVec.ofNat m a).sshiftRight n).toNat := by
  rw [toSigned_eq_toInt, toInt_shiftRight_min, BitVec.sshiftRight_eq, wrap_eq_ofInt]

/-- wext shifts or rotates the word b:a and gives one half of it. -/
theorem wextOf_lo {w : Nat} (hw : w < 2 ^ 64) (c : Nat) : wextOf .lo w c = ((BitVec.ofNat 64 w >>> c).setWidth 32).toNat := by
  rw [BitVec.toNat_setWidth, ← shr_eq hw]
  show w / 2 ^ min c 64 % 2 ^ 32 = _
  split
  next h => rw [min_eq_right h, Nat.div_eq_of_lt hw]
  next h => rw [min_eq_left (Nat.le_of_not_le h)]

theorem wextOf_hi (w c : Nat) : wextOf .hi w c = ((BitVec.ofNat 64 w <<< c).extractLsb' 32 32).toNat := by
  rw [BitVec.extractLsb'_toNat, ← shl_eq, Nat.shiftRight_eq_div_pow]
  show w * 2 ^ min c 64 / 2 ^ 32 % 2 ^ 32 = _
  split
  next h => rw [min_eq_right h]; omega
  next h => rw [min_eq_left (Nat.le_of_not_le h)]; omega

theorem wextOf_rot {w : Nat} (hw : w < 2 ^ 64) (c : Nat) :
    wextOf .rot w c = (((BitVec.ofNat 64 w).rotateRight c).setWidth 32).toNat := by
  have hk : c % 64 < 64 := Nat.mod_lt c (by decide)
  rw [BitVec.toNat_setWidth, BitVec.toNat_rotateRight, BitVec.toNat_ofNat, Nat.mod_eq_of_lt hw]
  show (w / 2 ^ (c % 64) + w * 2 ^ (64 - c % 64)) % 2 ^ 32 = _
  generalize c % 64 = k at hk ⊢
  have hpow : 2 ^ 64 = 2 ^ k * 2 ^ (64 - k) := by rw [← Nat.pow_add, Nat.add_sub_cancel' hk.le]
  have hlow : w / 2 ^ k < 2 ^ (64 - k) := Nat.div_lt_of_lt_mul (hpow ▸ hw)
  have hhigh : w <<< (64 - k) % 2 ^ 64 = (w % 2 ^ k) <<< (64 - k) := by
    rw [Nat.shiftLeft_eq, Nat.shiftLeft_eq, hpow, Nat.mul_mod_mul_right]
  rw [Nat.shiftRight_eq_div_pow, hhigh, Nat.or_comm, ← Nat.shiftLeft_add_eq_or_of_lt hlow, ← hhigh, Nat.shiftLeft_eq]
  omega

/-- Settles O12: each instruction's function is that of its exact integers, and the shifts are those of its words. -/
theorem integerArithmeticAndShifts : Obligations.IntegerArithmeticAndShifts := by
  unfold Obligations.IntegerArithmeticAndShifts
  have hpair {a b : Nat} (ha : a < 2 ^ 32) (hb : b < 2 ^ 32) : b * 2 ^ 32 + a < 2 ^ 64 := by omega
  refine ⟨fun x sat => yields_of_alu fun _ => rfl, fun x sat => yields_of_alu fun _ => rfl,
    fun x sat => yields_of_alu fun _ => rfl, fun x sat => yields_of_alu fun _ => rfl, fun x => yields_of_alu fun _ => rfl,
    fun x => yields_of_alu fun _ => rfl, fun x => yields_of_alu fun _ => rfl, fun x => yields_of_alu fun _ => rfl,
    fun x => yields_of_alu fun _ => rfl, fun x => yields_of_alu fun _ => rfl, fun x => yields_of_alu fun _ => rfl,
    fun x => yields_of_alu fun _ => rfl,
    fun x sat => gives1_of_eq (fun a _ => congrArg (x.ty.deliver sat) (x.ty.int a).natCast_natAbs) (yields_of_alu fun _ => rfl),
    fun x imm => gives1_of_eq (fun a _ => add_immOf x.ty a imm) (yields_of_alu fun _ => rfl),
    fun x imm => gives1_of_eq (fun a _ => mul_immOf x.ty a imm) (yields_of_alu fun _ => rfl),
    fun t i => ⟨fun _ sat => t.deliver_lt sat i, fun _ => Int.emod_eq_zero_of_dvd (t.int_deliver_wraps i).symm.dvd,
      fun _ => t.int_deliver_clamps i, fun _ hlo hhi sat => Ty.int_deliver_of_mem hlo hhi sat⟩,
    fun x => gives2_of_eq (fun a n _ _ => shl_eq _ a n) (yields_of_alu fun _ => rfl),
    fun x hplain => gives2_of_eq (fun a n ha _ => shr_eq (by rwa [Ty.bits_of_plain hplain]) n) (yields_of_alu fun _ => rfl),
    fun x _ => gives2_of_eq (fun a n _ _ => sar_eq _ a n) (yields_of_alu fun _ => rfl),
    fun x => gives3_of_eq (fun a b c ha hb _ => wextOf_lo (hpair ha hb) c) (yields_of_alu fun _ => rfl),
    fun x => gives3_of_eq (fun a b c _ _ _ => wextOf_hi _ c) (yields_of_alu fun _ => rfl),
    fun x => gives3_of_eq (fun a b c ha hb _ => wextOf_rot (hpair ha hb) c) (yields_of_alu fun _ => rfl)⟩

end Sys2Proof.Machine
end

section
/-! ## Integer instructions: bit fields, logic, moves and the exchange of values between lanes

Proofs of the statements over R98 to R106. -/

namespace Sys2Proof.Machine

/-! ### Bits of a result (R98, R99) -/

theorem b2n_eq_toNat (b : Bool) : b2n b = b.toNat := by cases b <;> rfl

theorem testBit_maskOf_of_lt (p : Nat → Bool) {n i : Nat} (h : i < n) : (maskOf p n).testBit i = p i := by
  rw [Bool.eq_iff_iff, testBit_maskOf]
  simp [h]

theorem testBit_mixBits (n t a b c : Nat) {i : Nat} (h : i < n) : (mixBits n t a b c).testBit i =
    t.testBit ((a.testBit i).toNat + 2 * (b.testBit i).toNat + 4 * (c.testBit i).toNat) := by
  rw [show mixBits n t a b c = maskOf _ n from rfl, testBit_maskOf_of_lt _ h]
  simp only [bitOf_eq_testBit, b2n_eq_toNat]

theorem bits_low_byte (b : Nat) : bits b 7 0 = b % 256 := by simp [bits]

theorem bits_second_byte (b : Nat) : bits b 15 8 = b / 256 % 256 := rfl

theorem testBit_bfiOf (a b c : Nat) {i : Nat} (h : i < 32) : (bfiOf a b c).testBit i =
    if b % 256 ≤ i ∧ i < b % 256 + min (b / 256 % 256) 32 then a.testBit (i - b % 256) else c.testBit i := by
  rw [show bfiOf a b c = maskOf _ 32 from rfl, testBit_maskOf_of_lt _ h]
  simp only [bits_low_byte, bits_second_byte, bitOf_eq_testBit]

theorem reverseBits_succ (n a : Nat) : reverseBits (n + 1) a = 2 * reverseBits n a + (a.testBit n).toNat := by
  simp only [reverseBits, List.range_succ, List.foldl_append, List.foldl_cons, List.foldl_nil, bitOf_eq_testBit, b2n_eq_toNat]

theorem testBit_reverseBits (n a i : Nat) (h : i < n) : (reverseBits n a).testBit i = a.testBit (n - 1 - i) := by
  induction n generalizing i with
  | zero => exact absurd h (Nat.not_lt_zero i)
  | succ n ih =>
    rw [reverseBits_succ]
    cases i with
    | zero => cases hb : a.testBit n <;> simp [Nat.testBit_zero, hb]
    | succ i =>
      rw [Nat.testBit_succ, show (2 * reverseBits n a + (a.testBit n).toNat) / 2 = reverseBits n a by
        cases a.testBit n <;> simp; omega, ih i (by omega)]
      congr 1
      omega

theorem leadingZeros_spec {n a : Nat} (ha : 0 < a) (h : a < 2 ^ n) :
    leadingZeros n a < n ∧ 2 ^ (n - 1 - leadingZeros n a) ≤ a ∧ a < 2 ^ (n - leadingZeros n a) := by
  have hlog : Nat.log2 a < n := (Nat.log2_lt ha.ne').2 h
  have hz : leadingZeros n a = n - 1 - Nat.log2 a := by
    rw [leadingZeros, Nat.mod_eq_of_lt h, if_neg ha.ne']
  refine ⟨by omega, ?_, ?_⟩
  · rw [show n - 1 - leadingZeros n a = Nat.log2 a by omega]
    exact Nat.log2_self_le ha.ne'
  · rw [show n - leadingZeros n a = Nat.log2 a + 1 by omega]
    exact Nat.lt_log2_self

/-! ### The field of bfe (R98) -/

/-- A signed word in a wider or narrower word has its own bits, and its sign above them. -/
theorem testBit_wrap_toSigned (n m a i : Nat) : (wrap n (toSigned m a)).testBit i =
    (decide (i < n) && if i < m then a.testBit i else decide (0 < m) && a.testBit (m - 1)) := by
  have hbits : (BitVec.signExtend n (BitVec.ofNat m a)).getLsbD i = _ := BitVec.getLsbD_signExtend _
  rw [wrap_eq_ofInt, toSigned_eq_toInt]
  refine hbits.trans ?_
  rw [BitVec.msb_eq_getLsbD_last, BitVec.getLsbD_ofNat, BitVec.getLsbD_ofNat]
  by_cases him : i < m <;> by_cases hm : 0 < m <;> simp [him, hm]

/-- Bit j of the 32-bit a with, for signed types, its sign above it. -/
theorem testBit_bfeSource (signed : Bool) {a j : Nat} (ha : a < 2 ^ 32) (hj : j < 288) :
    (if signed then wrap 288 (toSigned 32 a) else a).testBit j =
      if j < 32 then a.testBit j else signed && a.testBit 31 := by
  cases signed
  · by_cases h : j < 32
    · simp [h]
    · have hhigh : a < 2 ^ j := ha.trans_le (Nat.pow_le_pow_right two_pos (Nat.le_of_not_lt h))
      simp [h, Nat.testBit_lt_two_pow hhigh]
  · simp [testBit_wrap_toSigned, hj]

theorem testBit_bfeOf (signed : Bool) (a b i : Nat) (ha : a < 2 ^ 32) (hi : i < 32) :
    (bfeOf signed a b).testBit i =
      let pos := b % 256
      let len := min (b / 256 % 256) 32
      let at' (j : Nat) : Bool := if j < 32 then a.testBit j else signed && a.testBit 31
      if len = 0 then false else if i < len then at' (pos + i) else signed && at' (pos + len - 1) := by
  have hlen : min (b / 256 % 256) 32 ≤ 32 := min_le_right ..
  have hpos : b % 256 < 256 := Nat.mod_lt _ (by decide)
  simp only [bfeOf, bits_low_byte, bits_second_byte]
  generalize b % 256 = pos at hpos ⊢
  generalize min (b / 256 % 256) 32 = len at hlen ⊢
  by_cases hzero : len = 0
  · simp [hzero]
  · simp only [if_neg hzero]
    have hfield (j : Nat) (hj : j < len) :
        ((if signed then wrap 288 (toSigned 32 a) else a) / 2 ^ pos % 2 ^ len).testBit j =
          if pos + j < 32 then a.testBit (pos + j) else signed && a.testBit 31 := by
      rw [Nat.testBit_mod_two_pow, Nat.testBit_div_two_pow, Nat.add_comm, testBit_bfeSource signed ha (by omega)]
      simp [hj]
    cases signed
    case true =>
      simp only [if_true, testBit_wrap_toSigned, hi, Nat.pos_of_ne_zero hzero, decide_true, Bool.true_and] at hfield ⊢
      split
      next h => exact hfield i h
      next h => rw [hfield (len - 1) (by omega), show pos + (len - 1) = pos + len - 1 by omega]
    case false =>
      simp only [if_false, Bool.false_eq_true, Bool.false_and] at hfield ⊢
      split
      next h => exact hfield i h
      next h => exact Nat.testBit_lt_two_pow ((Nat.mod_lt _ (by positivity)).trans_le (Nat.pow_le_pow_right two_pos (by omega)))

/-! ### Transfers of predicates (R101) -/

theorem Warp.pred_fin3 (W : Warp) {i : Nat} (h : i < 7) : W.pred (fin3 i) = tget 0 W.preds i := by
  have hval : (fin3 i).val = i := Nat.mod_eq_of_lt (by omega)
  rw [Warp.pred, hval, if_neg (by omega)]

theorem exec_pget (g : Guard) (d : Opnd) : Yields (.pget g d) g [wr d] fun z => z.W.dst d z.act fun l =>
    BitVec.ofNat 32 ((List.range 7).foldl (fun r i => r + b2n (inSet (z.W.pred (fin3 i)) l) * 2 ^ i) 0x80) := by
  refine yields_of_alu fun s => ?_
  show execPget g d s = _
  refine congrArg (alu (needs g [wr d]) · s) (funext fun x => ?_)
  refine congrArg (x.W.dst d x.act) (funext fun l => congrArg (BitVec.ofNat 32) ?_)
  exact List.foldl_ext _ _ _ fun r i hi => by rw [Warp.pred_fin3 _ (List.mem_range.1 hi)]

/-- Settles O13: each instruction's function is the model's own, and its bits are read off its sum of bits. -/
theorem bitFieldsLogicAndMoves : Obligations.BitFieldsLogicAndMoves := by
  unfold Obligations.BitFieldsLogicAndMoves
  refine ⟨fun x => yields_of_alu fun _ => rfl, fun x => yields_of_alu fun _ => rfl, fun x => yields_of_alu fun _ => rfl,
    fun x => yields_of_alu fun _ => rfl, fun x => yields_of_alu fun _ => rfl, testBit_bfeOf,
    fun a b c i hi => testBit_bfiOf a b c hi, fun n t a b c i hi => testBit_mixBits n t a b c hi, testBit_reverseBits,
    fun n a ha h => leadingZeros_spec ha h, fun n => if_pos (Nat.zero_mod _),
    fun x t => yields_of_alu fun _ => rfl, fun g t d a imm => yields_of_alu fun _ => rfl,
    fun g pd pa pb pc t => yields_of_alu fun _ => rfl, fun g ty pd cc a b => yields_of_alu fun _ => rfl,
    fun g ty pd cc a imm => yields_of_alu fun _ => rfl, fun x pc => yields_of_alu fun _ => rfl,
    fun x => yields_of_alu fun _ => rfl, fun g ty d imm => yields_of_alu fun _ => rfl, exec_pget,
    fun g mask a => yields_of_alu fun _ => rfl⟩

/-! ### Packed integers and lanes (R102 to R106) -/

/-- The lanes that a poll finds, given as the one condition that it puts to them. -/
theorem yields_of_lpoll {g : Guard} {form : PollForm} {pd q : Fin 8} {p : Ctx → Prop} [∀ z, Decidable (p z)]
    (b : Ctx → Bool)
    (h : ∀ s, exec (.lpoll g form q) s = alu (needs g []) (fun z => z.W.putPred pd z.act (if b z then allLanes else 0)) s)
    (e : ∀ z, b z = true ↔ p z) :
    Yields (.lpoll g form q) g [] fun z => z.W.putPred pd z.act (if p z then allLanes else 0) :=
  yields_of_eq (yields_of_alu h) fun _ _ _ _ => by simp only [e]

theorem packed2_abs (t : Ty) (sat : Bool) (a : Nat) : packed2 t (fun e _ => t.deliver sat (t.int e).natAbs) a a =
    packed2 t (fun e _ => t.deliver sat |t.int e|) a a := by
  simp only [Int.natCast_natAbs]

/-- The sum of idp4 with its four products written out. -/
theorem dotOf_eq (t : Ty) (sat : Bool) (a b c : Nat) : dotOf t sat a b c =
    (let r : Ty := if t.signed then .s32 else .n32
    r.deliver sat (r.int c + t.int (elem 8 0 a) * t.int (elem 8 0 b) + t.int (elem 8 1 a) * t.int (elem 8 1 b) +
      t.int (elem 8 2 a) * t.int (elem 8 2 b) + t.int (elem 8 3 a) * t.int (elem 8 3 b))) := rfl

/-- Of a word that decodes to idp4, the opcode, the type and the MOD field are those of its encoding. -/
theorem fields_of_decode_idp4 {w : Nat} {x : R3} {sat : Bool} (h : decodeInstr w = .ok (.idp4 x sat)) :
    fld w 0 8 = 0x3D ∧ (x.ty = .s8 ∨ x.ty = .n8) ∧ fld w 48 16 = bit sat := by
  have hassigned : opAssigned (fld w 0 8) = true := by
    by_contra ha
    simp [decodeInstr, ha] at h
  obtain ⟨hwf, henc⟩ := encode_of_decodeInstr h hassigned
  obtain rfl := List.head_eq_of_cons_eq henc
  have hmod : bit sat < 65536 := (bit_lt sat).trans (by decide)
  obtain ⟨hop, _, _, _, _, _, _, hfield⟩ := frWord_fields (g := x.g) (show 0x3D < 256 by decide) x.d.code_lt x.a.code_lt
    x.b.code_lt x.c.code_lt x.ty.code_lt hmod
  exact ⟨hop, by simpa [Instr.wf] using hwf, hfield⟩

/-- Settles O14: each instruction's function is the model's own, with the sum of idp4 and the condition of each poll written out. -/
theorem packedAndLaneExchange : Obligations.PackedAndLaneExchange := by
  unfold Obligations.PackedAndLaneExchange
  exact ⟨fun x sat => yields_of_alu fun _ => rfl, fun x sat => yields_of_alu fun _ => rfl, fun x => yields_of_alu fun _ => rfl,
    fun x => yields_of_alu fun _ => rfl,
    fun x sat => gives1_of_eq (fun a _ => packed2_abs x.ty sat a) (yields_of_alu fun _ => rfl),
    fun x sat => gives3_of_eq (fun a b c _ _ _ => dotOf_eq x.ty sat a b c) (yields_of_alu fun _ => rfl),
    fun x mode => yields_of_alu fun _ => rfl,
    fun g pd q => yields_of_lpoll (fun z => decide (pollSet z q = z.act)) (fun _ => rfl) fun z => decide_eq_true_iff,
    fun g pd q => yields_of_lpoll (fun z => decide (pollSet z q ≠ 0)) (fun _ => rfl) fun z => decide_eq_true_iff,
    fun g pd q => yields_of_lpoll (fun z => decide (pollSet z q = 0) || decide (pollSet z q = z.act)) (fun _ => rfl) fun z => by
      rw [Bool.or_eq_true, decide_eq_true_iff, decide_eq_true_iff]; rfl,
    fun g d q => yields_of_alu fun _ => rfl, fun g d q => yields_of_alu fun _ => rfl, fun g d q => yields_of_alu fun _ => rfl,
    fun x op => yields_of_alu fun _ => rfl, fun w x sat h => fields_of_decode_idp4 h⟩

end Sys2Proof.Machine
end

section
/-! ## Control: meetings, signs, ends of threads and clauses, waits and barriers at issue

Proofs of the statements over R85 to R95 that speak of one instruction as it issues. -/

namespace Sys2Proof.Machine

/-! ### Meetings, signs and ends (R85 to R89) -/

/-- What issues sees the warp that the state holds. -/
theorem Issues.onWarp {p s q c W g} (h : Issues p s q c W g) (f : Warp → Warp) :
    s.onWarp c.warp f = s.onWarp c.warp fun _ => f W := by
  obtain ⟨⟨_, _, _, hW, _⟩, _, _⟩ := h
  exact State.onWarp_congr hW rfl

/-- What a meet with these targets does once it issues (R85). -/
def meetAt (target : Ctx → Nat → Nat) (d : Opnd) (x : Ctx) (s : State) : Out :=
  match (lanesOf x.act).find? fun l => badTarget (target x l) with
  | some l => .fault { cause := 4, addr := target x l, lanes := laneSet fun l => inSet x.act l && badTarget (target x l) }
  | none =>
    .done (s.onWarp x.w fun W =>
      (lanesOf x.act).foldl (fun V l => { V with mrs := tset 0 V.mrs l (target x l) })
        (W.dst64 d x.act fun l => BitVec.ofNat 64 (W.mrOf l)))

theorem exec_meet_direct (g : Guard) (disp : Word) (d : Opnd) (s : State) :
    exec (.meet g (.direct disp) d) s = issue (needs g [wr d true]) (meetAt (fun x _ => displaced x.c.h disp) d) s := rfl

theorem exec_meet_reg (g : Guard) (a d : Opnd) (s : State) : exec (.meet g (.reg a) d) s =
    issue (needs g [wr d true, rd a true]) (meetAt (fun x l => x.W.srcN x.w true a l) d) s := rfl

/-- A meet whose targets are all good writes mr of the active lanes, and their earlier mr to D. -/
theorem meetAt_of_good {target : Ctx → Nat → Nat} {p : Spec} {d s q c W gr} (h : Issues p s q c W gr)
    (hgood : ∀ l ∈ lanesOf (activeLanes c W p.guard),
      target (sees q c W gr p.guard) l % 8 = 0 ∧ target (sees q c W gr p.guard) l < 2 ^ 57) :
    issue p (meetAt target d) s = .next (s.wrote q c
      ((lanesOf (activeLanes c W p.guard)).foldl
        (fun V l => { V with mrs := tset 0 V.mrs l (target (sees q c W gr p.guard) l) })
        (W.dst64 d (activeLanes c W p.guard) fun l => BitVec.ofNat 64 (W.mrOf l)))) := by
  have hnone : (lanesOf (activeLanes c W p.guard)).find? (fun l => badTarget (target (sees q c W gr p.guard) l)) = none :=
    List.find?_eq_none.2 fun l hl => by simp [badTarget_eq_false.2 (hgood l hl)]
  refine issue_of_onWarp h (f := fun V => (lanesOf (activeLanes c W p.guard)).foldl
    (fun V l => { V with mrs := tset 0 V.mrs l (target (sees q c W gr p.guard) l) })
    (V.dst64 d (activeLanes c W p.guard) fun l => BitVec.ofNat 64 (V.mrOf l))) ?_
  unfold meetAt
  rw [show (sees q c W gr p.guard).act = activeLanes c W p.guard from rfl, hnone]
  rfl

theorem Warp.heldOn_iff (W : Warp) (n l : Nat) : W.heldOn n l = true ↔ W.statusOf l = .sign ∧ (tget 0 W.heldCv l).testBit n = true := by
  simp [Warp.heldOn, bitOf_eq_testBit]

theorem Warp.releaseSigns_eq (W : Warp) (n : Nat) : W.releaseSigns n = (lanesOf allLanes).foldl (fun V l =>
    if V.statusOf l = .sign ∧ (tget 0 V.heldCv l).testBit n = true then
      { V.setStatus l .running with heldCv := tset 0 V.heldCv l 0 }
    else V) W := by
  simp only [Warp.releaseSigns, Warp.heldOn_iff]

/-- Settles O21: each instruction's effect, with the warp that it sees in place of the one that the state holds. -/
theorem meetSignExitYieldTrap : Obligations.MeetSignExitYieldTrap := by
  unfold Obligations.MeetSignExitYieldTrap
  refine ⟨?direct, ?reg, ?sign, ?cvset, ?exit, ?yield, ?trap⟩
  case direct =>
    intro g disp d s q c W gr h haligned hrange
    exact (exec_meet_direct ..).trans (meetAt_of_good h fun l _ => ⟨haligned, hrange⟩)
  case reg =>
    intro g a d s q c W gr h hgood
    exact (exec_meet_reg ..).trans (meetAt_of_good h hgood)
  case sign =>
    intro g n s q c W gr h m
    rw [← h.onWarp fun W => W.putCv n.val (W.cv n.val ||| (m ++ (0 : Word)))]
    simp only [exec, execSign]
    exact issue_of_done h rfl
  case cvset =>
    intro g n a s q c W gr h
    rw [← Warp.releaseSigns_eq]
    rw [← h.onWarp fun V => (V.putCv n.val (BitVec.ofNat 64 ((sees q c W gr g).one a))).releaseSigns n.val]
    simp only [exec, execCvset]
    exact issue_of_done h rfl
  case exit =>
    intro g s q c W gr h
    rw [← h.onWarp fun V => (lanesOf (activeLanes c W g)).foldl (fun V l => (V.setStatus l .exited).leaveSets l)
        { V with seq := V.seq + 1, exits := if V.handler then V.exits ||| activeLanes c W g else V.exits }]
    simp only [exec, execExit]
    exact issue_of_done h rfl
  case yield =>
    intro g s q c W gr h
    simp only [exec, execYield]
    exact issue_of_done h rfl
  case trap =>
    intro g code s q c W gr h
    rw [← h.onWarp fun V =>
      { V.addFault V.seq c.h c.index false { cause := 0x14, lanes := activeLanes c W g, code := code.toNat } with
        seq := V.seq + 1 }]
    simp only [exec, execTrap]
    exact issue_of_done h rfl

/-! ### Waits, barriers and returns (R90 to R95, R187, R189) -/

/-- The wait that stands with the conditions that it has read by then (R90, R92). -/
def Ctx.waiting (x : Ctx) (d : Opnd) (i : WaitImm) (s : State) (conds : List WaitCond) : Waiting :=
  { clause := x.c.h, index := x.c.index, took := x.c.lanes, next := x.c.next, signed := x.c.signed, lanes := x.act, dst := d,
    all := i.all, conds := conds, deadline := if i.tmo = 0 then none else some (s.rt + i.tmo) }

/-- A wait judges at issue the conditions that it has read: it ends at once, or ends the clause and stands (R92). -/
def Ctx.judgeWait (x : Ctx) (d : Opnd) (i : WaitImm) (s : State) (conds : List WaitCond) : Out :=
  let y := x.waiting d i s conds
  if s.waitMet x.w y || (s.waitPoison x.w y).isSome then
    .done ((s.onWarp x.w fun W => W.deliver (s.waitResult x.w y false)).waitConsumes x.w y)
  else .done (s.endWith x.q (.wait y))

/-- The conditions of a wait's block are translated, then read and judged (R91). -/
def Ctx.placeWait (x : Ctx) (d : Opnd) (i : WaitImm) (s : State) (entries : List Nat) : Out :=
  let first := oneLane ((lowest x.act).getD 0)
  match s.placeConds x.w entries with
  | (_, some (c, va)) => .fault { cause := 0x20, sub := c, addr := va, lanes := first }
  | (t, none) =>
    let r := t.readConds x.w x.c.h x.c.index first (entries.map fun e => { entry := BitVec.ofNat 128 e, seen := none })
    x.judgeWait d i r.1 r.2

/-- The entries of the wait block at an offset (R90). -/
def State.waitEntries (s : State) (w off n : Nat) : List Nat :=
  (List.range n).map fun k => ofBytes (s.coreRead (coreOf w) (off + 16 * k) 16).1

/-- What a wait does once it issues (R90). -/
def waitAt (d a : Opnd) (i : WaitImm) (x : Ctx) (s : State) : Out :=
  let off := x.one a
  let size := (i.cnt.val + 1) * 16
  let first := oneLane ((lowest x.act).getD 0)
  if off % 16 ≠ 0 then .fault { cause := 9, addr := off, lanes := first }
  else if !x.g.holds off size then .fault { cause := 0x0B, addr := off, lanes := first }
  else if (s.coreRead (coreOf x.w) off size).2 then
    .done ((s.onWarp x.w fun W => W.deliver (resultWrites d false x.act fun _ => some poisonWord)).warpConsumes x.w 0 off)
  else if (s.waitEntries x.w off (i.cnt.val + 1)).any badCond then .fault { cause := 9, addr := off, lanes := first }
  else x.placeWait d i s (s.waitEntries x.w off (i.cnt.val + 1))

theorem exec_wait (g : Guard) (d a : Opnd) (i : WaitImm) (s : State) :
    exec (.wait g d a i) s = issue (lastNeeds g [wr d, rd a]) (waitAt d a i) s := rfl

section

variable {d a : Opnd} {i : WaitImm} {x : Ctx} {s : State}

theorem judgeWait_of_ends {conds : List WaitCond}
    (h : s.waitMet x.w (x.waiting d i s conds) = true ∨ (s.waitPoison x.w (x.waiting d i s conds)).isSome = true) :
    x.judgeWait d i s conds = .done ((s.onWarp x.w fun W => W.deliver (s.waitResult x.w (x.waiting d i s conds) false)).waitConsumes
      x.w (x.waiting d i s conds)) := if_pos (by simpa using h)

theorem judgeWait_of_stands {conds : List WaitCond} (hunmet : s.waitMet x.w (x.waiting d i s conds) = false)
    (hclean : s.waitPoison x.w (x.waiting d i s conds) = none) :
    x.judgeWait d i s conds = .done (s.endWith x.q (.wait (x.waiting d i s conds))) := if_neg (by simp [hunmet, hclean])

theorem placeWait_of_placed {entries : List Nat} {s1 s2 : State} {conds : List WaitCond}
    (hplace : s.placeConds x.w entries = (s1, none))
    (hread : s1.readConds x.w x.c.h x.c.index (oneLane ((lowest x.act).getD 0))
      (entries.map fun e => { entry := BitVec.ofNat 128 e, seen := none }) = (s2, conds)) :
    x.placeWait d i s entries = x.judgeWait d i s2 conds := by
  simp only [Ctx.placeWait, hplace, hread]

theorem waitAt_of_poisoned (halign : x.one a % 16 = 0) (hholds : x.g.holds (x.one a) ((i.cnt.val + 1) * 16) = true)
    (hbad : (s.coreRead (coreOf x.w) (x.one a) ((i.cnt.val + 1) * 16)).2 = true) : waitAt d a i x s =
      .done ((s.onWarp x.w fun W => W.deliver (resultWrites d false x.act fun _ => some poisonWord)).warpConsumes x.w 0
        (x.one a)) := by
  simp [waitAt, halign, hholds, hbad]

theorem waitAt_of_good (halign : x.one a % 16 = 0) (hholds : x.g.holds (x.one a) ((i.cnt.val + 1) * 16) = true)
    (hgood : (s.coreRead (coreOf x.w) (x.one a) ((i.cnt.val + 1) * 16)).2 = false)
    (hentries : (s.waitEntries x.w (x.one a) (i.cnt.val + 1)).any badCond = false) :
    waitAt d a i x s = x.placeWait d i s (s.waitEntries x.w (x.one a) (i.cnt.val + 1)) := by
  simp only [waitAt, halign, hholds, hgood, hentries, ne_eq, not_true_eq_false, if_false, Bool.not_true, Bool.false_eq_true]

end

/-- Settles O22: a wait goes through its checks in order to the judging of its conditions; the others end their clause. -/
theorem waitsBarriersAndReturns : Obligations.WaitsBarriersAndReturns := by
  unfold Obligations.WaitsBarriersAndReturns
  refine ⟨?wait, ?bar, ?tret, ?preempt⟩
  case wait =>
    intro g d a i s q c W gr h z off size entries halign hholds
    rw [exec_wait]
    refine ⟨fun hbad => issue_of_done h (waitAt_of_poisoned halign hholds hbad),
      fun hgood s1 s2 conds hentries hplace hread => ?_⟩
    have hjudge : waitAt d a i z s = z.judgeWait d i s2 conds :=
      (waitAt_of_good halign hholds hgood hentries).trans (placeWait_of_placed hplace hread)
    exact ⟨fun hends => issue_of_done h (hjudge.trans (judgeWait_of_ends hends)),
      fun hunmet hclean => issue_of_done h (hjudge.trans (judgeWait_of_stands hunmet hclean))⟩
  case bar =>
    intro cluster g id count s q c W gr h
    cases cluster
    · simp only [exec, execBar, Bool.false_eq_true, if_false]
      exact issue_of_done h rfl
    · simp only [exec, execCbar, if_true]
      exact issue_of_done h rfl
  case tret =>
    intro g s q c W gr h
    simp only [exec, execTret]
    exact issue_of_done h rfl
  case preempt =>
    intro g d s q c W gr h
    simp only [exec, execPreempt]
    exact issue_of_done h rfl

end Sys2Proof.Machine
end

section
/-! ## Scheduling: arbitration

Proof of the statement over the pick of a free quarter (R88, R205, R206). -/

namespace Sys2Proof.Machine

/-! ### Choosing from a list -/

/-- An element is preferred when it satisfies the condition, or none does. -/
theorem mem_preferring {p : Nat → Bool} {l : List Nat} {a : Nat} :
    a ∈ preferring p l ↔ a ∈ l ∧ ∀ b ∈ l, p b = true → p a = true := by
  unfold preferring
  split
  next h =>
    obtain ⟨b, hb, hp⟩ := List.any_eq_true.1 h
    rw [List.mem_filter]
    exact ⟨fun ⟨ha, hpa⟩ => ⟨ha, fun _ _ _ => hpa⟩, fun ⟨ha, hpa⟩ => ⟨ha, hpa b hb hp⟩⟩
  next h => exact ⟨fun ha => ⟨ha, fun b hb hp => absurd (List.any_eq_true.2 ⟨b, hb, hp⟩) h⟩, And.left⟩

theorem preferring_ne_nil {p : Nat → Bool} {l : List Nat} (h : l ≠ []) : preferring p l ≠ [] := by
  unfold preferring
  split
  next hany =>
    obtain ⟨b, hb, hp⟩ := List.any_eq_true.1 hany
    exact List.ne_nil_of_mem (List.mem_filter.2 ⟨hb, hp⟩)
  next => exact h

theorem leastBy_spec (f : Nat → Nat) {l : List Nat} (h : l ≠ []) : ∃ a ∈ l, leastBy f l = some a ∧ ∀ b ∈ l, f a ≤ f b := by
  induction l with
  | nil => exact absurd rfl h
  | cons a l ih =>
    cases hl : l with
    | nil => exact ⟨a, by simp, rfl, by simp⟩
    | cons c t =>
      subst hl
      obtain ⟨b, hb, he, hleast⟩ := ih (List.cons_ne_nil c t)
      rw [leastBy, he]
      by_cases hlt : f b < f a
      · refine ⟨b, List.mem_cons_of_mem a hb, by simp [hlt], fun d hd => ?_⟩
        rcases List.mem_cons.1 hd with rfl | hd
        · exact hlt.le
        · exact hleast d hd
      · refine ⟨a, List.mem_cons_self, by simp [hlt], fun d hd => ?_⟩
        rcases List.mem_cons.1 hd with rfl | hd
        · exact le_rfl
        · exact (Nat.le_of_not_lt hlt).trans (hleast d hd)

/-- The greatest measure met on the way along a list, from m on, is m or an element's, and is no less than any of them. -/
theorem foldl_max_spec (f : Nat → Nat) (l : List Nat) (m : Nat) :
    (l.foldl (fun m b => max m (f b)) m = m ∨ ∃ a ∈ l, f a = l.foldl (fun m b => max m (f b)) m) ∧
      m ≤ l.foldl (fun m b => max m (f b)) m ∧ ∀ a ∈ l, f a ≤ l.foldl (fun m b => max m (f b)) m := by
  induction l generalizing m with
  | nil => simp
  | cons b l ih =>
    obtain ⟨hmem, hle, hall⟩ := ih (max m (f b))
    rw [List.foldl_cons]
    refine ⟨?_, (le_max_left ..).trans hle, fun a ha => ?_⟩
    · rcases hmem with he | ⟨a, ha, he⟩
      · rcases max_choice m (f b) with hm | hm
        · exact .inl (he.trans hm)
        · exact .inr ⟨b, List.mem_cons_self, hm.symm.trans he.symm⟩
      · exact .inr ⟨a, List.mem_cons_of_mem b ha, he⟩
    · rcases List.mem_cons.1 ha with rfl | ha
      · exact (le_max_right ..).trans hle
      · exact hall a ha

theorem exists_greatest (f : Nat → Nat) {l : List Nat} (h : l ≠ []) : ∃ a ∈ l, f a = l.foldl (fun m b => max m (f b)) 0 := by
  obtain ⟨hmem, _, hall⟩ := foldl_max_spec f l 0
  rcases hmem with he | ha
  · obtain ⟨b, hb⟩ := List.exists_mem_of_ne_nil l h
    exact ⟨b, hb, by have := hall b hb; omega⟩
  · exact ha

/-! ### The pick (R206) -/

/-- The order in which a free quarter picks: w goes before v, or beside it. -/
def State.goesBefore (s : State) (w v : Nat) : Prop :=
  let W := s.warp w
  let V := s.warp v
  (W.yielded = true → V.yielded = true) ∧
  (V.yielded = W.yielded →
    (64 ≤ V.passed → 64 ≤ W.passed ∧ W.readyAt ≤ V.readyAt) ∧
    (W.passed < 64 → s.prio v ≤ s.prio w ∧
      (s.prio v = s.prio w → (W.yhint = true → V.yhint = true) ∧ (V.yhint = W.yhint → W.readyAt ≤ V.readyAt))))

/-- An element that a condition tells nothing apart from a chosen one is chosen too. -/
theorem mem_preferring_of_eq {p : Nat → Bool} {l : List Nat} {w v : Nat} (hw : w ∈ preferring p l) (hv : v ∈ l)
    (h : p v = p w) : v ∈ preferring p l :=
  mem_preferring.2 ⟨hv, fun b hb hp => h.trans ((mem_preferring.1 hw).2 b hb hp)⟩

/-- Past the cap on passes the earliest ready time decides. -/
theorem exists_earliest_past_cap {s : State} {l : List Nat} (h : (l.filter fun w => 64 ≤ (s.warp w).passed) ≠ []) :
    ∃ w ∈ l, leastBy (fun w => (s.warp w).readyAt) (l.filter fun w => 64 ≤ (s.warp w).passed) = some w ∧
      64 ≤ (s.warp w).passed ∧ ∀ v ∈ l, 64 ≤ (s.warp v).passed → (s.warp w).readyAt ≤ (s.warp v).readyAt := by
  obtain ⟨w, hw, hpick, hleast⟩ := leastBy_spec (fun w => (s.warp w).readyAt) h
  obtain ⟨hwl, hpassed⟩ := List.mem_filter.1 hw
  exact ⟨w, hwl, hpick, of_decide_eq_true hpassed, fun v hv hpast => hleast v (List.mem_filter.2 ⟨hv, decide_eq_true hpast⟩)⟩

/-- Before the cap the greatest priority decides, then the yield hint, then the earliest ready time. -/
theorem exists_first_by_priority {s : State} {l : List Nat} (h : l ≠ []) :
    ∃ w ∈ l, leastBy (fun w => (s.warp w).readyAt) (preferring (fun w => !(s.warp w).yhint)
        (l.filter fun w => s.prio w = l.foldl (fun m w => max m (s.prio w)) 0)) = some w ∧
      ∀ v ∈ l, s.prio v ≤ s.prio w ∧ (s.prio v = s.prio w →
        ((s.warp w).yhint = true → (s.warp v).yhint = true) ∧
          ((s.warp v).yhint = (s.warp w).yhint → (s.warp w).readyAt ≤ (s.warp v).readyAt)) := by
  obtain ⟨_, _, hgreatest⟩ := foldl_max_spec s.prio l 0
  obtain ⟨a, ha, htop⟩ := exists_greatest s.prio h
  generalize l.foldl (fun m w => max m (s.prio w)) 0 = top at hgreatest htop ⊢
  have htops : (l.filter fun w => s.prio w = top) ≠ [] := List.ne_nil_of_mem (List.mem_filter.2 ⟨ha, decide_eq_true htop⟩)
  obtain ⟨w, hw, hpick, hleast⟩ := leastBy_spec (fun w => (s.warp w).readyAt)
    (preferring_ne_nil (p := fun w => !(s.warp w).yhint) htops)
  obtain ⟨hwtop, hhint⟩ := mem_preferring.1 hw
  obtain ⟨hwl, hwprio⟩ := List.mem_filter.1 hwtop
  have hwprio : s.prio w = top := of_decide_eq_true hwprio
  refine ⟨w, hwl, hpick, fun v hv => ⟨hwprio ▸ hgreatest v hv, fun hprio => ?_⟩⟩
  have hvtop : v ∈ l.filter fun w => s.prio w = top := List.mem_filter.2 ⟨hv, decide_eq_true (hprio.trans hwprio)⟩
  refine ⟨fun hW => ?_, fun hVW => hleast v (mem_preferring_of_eq hw hvtop (congrArg not hVW))⟩
  have := hhint v hvtop
  cases hV : (s.warp v).yhint <;> simp_all

theorem exists_pick_goesBefore {s : State} {l : List Nat} (h : l ≠ []) :
    ∃ w ∈ l, s.pick l = some w ∧ ∀ v ∈ l, s.goesBefore w v := by
  have hne : preferring (fun w => !(s.warp w).yielded) l ≠ [] := preferring_ne_nil h
  unfold State.pick
  generalize hfirst : preferring (fun w => !(s.warp w).yielded) l = first at hne
  have hmem {w : Nat} (hw : w ∈ first) : w ∈ l := (mem_preferring.1 (hfirst ▸ hw)).1
  have hyield {w v : Nat} (hw : w ∈ first) (hv : v ∈ l) : (s.warp w).yielded = true → (s.warp v).yielded = true := by
    have := (mem_preferring.1 (hfirst ▸ hw)).2 v hv
    cases hV : (s.warp v).yielded <;> simp_all
  have hbeside {w v : Nat} (hw : w ∈ first) (hv : v ∈ l) (he : (s.warp v).yielded = (s.warp w).yielded) : v ∈ first :=
    hfirst ▸ mem_preferring_of_eq (hfirst ▸ hw) hv (congrArg not he)
  by_cases hold : (first.filter fun w => 64 ≤ (s.warp w).passed) = []
  case pos =>
    obtain ⟨w, hw, hpick, hbefore⟩ := exists_first_by_priority (s := s) hne
    refine ⟨w, hmem hw, (congrArg (if List.isEmpty · then _ else _) hold).trans hpick, fun v hv => ⟨hyield hw hv, fun he => ⟨fun hpast => ?_, fun _ => ?_⟩⟩⟩
    · exact absurd (decide_eq_true hpast) (List.filter_eq_nil_iff.1 hold v (hbeside hw hv he))
    · exact hbefore v (hbeside hw hv he)
  case neg =>
    obtain ⟨w, hw, hpick, hpassed, hearliest⟩ := exists_earliest_past_cap hold
    refine ⟨w, hmem hw, (if_neg (by simpa using hold)).trans hpick,
      fun v hv => ⟨hyield hw hv, fun he => ⟨fun hpast => ?_, fun hfew => ?_⟩⟩⟩
    · exact ⟨hpassed, hearliest v (hbeside hw hv he) hpast⟩
    · exact absurd hpassed (Nat.not_le.2 hfew)

/-- Settles O36: the pick goes before every ready warp, and arbitration starts its clause. -/
theorem arbitrationFollowsItsOrder : Obligations.ArbitrationFollowsItsOrder := by
  unfold Obligations.ArbitrationFollowsItsOrder
  intro s q hfree hup hstep hready
  obtain ⟨w, hw, hpick, hbefore⟩ := exists_pick_goesBefore (s := s) hready
  refine ⟨w, hw, ?_, hbefore⟩
  simp only [exec, execArbitrate, hfree, hup, hstep, hpick]
  rfl

end Sys2Proof.Machine
end

section
/-! ## Scheduling: the steps of a clause boundary

Proof of the statement over the steps of R83 and the convergence fault. -/

namespace Sys2Proof.Machine

/-! ### Lane sets by their lanes -/

theorem inSet_zero (l : Nat) : inSet 0 l = false := by simp [inSet]

theorem inSet_or_oneLane (m : LaneSet) (i : Nat) {l : Nat} (hl : l < 32) :
    inSet (m ||| oneLane i) l = (inSet m l || decide (i = l)) := by
  have hlane (x : LaneSet) : inSet x l = x.getLsbD l := rfl
  rw [hlane, hlane, BitVec.getLsbD_or, oneLane, BitVec.getLsbD_ofNat, Nat.testBit_two_pow]
  simp [hl]

theorem inSet_laneSet (p : Nat → Bool) {l : Nat} (hl : l < 32) : inSet (laneSet p) l = p l := by
  refine (foldl_view (n := l) (view := (inSet · l)) (g := (· || p l)) (fun m i hi => ?_) (fun m => ?_) List.nodup_range 0).trans ?_
  · cases p i <;> simp [inSet_or_oneLane m i hl, hi]
  · cases p l <;> simp [inSet_or_oneLane m l hl]
  · rw [if_pos (List.mem_range.2 hl), inSet_zero, Bool.false_or]

theorem laneSet_eq_zero {p : Nat → Bool} : laneSet p = 0 ↔ ∀ l < 32, p l = false := by
  refine ⟨fun h l hl => by rw [← inSet_laneSet p hl, h, inSet_zero], fun h => BitVec.eq_of_getLsbD_eq fun l hl => ?_⟩
  exact ((inSet_laneSet p hl).trans (h l hl)).trans (inSet_zero l).symm

theorem mem_lanesOf_allLanes {l : Nat} : l ∈ lanesOf allLanes ↔ l < 32 := by
  rw [mem_lanesOf]
  exact ⟨And.left, fun h => ⟨h, by rw [inSet, show allLanes.toNat = 2 ^ 32 - 1 from rfl, Nat.testBit_two_pow_sub_one]; simpa⟩⟩

/-! ### One thread -/

/-- What the steps of a boundary read and change of one thread (R22). -/
structure Thread where
  status : Status
  pc     : Nat
  mr     : Nat
  held   : Nat

def Warp.thread (W : Warp) (l : Nat) : Thread := ⟨W.statusOf l, W.pcOf l, W.mrOf l, tget 0 W.heldCv l⟩

/-- Step 3 of R83 for one thread and a complete register. -/
def Thread.release (n : Nat) (t : Thread) : Thread :=
  if t.status = .sign ∧ t.held.testBit n = true then { t with status := .running, held := 0 } else t

/-- Step 3 of R83 for one thread that signed and an incomplete register. -/
def Thread.hold (n : Nat) (t : Thread) : Thread :=
  match t.status with
  | .running => { t with status := .sign, held := 2 ^ n }
  | .sign => if t.held.testBit n then t else { t with held := t.held + 2 ^ n }
  | _ => t

/-- Step 4 of R83 for one thread. -/
def Thread.meet (t : Thread) : Thread :=
  if t.status = .running ∧ t.mr ≠ 0 ∧ t.pc = t.mr then { t with status := .meeting } else t

/-- Step 5 of R83 for one thread of a meeting that is over. -/
def Thread.part (m : Nat) (t : Thread) : Thread :=
  if t.status = .meeting ∧ t.mr = m then { t with status := .running, mr := 0 } else t

/-- A step taken lane after lane, each changing its own thread, changes every thread once. -/
theorem foldl_thread {f : Warp → Nat → Warp} {g : Thread → Thread} {L : List Nat} {l : Nat}
    (hother : ∀ V i, i ≠ l → (f V i).thread l = V.thread l) (hsame : ∀ V, (f V l).thread l = g (V.thread l)) (hL : L.Nodup)
    (W : Warp) : (L.foldl f W).thread l = if l ∈ L then g (W.thread l) else W.thread l :=
  foldl_view (view := (·.thread l)) hother hsame hL W

theorem nodup_lanesOf (m : LaneSet) : (lanesOf m).Nodup := (lanesOf_sorted m).imp Nat.ne_of_lt

/-- A step that changes every thread for which a condition on it holds. -/
theorem foldl_thread_ite {c : Thread → Prop} [DecidablePred c] {u : Warp → Nat → Warp} {k : Thread → Thread} {l : Nat}
    (hother : ∀ V i, i ≠ l → (u V i).thread l = V.thread l) (hsame : ∀ V, (u V l).thread l = k (V.thread l)) (hl : l < 32)
    (W : Warp) : ((lanesOf allLanes).foldl (fun V i => if c (V.thread i) then u V i else V) W).thread l =
      if c (W.thread l) then k (W.thread l) else W.thread l := by
  refine (foldl_thread (g := fun t => if c t then k t else t) (fun V i hi => ?_) (fun V => ?_) (nodup_lanesOf _) W).trans
    (if_pos (mem_lanesOf_allLanes.2 hl))
  · split
    · exact hother V i hi
    · rfl
  · split
    · exact hsame V
    · rfl

/-! ### The steps, thread by thread -/

theorem Warp.thread_def (W : Warp) (l : Nat) :
    W.thread l = ⟨tget .exited W.status l, tget 0 W.pcs l, tget 0 W.mrs l, tget 0 W.heldCv l⟩ := rfl

theorem movePcs_thread (W : Warp) (took : LaneSet) (next : Nat) (targets : Table Nat) {l : Nat} (hl : l < 32) :
    (W.movePcs took next targets).thread l =
      if inSet took l then { W.thread l with pc := tget next targets l } else W.thread l := by
  rw [Warp.movePcs, foldl_thread (g := fun t => { t with pc := tget next targets l }) ?other ?same (nodup_lanesOf _)]
  · simp [mem_lanesOf, hl]
  case other => exact fun V i hi => by simp [Warp.thread_def, tget_tset, hi]
  case same => exact fun V => by simp [Warp.thread_def]

theorem releaseSigns_thread (W : Warp) (n : Nat) {l : Nat} (hl : l < 32) :
    (W.releaseSigns n).thread l = (W.thread l).release n := by
  rw [Warp.releaseSigns_eq]
  exact foldl_thread_ite (c := fun t => t.status = .sign ∧ t.held.testBit n = true)
    (k := fun t => { t with status := .running, held := 0 })
    (u := fun V l => { V.setStatus l .running with heldCv := tset 0 V.heldCv l 0 })
    (fun V i hi => by simp [Warp.thread_def, Warp.setStatus, tget_tset, hi])
    (fun V => by simp only [Warp.thread_def, Warp.setStatus, tget_tset_same]) hl W

theorem holdMeetings_thread (W : Warp) {l : Nat} (hl : l < 32) : W.holdMeetings.thread l = (W.thread l).meet :=
  foldl_thread_ite (c := fun t => t.status = .running ∧ t.mr ≠ 0 ∧ t.pc = t.mr)
    (k := fun t => { t with status := .meeting }) (u := fun V l => V.setStatus l .meeting)
    (fun V i hi => by simp [Warp.thread_def, Warp.setStatus, tget_tset, hi])
    (fun V => by simp only [Warp.thread_def, Warp.setStatus, tget_tset_same]) hl W

theorem holdSign_thread_other (W : Warp) (n : Nat) {i l : Nat} (hi : i ≠ l) : (W.holdSign n i).thread l = W.thread l := by
  unfold Warp.holdSign
  split
  · simp [Warp.thread_def, Warp.setStatus, tget_tset, hi]
  · split <;> simp [Warp.thread_def, tget_tset, hi]
  · rfl

theorem holdSign_thread_same (W : Warp) (n l : Nat) : (W.holdSign n l).thread l = (W.thread l).hold n := by
  have hheld (h : W.statusOf l = .sign) : W.heldOn n l = (W.thread l).held.testBit n := by
    rw [Warp.heldOn, h, bitOf_eq_testBit]
    rfl
  cases h : W.statusOf l
  case running =>
    simp only [Warp.holdSign, h, Thread.hold, show (W.thread l).status = .running from h]
    simp [Warp.thread_def, Warp.setStatus]
  case sign =>
    simp only [Warp.holdSign, h, Thread.hold, show (W.thread l).status = .sign from h, hheld h]
    split
    · rfl
    · simp only [Warp.thread_def, tget_tset_same, show tget .exited W.status l = .sign from h]
  case meeting => simp only [Warp.holdSign, h, Thread.hold, show (W.thread l).status = .meeting from h]
  case exited => simp only [Warp.holdSign, h, Thread.hold, show (W.thread l).status = .exited from h]

/-- Step 3 of R83 for one register: what it comes to for one thread. -/
theorem judgeSign_thread (W : Warp) (signed : LaneSet) (n : Nat) {l : Nat} (hl : l < 32) :
    (W.judgeSign signed n).thread l = (if W.cvComplete n then (W.thread l).release n
      else if inSet (signed &&& (W.cvSets n).2) l then (W.thread l).hold n else W.thread l) := by
  unfold Warp.judgeSign
  split
  · exact releaseSigns_thread W n hl
  · rw [foldl_thread (g := Thread.hold n) (fun V i hi => holdSign_thread_other V n hi)
      (fun V => holdSign_thread_same V n l) (nodup_lanesOf _)]
    simp [mem_lanesOf, hl]

/-- A meeting goes on while a thread that would come to it runs or is held at a sign (R83). -/
def Warp.awaited (W : Warp) (m : Nat) : Prop :=
  ∃ l, l < 32 ∧ (W.thread l).mr = m ∧ ((W.thread l).status = .running ∨ (W.thread l).status = .sign)

theorem releaseMeeting_of_awaited {W : Warp} {m : Nat} (h : W.awaited m) : W.releaseMeeting m = W := by
  obtain ⟨l, hl, hmr, hstatus⟩ := h
  have hmr : W.mrOf l = m := hmr
  have hstatus : W.statusOf l = .running ∨ W.statusOf l = .sign := hstatus
  exact if_pos (List.any_eq_true.2 ⟨l, mem_lanesOf_allLanes.2 hl, by simpa [hmr] using hstatus⟩)

theorem releaseMeeting_thread {W : Warp} {m l : Nat} (h : ¬ W.awaited m) (hl : l < 32) :
    (W.releaseMeeting m).thread l = (W.thread l).part m := by
  have hany : ¬ ((lanesOf allLanes).any fun l => W.mrOf l = m && (W.statusOf l = .running || W.statusOf l = .sign)) = true := by
    intro hany
    obtain ⟨i, hi, hcond⟩ := List.any_eq_true.1 hany
    simp only [Bool.and_eq_true, Bool.or_eq_true, decide_eq_true_eq] at hcond
    exact h ⟨i, mem_lanesOf_allLanes.1 hi, hcond⟩
  rw [Warp.releaseMeeting, if_neg hany]
  exact foldl_thread_ite (c := fun t => t.status = .meeting ∧ t.mr = m)
    (k := fun t => { t with status := .running, mr := 0 })
    (u := fun V l => { V.setStatus l .running with mrs := tset 0 V.mrs l 0 })
    (fun V i hi => by simp [Warp.thread_def, Warp.setStatus, tget_tset, hi])
    (fun V => by simp only [Warp.thread_def, Warp.setStatus, tget_tset_same]) hl W

/-! ### What the steps keep of a thread -/

/-- A condition on a thread that the release of its meeting keeps, all of step 5 keeps. -/
theorem releaseMeetings_keeps {P : Thread → Prop} (hpart : ∀ m t, P t → P (t.part m)) (W : Warp) {l : Nat} (hl : l < 32)
    (h : P (W.thread l)) : P (W.releaseMeetings.thread l) := by
  refine foldl_keeps (fun V => P (V.thread l)) _ (fun V m hV => ?_) _ W h
  by_cases hawaited : V.awaited m
  · rwa [releaseMeeting_of_awaited hawaited]
  · rw [releaseMeeting_thread hawaited hl]
    exact hpart m _ hV

theorem judgeSigns_keeps {P : Thread → Prop} (hrelease : ∀ n t, P t → P (t.release n)) (hhold : ∀ n t, P t → P (t.hold n))
    (W : Warp) (signed : Table LaneSet) {l : Nat} (hl : l < 32) (h : P (W.thread l)) : P ((W.judgeSigns signed).thread l) := by
  refine foldl_keeps (fun V => P (V.thread l)) _ (fun V n hV => ?_) _ W h
  rw [judgeSign_thread V _ n hl]
  split_ifs
  · exact hrelease n _ hV
  · exact hhold n _ hV
  · exact hV

/-- The warp after steps 2 to 5 of R83, before its issuing pc is chosen. -/
def Warp.converged (W : Warp) (took : LaneSet) (next : Nat) (targets : Table Nat) (signed : Table LaneSet) : Warp :=
  ((W.movePcs took next targets).judgeSigns signed).holdMeetings.releaseMeetings

theorem converged_keeps {P : Thread → Prop} (hrelease : ∀ n t, P t → P (t.release n)) (hhold : ∀ n t, P t → P (t.hold n))
    (hmeet : ∀ t, P t → P t.meet) (hpart : ∀ m t, P t → P (t.part m)) (W : Warp) (took : LaneSet) (next : Nat)
    (targets : Table Nat) (signed : Table LaneSet) {l : Nat} (hl : l < 32) (h : P ((W.movePcs took next targets).thread l)) :
    P ((W.converged took next targets signed).thread l) := by
  refine releaseMeetings_keeps hpart _ hl ?_
  rw [holdMeetings_thread _ hl]
  exact hmeet _ (judgeSigns_keeps hrelease hhold _ signed hl h)

theorem Thread.release_pc (n : Nat) (t : Thread) : (t.release n).pc = t.pc := by unfold Thread.release; split <;> rfl
theorem Thread.hold_pc (n : Nat) (t : Thread) : (t.hold n).pc = t.pc := by
  unfold Thread.hold; split <;> [rfl; (split <;> rfl); rfl]
theorem Thread.meet_pc (t : Thread) : t.meet.pc = t.pc := by unfold Thread.meet; split <;> rfl
theorem Thread.part_pc (m : Nat) (t : Thread) : (t.part m).pc = t.pc := by unfold Thread.part; split <;> rfl

theorem Thread.release_exited (n : Nat) (t : Thread) : (t.release n).status = .exited ↔ t.status = .exited := by
  unfold Thread.release; split <;> simp_all
theorem Thread.hold_exited (n : Nat) (t : Thread) : (t.hold n).status = .exited ↔ t.status = .exited := by
  unfold Thread.hold; split <;> [simp_all; (split <;> simp_all); rfl]
theorem Thread.meet_exited (t : Thread) : t.meet.status = .exited ↔ t.status = .exited := by
  unfold Thread.meet; split <;> simp_all
theorem Thread.part_exited (m : Nat) (t : Thread) : (t.part m).status = .exited ↔ t.status = .exited := by
  unfold Thread.part; split <;> simp_all

section

variable (W : Warp) (took : LaneSet) (next : Nat) (targets : Table Nat) (signed : Table LaneSet) {l : Nat}

theorem converged_pc (hl : l < 32) : ((W.converged took next targets signed).thread l).pc =
    if inSet took l then tget next targets l else W.pcOf l := by
  refine converged_keeps (P := fun t => t.pc = if inSet took l then tget next targets l else W.pcOf l)
    (fun n t h => (t.release_pc n).trans h) (fun n t h => (t.hold_pc n).trans h) (fun t h => t.meet_pc.trans h)
    (fun m t h => (t.part_pc m).trans h) W took next targets signed hl ?_
  rw [movePcs_thread _ _ _ _ hl]
  split <;> rfl

theorem converged_exited (hl : l < 32) :
    ((W.converged took next targets signed).thread l).status = .exited ↔ W.statusOf l = .exited := by
  refine converged_keeps (P := fun t => t.status = .exited ↔ W.statusOf l = .exited) (fun n t h => (t.release_exited n).trans h)
    (fun n t h => (t.hold_exited n).trans h) (fun t h => t.meet_exited.trans h) (fun m t h => (t.part_exited m).trans h)
    W took next targets signed hl ?_
  rw [movePcs_thread _ _ _ _ hl]
  split <;> rfl

end

/-! ### What the steps leave of a warp -/

/-- What no step of a boundary changes. -/
def Warp.besideThreads (W : Warp) := (W.v, W.k, W.preds, W.cvs, W.fpst, W.faults, W.resume, W.phase)

theorem Warp.fields_of_beside {V W : Warp} (h : V.besideThreads = W.besideThreads) :
    V.v = W.v ∧ V.k = W.k ∧ V.preds = W.preds ∧ V.cvs = W.cvs ∧ V.fpst = W.fpst ∧ V.faults = W.faults ∧
      V.resume = W.resume ∧ V.phase = W.phase := by
  simpa [Warp.besideThreads] using h

theorem Warp.cvComplete_of_beside {V W : Warp} (h : V.besideThreads = W.besideThreads) (n : Nat) :
    V.cvComplete n = W.cvComplete n := by
  obtain ⟨-, -, -, hcvs, -⟩ := Warp.fields_of_beside h
  rw [Warp.cvComplete, Warp.cvComplete, Warp.cvSets, Warp.cvSets, Warp.cv, Warp.cv, hcvs]

theorem releaseSigns_beside (W : Warp) (n : Nat) : (W.releaseSigns n).besideThreads = W.besideThreads :=
  foldl_same (view := Warp.besideThreads) (fun V l => by dsimp only; split <;> rfl) _ W

theorem judgeSign_beside (W : Warp) (signed : LaneSet) (n : Nat) : (W.judgeSign signed n).besideThreads = W.besideThreads := by
  unfold Warp.judgeSign
  split
  · exact releaseSigns_beside W n
  · refine foldl_same (view := Warp.besideThreads) (fun V l => ?_) _ W
    unfold Warp.holdSign
    split <;> [rfl; (split <;> rfl); rfl]

theorem releaseMeeting_beside (W : Warp) (m : Nat) : (W.releaseMeeting m).besideThreads = W.besideThreads := by
  unfold Warp.releaseMeeting
  split
  · rfl
  · exact foldl_same (view := Warp.besideThreads) (fun V l => by dsimp only; split <;> rfl) _ W

theorem movePcs_beside (W : Warp) (took : LaneSet) (next : Nat) (targets : Table Nat) :
    (W.movePcs took next targets).besideThreads = W.besideThreads :=
  foldl_same (f := fun (V : Warp) l => { V with pcs := tset 0 V.pcs l (tget next targets l) }) (view := Warp.besideThreads)
    (fun _ _ => rfl) _ W

theorem judgeSigns_beside (W : Warp) (signed : Table LaneSet) : (W.judgeSigns signed).besideThreads = W.besideThreads :=
  foldl_same (view := Warp.besideThreads) (fun V _ => judgeSign_beside V ..) _ W

theorem holdMeetings_beside (W : Warp) : W.holdMeetings.besideThreads = W.besideThreads :=
  foldl_same (view := Warp.besideThreads) (fun _ _ => by split <;> rfl) _ W

theorem releaseMeetings_beside (W : Warp) : W.releaseMeetings.besideThreads = W.besideThreads :=
  foldl_same (view := Warp.besideThreads) releaseMeeting_beside _ W

theorem converged_beside (W : Warp) (took : LaneSet) (next : Nat) (targets : Table Nat) (signed : Table LaneSet) :
    (W.converged took next targets signed).besideThreads = W.besideThreads :=
  (releaseMeetings_beside _).trans ((holdMeetings_beside _).trans ((judgeSigns_beside _ signed).trans
    (movePcs_beside W took next targets)))

/-! ### Signs and meetings after the steps -/

theorem Thread.not_held_release (n : Nat) (t : Thread) : ¬ ((t.release n).status = .sign ∧ (t.release n).held.testBit n = true) := by
  unfold Thread.release; split <;> simp_all

theorem Thread.release_sign {P : Nat → Prop} (n : Nat) {t : Thread} (h : ¬ (t.status = .sign ∧ P t.held)) :
    ¬ ((t.release n).status = .sign ∧ P (t.release n).held) := by
  unfold Thread.release; split <;> simp_all

theorem Thread.meet_sign {P : Nat → Prop} {t : Thread} (h : ¬ (t.status = .sign ∧ P t.held)) :
    ¬ (t.meet.status = .sign ∧ P t.meet.held) := by
  unfold Thread.meet; split <;> simp_all

theorem Thread.part_sign {P : Nat → Prop} (m : Nat) {t : Thread} (h : ¬ (t.status = .sign ∧ P t.held)) :
    ¬ ((t.part m).status = .sign ∧ P (t.part m).held) := by
  unfold Thread.part; split <;> simp_all

/-- Setting a clear bit by addition leaves the other bits. -/
theorem testBit_add_two_pow_other {a i n : Nat} (h : a.testBit i = false) (hi : i ≠ n) : (a + 2 ^ i).testBit n = a.testBit n := by
  rcases Nat.lt_or_gt_of_ne hi with hlt | hgt
  · obtain ⟨k, rfl⟩ := Nat.exists_eq_add_of_lt hlt
    have heven : a / 2 ^ i % 2 = 0 := by simpa [Nat.testBit_eq_decide_div_mod_eq] using h
    rw [show i + k + 1 = k + 1 + i by omega, Nat.testBit_add _ (k + 1), Nat.testBit_add a (k + 1), Nat.testBit_add_one, Nat.testBit_add_one,
      Nat.add_div_right _ (by positivity)]
    congr 1
    omega
  · rw [Nat.add_comm, Nat.testBit_two_pow_add_gt hgt]

theorem Thread.not_held_hold {n i : Nat} (hi : i ≠ n) {t : Thread} (h : ¬ (t.status = .sign ∧ t.held.testBit n = true)) :
    ¬ ((t.hold i).status = .sign ∧ (t.hold i).held.testBit n = true) := by
  unfold Thread.hold
  split
  · simp [hi]
  next hs =>
    split
    · exact h
    next hbit =>
      have hbit : t.held.testBit i = false := by simpa using hbit
      simpa [hs, testBit_add_two_pow_other hbit hi] using h
  · exact h

/-- A condition that every step of a list keeps, and that one of its steps brings about, holds at its end. -/
theorem foldl_reaches {σ : Type} {f : σ → Nat → σ} {P : σ → Prop} {l : List Nat} {n : Nat} (hn : n ∈ l)
    (hset : ∀ s, P (f s n)) (hkeep : ∀ s a, P s → P (f s a)) (s : σ) : P (l.foldl f s) := by
  obtain ⟨a, b, rfl⟩ := List.append_of_mem hn
  rw [List.foldl_append, List.foldl_cons]
  exact foldl_keeps P f hkeep b _ (hset _)

/-- After step 3 no thread is held at a sign of a complete register. -/
theorem judgeSigns_not_held (W : Warp) (signed : Table LaneSet) {l n : Nat} (hl : l < 32) (hn : n < 8) (h : W.cvComplete n = true) :
    ¬ (((W.judgeSigns signed).thread l).status = .sign ∧ ((W.judgeSigns signed).thread l).held.testBit n = true) := by
  refine foldl_reaches (f := fun V i => V.judgeSign (tget 0 signed i) i)
    (P := fun V => V.besideThreads = W.besideThreads → ¬ ((V.thread l).status = .sign ∧ (V.thread l).held.testBit n = true))
    (List.mem_range.2 hn) (fun V hV => ?set) (fun V i hV hbeside => ?keep) W (judgeSigns_beside W signed)
  case set =>
    rw [judgeSign_beside] at hV
    rw [judgeSign_thread V _ n hl, if_pos ((V.cvComplete_of_beside hV n).trans h)]
    exact Thread.not_held_release n _
  case keep =>
    rw [judgeSign_beside] at hbeside
    have hV := hV hbeside
    rw [judgeSign_thread V _ i hl]
    split_ifs with hcomplete hsigned
    · exact Thread.release_sign (P := (·.testBit n = true)) i hV
    · have hi : i ≠ n := by
        rintro rfl
        exact hcomplete ((V.cvComplete_of_beside hbeside i).trans h)
      exact Thread.not_held_hold hi hV
    · exact hV

section

variable (W : Warp) (took : LaneSet) (next : Nat) (targets : Table Nat) (signed : Table LaneSet) {l : Nat}

theorem converged_not_held {n : Nat} (hl : l < 32) (hn : n < 8) (h : W.cvComplete n = true) :
    ¬ (((W.converged took next targets signed).thread l).status = .sign ∧
      ((W.converged took next targets signed).thread l).held.testBit n = true) := by
  refine releaseMeetings_keeps (P := fun t => ¬ (t.status = .sign ∧ t.held.testBit n = true))
    (fun m t ht => Thread.part_sign (P := (·.testBit n = true)) m ht) _ hl ?_
  rw [holdMeetings_thread _ hl]
  refine Thread.meet_sign (P := (·.testBit n = true)) (judgeSigns_not_held _ signed hl hn ?_)
  rw [Warp.cvComplete_of_beside (movePcs_beside W took next targets), h]

/-- No thread goes on running at its own meeting address. -/
theorem converged_running_apart (hl : l < 32) (h : ((W.converged took next targets signed).thread l).status = .running) :
    ((W.converged took next targets signed).thread l).mr = 0 ∨
      ((W.converged took next targets signed).thread l).pc ≠ ((W.converged took next targets signed).thread l).mr := by
  refine releaseMeetings_keeps (P := fun t => t.status = .running → t.mr = 0 ∨ t.pc ≠ t.mr) (fun m t ht => ?part) _ hl ?meet h
  case part => unfold Thread.part; split <;> simp_all
  case meet =>
    rw [holdMeetings_thread _ hl]
    unfold Thread.meet
    split
    · simp
    · intro _; by_contra; simp_all

end

theorem Thread.part_meeting {m : Nat} {t : Thread} (h : (t.part m).status = .meeting) :
    t.part m = t ∧ t.mr ≠ m := by
  unfold Thread.part at h ⊢
  split at h
  · cases h
  next hn => exact ⟨if_neg hn, fun hm => hn ⟨h, hm⟩⟩

theorem Thread.part_awaits {m : Nat} {t : Thread} (h : t.status = .running ∨ t.status = .sign) : t.part m = t :=
  if_neg fun ⟨hmeeting, _⟩ => by rcases h with h | h <;> exact absurd (h.symm.trans hmeeting) (by decide)

/-- The end of one meeting leaves another awaited. -/
theorem awaited_releaseMeeting {W : Warp} {a : Nat} (h : W.awaited a) (m : Nat) : (W.releaseMeeting m).awaited a := by
  by_cases hm : W.awaited m
  · rwa [releaseMeeting_of_awaited hm]
  · obtain ⟨l, hl, hmr, hstatus⟩ := h
    have hsame : (W.releaseMeeting m).thread l = W.thread l :=
      (releaseMeeting_thread hm hl).trans (Thread.part_awaits hstatus)
    exact ⟨l, hl, by rwa [hsame], by rwa [hsame]⟩

/-- A thread of W meets at a. -/
def Warp.meets (W : Warp) (a : Nat) : Prop := ∃ l, l < 32 ∧ (W.thread l).status = .meeting ∧ (W.thread l).mr = a

/-- Threads meet after the end of a meeting only where they met before, and elsewhere. -/
theorem meets_of_releaseMeeting {W : Warp} {a m : Nat} (hm : ¬ W.awaited m) (h : (W.releaseMeeting m).meets a) :
    W.meets a ∧ a ≠ m := by
  obtain ⟨l, hl, hmeeting, hmr⟩ := h
  rw [releaseMeeting_thread hm hl] at hmeeting hmr
  obtain ⟨hsame, hne⟩ := Thread.part_meeting hmeeting
  rw [hsame] at hmeeting hmr
  exact ⟨⟨l, hl, hmeeting, hmr⟩, hmr ▸ hne⟩

/-- After step 5 every thread that still meets is awaited by a thread of its meeting. -/
theorem releaseMeetings_awaited (W : Warp) {a : Nat} (h : W.releaseMeetings.meets a) : W.releaseMeetings.awaited a := by
  obtain ⟨l, hl, hmeeting, hmr⟩ := id h
  have hbefore : (W.thread l).status = .meeting ∧ (W.thread l).mr = a := by
    have := releaseMeetings_keeps (P := fun t => t.status = .meeting → (W.thread l).status = .meeting ∧ (W.thread l).mr = t.mr)
      (fun m t ht hpart => by
        have hsame := (Thread.part_meeting hpart).1
        rw [hsame] at hpart ⊢
        exact ht hpart) W hl (fun h => ⟨h, rfl⟩) hmeeting
    exact ⟨this.1, this.2.trans hmr⟩
  have hmem : a ∈ (((lanesOf allLanes).filter fun l => W.statusOf l = .meeting).map W.mrOf).eraseDups :=
    List.mem_eraseDups.2 (List.mem_map.2 ⟨l, List.mem_filter.2 ⟨mem_lanesOf_allLanes.2 hl, decide_eq_true hbefore.1⟩, hbefore.2⟩)
  refine foldl_reaches (P := fun V => V.meets a → V.awaited a) hmem (fun V hV => ?set) (fun V m hV hmeets => ?keep) W h
  case set =>
    by_cases ha : V.awaited a
    · exact awaited_releaseMeeting ha a
    · exact absurd rfl (meets_of_releaseMeeting ha hV).2
  case keep =>
    by_cases hm : V.awaited m
    · rw [releaseMeeting_of_awaited hm] at hmeets ⊢
      exact hV hmeets
    · exact awaited_releaseMeeting (hV (meets_of_releaseMeeting hm hmeets).1) m

/-! ### The choice of the issuing pc (R83) -/

/-- The warp that steps 2 to 5 leave ends, raises the convergence fault, or has an issuing pc. -/
def Warp.choosePc (W : Warp) : Warp :=
  if W.unexited = 0 then { W with phase := .ended }
  else if W.running = 0 then
    let pc := W.lowestPc W.unexited
    { W.addFault W.seq pc 16 false { cause := 7, lanes := W.unexited } with issuePc := pc, seq := W.seq + 1 }
  else { W with issuePc := W.lowestPc W.running }

theorem boundarySteps_eq (W : Warp) (took : LaneSet) (next : Nat) (targets : Table Nat) (signed : Table LaneSet) :
    W.boundarySteps took next targets signed = (W.converged took next targets signed).choosePc := rfl

theorem choosePc_thread (W : Warp) (l : Nat) : W.choosePc.thread l = W.thread l := by
  unfold Warp.choosePc
  split
  · rfl
  · split <;> rfl

theorem unexited_eq_zero {W : Warp} : W.unexited = 0 ↔ ∀ l, l < 32 → W.statusOf l = .exited := by
  exact laneSet_eq_zero.trans (by simp)

theorem running_eq_zero {W : Warp} : W.running = 0 ↔ ∀ l, l < 32 → W.statusOf l ≠ .running := by
  exact laneSet_eq_zero.trans (by simp)

theorem foldl_min_spec (l : List Nat) (m : Nat) :
    (l.foldl min m = m ∨ l.foldl min m ∈ l) ∧ l.foldl min m ≤ m ∧ ∀ a ∈ l, l.foldl min m ≤ a := by
  induction l generalizing m with
  | nil => simp
  | cons b l ih =>
    obtain ⟨hmem, hle, hall⟩ := ih (min m b)
    rw [List.foldl_cons]
    refine ⟨?_, hle.trans (min_le_left ..), fun a ha => ?_⟩
    · rcases hmem with he | hm
      · rcases min_choice m b with hb | hb
        · exact .inl (he.trans hb)
        · exact .inr (by rw [he, hb]; exact List.mem_cons_self)
      · exact .inr (List.mem_cons_of_mem b hm)
    · rcases List.mem_cons.1 ha with rfl | ha
      · exact hle.trans (min_le_right ..)
      · exact hall a ha

/-- The lowest pc of a set is that of one of its threads, and no other's is lower. -/
theorem lowestPc_spec (W : Warp) {p : Nat → Bool} (h : ∃ l, l < 32 ∧ p l = true) :
    (∃ l, l < 32 ∧ p l = true ∧ W.pcOf l = W.lowestPc (laneSet p)) ∧
      ∀ l, l < 32 → p l = true → W.lowestPc (laneSet p) ≤ W.pcOf l := by
  have hmem {a : Nat} : a ∈ (lanesOf (laneSet p)).map W.pcOf ↔ ∃ l, l < 32 ∧ p l = true ∧ W.pcOf l = a := by
    simp only [List.mem_map, mem_lanesOf, and_assoc]
    exact exists_congr fun l => and_congr_right fun hl => by rw [inSet_laneSet p hl]
  obtain ⟨l, hl, hp⟩ := h
  have hl : W.pcOf l ∈ (lanesOf (laneSet p)).map W.pcOf := hmem.2 ⟨l, hl, hp, rfl⟩
  unfold Warp.lowestPc
  generalize (lanesOf (laneSet p)).map W.pcOf = pcs at hmem hl ⊢
  obtain ⟨hleast, _, hle⟩ := foldl_min_spec pcs (pcs.head?.getD 0)
  refine ⟨hmem.1 ?_, fun i hi hpi => hle _ (hmem.2 ⟨i, hi, hpi, rfl⟩)⟩
  rcases hleast with he | hm
  · rw [he]
    cases pcs with
    | nil => exact absurd hl List.not_mem_nil
    | cons a t => exact List.mem_cons_self
  · exact hm

theorem choosePc_running {W : Warp} (h : ∃ l, l < 32 ∧ W.statusOf l = .running) :
    W.choosePc = { W with issuePc := W.lowestPc W.running } := by
  obtain ⟨l, hl, hrun⟩ := h
  have hunexited : W.unexited ≠ 0 := fun hz => by
    have := unexited_eq_zero.1 hz l hl
    rw [hrun] at this
    cases this
  rw [Warp.choosePc, if_neg hunexited, if_neg fun hz => running_eq_zero.1 hz l hl hrun]

theorem choosePc_stuck {W : Warp} (hrun : ∀ l, l < 32 → W.statusOf l ≠ .running) (h : ∃ l, l < 32 ∧ W.statusOf l ≠ .exited) :
    W.choosePc = { W.addFault W.seq (W.lowestPc W.unexited) 16 false { cause := 7, lanes := W.unexited } with
      issuePc := W.lowestPc W.unexited, seq := W.seq + 1 } := by
  obtain ⟨l, hl, hleft⟩ := h
  rw [Warp.choosePc, if_neg fun hz => hleft (unexited_eq_zero.1 hz l hl), if_pos (running_eq_zero.2 hrun)]

theorem choosePc_ended {W : Warp} (h : ∀ l, l < 32 → W.statusOf l = .exited) : W.choosePc = { W with phase := .ended } := by
  rw [Warp.choosePc, if_pos (unexited_eq_zero.2 h)]

theorem choosePc_statusOf (W : Warp) (l : Nat) : W.choosePc.statusOf l = (W.thread l).status :=
  congrArg Thread.status (choosePc_thread W l)

theorem choosePc_pcOf (W : Warp) (l : Nat) : W.choosePc.pcOf l = (W.thread l).pc := congrArg Thread.pc (choosePc_thread W l)

theorem choosePc_mrOf (W : Warp) (l : Nat) : W.choosePc.mrOf l = (W.thread l).mr := congrArg Thread.mr (choosePc_thread W l)

theorem choosePc_held (W : Warp) (l : Nat) : tget 0 W.choosePc.heldCv l = (W.thread l).held :=
  congrArg Thread.held (choosePc_thread W l)

/-- With a running thread the issuing pc is the lowest of them. -/
theorem choosePc_of_running {W : Warp} (h : ∃ l, l < 32 ∧ W.choosePc.statusOf l = .running) :
    (∃ l, l < 32 ∧ W.choosePc.statusOf l = .running ∧ W.choosePc.pcOf l = W.choosePc.issuePc) ∧ W.choosePc.faults = W.faults ∧
      ∀ l, l < 32 → W.choosePc.statusOf l = .running → W.choosePc.issuePc ≤ W.choosePc.pcOf l := by
  have hrun : ∃ l, l < 32 ∧ W.statusOf l = .running := by simp only [choosePc_statusOf] at h; exact h
  obtain ⟨⟨l, hl, hlrun, hlow⟩, hle⟩ := lowestPc_spec W (p := fun l => W.statusOf l = .running) (by simpa using hrun)
  rw [choosePc_running hrun]
  exact ⟨⟨l, hl, of_decide_eq_true hlrun, hlow⟩, rfl, fun i hi hirun => hle i hi (decide_eq_true hirun)⟩

/-- With no running thread but some left the warp raises the convergence fault at the lowest pc of those. -/
theorem choosePc_of_stuck {W : Warp} (hrun : ∀ l, l < 32 → W.choosePc.statusOf l ≠ .running)
    (h : ∃ l, l < 32 ∧ W.choosePc.statusOf l ≠ .exited) :
    ∃ f, W.choosePc.faults = W.faults ++ [f] ∧ f.cause = 7 ∧ f.index = 16 ∧ f.clause = W.choosePc.issuePc ∧
      (∃ l, l < 32 ∧ W.choosePc.statusOf l ≠ .exited ∧ W.choosePc.pcOf l = f.clause) ∧
      ∀ l, l < 32 → W.choosePc.statusOf l ≠ .exited → f.clause ≤ W.choosePc.pcOf l := by
  have hrun : ∀ l, l < 32 → W.statusOf l ≠ .running := by simp only [choosePc_statusOf] at hrun; exact hrun
  have hleft : ∃ l, l < 32 ∧ W.statusOf l ≠ .exited := by simp only [choosePc_statusOf] at h; exact h
  obtain ⟨⟨l, hl, hlleft, hlow⟩, hle⟩ := lowestPc_spec W (p := fun l => W.statusOf l ≠ .exited) (by simpa using hleft)
  rw [choosePc_stuck hrun hleft]
  exact ⟨_, rfl, rfl, rfl, rfl, ⟨l, hl, of_decide_eq_true hlleft, hlow⟩, fun i hi hileft => hle i hi (decide_eq_true hileft)⟩

theorem choosePc_of_ended {W : Warp} (h : ∀ l, l < 32 → W.choosePc.statusOf l = .exited) :
    W.choosePc.phase = .ended ∧ W.choosePc.faults = W.faults := by
  have hend : ∀ l, l < 32 → W.statusOf l = .exited := by simp only [choosePc_statusOf] at h; exact h
  rw [choosePc_ended hend]
  exact ⟨rfl, rfl⟩

/-- The choice of an issuing pc changes no register, predicate, convergence register or FPST. -/
theorem choosePc_registers (W : Warp) : W.choosePc.v = W.v ∧ W.choosePc.k = W.k ∧ W.choosePc.preds = W.preds ∧
    W.choosePc.cvs = W.cvs ∧ W.choosePc.fpst = W.fpst := by
  unfold Warp.choosePc
  split
  · exact ⟨rfl, rfl, rfl, rfl, rfl⟩
  · split <;> exact ⟨rfl, rfl, rfl, rfl, rfl⟩

/-! ### The statement -/

/-- Settles O37: what steps 2 to 5 leave of each thread, and then the choice of the issuing pc. -/
theorem boundaryStepsConverge : Obligations.BoundaryStepsConverge := by
  unfold Obligations.BoundaryStepsConverge
  intro W took next targets signed
  obtain ⟨hv, hk, hpreds, hcvs, hfpst, hfaults, -, -⟩ := Warp.fields_of_beside (converged_beside W took next targets signed)
  obtain ⟨hv', hk', hpreds', hcvs', hfpst'⟩ := choosePc_registers (W.converged took next targets signed)
  simp only [boundarySteps_eq]
  refine ⟨fun l hl => ?pc, fun l hl => ?exited, fun l n hl hn hsign hheld => ?sign, fun l hl hrun => ?apart,
    fun l hl hmeeting => ?meeting, fun h => ?running, fun hrun h => ?stuck,
    fun h => ?ended, hv'.trans hv, hk'.trans hk, hpreds'.trans hpreds, hcvs'.trans hcvs, hfpst'.trans hfpst⟩
  case pc =>
    rw [choosePc_pcOf]
    exact converged_pc W took next targets signed hl
  case exited =>
    rw [choosePc_statusOf]
    exact converged_exited W took next targets signed hl
  case sign =>
    rw [choosePc_statusOf] at hsign
    rw [choosePc_held] at hheld
    by_contra hcomplete
    exact converged_not_held W took next targets signed hl hn (by simpa using hcomplete) ⟨hsign, hheld⟩
  case apart =>
    rw [choosePc_statusOf] at hrun
    rw [choosePc_mrOf, choosePc_pcOf]
    exact converged_running_apart W took next targets signed hl hrun
  case meeting =>
    rw [choosePc_statusOf] at hmeeting
    obtain ⟨m, hm, hmr, hstatus⟩ := releaseMeetings_awaited _ ⟨l, hl, hmeeting, rfl⟩
    refine ⟨m, hm, ?_⟩
    rw [choosePc_mrOf, choosePc_mrOf, choosePc_statusOf]
    exact ⟨hmr, hstatus⟩
  case running =>
    obtain ⟨hlow, hsame, hle⟩ := choosePc_of_running h
    exact ⟨hlow, hsame.trans hfaults, hle⟩
  case stuck =>
    obtain ⟨f, hsame, hfault⟩ := choosePc_of_stuck hrun h
    exact ⟨f, hsame.trans (congrArg (· ++ [f]) hfaults), hfault⟩
  case ended =>
    obtain ⟨hphase, hsame⟩ := choosePc_of_ended h
    exact ⟨hphase, hsame.trans hfaults⟩

end Sys2Proof.Machine
end

section
/-! ## Scheduling: the ends of waits, warps and groups, and the watchdog

Proof of the statement over R87, R92, R208 to R210, R249, R259 and R325. -/

namespace Sys2Proof.Machine

/-! ### What barriers and boundaries leave of the groups -/

/-- The barriers of groups and of cluster sites, with all that a group holds beside them. -/
def State.bars (s : State) := (s.comp.groups, s.comp.cbars)

theorem acquire_bars (s : State) (w : Nat) (scope : Scope) : (s.acquire w scope).bars = s.bars := by
  unfold State.acquire
  split
  · simp [State.bars, State.orderAfter, State.onSitePaths, State.dropLevel1]
  · rfl

theorem progress_bars (s : State) (core slot : Nat) : (s.progress core slot).bars = s.bars := by
  simp [State.bars, State.progress]

theorem leaveBar_bars (s : State) (cluster : Bool) (id n v : Nat) : (s.leaveBar cluster id n v).bars = s.bars := by
  unfold State.leaveBar
  generalize (if cluster = true then Scope.cls else Scope.grp) = scope
  dsimp only
  split
  · exact (progress_bars ..).trans (acquire_bars s v _)
  · exact acquire_bars s v _

theorem afterBoundary_bars (s : State) (w : Nat) : (s.afterBoundary w).bars = s.bars := by
  unfold State.afterBoundary
  split <;> rfl

theorem ctxOfWarp_of_bars {s t : State} (h : t.bars = s.bars) (w : Nat) : t.ctxOfWarp w = s.ctxOfWarp w := by
  have hgroups : t.comp.groups = s.comp.groups := congrArg Prod.fst h
  simp only [State.ctxOfWarp, State.group?, hgroups]

/-- A change of a barrier leaves every other part of every group. -/
theorem group?_putBar {α : Type} {field : Group → α} (hfield : ∀ g bars, field { g with bars := bars } = field g) (s : State)
    (w : Nat) (cluster : Bool) (id : Nat) (b : BarPhase) (n : Nat) :
    ((s.putBar w cluster id b).group? n).map field = (s.group? n).map field := by
  unfold State.putBar
  split
  · rfl
  · simp only [State.group?, State.onGroup, tfind_tmap]
    split
    · cases tfind s.comp.groups n <;> simp [hfield]
    · rfl

theorem ctxOfWarp_eq (s : State) (w : Nat) : s.ctxOfWarp w = ((s.group? (groupOf w)).map Group.slot).getD 0 := by
  unfold State.ctxOfWarp
  cases s.group? (groupOf w) <;> rfl

theorem ctxOfWarp_putBar (s : State) (w : Nat) (cluster : Bool) (id : Nat) (b : BarPhase) (v : Nat) :
    (s.putBar w cluster id b).ctxOfWarp v = s.ctxOfWarp v := by
  rw [ctxOfWarp_eq, ctxOfWarp_eq, group?_putBar fun _ _ => rfl]

/-- The arrivals that complete a phase of a barrier whose bar or cbar gives this COUNT (R94). -/
def State.barTarget (s : State) (w : Nat) (cluster : Bool) (count : Nat) : Nat :=
  if count = 0 then (s.barWarps w cluster).length else count

theorem checkBar_of_reached {s : State} {w : Nat} {cluster : Bool} {id : Nat} {b : BarPhase} (hb : s.barPhase w cluster id = b)
    (hsome : b.arrived ≠ []) (h : s.barTarget w cluster b.count ≤ b.arrived.length) :
    s.checkBar w cluster id = b.arrived.foldl (fun s v => s.leaveBar cluster id b.complete v)
      (s.putBar w cluster id { count := 0, arrived := [], complete := b.complete + 1 }) := by
  subst hb
  exact if_pos ⟨hsome, h⟩

theorem checkBar_of_short {s : State} {w : Nat} {cluster : Bool} {id : Nat} {b : BarPhase} (hb : s.barPhase w cluster id = b)
    (h : b.arrived = [] ∨ b.arrived.length < s.barTarget w cluster b.count) : s.checkBar w cluster id = s := by
  subst hb
  refine if_neg fun ⟨hsome, hle⟩ => ?_
  exact h.elim hsome (Nat.not_lt.mpr hle)

theorem ctxOfWarp_checkBar (s : State) (w : Nat) (cluster : Bool) (id v : Nat) :
    (s.checkBar w cluster id).ctxOfWarp v = s.ctxOfWarp v := by
  by_cases h : (s.barPhase w cluster id).arrived ≠ [] ∧
      s.barTarget w cluster (s.barPhase w cluster id).count ≤ (s.barPhase w cluster id).arrived.length
  · rw [checkBar_of_reached rfl h.1 h.2]
    exact (foldl_same (view := fun t : State => t.ctxOfWarp v) (fun t u => ctxOfWarp_of_bars (leaveBar_bars t ..) v) _ _).trans
      (ctxOfWarp_putBar ..)
  · rw [checkBar_of_short rfl (by simpa [or_iff_not_imp_left] using h)]

theorem ctxOfWarp_checkBars (s : State) (w v : Nat) : (s.checkBars w).ctxOfWarp v = s.ctxOfWarp v := by
  unfold State.checkBars
  refine (foldl_same (view := fun t : State => t.ctxOfWarp v) (fun t id => ctxOfWarp_checkBar t w true id v) _ _).trans ?_
  split
  · exact foldl_same (view := fun t : State => t.ctxOfWarp v) (fun t id => ctxOfWarp_checkBar t w false id v) _ _
  · rfl

/-! ### The end of a wait (R92) -/

section

variable {s : State} {w : Nat} {x : Waiting}

theorem execWaitMet_of_ends (hphase : (s.warp w).phase = .waiting x) (hres : resident w = true)
    (h : s.waitMet w x = true ∨ (s.waitPoison w x).isSome = true) : exec (.waitMet w) s = .next (s.endWait w x) := by
  have hcond : (resident w && (s.waitMet w x || (s.waitPoison w x).isSome)) = true := by simpa [hres] using h
  simp only [exec, execWaitMet, hphase, hcond, if_true]

theorem execWaitTimeout_of_expired (hphase : (s.warp w).phase = .waiting x) (hres : resident w = true)
    (h : s.expired x = true) : exec (.waitTimeout w) s = .next (s.endWait w x) := by
  simp only [exec, execWaitTimeout, hphase, hres, h, Bool.and_self, if_true]

theorem execWaitMemoryPoll_of_read {u : State} {conds : List WaitCond} (hphase : (s.warp w).phase = .waiting x)
    (hres : resident w = true)
    (h : s.readConds w x.clause x.index (oneLane ((lowest x.lanes).getD 0)) x.conds = (u, conds)) :
    exec (.waitMemoryPoll w) s = .next (
      let v := u.onWarp w fun W => { W with phase := .waiting { x with conds := conds } }
      if v.waitMet w { x with conds := conds } then v.endWait w { x with conds := conds } else v) := by
  simp only [exec, execWaitMemoryPoll, hphase, hres, h, Bool.not_true, Bool.false_eq_true, if_false]

end

/-- The end of a wait, with the context read after the boundary. -/
theorem endWait_eq (s : State) (w : Nat) (x : Waiting) :
    s.endWait w x =
      (let t := (s.waitConsumes w x).onWarp w fun W =>
        ((s.waitResult w x (s.expired x)).foldl Warp.applyPending { W with phase := .between }).boundarySteps
          x.took x.next [] x.signed
       ((t.afterBoundary w).progress (coreOf w) ((t.afterBoundary w).ctxOfWarp w)).wake w) := by
  unfold State.endWait
  dsimp only
  rw [ctxOfWarp_of_bars (afterBoundary_bars ..)]

/-! ### The end of a warp (R87, R249, R259) -/

/-- A warp whose threads have exited, with nothing outstanding, ends, its context read after the barriers. -/
theorem execWarpEnd_of_done {s : State} {w : Nat} (hres : resident w = true) (hphase : (s.warp w).phase = .ended)
    (hcount : ∀ c ∈ [0, 1, 3, 5], (s.warp w).counter c = 0)
    (htaken : ∀ e ∈ (s.cambium (siteOf (coreOf w))).ends, e.warp ≠ w) :
    execWarpEnd w s = .next (
      let t := s.onCore (coreOf w) fun c => { c with banks := c.banks.map fun (b, k) =>
        (b, if k.owner = groupOf w then Bank.leave w k else k) }
      let start := match s.group? (groupOf w) with
        | some g => g.rank = 0 && w % 64 = 0
        | none => false
      let t := if (s.warp w).buds.isEmpty then t.onWarp w fun W => { W with phase := .gone }
        else { t with comp := { t.comp with warps := tdel t.comp.warps w } }
      let t := if start && (s.warp w).buds.isEmpty then t.onDispatch (t.dispatchOfWarp w) fun d => { d with startEnded := true }
        else t
      let u := (t.checkBars w).progress (coreOf w) ((t.checkBars w).ctxOfWarp w)
      (u.endGroup (groupOf w)).endCambium (u.dispatchOfWarp w)) := by
  have hcount' : [0, 1, 3, 5].all (fun c => (s.warp w).counter c = 0) = true := by simpa using hcount
  have htaken' : (!((s.cambium (siteOf (coreOf w))).ends.any fun e => e.warp = w)) = true := by simpa using htaken
  refine (if_pos ⟨hres, hphase, hcount', htaken'⟩).trans ?_
  have hgroup (f : Core → Core) : (s.onCore (coreOf w) f).group? (groupOf w) = s.group? (groupOf w) := by
    simp only [State.group?, State.onCore_comp_groups]
  simp only [ctxOfWarp_checkBars, hgroup]
  cases (s.warp w).buds.isEmpty <;> rfl

/-- Settles O40: each event is its equation, once the context of a warp is read after the boundary or the barriers, which leave the
groups' slots. -/
theorem waitsAndWarpsEnd : Obligations.WaitsAndWarpsEnd := by
  unfold Obligations.WaitsAndWarpsEnd
  refine ⟨?wait, ?warp, ?watchdog⟩
  case wait =>
    intro s w x hphase hres
    refine ⟨fun h => ?_, fun h => ?_, fun u conds h => ?_⟩
    · rw [execWaitMet_of_ends hphase hres h, endWait_eq]
      rfl
    · rw [execWaitTimeout_of_expired hphase hres h, endWait_eq]
      rfl
    · rw [execWaitMemoryPoll_of_read hphase hres h]
      simp only [endWait_eq]
      rfl
  case warp =>
    intro s w hres hphase hcount htaken
    have hend := execWarpEnd_of_done hres hphase hcount htaken
    refine ⟨fun hb => ?_, fun hb => ?_⟩
    · have hbud : (s.warp w).buds.isEmpty = false := by simpa using hb
      simp only [exec, hend, hbud, Bool.and_false, Bool.false_eq_true, if_false]
    · have hbud : (s.warp w).buds.isEmpty = true := by simpa using hb
      simp only [exec, hend, hbud, Bool.and_true, if_true] <;> rfl
  case watchdog =>
    intro s core slot ws now hne hstuck hsince hpause
    have hall : (ws.map fun (w, _) => (w, s.stuck w)).all (fun e => e.2.isSome) = true := by
      simpa using hstuck
    refine (if_pos ⟨hne, hall, hsince, by simpa using hpause⟩).trans ?_
    dsimp only
    rw [List.foldl_map]

end Sys2Proof.Machine
end

section
/-! ## Barriers: arrivals at barrier words, and at bar and cbar

Proof of the statement over R94, R95 and R231 to R233. -/

namespace Sys2Proof.Machine

/-! ### Barrier words (R231) -/

theorem ofBytes_toBytes_four (v : Nat) : ofBytes (toBytes 4 v) = v % 2 ^ 32 := by
  simp only [toBytes, ofBytes, BitVec.toNat_ofNat]
  omega

theorem barrierWord_eq (s : State) (core o i : Nat) :
    s.barrierWord core o i = ofBytes ((List.range 4).map fun k => s.coreByte core (o + 4 * i + k)) := rfl

/-- The 16 bytes of a barrier lie outside register areas and uniform blocks. -/
def State.PlainBarrier (s : State) (core o : Nat) : Prop := ∀ i, i < 16 → s.Plain core (o + i)

theorem State.PlainBarrier.putBarrier {s : State} {core o : Nat} (h : s.PlainBarrier core o) (i v : Nat) :
    (s.putBarrier core o i v).PlainBarrier core o := fun n hn => (h n hn).congr (coreWrite_groups ..)

theorem State.PlainBarrier.at {s : State} {core o : Nat} (h : s.PlainBarrier core o) {i k : Nat} (hi : i < 4) (hk : k < 4) :
    s.Plain core (o + 4 * i + k) := by
  rw [Nat.add_assoc]
  exact h (4 * i + k) (by omega)

section

variable {s : State} {core o : Nat}

theorem coreByte_coreWrite (hcore : core < 2 ^ 18) {a : Nat} (h : s.Plain core a) (bytes : List (Nat × Byte)) :
    (s.coreWrite core bytes).coreByte core a = lastOf bytes a (s.coreByte core a) := by
  rw [coreByte_plain (h.congr (coreWrite_groups ..)), coreWrite_store s bytes hcore h, coreByte_plain h]

theorem coreByte_putBarrier_other (hcore : core < 2 ^ 18) {a i : Nat} (h : s.Plain core a) (v : Nat)
    (hout : a < o + 4 * i ∨ o + 4 * i + 4 ≤ a) : (s.putBarrier core o i v).coreByte core a = s.coreByte core a := by
  refine (coreByte_coreWrite hcore h _).trans (lastOf_unnamed _ ?_)
  intro e he
  obtain ⟨⟨byte, k⟩, hk, rfl⟩ := List.mem_map.1 he
  have hlt : k < 4 := List.snd_lt_of_mem_zipIdx hk
  dsimp only
  omega

theorem coreByte_putBarrier_same (hcore : core < 2 ^ 18) {i k : Nat} (h : s.Plain core (o + 4 * i + k)) (hk : k < 4) (v : Nat) :
    (s.putBarrier core o i v).coreByte core (o + 4 * i + k) = (toBytes 4 v).getD k 0 := by
  refine (coreByte_coreWrite hcore h _).trans (lastOf_named _ ?_)
  interval_cases k <;> simp [toBytes]

theorem barrierWord_putBarrier_same (hcore : core < 2 ^ 18) (h : s.PlainBarrier core o) {i : Nat} (hi : i < 4) (v : Nat) :
    (s.putBarrier core o i v).barrierWord core o i = v % 2 ^ 32 := by
  rw [barrierWord_eq]
  have hbytes : (List.range 4).map (fun k => (s.putBarrier core o i v).coreByte core (o + 4 * i + k)) = toBytes 4 v :=
    (List.map_congr_left fun k hk =>
      coreByte_putBarrier_same hcore (h.at hi (List.mem_range.1 hk)) (List.mem_range.1 hk) v).trans rfl
  rw [hbytes, ofBytes_toBytes_four]

theorem barrierWord_putBarrier_other (hcore : core < 2 ^ 18) (h : s.PlainBarrier core o) {i j : Nat} (hi : i < 4) (hij : i ≠ j)
    (v : Nat) : (s.putBarrier core o j v).barrierWord core o i = s.barrierWord core o i := by
  rw [barrierWord_eq, barrierWord_eq]
  refine congrArg ofBytes (List.map_congr_left fun k hk => ?_)
  have hk := List.mem_range.1 hk
  exact coreByte_putBarrier_other hcore (h.at hi hk) v (by omega)

/-- An arrival that does not complete the phase. -/
theorem arrive_of_short {n : Nat} (h : s.barrierWord core o 0 = 0 ∨ (s.barrierWord core o 1 + n) % 2 ^ 32 < s.barrierWord core o 0) :
    s.arrive core o n = s.putBarrier core o 1 ((s.barrierWord core o 1 + n) % 2 ^ 32) := by
  refine if_neg fun ⟨hexpect, hle⟩ => ?_
  exact h.elim hexpect (Nat.not_lt.mpr hle)

/-- An arrival that completes the phase. -/
theorem arrive_of_complete {n : Nat} (hexpect : s.barrierWord core o 0 ≠ 0)
    (hle : s.barrierWord core o 0 ≤ (s.barrierWord core o 1 + n) % 2 ^ 32) :
    s.arrive core o n = (s.putBarrier core o 1 ((s.barrierWord core o 1 + n) % 2 ^ 32 - s.barrierWord core o 0)).putBarrier core o 2
      ((s.barrierWord core o 2 + 1) % 2) := if_pos ⟨hexpect, hle⟩

theorem barrierWord_arrive_short (hcore : core < 2 ^ 18) (h : s.PlainBarrier core o) {n i : Nat} (hi : i < 4)
    (hshort : s.barrierWord core o 0 = 0 ∨ (s.barrierWord core o 1 + n) % 2 ^ 32 < s.barrierWord core o 0) :
    (s.arrive core o n).barrierWord core o i =
      if i = 1 then (s.barrierWord core o 1 + n) % 2 ^ 32 else s.barrierWord core o i := by
  rw [arrive_of_short hshort]
  split_ifs with h1
  · subst h1
    rw [barrierWord_putBarrier_same hcore h (by omega), Nat.mod_mod]
  · exact barrierWord_putBarrier_other hcore h hi h1 _

theorem barrierWord_arrive_complete (hcore : core < 2 ^ 18) (h : s.PlainBarrier core o) {n i : Nat} (hi : i < 4)
    (hexpect : s.barrierWord core o 0 ≠ 0) (hle : s.barrierWord core o 0 ≤ (s.barrierWord core o 1 + n) % 2 ^ 32) :
    (s.arrive core o n).barrierWord core o i =
      if i = 1 then (s.barrierWord core o 1 + n) % 2 ^ 32 - s.barrierWord core o 0
      else if i = 2 then (s.barrierWord core o 2 + 1) % 2 else s.barrierWord core o i := by
  have h' := h.putBarrier 1 ((s.barrierWord core o 1 + n) % 2 ^ 32 - s.barrierWord core o 0)
  rw [arrive_of_complete hexpect hle]
  by_cases h2 : i = 2
  · subst h2
    rw [barrierWord_putBarrier_same hcore h' hi]
    simp only [OfNat.ofNat_ne_one, if_true, if_false]
    omega
  · rw [barrierWord_putBarrier_other hcore h' hi h2, if_neg h2]
    split_ifs with h1
    · subst h1
      rw [barrierWord_putBarrier_same hcore h hi]
      omega
    · exact barrierWord_putBarrier_other hcore h hi h1 _

end

/-! ### What settling leaves of a warp -/

/-- The choice of the issuing pc keeps where the warp resumes and the faults known for it, and may end it. -/
theorem choosePc_keeps {V W : Warp} (h : V.besideThreads = W.besideThreads) :
    V.choosePc.resume = W.resume ∧ W.faults ⊆ V.choosePc.faults ∧
      (V.choosePc.phase = W.phase ∨ V.choosePc.phase = .ended) := by
  obtain ⟨-, -, -, -, -, hfaults, hresume, hphase⟩ := Warp.fields_of_beside h
  rw [← hfaults, ← hresume, ← hphase]
  unfold Warp.choosePc
  split
  · exact ⟨rfl, List.Subset.refl _, .inr rfl⟩
  · split
    · exact ⟨rfl, List.subset_append_left .., .inl rfl⟩
    · exact ⟨rfl, List.Subset.refl _, .inl rfl⟩

/-- The steps 3 to 6 of R83 keep where the warp resumes and the faults known for it. -/
theorem judged_keeps (W : Warp) (signed : Table LaneSet) :
    (W.judgeSigns signed).settle.resume = W.resume ∧ W.faults ⊆ (W.judgeSigns signed).settle.faults := by
  obtain ⟨hresume, hfaults, -⟩ := choosePc_keeps
    ((releaseMeetings_beside _).trans ((holdMeetings_beside _).trans (judgeSigns_beside W signed)))
  exact ⟨hresume, hfaults⟩

theorem boundarySteps_phase (W : Warp) (took : LaneSet) (next : Nat) (targets : Table Nat) (signed : Table LaneSet) :
    (W.boundarySteps took next targets signed).phase = W.phase ∨ (W.boundarySteps took next targets signed).phase = .ended := by
  obtain ⟨-, -, hphase⟩ := choosePc_keeps (converged_beside W took next targets signed)
  exact hphase

/-- Parking and entering a handler leave where the warp resumes and the faults known for it. -/
theorem rest_enter_keeps (W : Warp) : W.rest.enterIfFaulted.resume = W.resume ∧ W.rest.enterIfFaulted.faults = W.faults := by
  have hunpark (W : Warp) : W.unpark.resume = W.resume ∧ W.unpark.faults = W.faults := by
    unfold Warp.unpark
    split
    · split <;> exact ⟨rfl, rfl⟩
    · exact ⟨rfl, rfl⟩
  have hrest : W.rest.resume = W.resume ∧ W.rest.faults = W.faults := by
    unfold Warp.rest
    split
    · exact hunpark _
    · exact ⟨rfl, rfl⟩
  have henter (W : Warp) : W.enterIfFaulted.resume = W.resume ∧ W.enterIfFaulted.faults = W.faults := by
    unfold Warp.enterIfFaulted
    split
    · split <;> exact ⟨rfl, rfl⟩
    · split <;> exact ⟨rfl, rfl⟩
    · exact ⟨rfl, rfl⟩
  exact ⟨(henter _).1.trans hrest.1, (henter _).2.trans hrest.2⟩

/-- A warp that goes back to an instruction: after the boundary it still resumes there, with the faults known for it. -/
theorem judged_rest_enter_keeps (W : Warp) (signed : Table LaneSet) (now : Nat) :
    let V := { (W.judgeSigns signed).settle with readyAt := now }.rest.enterIfFaulted
    V.resume = W.resume ∧ W.faults ⊆ V.faults := by
  obtain ⟨hresume, hfaults⟩ := judged_keeps W signed
  generalize (W.judgeSigns signed).settle = V at hresume hfaults
  obtain ⟨hresume', hfaults'⟩ := rest_enter_keeps { V with readyAt := now }
  exact ⟨hresume'.trans hresume, hfaults' ▸ hfaults⟩

/-! ### The barriers of groups and sites (R94) -/

theorem dispatchOfWarp_eq (s : State) (w : Nat) :
    s.dispatchOfWarp w = ((s.group? (groupOf w)).map Group.dispatch).getD 0 := by
  unfold State.dispatchOfWarp
  cases s.group? (groupOf w) <;> rfl

theorem dispatchOfWarp_of_bars {s t : State} (h : t.bars = s.bars) (w : Nat) : t.dispatchOfWarp w = s.dispatchOfWarp w := by
  have hgroups : t.comp.groups = s.comp.groups := congrArg Prod.fst h
  simp only [State.dispatchOfWarp, State.group?, hgroups]

theorem dispatchOfWarp_putBar (s : State) (w : Nat) (cluster : Bool) (id : Nat) (b : BarPhase) (v : Nat) :
    (s.putBar w cluster id b).dispatchOfWarp v = s.dispatchOfWarp v := by
  rw [dispatchOfWarp_eq, dispatchOfWarp_eq, group?_putBar fun _ _ => rfl]

theorem putBar_warps (s : State) (w : Nat) (cluster : Bool) (id : Nat) (b : BarPhase) :
    (s.putBar w cluster id b).comp.warps = s.comp.warps := by
  unfold State.putBar
  split <;> rfl

theorem barPhase_of_bars {s t : State} (h : t.bars = s.bars) (w : Nat) (cluster : Bool) (id : Nat) :
    t.barPhase w cluster id = s.barPhase w cluster id := by
  have hgroups : t.comp.groups = s.comp.groups := congrArg Prod.fst h
  have hcbars : t.comp.cbars = s.comp.cbars := congrArg Prod.snd h
  simp only [State.barPhase, dispatchOfWarp_of_bars h, State.group?, hgroups, hcbars]

theorem barPhase_putBar {s : State} {w : Nat} (hgroup : (s.group? (groupOf w)).isSome = true) (cluster : Bool) (id : Nat)
    (b : BarPhase) : (s.putBar w cluster id b).barPhase w cluster id = b := by
  cases cluster
  case true =>
    have hd := dispatchOfWarp_putBar s w true id b w
    simp only [State.barPhase, if_true, hd]
    simp only [State.putBar, if_true, tget_tput_same]
  case false =>
    obtain ⟨g, hg⟩ := Option.isSome_iff_exists.1 hgroup
    have hput : (s.putBar w false id b).group? (groupOf w) = some { g with bars := tput g.bars id b } := by
      rw [State.group?] at hg
      simp [State.putBar, State.group?, State.onGroup, hg]
    simp only [State.barPhase, hput, Bool.false_eq_true, if_false, tget_tput_same]

theorem barWarps_congr {s t : State} (hwarps : t.comp.warps = s.comp.warps)
    (hdispatch : ∀ v, t.dispatchOfWarp v = s.dispatchOfWarp v) (w : Nat) (cluster : Bool) :
    t.barWarps w cluster = s.barWarps w cluster := by
  simp only [State.barWarps, hwarps, hdispatch]

/-- A change of an entry that leaves whether it is kept leaves the keys of the entries that are kept. -/
theorem keys_filter_tmap {β : Type} {p : Nat × β → Bool} {f : β → β} {t : Table β} {a : Nat}
    (h : ∀ x, tfind t a = some x → p (a, f x) = p (a, x)) :
    ((tmap f t a).filter p).map Prod.fst = (t.filter p).map Prod.fst := by
  induction t with
  | nil => rfl
  | cons e t ih =>
    obtain ⟨k, v⟩ := e
    by_cases hk : k = a
    · subst hk
      have hp := h v (by simp [tfind])
      simp only [tmap, if_true, List.filter_cons, hp]
      split <;> rfl
    · have ih := ih fun x hx => h x (by simpa [tfind, hk] using hx)
      simp only [tmap, hk, if_false, List.filter_cons]
      split <;> simp [ih]

theorem barWarps_onWarp {s : State} {v : Nat} {f : Warp → Warp}
    (h : ∀ V, s.warp? v = some V → ((f V).phase = .gone ↔ V.phase = .gone)) (w : Nat) (cluster : Bool) :
    (s.onWarp v f).barWarps w cluster = s.barWarps w cluster := by
  have hd (u : Nat) : (s.onWarp v f).dispatchOfWarp u = s.dispatchOfWarp u := rfl
  simp only [State.barWarps, hd]
  exact keys_filter_tmap fun V hV => by simp only [ne_eq, h V hV]

/-! ### The arrival of a warp (R94, R95) -/

/-- A warp that has arrived: its boundary's steps are taken, and it waits for the phase now, or when it returns from its handler. -/
def Warp.joinBar (x : Arriving) (complete : Nat) (W : Warp) : Warp :=
  let W := { W with seq := W.seq + 1, phase := .between }.boundarySteps x.took x.next [] x.signed
  if W.phase ≠ Phase.between then W
  else if W.faults.isEmpty then { W with phase := .barrier x.cluster x.id complete }
  else { W with rejoin := some (x.cluster, x.id, complete) }.enterIfFaulted

/-- A warp has joined the phase of its barrier, which is not judged yet. -/
def State.joined (s : State) (w : Nat) (x : Arriving) : State :=
  let b := s.barPhase w x.cluster x.id
  let t := ((s.markRelease w (s.warp w).seq (if x.cluster then .cls else .grp)).putBar w x.cluster x.id
    { b with count := x.count, arrived := b.arrived ++ [w] }).onWarp w (Warp.joinBar x b.complete)
  t.progress (coreOf w) (t.ctxOfWarp w)

theorem joinBar_phase (x : Arriving) (complete : Nat) (W : Warp) : (W.joinBar x complete).phase ≠ .gone := by
  have hsteps := boundarySteps_phase { W with seq := W.seq + 1, phase := .between } x.took x.next [] x.signed
  unfold Warp.joinBar
  generalize Warp.boundarySteps _ x.took x.next [] x.signed = V at hsteps
  dsimp only
  split
  next => rcases hsteps with h | h <;> simp [h]
  next =>
    split
    · simp
    · unfold Warp.enterIfFaulted
      split <;> simp_all

section

variable {s : State} {w : Nat} {x : Arriving}

theorem tryArrive_eq {W : Warp} (hW : s.warp? w = some W) (hphase : W.phase = .arriving x) :
    s.tryArrive w = if resident w && !s.dying w && s.released w W.seq (if x.cluster then .cls else .grp) then s.arriveAt w x
      else s := by
  have hwarp : s.warp w = W := by
    rw [State.warp, tget_eq, show tfind s.comp.warps w = some W from hW]
    rfl
  simp only [State.tryArrive, hwarp, hphase]

theorem arriveAt_of_mismatch (h : (s.barPhase w x.cluster x.id).arrived ≠ [] ∧ (s.barPhase w x.cluster x.id).count ≠ x.count) :
    s.arriveAt w x = (s.onWarp w fun W =>
      ({ W.addFault W.seq x.clause x.index false { cause := 0x0A, lanes := x.lanes } with
          resume := some (x.clause, x.index), seq := W.seq + 1, phase := .between }.judgeSigns x.signed).settle).afterBoundary w :=
  if_pos h

theorem arriveAt_of_match (h : (s.barPhase w x.cluster x.id).arrived = [] ∨ (s.barPhase w x.cluster x.id).count = x.count) :
    s.arriveAt w x = (s.joined w x).checkBar w x.cluster x.id := by
  refine if_neg fun ⟨hsome, hcount⟩ => ?_
  exact h.elim hsome hcount

theorem markRelease_comp (s : State) (w seq : Nat) (scope : Scope) : (s.markRelease w seq scope).comp = s.comp := by
  unfold State.markRelease
  split <;> rfl

theorem barPhase_joined (hgroup : (s.group? (groupOf w)).isSome = true) :
    (s.joined w x).barPhase w x.cluster x.id =
      { count := x.count, arrived := (s.barPhase w x.cluster x.id).arrived ++ [w],
        complete := (s.barPhase w x.cluster x.id).complete } := by
  refine (barPhase_of_bars (progress_bars ..) ..).trans (barPhase_putBar ?_ x.cluster x.id _)
  simpa only [State.group?, markRelease_comp] using hgroup

theorem group?_joined (hgroup : (s.group? (groupOf w)).isSome = true) : ((s.joined w x).group? (groupOf w)).isSome = true := by
  have hfield : ((s.joined w x).group? (groupOf w)).map (fun _ => ()) = (s.group? (groupOf w)).map fun _ => () := by
    rw [State.joined, State.group?, State.progress, State.onCore_comp_groups]
    refine (group?_putBar (fun _ _ => rfl) ..).trans ?_
    rw [State.group?, markRelease_comp]
    rfl
  simpa [hgroup] using congrArg Option.isSome hfield

theorem barWarps_joined {W : Warp} (hW : s.warp? w = some W) (hphase : W.phase = .arriving x) :
    (s.joined w x).barWarps w x.cluster = s.barWarps w x.cluster := by
  have hprogress (t : State) (core slot : Nat) : (t.progress core slot).barWarps w x.cluster = t.barWarps w x.cluster :=
    barWarps_congr (by simp only [State.progress, State.onCore_comp_warps]) (dispatchOfWarp_of_bars (progress_bars ..)) ..
  have hput (t : State) (b : BarPhase) : (t.putBar w x.cluster x.id b).barWarps w x.cluster = t.barWarps w x.cluster :=
    barWarps_congr (putBar_warps ..) (fun v => dispatchOfWarp_putBar t w x.cluster x.id b v) ..
  have hmark (seq : Nat) (scope : Scope) : (s.markRelease w seq scope).barWarps w x.cluster = s.barWarps w x.cluster :=
    barWarps_congr (by rw [markRelease_comp]) (dispatchOfWarp_of_bars (by rw [State.bars, State.bars, markRelease_comp])) ..
  refine (hprogress ..).trans ((barWarps_onWarp (fun V hV => ?_) ..).trans ((hput ..).trans (hmark ..)))
  rw [State.warp?, putBar_warps, markRelease_comp] at hV
  rw [← Option.some.inj (hW.symm.trans hV), hphase]
  simp [joinBar_phase]

theorem barTarget_joined {W : Warp} (hW : s.warp? w = some W) (hphase : W.phase = .arriving x) (count : Nat) :
    (s.joined w x).barTarget w x.cluster count = s.barTarget w x.cluster count := by
  rw [State.barTarget, State.barTarget, barWarps_joined hW hphase]

theorem barPhase_checkBar_of_reached {b : BarPhase} {cluster : Bool} {id : Nat} (hb : s.barPhase w cluster id = b)
    (hgroup : (s.group? (groupOf w)).isSome = true) (hsome : b.arrived ≠ [])
    (h : s.barTarget w cluster b.count ≤ b.arrived.length) :
    (s.checkBar w cluster id).barPhase w cluster id = { count := 0, arrived := [], complete := b.complete + 1 } := by
  rw [checkBar_of_reached hb hsome h]
  refine (barPhase_of_bars ?_ w cluster id).trans (barPhase_putBar hgroup cluster id _)
  exact foldl_same (view := State.bars) (fun t v => leaveBar_bars t cluster id b.complete v) _ _

end

/-- What the barrier-mismatch fault leaves: the barrier as it was, and the fault at the instruction where the warp resumes. -/
theorem arriveAt_mismatch {s : State} {w : Nat} {x : Arriving} {W : Warp} (hW : s.warp? w = some W) (hdying : s.dying w = false)
    (h : (s.barPhase w x.cluster x.id).arrived ≠ [] ∧ (s.barPhase w x.cluster x.id).count ≠ x.count) :
    (s.arriveAt w x).bars = s.bars ∧
      ∃ V, (s.arriveAt w x).warp? w = some V ∧ V.resume = some (x.clause, x.index) ∧
        ∃ f ∈ V.faults, f.cause = 0x0A ∧ f.clause = x.clause ∧ f.index = x.index ∧ f.lanes = x.lanes := by
  rw [arriveAt_of_mismatch h]
  refine ⟨afterBoundary_bars .., ?_⟩
  have hdying' (f : Warp → Warp) : (s.onWarp w f).dying w = false := hdying
  rw [State.afterBoundary, hdying']
  simp only [Bool.false_eq_true, if_false, State.warp_onWarp, hW, Option.map_some, Option.some.injEq, exists_eq_left']
  obtain ⟨hresume, hfaults⟩ := judged_rest_enter_keeps _ x.signed _
  exact ⟨hresume, _, hfaults (List.mem_append_right _ (List.mem_singleton_self _)), rfl, rfl, rfl, rfl⟩

/-- Settles O42: an arrival writes words of its barrier, whose other bytes stand; a warp joins its barrier's phase, which is then judged
with the target that stood before. -/
theorem barriersCountArrivals : Obligations.BarriersCountArrivals := by
  unfold Obligations.BarriersCountArrivals
  refine ⟨?words, ?credit, ?atomic, ?warps⟩
  case words =>
    intro s core o n hcore _ hplain
    have hplain : s.PlainBarrier core o := hplain
    intro t expect sum
    by_cases hcomplete : expect ≠ 0 ∧ expect ≤ sum
    · obtain ⟨hexpect, hle⟩ := hcomplete
      have hword (i : Nat) (hi : i < 4) : t.barrierWord core o i = if i = 1 then sum - expect
          else if i = 2 then (s.barrierWord core o 2 + 1) % 2 else s.barrierWord core o i :=
        barrierWord_arrive_complete hcore hplain hi hexpect hle
      have hflip : t.barrierWord core o 2 = (s.barrierWord core o 2 + 1) % 2 := hword 2 (by omega)
      refine ⟨hword 0 (by omega), hword 3 (by omega), fun hshort => ?_, fun _ _ => ⟨hword 1 (by omega), hflip, ?_⟩⟩
      · omega
      · rw [State.barrierPhase, State.barrierPhase, hflip]
        omega
    · have hshort : expect = 0 ∨ sum < expect := by omega
      have hword (i : Nat) (hi : i < 4) : t.barrierWord core o i = if i = 1 then sum else s.barrierWord core o i :=
        barrierWord_arrive_short hcore hplain hi hshort
      refine ⟨hword 0 (by omega), hword 3 (by omega), fun _ => ⟨hword 1 (by omega), hword 2 (by omega)⟩, fun hexpect hle => ?_⟩
      exact absurd ⟨hexpect, hle⟩ hcomplete
  case credit =>
    intro limit n
    unfold limitCredit
    split <;> simp_all
  case atomic =>
    intro s core off i ty x b old hread hadd ⟨g, y, harea⟩
    refine ⟨fun hoff => ?_, fun hoff => ?_⟩ <;> simp [State.atomicStore, hread, hadd, harea, hoff]
  case warps =>
    intro s w x W hW hphase scope b target
    refine ⟨fun h => ?_, fun hrel hres hdying => ?_, fun hsome hcount hdying => ?_, fun hmatch hshort hgroup => ?_,
      fun hmatch hreached hgroup => ?_⟩
    · refine (tryArrive_eq hW hphase).trans (if_neg fun hall => ?_)
      simp only [Bool.and_eq_true, Bool.not_eq_true'] at hall
      obtain ⟨⟨hres, hdying⟩, hrel⟩ := hall
      rcases h with h | h | h
      · exact absurd hrel (by rw [h]; decide)
      · exact absurd hres (by rw [h]; decide)
      · exact absurd hdying (by rw [h]; decide)
    · refine (tryArrive_eq hW hphase).trans (if_pos ?_)
      rw [hres, hdying, hrel]
      rfl
    · obtain ⟨hbars, hfault⟩ := arriveAt_mismatch hW hdying ⟨hsome, hcount⟩
      exact ⟨barPhase_of_bars hbars .., hfault⟩
    · rw [arriveAt_of_match hmatch, checkBar_of_short (barPhase_joined hgroup), barPhase_joined hgroup]
      rw [barTarget_joined hW hphase]
      refine .inr ?_
      rw [List.length_append]
      exact hshort
    · have hopen := barPhase_checkBar_of_reached (barPhase_joined hgroup) (group?_joined hgroup) (by simp) (by
        rw [barTarget_joined hW hphase, List.length_append]
        exact hreached)
      rw [arriveAt_of_match hmatch]
      exact hopen

end Sys2Proof.Machine
end

section
/-! ## Floating point and conversion

Proofs of the statements over R107 to R126: arithmetic, comparison, special functions, conversions and packing. A number that a format
holds exactly rounds to the code that reads as it, which brings the integers and powers of two to the exact branches of fex2 and
flg2. -/

namespace Sys2Proof.Machine

/-! ### Immediates of floating-point instructions (R66, R112) -/

/-- Only an unassigned opcode decodes to the instruction for unassigned opcodes. -/
theorem opAssigned_of_decodeInstr {w : Nat} {i : Instr} (h : decodeInstr w = .ok i)
    (hi : ∀ op, i ≠ .unassignedOpcode op) : opAssigned (fld w 0 8) = true := by
  by_contra ha
  rw [decodeInstr, if_neg ha] at h
  exact hi _ (Except.ok.inj h).symm

/-- A word that decodes to an instruction of the form F-I has its opcode and immediate. -/
theorem fields_of_decode_fi {w op d a ty : Nat} {g : Guard} {imm : Word} {i : Instr} (h : decodeInstr w = .ok i)
    (hi : ∀ op, i ≠ .unassignedOpcode op) (he : encode i = [fiWord op d a g ty imm.toNat])
    (ho : op < 256) (hd : d < 256) (ha : a < 256) (ht : ty < 16) :
    i.wf = true ∧ fld w 0 8 = op ∧ fld w 32 32 = imm.toNat := by
  obtain ⟨hwf, hw⟩ := encode_of_decodeInstr h (opAssigned_of_decodeInstr h hi)
  obtain rfl := List.head_eq_of_cons_eq (he.symm.trans hw)
  obtain ⟨hop, _, _, _, _, himm⟩ := fiWord_fields (g := g) ho hd ha ht imm.isLt
  exact ⟨hwf, hop, himm⟩

theorem fields_of_decode_faddi {w : Nat} {x : R1} {imm : Word} (h : decodeInstr w = .ok (.faddi x imm)) :
    fld w 0 8 = 0x76 ∧ fld w 32 32 = imm.toNat ∧ (x.ty = .f32 ∨ x.ty = .f64) := by
  obtain ⟨hwf, hop, himm⟩ := fields_of_decode_fi h (by simp) rfl (by decide) x.d.code_lt x.a.code_lt x.ty.code_lt
  exact ⟨hop, himm, by simpa [Instr.wf] using hwf⟩

theorem fields_of_decode_fmuli {w : Nat} {x : R1} {imm : Word} (h : decodeInstr w = .ok (.fmuli x imm)) :
    fld w 0 8 = 0x77 ∧ fld w 32 32 = imm.toNat ∧ (x.ty = .f32 ∨ x.ty = .f64) := by
  obtain ⟨hwf, hop, himm⟩ := fields_of_decode_fi h (by simp) rfl (by decide) x.d.code_lt x.a.code_lt x.ty.code_lt
  exact ⟨hop, himm, by simpa [Instr.wf] using hwf⟩

/-! ### Arithmetic, comparison and class (R111 to R117) -/

/-- Settles O15: each instruction is the ALU operation with the model's own sum, product or fused product. -/
theorem floatArithmetic : Obligations.FloatArithmetic := by
  unfold Obligations.FloatArithmetic
  exact ⟨fun x m => yields_of_alu fun _ => rfl, fun x m => yields_of_alu fun _ => rfl, fun x m => yields_of_alu fun _ => rfl,
    fun x m => yields_of_alu fun _ => rfl, fun x m => yields_of_alu fun _ => rfl, fun x m => yields_of_alu fun _ => rfl,
    fun x m => yields_of_alu fun _ => rfl, fun x m => yields_of_alu fun _ => rfl, fun x m => yields_of_alu fun _ => rfl,
    fun x imm => yields_of_alu fun _ => rfl, fun x imm => yields_of_alu fun _ => rfl,
    fun w x imm => ⟨fields_of_decode_faddi, fields_of_decode_fmuli⟩⟩

/-- Settles O16: each instruction is the ALU operation with the model's own function; fabs and the classes write no flag. -/
theorem floatCompareAndSelect : Obligations.FloatCompareAndSelect := by
  unfold Obligations.FloatCompareAndSelect
  exact ⟨fun x r nan => yields_of_alu fun _ => rfl, fun x r nan => yields_of_alu fun _ => rfl,
    fun x r nan => yields_of_alu fun _ => rfl, fun x r nan => yields_of_alu fun _ => rfl,
    fun x r nan => yields_of_alu fun _ => rfl, fun x r nan => yields_of_alu fun _ => rfl,
    fun x r cc => yields_of_alu fun _ => rfl, fun g pd cc a b r => yields_of_alu fun _ => rfl,
    fun g pd cc a b r => yields_of_alu fun _ => rfl, fun x r neg => yields_of_alu fun _ => rfl,
    fun x r e => yields_of_alu fun _ => rfl, fun x r => yields_of_alu fun _ => rfl⟩

/-! ### Conversions (R121, R122) -/

/-- A conversion yields the converted element, in d or merged into a narrow element of d. -/
theorem yields_of_convert {i : Instr} {x : R1} {m : CvMod} {f : Nat → Nat × Flags} (h : ∀ s, exec i s = convert x m f s) :
    Yields i x.g (uses1 x x.ty.wide m.sty.wide ++ if decide (x.ty.bits < 32) then [rd x.d] else []) fun z =>
      let r (l : Nat) := f (elem m.sty.bits m.sidx.val (z.W.srcN z.w m.sty.wide x.a l))
      let n := x.ty.bits
      z.raise (z.W.dstN x.ty.wide x.d z.act fun l =>
        if n < 32 then
          let d := (z.W.src z.w x.d l).toNat
          d - elem n m.didx.val d * 2 ^ (n * m.didx.val) + (r l).1 % 2 ^ n * 2 ^ (n * m.didx.val)
        else (r l).1) fun l => (r l).2 :=
  yields_of_eq (yields_of_alu h) fun _ _ _ _ => by simp only [decide_eq_true_eq]; rfl

/-- Settles O18: the four conversions are one operation with four functions, and each packing is the model's own. -/
theorem conversionsAndPacking : Obligations.ConversionsAndPacking := by
  unfold Obligations.ConversionsAndPacking
  exact ⟨fun x m => yields_of_convert (f := fun e => roundFl (fmtOf x.ty) m.rnd m.sat (valueOf m.sty e)) fun _ => rfl,
    fun x m => yields_of_convert (f := fun e => toInt x.ty m.rnd (valueOf m.sty e)) fun _ => rfl,
    fun x m => yields_of_convert (f := fun e => roundFl (fmtOf x.ty) m.rnd m.sat (valueOf m.sty e)) fun _ => rfl,
    fun x m => yields_of_convert (f := fun e => (x.ty.deliver m.sat (m.sty.int e), {})) fun _ => rfl,
    fun x rnd sat => yields_of_alu fun _ => rfl, fun x rnd q => yields_of_alu fun _ => rfl,
    fun x r inv => yields_of_alu fun _ => rfl⟩

/-! ### Square roots (R118, R120) -/

theorem sqrtFl_inf (f : Fmt) (r : Rnd) (n : Bool) :
    sqrtFl f r (.inf n) = if n then (f.nan, { nv := true }) else (f.infCode, {}) := by cases n <;> rfl

theorem sqrtFl_negative (f : Fmt) (r : Rnd) {m : Nat} (hm : m ≠ 0) (e : Int) :
    sqrtFl f r (.num true m e) = (f.nan, { nv := true }) := if_neg hm

/-! ### The codes of f32 -/

theorem f32_nan : f32Fmt.nan = 0x7FC00000 := rfl

theorem f32_invalid : invalid f32Fmt = (0x7FC00000, { nv := true }) := rfl

theorem f32_infCode : f32Fmt.infCode = 0x7F800000 := rfl

theorem f32_signed (neg : Bool) (c : Nat) : f32Fmt.signed neg c = c + b2n neg * 2 ^ 31 := rfl

/-! ### Special inputs of the approximated functions (R120) -/

section
variable {a : Nat}

/-- R120's rows, by the value of the input, for the six functions of R119. -/
theorem approximated_nan {s : Bool} (h : Fl.decode f32Fmt a = .nan s) :
    ∀ f ∈ [frsqOf, fex2Of, flg2Of, fsinOf, fcosOf, ftanhOf], f a = (0x7FC00000, { nv := s }) := by
  simp only [List.forall_mem_cons, frsqOf, fex2Of, flg2Of, fsinOf, fcosOf, ftanhOf, h, f32_nan]
  simp

theorem approximated_positive_inf (h : Fl.decode f32Fmt a = .inf false) :
    frsqOf a = (0, {}) ∧ fex2Of a = (0x7F800000, {}) ∧ flg2Of a = (0x7F800000, {}) ∧ fsinOf a = (0x7FC00000, { nv := true }) ∧
      fcosOf a = (0x7FC00000, { nv := true }) ∧ ftanhOf a = (0x3F800000, {}) := by
  simp [frsqOf, fex2Of, flg2Of, fsinOf, fcosOf, ftanhOf, h, f32_invalid, f32_infCode, f32_signed, b2n]

theorem approximated_negative_inf (h : Fl.decode f32Fmt a = .inf true) :
    frsqOf a = (0x7FC00000, { nv := true }) ∧ fex2Of a = (0, {}) ∧ flg2Of a = (0x7FC00000, { nv := true }) ∧
      fsinOf a = (0x7FC00000, { nv := true }) ∧ fcosOf a = (0x7FC00000, { nv := true }) ∧ ftanhOf a = (0xBF800000, {}) := by
  simp [frsqOf, fex2Of, flg2Of, fsinOf, fcosOf, ftanhOf, h, f32_invalid, f32_signed, b2n]

theorem approximated_zero {n : Bool} {e : Int} (h : Fl.decode f32Fmt a = .num n 0 e) :
    frsqOf a = (if n then 0xFF800000 else 0x7F800000, { dz := true }) ∧ fex2Of a = (0x3F800000, {}) ∧
      flg2Of a = (0xFF800000, { dz := true }) ∧ fsinOf a = (a, {}) ∧ fcosOf a = (0x3F800000, {}) ∧ ftanhOf a = (a, {}) := by
  cases n <;> simp [frsqOf, fex2Of, flg2Of, fsinOf, fcosOf, ftanhOf, h, f32_infCode, f32_signed, b2n]

theorem approximated_negative {m : Nat} {e : Int} (h : Fl.decode f32Fmt a = .num true m e) (hm : m ≠ 0) :
    frsqOf a = (0x7FC00000, { nv := true }) ∧ flg2Of a = (0x7FC00000, { nv := true }) := by
  simp only [frsqOf, flg2Of, h, hm, if_true, if_false]
  exact ⟨rfl, rfl⟩

/-! ### Finite inputs of the approximated functions (R119) -/

theorem fsinOf_ftanhOf_tiny {n : Bool} {m : Nat} {e : Int} (h : Fl.decode f32Fmt a = .num n m e)
    (ht : (Nat.log2 m : Int) + e < -12) : fsinOf a = (a, {}) ∧ ftanhOf a = (a, {}) := by
  have htiny : tinyArg m e = true := decide_eq_true ht
  simp only [fsinOf, ftanhOf, h, htiny, or_true, if_true, and_self]

section
variable {n : Bool} {m : Nat} {e : Int} (h : Fl.decode f32Fmt a = .num n m e) (hm : m ≠ 0)
include h hm

theorem flags_frsqOf_positive (hn : n = false) : (frsqOf a).2 = { nx := true } := by
  simp only [frsqOf, h, hm, hn, if_false, Bool.false_eq_true, inexactOnly]

theorem flags_fcosOf : (fcosOf a).2 = { nx := true } := by
  simp only [fcosOf, h, hm, if_false, inexactOnly]

theorem flags_fsinOf (ht : -12 ≤ (Nat.log2 m : Int) + e) : (fsinOf a).2 = { nx := true } := by
  have htiny : tinyArg m e = false := decide_eq_false ht.not_gt
  simp only [fsinOf, h, hm, htiny, Bool.false_eq_true, or_false, if_false, inexactOnly]

end

/-! ### Numbers that a format holds exactly -/

/-- A finite code's value is its magnitude in whole units of the format's least subnormal. -/
theorem Fmt.finiteValue_exact (f : Fmt) (neg : Bool) (c : Nat) :
    ∃ n y, f.finiteValue neg c = .num neg n y ∧ f.minExp ≤ y ∧ n * 2 ^ (y - f.minExp).toNat = f.units c := by
  obtain ⟨n, y, hval, hunits⟩ := f.finiteValue_units neg c
  refine ⟨n, y, hval, ?_, hunits⟩
  unfold Fmt.finiteValue at hval
  split at hval
  next => exact (Fl.num.inj hval).2.2.le
  next h =>
    have hexp : 0 < c / 2 ^ f.manBits := Nat.pos_of_ne_zero h
    obtain ⟨-, -, rfl⟩ := Fl.num.inj hval
    generalize c / 2 ^ f.manBits = x at hexp
    omega

/-- A number of a format's precision and range rounds to its own code. -/
theorem roundNum_exact {f : Fmt} (hf : f.Standard) {rnd : Rnd} {sat neg : Bool} {m : Nat} {e : Int}
    (hm : m < 2 ^ (f.manBits + 1)) (he : f.minExp ≤ e) (hmax : m * 2 ^ (e - f.minExp).toNat ≤ f.units f.maxCode) :
    ∃ n y, Fl.decode f (roundNum f rnd sat neg m e).1 = .num neg n y ∧ f.minExp ≤ y ∧
      n * 2 ^ (y - f.minExp).toNat = m * 2 ^ (e - f.minExp).toNat := by
  by_cases hzero : m = 0
  · obtain ⟨n, y, hval, hy, hunits⟩ := f.finiteValue_exact neg 0
    refine ⟨n, y, ?_, hy, ?_⟩
    · rw [hzero, roundNum, if_pos rfl, ← hval]
      exact Fl.decode_signed hf (Nat.zero_le _)
    · rw [hunits, hzero, Nat.zero_mul, Fmt.units, Nat.zero_div, if_pos rfl, Nat.zero_mod]
  have hlog : Nat.log2 m < f.manBits + 1 := (Nat.log2_lt hzero).2 hm
  have hlast : f.lastExp m e ≤ e := max_le (by unfold Fmt.freeExp; omega) he
  have hmin : f.minExp ≤ f.lastExp m e := le_max_right ..
  have hcode : f.units (f.codeOf rnd neg m e) = m * 2 ^ (e - f.minExp).toNat := by
    rw [f.units_codeOf rnd neg hzero, roundAt_of_le hlast, Nat.mul_assoc, ← Nat.pow_add]
    congr 2
    omega
  have hle : f.codeOf rnd neg m e ≤ f.maxCode := f.units_strictMono.le_iff_le.1 (hcode ▸ hmax)
  obtain ⟨n, y, hval, hy, hunits⟩ := f.finiteValue_exact neg (f.codeOf rnd neg m e)
  exact ⟨n, y, by rw [roundNum_finite hzero hle, Fl.decode_signed hf hle, hval], hy, hunits.trans hcode⟩

theorem f32_standard : f32Fmt.Standard := Fmt.standard_of_mem (by decide)

/-- A number of f32 in fixed point, from its magnitude in units of the least subnormal. -/
theorem atExp_fixed (neg : Bool) (m : Nat) {e : Int} (he : -149 ≤ e) :
    atExp neg m (e + 160) 0 = (if neg then -1 else 1) * (m * 2 ^ (e + 149).toNat : Nat) * 2 ^ 11 := by
  have hsplit : (e + 160 - 0).toNat = (e + 149).toNat + 11 := by omega
  rw [atExp, hsplit, pow_add]
  push_cast
  cases neg <;> simp <;> ring

/-- fex2 of an integer in the range of R119 takes its exact branch. -/
theorem fex2Of_integer {a m : Nat} {e n : Int} (hlo : -149 ≤ n) (hhi : n ≤ 127)
    (h : Fl.decode f32Fmt a = .num (decide (n < 0)) m e) (he : -149 ≤ e) (hv : m * 2 ^ (e + 149).toNat = n.natAbs * 2 ^ 149) :
    fex2Of a = ((roundNum f32Fmt .rn false false 1 n).1, {}) := by
  by_cases hm : m = 0
  · have hn : n = 0 := by
      rw [hm, Nat.zero_mul] at hv
      omega
    rw [hm] at h
    rw [(approximated_zero h).2.1, hn]
    decide
  have hy : atExp (decide (n < 0)) m (e + 160) 0 = n * fixOne := by
    rw [atExp_fixed _ m he, hv]
    have hsign : (if decide (n < 0) then -1 else 1) * (n.natAbs : Int) = n := by
      by_cases hn : n < 0 <;> simp only [hn, decide_true, decide_false, if_true, Bool.false_eq_true, if_false] <;> omega
    rw [Nat.cast_mul, ← mul_assoc, hsign, mul_assoc]
    rfl
  have hfix : (0 : Int) < fixOne := by decide
  have hover : ¬128 * fixOne ≤ n * fixOne := by rw [mul_le_mul_iff_left₀ hfix]; omega
  have hint : n * fixOne % fixOne = 0 ∧ -149 * fixOne ≤ n * fixOne :=
    ⟨Int.mul_emod_left n fixOne, mul_le_mul_of_nonneg_right hlo hfix.le⟩
  simp only [fex2Of, h, hm, if_false, hy]
  rw [if_neg hover, if_pos hint, Int.mul_ediv_cancel _ hfix.ne']

/-- flg2 of a power of two takes its exact branch. -/
theorem flg2Of_power {a m : Nat} {e n : Int} (hlo : -149 ≤ n)
    (h : Fl.decode f32Fmt a = .num false m e) (he : -149 ≤ e) (hv : m * 2 ^ (e + 149).toNat = 2 ^ (n + 149).toNat) :
    flg2Of a = ((roundNum f32Fmt .rn false (decide (n < 0)) n.natAbs 0).1, {}) := by
  obtain ⟨k, -, rfl⟩ := (Nat.dvd_prime_pow Nat.prime_two).1 (Dvd.intro _ hv)
  rw [← Nat.pow_add] at hv
  have hk := Nat.pow_right_injective le_rfl hv
  have hexp : (k : Int) + e = n := by omega
  have hm : 2 ^ k ≠ 0 := (Nat.two_pow_pos k).ne'
  simp only [flg2Of, h, hm, Nat.log2_two_pow, hexp, if_true, if_false, Bool.false_eq_true]

/-- The codes of an integer and of its power of two hold them exactly, so that both functions are exact there. -/
theorem fex2Of_flg2Of_exact {n : Int} (hlo : -149 ≤ n) (hhi : n ≤ 127) :
    fex2Of (roundNum f32Fmt .rn false (decide (n < 0)) n.natAbs 0).1 = ((roundNum f32Fmt .rn false false 1 n).1, {}) ∧
    flg2Of (roundNum f32Fmt .rn false false 1 n).1 = ((roundNum f32Fmt .rn false (decide (n < 0)) n.natAbs 0).1, {}) := by
  have hmin : f32Fmt.minExp = -149 := rfl
  have hcode : 149 * 2 ^ 149 ≤ f32Fmt.units f32Fmt.maxCode := by decide
  have hpower : 2 ^ (n + 149).toNat ≤ f32Fmt.units f32Fmt.maxCode := calc
    2 ^ (n + 149).toNat ≤ 2 ^ (23 + 253) := Nat.pow_le_pow_right two_pos (by omega)
    _ = 2 ^ 23 * 2 ^ 253 := Nat.pow_add ..
    _ ≤ f32Fmt.units f32Fmt.maxCode := by decide
  constructor
  · obtain ⟨m, y, hdec, hy, hv⟩ := roundNum_exact f32_standard (rnd := .rn) (sat := false) (neg := decide (n < 0))
      (m := n.natAbs) (e := 0) (show _ < 2 ^ 24 by omega) (by decide) ((Nat.mul_le_mul_right _ (by omega)).trans hcode)
    rw [hmin] at hy hv
    exact fex2Of_integer hlo hhi hdec hy (by simpa using hv)
  · obtain ⟨m, y, hdec, hy, hv⟩ := roundNum_exact f32_standard (rnd := .rn) (sat := false) (neg := false)
      (m := 1) (e := n) (by decide) hlo ((Nat.one_mul _).trans_le hpower)
    rw [hmin] at hy hv
    exact flg2Of_power hlo hdec hy (by simpa using hv)

/-! ### ftanh from 9.5 on (R119) -/

/-- 9.5 is 19 × 2^148 units of the least subnormal. -/
theorem ftanhOf_saturated {neg : Bool} {m : Nat} {e : Int} (h : Fl.decode f32Fmt a = .num neg m e) (he : -149 ≤ e)
    (hv : 19 * 2 ^ 148 ≤ m * 2 ^ (e + 149).toNat) : ftanhOf a = (f32Fmt.signed neg 0x3F800000, {}) := by
  have hm : m ≠ 0 := by rintro rfl; omega
  have hlog : m * 2 ^ (e + 149).toNat < 2 ^ (Nat.log2 m + 1 + (e + 149).toNat) := by
    rw [Nat.pow_add]
    exact Nat.mul_lt_mul_of_pos_right Nat.lt_log2_self (Nat.two_pow_pos _)
  have hbig : 148 < Nat.log2 m + 1 + (e + 149).toNat := (Nat.pow_lt_pow_iff_right (by decide : 1 < 2)).1 (by omega)
  have htiny : tinyArg m e = false := decide_eq_false (by omega)
  have hx : 19 * fixOne ≤ 2 * atExp false m (e + 160) 0 := by
    rw [atExp_fixed _ m he]
    simp only [Bool.false_eq_true, if_false, fixOne]
    omega
  simp only [ftanhOf, h, hm, htiny, Bool.false_eq_true, or_self, if_false, hx, if_true]

theorem ftanhOf_inf {neg : Bool} (h : Fl.decode f32Fmt a = .inf neg) : ftanhOf a = (f32Fmt.signed neg 0x3F800000, {}) := by
  simp only [ftanhOf, h]

/-- From 9.5 on, up to infinity, ftanh is one with the sign of its input. -/
theorem ftanhOf_signed (neg : Bool) {c : Nat} (hlo : 0x41180000 ≤ c) (hhi : c ≤ 0x7F800000) :
    ftanhOf (f32Fmt.signed neg c) = (f32Fmt.signed neg 0x3F800000, {}) := by
  rcases hhi.eq_or_lt with rfl | hfinite
  · exact ftanhOf_inf (by cases neg <;> decide)
  · obtain ⟨m, y, hval, hy, hunits⟩ := f32Fmt.finiteValue_exact neg c
    have hbound : 19 * 2 ^ 148 ≤ f32Fmt.units c := calc
      19 * 2 ^ 148 = f32Fmt.units 0x41180000 := by decide
      _ ≤ f32Fmt.units c := f32Fmt.units_strictMono.monotone hlo
    rw [← hunits] at hbound
    exact ftanhOf_saturated ((Fl.decode_signed f32_standard (Nat.le_of_lt_succ hfinite)).trans hval) hy hbound

/-- A word is a code below the sign with the sign of its highest bit. -/
theorem exists_eq_signed (ha : a < 2 ^ 32) : ∃ neg, ∀ c, f32Fmt.signed neg c = a / 2 ^ 31 * 2 ^ 31 + c := by
  refine ⟨decide (a / 2 ^ 31 = 1), fun c => ?_⟩
  have hbit : b2n (decide (a / 2 ^ 31 = 1)) = a / 2 ^ 31 := by
    simp only [b2n, decide_eq_true_eq]
    split <;> omega
  rw [Fmt.signed, hbit]
  exact Nat.add_comm ..

theorem ftanhOf_from_nine_and_a_half (ha : a < 2 ^ 32) (hlo : 0x41180000 ≤ a % 2 ^ 31) (hhi : a % 2 ^ 31 ≤ 0x7F800000) :
    ftanhOf a = (a / 2 ^ 31 * 2 ^ 31 + 0x3F800000, {}) := by
  obtain ⟨neg, hsigned⟩ := exists_eq_signed ha
  have h := ftanhOf_signed neg hlo hhi
  rwa [hsigned, hsigned, Nat.div_add_mod'] at h

end

/-- Settles O17: R120's rows are the functions' own branches, and integers, powers of two and magnitudes from 9.5 on lead to the
exact ones. -/
theorem specialFunctions : Obligations.SpecialFunctions := by
  unfold Obligations.SpecialFunctions
  refine ⟨fun x r => yields_of_alu fun _ => rfl, fun x r => yields_of_alu fun _ => rfl, fun x r => yields_of_alu fun _ => rfl,
    fun x r => yields_of_alu fun _ => rfl, fun x r => yields_of_alu fun _ => rfl, fun x r => yields_of_alu fun _ => rfl,
    fun x r => yields_of_alu fun _ => rfl, fun x r => yields_of_alu fun _ => rfl, fun x r => yields_of_alu fun _ => rfl,
    fun x r => yields_of_alu fun _ => rfl, ?rounded, fun a s => approximated_nan, fun a => approximated_positive_inf,
    fun a => approximated_negative_inf, fun a n e => approximated_zero, fun a m e => approximated_negative, ?finite,
    fun n => fex2Of_flg2Of_exact, fun a => ftanhOf_from_nine_and_a_half⟩
  case rounded =>
    intro f r n e _
    exact ⟨fun s => ⟨rfl, rfl⟩, rfl, rfl, sqrtFl_inf f r n, rfl, fun m hm => sqrtFl_negative f r hm e⟩
  case finite =>
    intro a n m e h hm
    exact ⟨flags_frsqOf_positive h hm, flags_fcosOf h hm, fsinOf_ftanhOf_tiny h, flags_fsinOf h hm⟩

end Sys2Proof.Machine
end

section
/-! ## Memory instructions: window loads, atomics, locks and fences

Proofs of the statements over spec/06_isa_memory_sync.md: what ldw, setempty, locks and fences leave as they issue (R138, R139, R141,
R149, R150, R152), how atomics, reductions, locks and fences are performed (R143 to R151, R181), and why a queued matrix operation need
not leave what the operations behind it have read (R154). -/

namespace Sys2Proof.Machine

/-! ### Entering warp order (R139, R141, R149, R150, R152) -/

section
variable {m : MForm} {s : State} {q : Nat} {c : Clause} {W : Warp} {g : Group}

/-- The elements of window loads and of setempty, which lie in the own core's store alone (R128). -/
def windowShape (n : Nat) : Shape := { size := n, align := n, global := false, cluster := false }

theorem exec_ldw_of_passes {clr : Bool} (h : Issues (memNeeds m.g [wr m.d (m.ty.bytes = 8), rd m.a true]) s q c W g)
    (hfault : s.accessFault (sees q c W g m.g) m (windowShape m.ty.bytes) = none) (hloads : W.counter 0 < 63)
    (hcopies : W.counter 2 +
      (absentWindows g ((sees q c W g m.g).accesses m (windowShape m.ty.bytes) (fun _ => []) fun _ => 0)).length ≤ 63) :
    let acc := (sees q c W g m.g).accesses m (windowShape m.ty.bytes) (fun _ => []) fun _ => 0
    let o := (sees q c W g m.g).memOp m { cls := 0, kind := .windowLoad clr, shape := windowShape m.ty.bytes } none acc
    exec (.ldw m clr) s = .next (((absentWindows g acc).foldl (fun s (id, w) => s.startCopy c.warp o id w)
      ((s.pushOp c.warp o).onCore (coreOf c.warp) fun x => { x with ldws := x.ldws ++ [(c.warp, W.seq)] })).advance q) := by
  intro acc o
  have hroom : ¬((sees q c W g m.g).W.saturated 0 || decide (63 < W.counter 2 + (absentWindows g acc).length)) = true := by
    rw [show (sees q c W g m.g).W.saturated 0 = false from not_saturated hloads, decide_eq_false (Nat.not_lt.2 hcopies)]
    exact Bool.false_ne_true
  simp only [exec, execLdw]
  refine issue_of_done h ?_
  simp only [windowShape] at hfault
  simp only [hfault]
  exact if_neg hroom

theorem exec_setempty_of_passes (h : Issues (memNeeds m.g [rd m.a true]) s q c W g)
    (hfault : s.accessFault (sees q c W g m.g) m (windowShape 16) = none) :
    let z := sees q c W g m.g
    let t := s.pushOp c.warp { z.op none .setempty with acc := z.accesses m (windowShape 16) (fun _ => []) fun _ => 0 }
    exec (.setempty m) s = .next ((t.drainEmpty c.warp (t.warp c.warp).ops.length).advance q) := by
  rw [show exec (.setempty m) s = execSetempty m s from rfl]
  unfold execSetempty
  refine issue_of_done h ?_
  simp only [windowShape] at hfault
  simp only [hfault]
  rfl

/-- A lock or unlock that its checks and its counter let pass enters warp order for the word of its lowest active lane. -/
theorem lockOp_of_passes {kind : OpKind} (h : Issues (memNeeds m.g [rd m.a true]) s q c W g)
    (hfault : s.accessFault (sees q c W g m.g) m lockShape = none) (hcounter : W.counter 5 < 63) :
    lockOp kind m s = .next ((s.pushOp c.warp ((sees q c W g m.g).memOp m { cls := 5, kind := kind, shape := lockShape } none
      (((sees q c W g m.g).accesses m lockShape (fun _ => []) fun _ => 0).take 1))).advance q) := by
  refine issue_of_done h ?_
  have hsat : (sees q c W g m.g).W.saturated 5 = false := not_saturated hcounter
  simp only [hfault, hsat]
  rfl

theorem exec_fence_of_passes (h : Issues (memNeeds m.g []) s q c W g) (hcounter : 4 ≤ m.scope.level → W.counter 5 < 63) :
    let t := s.pushOp c.warp { (sees q c W g m.g).op (if 4 ≤ m.scope.level then some 5 else none) .fence with
      order := m.order, scope := m.scope }
    exec (.fence m) s = .next ((t.narrowFences c.warp (t.warp c.warp).ops.length).advance q) := by
  have hroom : ¬(decide (4 ≤ m.scope.level) && (sees q c W g m.g).W.saturated 5) = true := by
    rw [Bool.and_eq_true, decide_eq_true_eq]
    rintro ⟨hwide, hfull⟩
    exact absurd ((not_saturated (hcounter hwide)).symm.trans hfull) Bool.false_ne_true
  simp only [exec, execFence]
  refine issue_of_done h ((if_neg hroom).trans ?_)
  simp only [decide_eq_true_eq]
  rfl

end

/-- Settles O25: each instruction goes through `issue` with nothing that faults or stalls it. -/
theorem windowLockAndFenceInstructionsIssue : Obligations.WindowLockAndFenceInstructionsIssue := by
  unfold Obligations.WindowLockAndFenceInstructionsIssue
  refine ⟨fun m clr s q c W g h hfault hloads hcopies => exec_ldw_of_passes h hfault hloads hcopies,
    fun m s q c W g h hfault => exec_setempty_of_passes h hfault,
    fun m s q c W g h hfault hcounter => ⟨lockOp_of_passes h hfault hcounter, lockOp_of_passes h hfault hcounter⟩,
    fun m s q c W g h hcounter => exec_fence_of_passes h hcounter⟩

/-! ### Atomics and reductions (R143 to R148) -/

section
variable {s : State} {w seq : Nat} {o : Op} {a : Access} {i : Instr}

/-- The next lane of an atomic is performed; the last lane of one that acquires acquires with it. -/
theorem exec_atomicPerform_of_atomic (hop : (s.warp w).op? seq = some o) (hnext : o.acc.find? (fun a => !a.done) = some a)
    (hmay : s.mayPerform w o a = true) (hkind : o.kind = .atomic i) :
    exec (.atomicPerform w seq) s = .next ((if (o.order = .acq ∨ o.order = .ar) ∧ (o.acc.filter fun b => !b.done).length = 1 then
      (s.performAtomic w o i true a).acquire w o.scope else s.performAtomic w o i true a).wake w) := by
  simp only [exec, execAtomicPerform, hop, hnext, hmay, hkind, Bool.not_true, Bool.false_eq_true, if_false]
  cases o.order <;> simp

theorem exec_atomicPerform_of_reduce (hop : (s.warp w).op? seq = some o) (hnext : o.acc.find? (fun a => !a.done) = some a)
    (hmay : s.mayPerform w o a = true) (hkind : o.kind = .reduce i) :
    exec (.atomicPerform w seq) s = .next (((s.performAtomic w o i false a).retire w seq).wake w) := by
  simp only [exec, execAtomicPerform, hop, hnext, hmay, hkind, Bool.not_true, Bool.false_eq_true, if_false]

/-- A reduction of global memory enters the path to its home. -/
theorem performAtomic_of_global {va : Nat} {t : State} {p : Phys} (hloc : a.loc = .global va)
    (ht : (s.releaseOf w o).coreTranslate (coreOf w) ((s.releaseOf w o).ctxOfWarp w) va .write = (t, .ok p)) :
    let u := t.dropLine (coreOf w) p.pa
    s.performAtomic w o i false a = (u.addToPath (pathKey (siteOf (coreOf w)) p.pa)
      { u.pathWrite w o va [] (some { instr := i, ty := o.ty, pa := p.pa, size := a.size, operand := ofBytes a.data, cmp := a.cmp })
        with lanes := oneLane a.lane }).markDone w o.seq fun b => b.lane = a.lane := by
  simp only [State.performAtomic, hloc, ht, Bool.false_eq_true, if_false]

/-- Once every lane of an atomic is performed, its old values enter the pending writes and its count completes. -/
theorem exec_atomicReturn_of_performed (hop : (s.warp w).op? seq = some o) (hkind : o.kind = .atomic i)
    (hlanded : o.landed = false) (hdone : o.done = false) (hall : ∀ a ∈ o.acc, a.done = true) :
    exec (.atomicReturn w seq) s = .next ((s.finish w fun W => (W.deliver o.writes).onOp seq fun x =>
      { x with landed := true, done := decide (W.phase ≠ .issuing) }).wake w) := by
  simp only [exec, execAtomicReturn, hop, hkind, hlanded, hdone, List.all_eq_true.2 hall, Bool.not_false, Bool.and_self, if_true]

end

/-! ### Locks (R149 to R151) -/

/-- A request enters among others in the order of their warps. -/
theorem insertRequest_eq (e : Nat × Nat) (l : List (Nat × Nat)) :
    insertRequest e l = l.orderedInsert (fun a b => a.1 ≤ b.1) e := by
  induction l with
  | nil => rfl
  | cons f t ih =>
    simp only [insertRequest, List.orderedInsert_cons, ih]
    by_cases h : f.1 < e.1
    · rw [if_pos h, if_neg (Nat.not_le.2 h)]
    · rw [if_neg h, if_pos (Nat.not_lt.1 h)]

theorem foldr_insertRequest_eq (l : List (Nat × Nat)) :
    l.foldr insertRequest [] = l.insertionSort fun a b => a.1 ≤ b.1 := by
  rw [List.insertionSort, funext fun e => funext (insertRequest_eq e)]

theorem pairwise_foldr_insertRequest (l : List (Nat × Nat)) :
    (l.foldr insertRequest []).Pairwise fun a b => a.1 ≤ b.1 := by
  have : Std.Total fun a b : Nat × Nat => a.1 ≤ b.1 := ⟨fun a b => Nat.le_total a.1 b.1⟩
  have : IsTrans (Nat × Nat) fun a b => a.1 ≤ b.1 := ⟨fun _ _ _ => Nat.le_trans⟩
  rw [foldr_insertRequest_eq]
  exact List.pairwise_insertionSort _ l

/-- A warp's request for a lock is open, and queued at no lock (R149). -/
structure State.Requests (s : State) (w seq : Nat) (o : Op) : Prop where
  found  : (s.warp w).op? seq = some o
  lock   : o.kind = .lock
  opened : o.done = false
  queued : ∀ e ∈ s.eng.locks, (w, seq) ∉ e.2.queue

section
variable {s t u : State} {w seq pa : Nat} {o : Op} {l : Lock}

/-- A request stays as it is while older operations of its warp or the routes to its word hold it. -/
theorem lockArrive_of_held (h : s.Requests w seq o) (hheld : (s.warp w).heldBack seq = true ∨ s.lockWaits w o = true) :
    s.lockArrive w seq = s := by
  simp only [State.lockArrive, h.found]
  exact if_pos (.inr (.inr (by tauto)))

/-- What a request comes to that nothing holds turns on the holder that its word names. -/
theorem lockArrive_of_reaches (h : s.Requests w seq o) (hback : (s.warp w).heldBack seq = false)
    (hpass : s.lockWaits w o = false) (hword : s.lockWord w o = (t, .ok pa)) (hreach : t.reachLock w pa = u)
    (hlock : u.lockAt w pa = l) : s.lockArrive w seq =
    match l.holder with
    | none => (((u.writeLock pa { l with holder := some (w, seq), owner := u.dispatchOfWarp w }).acquire w o.scope).finishOp w
        seq).wake w
    | some (v, n) =>
      if v = w ∧ sameRun n seq = true then
        ((u.deferOp w o { cause := 0x21, sub := 2, lanes := o.lanes }).finishOp w seq).wake w
      else u.writeLock pa { l with queue := l.queue ++ [(w, seq)] } := by
  subst hreach hlock
  have hqueued : s.eng.locks.any (fun (_, l) => l.queue.contains (w, seq)) = false := by
    simpa using fun a b hab => h.queued (a, b) hab
  simp only [State.lockArrive, h.found, h.lock, h.opened, hback, hpass, hqueued, hword]
  rfl

/-- A lock is held by a warp for a request of its present run. -/
def Lock.heldBy (l : Lock) (w seq : Nat) : Bool := l.holder.any fun (v, n) => v = w && sameRun n seq

theorem Lock.heldBy_of_holder {n : Nat} (hholds : l.holder = some (w, n)) (hrun : sameRun n seq = true) :
    l.heldBy w seq = true := by
  simp [Lock.heldBy, hholds, hrun]

theorem Lock.heldBy_of_ne (hother : ∀ n, l.holder ≠ some (w, n)) : l.heldBy w seq = false := by
  unfold Lock.heldBy
  cases hholder : l.holder with
  | none => rfl
  | some e =>
    have hne : e.1 ≠ w := fun he => hother e.2 (by rw [hholder, ← he])
    simp [hne]

/-- After its release an unlock reaches its word: the holder's frees the lock, and another warp's is refused. -/
theorem exec_unlockArrive_of_reaches (hop : (s.warp w).op? seq = some o) (hkind : o.kind = .unlock) (hdone : o.done = false)
    (hback : (s.warp w).heldBack seq = false) (hreleased : s.released w seq o.scope = true) (hpass : s.lockWaits w o = false)
    (hword : (s.markRelease w seq o.scope).lockWord w o = (t, .ok pa)) (hreach : t.reachLock w pa = u)
    (hlock : u.lockAt w pa = l) : exec (.unlockArrive w seq) s =
    if l.heldBy w seq then .next (((u.freeLock pa l).finishOp w seq).wake w)
    else .next (((u.deferOp w o { cause := 0x21, sub := 1, lanes := o.lanes }).finishOp w seq).wake w) := by
  subst hreach hlock
  simp only [exec, execUnlockArrive, hop, hkind, hdone, hback, hreleased, hpass, hword]
  rfl

end

/-! ### Fences (R152, R181) -/

section
variable {s : State} {w seq : Nat} {o : Op}

theorem makeFence_eq (s : State) (w : Nat) (o : Op) : s.makeFence w o =
    if o.order = .acq ∨ o.order = .ar then (s.releaseOf w o).acquire w o.scope else s.releaseOf w o := by
  unfold State.makeFence State.releaseOf
  cases o.order <;> simp

theorem exec_fenceAcknowledge_of_met (hop : (s.warp w).op? seq = some o) (hkind : o.kind = .fence) (hdone : o.done = false)
    (hwide : 4 ≤ o.scope.level) (hmet : s.fenceMet w o = true) :
    exec (.fenceAcknowledge w seq) s = .next (((s.makeFence w o).finishOp w seq).wake w) := by
  simp only [exec, execFenceAcknowledge, hop]
  exact if_pos ⟨hkind, by rw [hdone]; rfl, hwide, hmet⟩

theorem exec_recordInvalidationComplete_of_handed {f : RecordFence} (hfence : s.fence? w seq = some f)
    (hhanded : s.handed w seq f.scope = true) :
    exec (.recordInvalidationComplete w seq) s = .next (({ s.dropRecords f with
      eng := { s.eng with fences := s.eng.fences.filter fun g => g ≠ f } } : State).wake w) := by
  simp only [exec, execRecordInvalidationComplete, hfence, hhanded, if_true]
  rfl

end

/-- Settles O44: each event is performed as its own lemma says; requests of one cycle are sorted by their warps, and what reaches a
lock word turns on the holder that the word names. -/
theorem atomicsLocksAndFencesArePerformed : Obligations.AtomicsLocksAndFencesArePerformed := by
  unfold Obligations.AtomicsLocksAndFencesArePerformed
  refine ⟨?perform, ?delivery, ?requests, ?locks, ?unlocks, ?fences, ?records⟩
  case perform =>
    intro s w seq o a hop hnext hmay
    refine ⟨fun i hkind hacq har => ?plain, fun i hkind horder => ?acquires,
      fun i => exec_atomicPerform_of_reduce hop hnext hmay, fun i va t p hkind hloc ht => ?global⟩
    case plain =>
      rw [exec_atomicPerform_of_atomic hop hnext hmay hkind, if_neg fun h => h.1.elim hacq har]
    case acquires =>
      rw [exec_atomicPerform_of_atomic hop hnext hmay hkind]
      simp only [horder, true_and]
    case global =>
      rw [← releaseOf_eq] at ht
      exact performAtomic_of_global hloc ht
  case delivery =>
    intro s w seq o i hop hkind hlanded hdone hall
    exact exec_atomicReturn_of_performed hop hkind hlanded hdone hall
  case requests =>
    intro s w seq
    refine ⟨_, ?_, pairwise_foldr_insertRequest _, rfl⟩
    rw [foldr_insertRequest_eq]
    exact List.perm_insertionSort _ _
  case locks =>
    intro s w seq o hop hkind hdone hqueued
    have h : s.Requests w seq o := ⟨hop, hkind, hdone, hqueued⟩
    refine ⟨lockArrive_of_held h, fun hback hpass t pa hword => ?_⟩
    intro u l
    have hjudged : s.lockArrive w seq = _ := lockArrive_of_reaches (u := u) (l := l) h hback hpass hword rfl rfl
    clear_value l
    refine ⟨fun hfree => ?free, fun n hholds hrun => ?own, fun v n hholds hother => ?other⟩
    case free => rw [hjudged, hfree]
    case own =>
      rw [hjudged, hholds]
      exact if_pos ⟨rfl, hrun⟩
    case other =>
      rw [hjudged, hholds]
      exact if_neg fun h => hother h.1
  case unlocks =>
    intro s w seq o t pa hop hkind hdone hback hreleased hpass hword u l
    have hjudged := exec_unlockArrive_of_reaches (u := u) (l := l) hop hkind hdone hback hreleased hpass hword rfl rfl
    refine ⟨fun n hholds hrun => ?holder, fun hother => ?stranger⟩
    case holder =>
      rw [Lock.heldBy_of_holder hholds hrun, if_pos rfl] at hjudged
      exact ⟨fun hnone => by rw [hjudged, State.freeLock, hnone], fun _ => hjudged⟩
    case stranger =>
      rw [Lock.heldBy_of_ne hother, if_neg Bool.false_ne_true] at hjudged
      exact hjudged
  case fences =>
    intro s w seq o hop hkind hdone hwide hmet r
    rw [exec_fenceAcknowledge_of_met hop hkind hdone hwide hmet, makeFence_eq, releaseOf_eq]
  case records =>
    intro s w seq f hfence hhanded t
    exact exec_recordInvalidationComplete_of_handed hfence hhanded

/-! ### Queued matrix operations (R154) -/

/-- The queued move of a row from the start of a core's store to tile 2, for warp 0, with what it has read of its operand. -/
def queuedRow (seq : Nat) (image : Table Nat) : Queued :=
  { warp := 0, seq := some seq, op := .fromCore 2 0 1 0, aOff := 0, bOff := 0, aLen := 0, bLen := 0, vector := [], scales := [],
    image := image }

/-- Core 0 after reset with two such moves queued. -/
def twoQueued : State := (State.reset.enqueue 0 (queuedRow 5 [])).enqueue 0 (queuedRow 6 [])

/-- The row's eight granules, each read as zero. -/
def zeroRow : Table Nat := (List.range 8).map fun g => (g, 0)

/-- What the operation at the front of core 0's queue has read. -/
def frontImage : Result → Option (Table Nat)
  | .next s => (s.core 0).queue.head?.map Queued.image
  | _ => none

/-- Each move has read its operand as it was queued. -/
theorem twoQueued_queue : (twoQueued.core 0).queue = [queuedRow 5 zeroRow, queuedRow 6 zeroRow] := by decide +kernel

/-- The first move takes its granules as they stand, not as it read them before, so the second has not started. -/
theorem frontImage_twoQueued : frontImage (exec (.matrixOpPerform 0 []) twoQueued) = some [] := by decide +kernel

/-- Refutes O45: an operation that finishes reading only as it is performed makes those behind it unread (R154), as in `twoQueued`; the
statement leaves what they have read. -/
theorem not_windowsTransfersAndMatrixQueuesGoOn : ¬ Obligations.WindowsTransfersAndMatrixQueuesGoOn := by
  unfold Obligations.WindowsTransfersAndMatrixQueuesGoOn
  rintro ⟨-, -, -, -, -, -, hperformed⟩
  have hreads : ∀ g ∈ granulesIn (queuedRow 5 zeroRow).reads,
      (g ∈ [] ∧ (tfind zeroRow g).isSome = true) ∨ twoQueued.readableNow 0 [] (queuedRow 5 zeroRow) g = true := by decide +kernel
  have hclean : (twoQueued.perform 0 (queuedRow 5 zeroRow) []).2 = false := by decide +kernel
  have h := congrArg frontImage (hperformed twoQueued 0 _ _ [] twoQueued_queue hreads 5 rfl rfl hclean)
  rw [frontImage_twoQueued] at h
  exact absurd h (by decide +kernel)

end Sys2Proof.Machine
end

section
/-! ## Matrix instructions as they issue

Proofs of the statements over spec/07_isa_matrix.md: what products, moves of rows and contractions enter in the queue of their
core (R154 to R158, R165 to R173), and what becomes of the scale FIFO and of accumulator banks (R159 to R164, R170). -/

namespace Sys2Proof.Machine

/-! ### Checks at issue (R158) -/

/-- A check whose failure is a fault, and what follows where it passes. -/
def checkThen (check : Option Trouble) (o : Out) : Out :=
  match check with
  | some t => .fault t
  | none => o

theorem checkThen_of_passes {check : Option Trouble} {o : Out} (h : check = none) : checkThen check o = o := by
  rw [h, checkThen]

theorem both_pass {a b : Option Trouble} (ha : a = none) (hb : b = none) : (a <|> b) = none :=
  (Option.orElse_eq_none a b).2 ⟨ha, hb⟩

/-! ### Products (R165 to R171) -/

/-- The use of a product's index vector (R157). -/
def gatherUse : Option Opnd → List Use
  | some c => vectorUse c
  | none => []

/-- The rows that a product gathers, by lane; none without an index vector (R168). -/
def Ctx.gathered (x : Ctx) : Option Opnd → List Word
  | some c => (List.range 32).map fun l => x.W.src x.w c l
  | none => []

/-- The operands of a product, A without bytes of its own where its rows are gathered (R158, R165). -/
def Ctx.productOperands (x : Ctx) (sh : ProdShape) (p : Prod) (gather : Option Opnd) : List StoreOperand :=
  [x.operand p.a (if gather.isSome then 0 else 32 * sh.wA), x.operand p.b (32 * sh.wB)]

/-- The gathered rows that are not zero rows, each named by its lane (R168). -/
def Ctx.gatheredRows (x : Ctx) (sh : ProdShape) (p : Prod) (gather : Option Opnd) : List StoreOperand :=
  ((x.gathered gather).zipIdx.filter fun (v, _) => v ≠ 0xFFFFFFFF).map fun (v, l) =>
    { off := x.one p.a + v.toNat * sh.wA, size := sh.wA, align := sh.wA, lanes := oneLane l }

/-- The queue entry of a product: offsets and lengths, its index vector, and the two oldest scale entries where it is scaled. -/
def Ctx.productEntry (x : Ctx) (i : Instr) (p : Prod) (gather : Option Opnd) : Queued :=
  { x.queued (some x.W.seq) (.product i p.tile.val p.zc) with
    aOff := x.one p.a, bOff := x.one p.b, aLen := 32 * (prodShape i).wA, bLen := 32 * (prodShape i).wB,
    vector := x.gathered gather, scales := if (prodShape i).blk ≠ 0 then x.W.scales.take 66 else [] }

/-- A scaled product takes the two oldest entries out of its warp's FIFO (R170). -/
def State.takeScales (s : State) (w : Nat) (sh : ProdShape) : State :=
  if sh.blk ≠ 0 then s.onWarp w fun W => { W with scales := W.scales.drop 66 } else s

section
variable {s : State} {q : Nat} {c : Clause} {W : Warp} {gr : Group}

/-- A product that its checks and its counter let pass enters the queue with its outstanding operation. -/
theorem product_of_passes {i : Instr} {p : Prod} {gather : Option Opnd}
    (h : Issues (matNeeds p.g ([rd p.a, rd p.b] ++ gatherUse gather)) s q c W gr)
    (hcv : (sees q c W gr p.g).cvFault p.cv = none) (hscales : (prodShape i).blk ≠ 0 → W.scalesOk (prodShape i).sty = true)
    (hstore : (sees q c W gr p.g).storeFault ((sees q c W gr p.g).productOperands (prodShape i) p gather)
      ((sees q c W gr p.g).gatheredRows (prodShape i) p gather) = none)
    (hbank : s.bankFault (sees q c W gr p.g) Bank.atUnit [p.tile.val / 2] = none) (hcounter : W.counter 3 < 63) :
    product i p gather s = .next (((s.takeScales c.warp (prodShape i)).queueOp (sees q c W gr p.g) p.cv .zero
      ((sees q c W gr p.g).productEntry i p gather)).advance q) := by
  have hfifo : ¬(decide ((prodShape i).blk ≠ 0) && !W.scalesOk (prodShape i).sty) = true := by simpa using hscales
  have hroom : ¬(sees q c W gr p.g).W.saturated 3 = true := ne_true_of_eq_false (not_saturated hcounter)
  unfold product
  refine issue_of_done h ((checkThen_of_passes hcv).trans ((if_neg hfifo).trans
    ((checkThen_of_passes (both_pass hstore hbank)).trans ((if_neg hroom).trans ?_))))
  simp only [decide_eq_true_eq]
  rfl

/-! ### Contractions (R173) -/

/-- A contraction that its checks and its counter let pass enters the queue with its outstanding operation. -/
theorem exec_tcon8_of_passes {g : Guard} {u m o : Opnd} {axis : Axis} {tr acc : Bool} {cv : Option (Fin 8)}
    (h : Issues (matNeeds g [rd u, rd m, rd o]) s q c W gr) (hcv : (sees q c W gr g).cvFault cv = none)
    (hcounter : W.counter 3 < 63) :
    let z := sees q c W gr g
    z.storeFault [z.operand u 2048, z.operand m 256, z.operand o 2048] [] = none →
    exec (.tcon8 g u m o axis tr acc cv) s = .next ((s.queueOp z cv .zero (z.queued (some W.seq)
      (.tensor (.tcon8 g u m o axis tr acc cv) (z.one u) (z.one m) (z.one o)))).advance q) := by
  intro z hstore
  have hroom : ¬z.W.saturated 3 = true := ne_true_of_eq_false (not_saturated hcounter)
  simp only [exec, execTcon8]
  exact issue_of_done h ((checkThen_of_passes (both_pass hcv hstore)).trans (if_neg hroom))

/-! ### Moves of rows (R172) -/

/-- The operand that a move's mode names (R157, R172). -/
def amvUses : AmvMode → List Use
  | .a2v d => vectorUse d true
  | .v2a a => vectorUse a
  | .a2c a | .c2a a => [rd a]

/-- A row specification is allowed: its other bits are zero, and its rows lie in the tile and in the warp's band (R163, R172). -/
structure RowsAllowed (spec : Nat) (band : Nat × Nat) : Prop where
  middle : spec / 2 ^ 5 % 8 = 0
  upper  : spec / 2 ^ 13 % 2 ^ 19 = 0
  inTile : spec % 32 + (spec / 2 ^ 8 % 32 + 1) ≤ 32
  first  : band.1 ≤ spec % 32
  last   : spec % 32 + (spec / 2 ^ 8 % 32 + 1) ≤ band.2

theorem bits_low (v : Nat) : bits v 4 0 = v % 32 := by
  rw [bits, Nat.pow_zero, Nat.div_one]
  rfl

section
variable {spec : Nat} {band : Nat × Nat}

theorem RowsAllowed.wellFormed (h : RowsAllowed spec band) : ¬(decide (spec / 2 ^ 5 % 8 ≠ 0) ||
    decide (spec / 2 ^ 13 % 2 ^ 19 ≠ 0) || decide (32 < spec % 32 + (spec / 2 ^ 8 % 32 + 1))) = true := by
  rw [h.middle, h.upper, decide_eq_false (Nat.not_lt.2 h.inTile)]
  decide

theorem RowsAllowed.inBand (h : RowsAllowed spec band) : ¬(decide (spec % 32 < band.1) ||
    decide (band.2 < spec % 32 + (spec / 2 ^ 8 % 32 + 1))) = true := by
  rw [decide_eq_false (Nat.not_lt.2 h.first), decide_eq_false (Nat.not_lt.2 h.last)]
  decide

end

/-- The move that an amv queues for its rows (R172). -/
def Ctx.amvOp (x : Ctx) (tile start n : Nat) : AmvMode → MatOp
  | .a2v (.v r) => .toRegs tile start n r.val
  | .v2a (.v r) => .fromRegs tile start n ((List.range n).flatMap fun m =>
      (List.range 32).map fun l => tget 0 x.W.v (32 * (r.val + m) + l))
  | .a2c a => .toCore tile start n (x.one a)
  | .c2a a => .fromCore tile start n (x.one a)
  | _ => .toRegs tile start 0 0

/-- A move of rows that its checks and its counter let pass enters the queue with its outstanding operation. -/
theorem exec_amv_of_passes {g : Guard} {mode : AmvMode} {spec : Opnd} {tile : Fin 64} {cv : Option (Fin 8)}
    (h : Issues (matNeeds g (amvUses mode ++ [rd spec])) s q c W gr) (hcv : (sees q c W gr g).cvFault cv = none)
    (hbank : s.bankFault (sees q c W gr g) (Bank.holds c.warp) [tile.val / 2] = none) (hcounter : W.counter 3 < 63) :
    let z := sees q c W gr g
    let start := z.one spec % 32
    let n := z.one spec / 2 ^ 8 % 32 + 1
    RowsAllowed (z.one spec)
      ((tget { owner := 0, set := none, holders := 0 } (s.core (coreOf c.warp)).banks (tile.val / 2)).band c.warp) →
    z.amvFault mode n = none →
    exec (.amv g mode spec tile cv) s =
      .next ((s.queueOp z cv .zero (z.queued (some W.seq) (z.amvOp tile.val start n mode))).advance q) := by
  intro z start n hrows hoperand
  have hroom : ¬z.W.saturated 3 = true := ne_true_of_eq_false (not_saturated hcounter)
  simp only [exec, execAmv, bits_low]
  refine issue_of_done h ((checkThen_of_passes (both_pass hcv hbank)).trans ((if_neg hrows.wellFormed).trans
    ((if_neg hrows.inBand).trans ((checkThen_of_passes hoperand).trans ((if_neg hroom).trans ?_)))))
  cases mode with
  | a2v d => cases d <;> rfl
  | v2a a => cases a <;> rfl
  | a2c a => rfl
  | c2a a => rfl

end

/-- Settles O27: the four products are one operation with four shapes, and every check of an operation passes in its turn. -/
theorem matrixOperationsQueue : Obligations.MatrixOperationsQueue := by
  unfold Obligations.MatrixOperationsQueue
  intro queues
  have hqueues (i : Instr) (p : Prod) (gather : Option Opnd) (he : ∀ s, exec i s = product i p gather s) : queues i p gather :=
    fun s q c W g h hcv hscales hstore hbank hcounter => (he s).trans (product_of_passes h hcv hscales hstore hbank hcounter)
  refine ⟨fun p => hqueues _ p none fun _ => rfl, fun p c => hqueues _ p (some c) fun _ => rfl,
    fun p => hqueues _ p none fun _ => rfl, fun p u => hqueues _ p none fun _ => rfl,
    fun g u m o axis tr acc cv s q c W gr h hcv hstore hcounter => exec_tcon8_of_passes h hcv hcounter hstore, ?_⟩
  intro g mode spec tile cv s q c W gr uses h z start n bank hcv hbank hmiddle hupper hinTile hfirst hlast hoperand hcounter
  exact exec_amv_of_passes h hcv hbank hcounter ⟨hmiddle, hupper, hinTile, hfirst, hlast⟩ hoperand

/-! ### The scale FIFO (R170) -/

section
variable {s : State} {q : Nat} {c : Clause} {W : Warp} {gr : Group} {g : Guard}

/-- A warp whose FIFO has a further entry: its kind and type, and the 32 words of a vector. -/
def Warp.pushScales (W : Warp) (w : Nat) (ty : Ty) (a : Opnd) (kindB : Bool) (cv : Option (Fin 8)) : Warp :=
  { W.clearSigns cv with
    scales := W.scales ++ BitVec.ofNat 32 ((if ty = .e8m0 then 2 else 0) + b2n kindB) ::
      (List.range 32).map fun l => W.src w a l }

section
variable {ty : Ty} {a : Opnd} {kindB : Bool} {cv : Option (Fin 8)}

theorem exec_sfpush_of_room (h : Issues (matNeeds g (vectorUse a)) s q c W gr) (hcv : (sees q c W gr g).cvFault cv = none)
    (hroom : W.scales.length < 8 * 33) :
    exec (.sfpush g ty a kindB cv) s = .next (s.wrote q c (W.pushScales c.warp ty a kindB cv)) := by
  simp only [exec, execSfpush]
  exact issue_of_onWarp (f := fun V => V.pushScales c.warp ty a kindB cv) h
    ((checkThen_of_passes hcv).trans (if_neg (Nat.not_le.2 hroom)))

theorem exec_sfpush_of_full (h : Issues (matNeeds g (vectorUse a)) s q c W gr) (hcv : (sees q c W gr g).cvFault cv = none)
    (hfull : 8 * 33 ≤ W.scales.length) :
    exec (.sfpush g ty a kindB cv) s = .next (s.precise q c { cause := 0x12, lanes := activeLanes c W g }) := by
  simp only [exec, execSfpush]
  exact issue_of_trouble h ((checkThen_of_passes hcv).trans (if_pos hfull))

end

/-! ### Banks (R160 to R164) -/

section
variable {d : Opnd} {mask : Word}

theorem exec_aalloc_of_forbidden (h : Issues (matNeeds g [wr d]) s q c W gr) (hmask : mask &&& ~~~gr.accMask ≠ 0) :
    exec (.aalloc g d mask) s = .next (s.precise q c { cause := 0x11, sub := 4, lanes := activeLanes c W g }) := by
  simp only [exec, execAalloc]
  exact issue_of_trouble h (if_pos hmask)

/-- A bank that a group may be granted: a free one or its own. -/
def openTo (group : Nat) : Option Bank → Bool
  | none => true
  | some k => k.owner = group

theorem openTo_iff {group : Nat} {k : Option Bank} : openTo group k = true ↔ ∀ b, k = some b → b.owner = group := by
  cases k <;> simp [openTo]

/-- Every bank of a mask may be granted to a group. -/
def grantable (banks : Table Bank) (mask : Word) (group : Nat) : Bool :=
  (banksOf mask).all fun b => openTo group (tfind banks b)

theorem grantable_iff {banks : Table Bank} {group : Nat} :
    grantable banks mask group = true ↔ ∀ b ∈ banksOf mask, ∀ k, tfind banks b = some k → k.owner = group := by
  simp only [grantable, List.all_eq_true, openTo_iff]

theorem exec_aalloc_of_denied (h : Issues (matNeeds g [wr d]) s q c W gr) (hmask : mask &&& ~~~gr.accMask = 0)
    (hdenied : ¬grantable (s.core (coreOf c.warp)).banks mask (groupOf c.warp) = true) :
    exec (.aalloc g d mask) s = .next (s.wrote q c (W.dst d (activeLanes c W g) fun _ => 0)) := by
  simp only [exec, execAalloc]
  exact issue_of_onWarp (f := fun V => V.dst d (activeLanes c W g) fun _ => 0) h
    ((if_neg (not_not.2 hmask)).trans (if_neg hdenied))

/-- A grant: the free banks of a mask become the group's, with their tokens at the unit, and the unit clears them in turn (R160). -/
def State.grant (s : State) (x : Ctx) (mask : Word) : State :=
  let fresh := (banksOf mask).filter fun b => (tfind (s.core (coreOf x.w)).banks b).isNone
  let t := s.onCore (coreOf x.w) fun y => { y with
    banks := fresh.foldl (fun t b => tput t b { owner := groupOf x.w, set := none, holders := 0 }) y.banks }
  if fresh.isEmpty then t
  else t.enqueue (coreOf x.w) (x.queued none (.zero (BitVec.ofNat 32 (fresh.foldl (fun n b => n + 2 ^ b) 0))))

theorem State.enqueue_comp_warps (s : State) (core : Nat) (e : Queued) : (s.enqueue core e).comp.warps = s.comp.warps :=
  State.onCore_comp_warps ..

theorem State.grant_warp? (s : State) (x : Ctx) (mask : Word) (w : Nat) : (s.grant x mask).warp? w = s.warp? w := by
  simp only [State.grant, State.warp?]
  split <;> simp only [State.enqueue_comp_warps, State.onCore_comp_warps]

theorem exec_aalloc_of_granted (h : Issues (matNeeds g [wr d]) s q c W gr) (hmask : mask &&& ~~~gr.accMask = 0)
    (hgrant : grantable (s.core (coreOf c.warp)).banks mask (groupOf c.warp) = true) :
    exec (.aalloc g d mask) s = .next (((s.grant (sees q c W gr g) mask).onWarp c.warp fun V =>
      V.dst d (activeLanes c V g) fun _ => mask).advance q) := by
  obtain ⟨⟨_, _, _, hW, _⟩, _, _⟩ := id h
  rw [State.onWarp_congr ((State.grant_warp? ..).trans hW) (g := fun V => V.dst d (activeLanes c W g) fun _ => mask) rfl]
  simp only [exec, execAalloc]
  exact issue_of_done h ((if_neg (not_not.2 hmask)).trans (if_pos hgrant))

end

end

/-- Settles O28: what each instruction leaves is read off its own branch; a grant leaves the warps, so the mask goes to the warp that
issued. -/
theorem scalesAndBanks : Obligations.ScalesAndBanks := by
  unfold Obligations.ScalesAndBanks
  refine ⟨?push, ?flush, ?alloc, ?free, ?acquire, ?release⟩
  case push =>
    intro g ty a kindB cv s q c W gr h hcv
    exact ⟨exec_sfpush_of_room h hcv, exec_sfpush_of_full h hcv⟩
  case flush =>
    intro g s q c W gr h
    simp only [exec, execSfpushFlush]
    exact issue_of_onWarp (f := fun V => { V with scales := [] }) h rfl
  case alloc =>
    intro g d mask s q c W gr h core banks fresh
    refine ⟨exec_aalloc_of_forbidden h, fun hmask hother => exec_aalloc_of_denied h hmask ?_,
      fun hmask howned => exec_aalloc_of_granted h hmask (grantable_iff.2 howned)⟩
    obtain ⟨b, hb, k, hk, hne⟩ := hother
    exact fun hgrant => hne (grantable_iff.1 hgrant b hb k hk)
  case free =>
    intro g mask s q c W gr h z t hbanks
    simp only [exec, execAfree]
    exact issue_of_done h (checkThen_of_passes hbanks)
  case acquire =>
    intro g a mask s q c W gr h z set hbanks hallowed
    simp only [exec, execAcqa]
    exact issue_of_done h ((checkThen_of_passes hbanks).trans (if_pos hallowed))
  case release =>
    intro g mask s q c W gr h hbanks
    simp only [exec, execRela]
    exact issue_of_done h (checkThen_of_passes hbanks)

end Sys2Proof.Machine
end

section
/-! ## Engine instructions: commands handed over

Proofs of the statements over spec/08_isa_engines_system.md, R174 to R185: what a command whose operands pass the checks of R176
leaves at its engine. -/

namespace Sys2Proof.Machine

section
variable {s : State} {q : Nat} {c : Clause} {W : Warp} {gr : Group} {g : Guard} {scope : Scope} {a b d k : Opnd}

/-! ### Operand checks that pass (R176) -/

/-- The operation that an engine command leaves outstanding: it releases before its hand-over (R175). -/
def Ctx.engOp (z : Ctx) (cls : Option Nat) (kind : OpKind) (scope : Scope) : Op :=
  { z.op cls kind with scope := scope, order := .rel }

/-- An address that passes cause 1 of R176 at an alignment. -/
def GoodAddress (align v : Nat) : Prop := v % align = 0 ∧ v < 2 ^ 57

theorem badAddress_of_good {align v : Nat} (h : GoodAddress align v) : badAddress align v = false := by
  obtain ⟨halign, hlow⟩ := h
  rw [badAddress, halign, decide_eq_false (Nat.not_le.2 hlow)]
  rfl

theorem passes_nil : ∀ e ∈ ([] : List (Nat × Nat × Bool)), e.2.2 = false := List.forall_mem_nil _

theorem passes_cons {sub addr : Nat} {bad : Bool} {checks : List (Nat × Nat × Bool)} (hbad : bad = false)
    (hchecks : ∀ e ∈ checks, e.2.2 = false) : ∀ e ∈ (sub, addr, bad) :: checks, e.2.2 = false :=
  List.forall_mem_cons.2 ⟨hbad, hchecks⟩

/-- A check that an operand stays below a bound. -/
theorem decide_le_of_lt {m n : Nat} (h : n < m) : decide (m ≤ n) = false := decide_eq_false (Nat.not_le.2 h)

/-- A check that reserved bits are zero. -/
theorem decide_ne_zero_of_eq {n : Nat} (h : n = 0) : decide (n ≠ 0) = false := decide_eq_false (not_not.2 h)

/-- An address that an instruction may leave out. -/
theorem optional_passes {o : Opnd} {align v : Nat} (h : o = .zero ∨ GoodAddress align v) :
    (o ≠ .zero && badAddress align v) = false := by
  rcases h with rfl | h
  · rfl
  · rw [badAddress_of_good h, Bool.and_false]

/-- A command whose checks pass and whose counter has room is handed over, with its operation outstanding. -/
theorem engineOp_of_passes {p : Spec} {n : Nat} {kind : OpKind} {checks : Ctx → List (Nat × Nat × Bool)}
    {send : Ctx → State → State} (h : Issues { p with port := 3 } s q c W gr)
    (hgood : ∀ e ∈ checks (sees q c W gr p.guard), e.2.2 = false) (hroom : W.counter n < 63) :
    engineOp p (some n) kind scope checks send s = .next ((send (sees q c W gr p.guard)
      (s.pushOp c.warp ((sees q c W gr p.guard).engOp (some n) kind scope))).advance q) := by
  have hfree : (sees q c W gr p.guard).W.saturated n = false := not_saturated hroom
  refine issue_of_done h ?_
  simp only [engineFault_none hgood, Option.map_some, Option.getD_some, hfree]
  rfl

/-! ### Root and canopy engines (R177 to R179) -/

theorem exec_rsub_of_passes (h : Issues (engNeeds g [rd d true, rd a true, rd b, rd k true]) s q c W gr)
    (hstart : GoodAddress 16 ((sees q c W gr g).one64 a)) (hstatus : GoodAddress 16 ((sees q c W gr g).one64 k))
    (hslice : (sees q c W gr g).one b < 32) (hroom : W.counter 6 < 63) :
    let z := sees q c W gr g
    exec (.rsub g scope d a b k) s = .next (((s.pushOp c.warp (z.engOp (some 6) .submit scope)).onRoot
      (dieOf c.warp * 32 + z.one b) fun r => { r with
        front := r.front ++ [Prog.fresh gr.dispatch gr.slot (some (c.warp, W.seq)) scope (z.one64 a)
          (BitVec.ofNat 64 (z.one64 d)) (z.one64 k)] }).advance q) := by
  simp only [exec, execRsub]
  exact engineOp_of_passes h (passes_cons (badAddress_of_good hstart) (passes_cons (badAddress_of_good hstatus)
    (passes_cons (decide_le_of_lt hslice) passes_nil))) hroom

theorem exec_abortRoot_of_passes (h : Issues (engNeeds g [rd a]) s q c W gr) (hslice : (sees q c W gr g).one a < 32)
    (hroom : W.counter 6 < 63) :
    let z := sees q c W gr g
    exec (.abortRoot g scope a) s = .next (((s.pushOp c.warp (z.engOp (some 6) .post scope)).onRoot
      (dieOf c.warp * 32 + z.one a) fun r => { r with
        aborts := r.aborts ++ [{ warp := c.warp, seq := W.seq, scope := scope, dispatch := gr.dispatch,
                                 ctxs := none }] }).advance q) := by
  simp only [exec, execAbortRoot]
  exact engineOp_of_passes h (passes_cons (decide_le_of_lt hslice) passes_nil) hroom

theorem exec_cpost_of_passes (h : Issues (engNeeds g [rd a true, rd b]) s q c W gr)
    (hblock : GoodAddress 128 ((sees q c W gr g).one64 a)) (hengine : (sees q c W gr g).one b < 2) (hroom : W.counter 4 < 63) :
    let z := sees q c W gr g
    exec (.cpost g scope a b) s = .next (((s.pushOp c.warp (z.engOp (some 4) .post scope)).toCanopy z scope (z.one b)
      (.post (z.one64 a))).advance q) := by
  simp only [exec, execCpost]
  exact engineOp_of_passes h (passes_cons (badAddress_of_good hblock) (passes_cons (decide_le_of_lt hengine) passes_nil)) hroom

theorem exec_ctok_of_passes (h : Issues (engNeeds g [rd a, rd b]) s q c W gr) (hdie : (sees q c W gr g).one b < 0x400)
    (hroom : W.counter 4 < 63) :
    let z := sees q c W gr g
    exec (.ctok g scope a b) s = .next (((s.pushOp c.warp (z.engOp (some 4) .post scope)).toCanopy z scope 0
      (.token (z.one a) (if z.one b = 0x3FF then dieOf c.warp else z.one b))).advance q) := by
  simp only [exec, execCtok]
  exact engineOp_of_passes h (passes_cons (decide_le_of_lt hdie) passes_nil) hroom

theorem exec_abort_of_passes (h : Issues (engNeeds g [rd a, rd b]) s q c W gr) (hcomm : (sees q c W gr g).one a < 256)
    (hupper : (sees q c W gr g).one b / 2 ^ 16 % 2 ^ 16 = 0) (hroom : W.counter 4 < 63) :
    let z := sees q c W gr g
    exec (.abort g scope a b) s = .next (((s.pushOp c.warp (z.engOp (some 4) .post scope)).toCanopy z scope 0
      (.abort (z.one a) (z.one b % 2 ^ 16))).advance q) := by
  simp only [exec, execAbort, bits_low_word]
  exact engineOp_of_passes h (passes_cons (decide_le_of_lt hcomm) (passes_cons (decide_ne_zero_of_eq hupper) passes_nil)) hroom

/-! ### Record fences and multicast stores (R180, R181) -/

theorem exec_rfence_of_passes (h : Issues (engNeeds g (if a = .zero then [] else [rd a true])) s q c W gr)
    (hrecord : a = .zero ∨ GoodAddress 64 ((sees q c W gr g).one64 a)) :
    exec (.rfence g scope a) s = .next (((s.onWarp c.warp fun V => { V with seq := V.seq + 1 }).addFence
      { warp := c.warp, seq := W.seq, die := dieOf c.warp, scope := scope, slot := gr.slot,
        record := if a = .zero then none else some ((sees q c W gr g).one64 a) }).advance q) := by
  simp only [exec, execRfence]
  refine issue_of_done h ?_
  simp only [engineFault_none (passes_cons (optional_passes hrecord) passes_nil)]
  rfl

/-- The accesses of an mcst: every active lane's bytes at each of its destinations (R180). -/
def Ctx.mcstAccesses (z : Ctx) (m : MForm) (blk : Bool) (bases : List Nat) : List Access :=
  let n := m.ty.bytes
  let addr (base l : Nat) : Nat := (base + z.address m l) % 2 ^ 64
  bases.zipIdx.flatMap fun (base, k) => (lanesOf z.act).map fun l =>
    { lane := l, dest := k, loc := .global (if blk then addr base ((lowest z.act).getD 0) + n * l else addr base l), size := n,
      data := regBytes m.d n z l, cmp := 0, done := false }

theorem exec_mcst_of_passes {m : MForm} {blk : Bool} {bases : List Nat}
    (h : Issues (engNeeds m.g [rd m.d (m.ty.bytes = 8), rd m.a true, rd b]) s q c W gr)
    (hlist : s.mcstList (sees q c W gr m.g) b = .ok bases)
    (hfault : mcstFault (mcstShape m.ty.bytes blk) ((mcstShape m.ty.bytes blk).lanes (sees q c W gr m.g).act)
      (fun l => bases.map fun base => (base + (sees q c W gr m.g).address m l) % 2 ^ 64) = none)
    (hroom : W.counter 1 < 63) :
    let z := sees q c W gr m.g
    exec (.mcst m blk b) s = .next ((s.pushOp c.warp { z.op (some 1) .multicast with
      order := m.order, scope := m.scope, ty := m.ty, acc := z.mcstAccesses m blk bases }).advance q) := by
  have hfree : ¬(sees q c W gr m.g).W.saturated 1 = true := ne_true_of_eq_false (not_saturated hroom)
  simp only [exec, execMcst]
  refine issue_of_done h ?_
  simp only [mcstShape] at hfault
  simp only [hlist, hfault]
  exact if_neg hfree

end

/-- Settles O29: every command but rfence and mcst is an `engineOp` whose checks pass; those two have an `issue` of their own. -/
theorem engineCommandsAreHandedOver : Obligations.EngineCommandsAreHandedOver := by
  unfold Obligations.EngineCommandsAreHandedOver
  intro op canopy
  refine ⟨?rsub, ?abortRoot, ?cpost, ?ctok, ?abort, ?rfence, ?mcst⟩
  case rsub =>
    intro g scope d a b k s q c W gr h z hstart hstart' hstatus hstatus' hslice hroom
    exact exec_rsub_of_passes h ⟨hstart, hstart'⟩ ⟨hstatus, hstatus'⟩ hslice hroom
  case abortRoot =>
    intro g scope a s q c W gr h z hslice hroom
    exact exec_abortRoot_of_passes h hslice hroom
  case cpost =>
    intro g scope a b s q c W gr h z hblock hblock' hengine hroom
    exact exec_cpost_of_passes h ⟨hblock, hblock'⟩ hengine hroom
  case ctok =>
    intro g scope a b s q c W gr h z hdie hroom
    exact exec_ctok_of_passes h hdie hroom
  case abort =>
    intro g scope a b s q c W gr h z hcomm hupper hroom
    exact exec_abort_of_passes h hcomm hupper hroom
  case rfence =>
    intro g scope a s q c W gr h z hrecord t
    exact exec_rfence_of_passes h hrecord
  case mcst =>
    intro m blk b s q c W gr bases h z n sh addr first hlist hfault hroom
    exact exec_mcst_of_passes h hlist hfault hroom

/-! ### Cambium commands (R182 to R185) -/

section
variable {s : State} {q : Nat} {c : Clause} {W : Warp} {gr : Group} {g : Guard} {scope : Scope} {a b d k : Opnd}

theorem exec_cdecl_of_passes (h : Issues (engNeeds g [rd a true, rd b]) s q c W gr)
    (hdesc : GoodAddress 64 ((sees q c W gr g).one64 a)) (hslot : (sees q c W gr g).one b < 4)
    (hcambial : s.cambial (sees q c W gr g) = true) (hroom : W.counter 7 < 63) :
    let z := sees q c W gr g
    let n := z.one b
    let t := (s.pushOp c.warp (z.engOp (some 7) (.cambium 0) scope)).onDispatch gr.dispatch fun d =>
      { d with named := if d.named.contains n then d.named else n :: d.named }
    exec (.cdecl g scope a b) s = .next (((t.sitesOf gr.dispatch).foldl
      (fun t site => t.toCambium z scope site (.declare n (z.one64 a) scope))
      (t.onWarp c.warp fun V => V.onOp W.seq fun o => { o with kind := .cambium (t.sitesOf gr.dispatch).length })).advance q) := by
  simp only [exec, execCdecl]
  exact engineOp_of_passes h (passes_cons (badAddress_of_good hdesc) (passes_cons (decide_le_of_lt hslot)
    (passes_cons (congrArg not hcambial) passes_nil))) hroom

theorem exec_sweep_of_passes (h : Issues (engNeeds g [rd d true, rd a, rd b, rd k]) s q c W gr)
    (hstop : d = .zero ∨ GoodAddress 8 ((sees q c W gr g).one64 d))
    (hbarrier : (sees q c W gr g).one k = 0xFFFFFFFF ∨ (sees q c W gr g).one k % 16 = 0) (hslot : (sees q c W gr g).one a < 4)
    (hupper : (sees q c W gr g).one b / 2 ^ 16 % 2 ^ 16 = 0) (hcambial : s.cambial (sees q c W gr g) = true)
    (hnamed : s.slotNamed (sees q c W gr g) ((sees q c W gr g).one a) = true) (hroom : W.counter 7 < 63) :
    let z := sees q c W gr g
    exec (.sweep g scope d a b k) s = .next (((s.pushOp c.warp (z.engOp (some 7) (.cambium 1) scope)).toCambium z scope
      (siteOf (coreOf c.warp)) (.sweep (z.one a) (z.one b % 2 ^ 16) (if d = .zero then none else some (z.one64 d))
        (if z.one k = 0xFFFFFFFF then none else some (z.one k)))).advance q) := by
  have hbar : (decide ((sees q c W gr g).one k ≠ 0xFFFFFFFF) && decide ((sees q c W gr g).one k % 16 ≠ 0)) = false := by
    rcases hbarrier with h | h <;> simp [h]
  have hslot' : (!s.cambial (sees q c W gr g) || !s.slotNamed (sees q c W gr g) ((sees q c W gr g).one a)) = false := by
    rw [hcambial, hnamed]
    rfl
  simp only [exec, execSweep, bits_low_word]
  exact engineOp_of_passes h (passes_cons (optional_passes hstop) (passes_cons hbar (passes_cons (decide_le_of_lt hslot)
    (passes_cons (decide_ne_zero_of_eq hupper) (passes_cons hslot' passes_nil))))) hroom

/-- A warp whose threads of some lanes end their buds' runs: they exit, in a handler for good (R183, R313). -/
def Warp.yields (W : Warp) (act : LaneSet) : Warp :=
  (lanesOf act).foldl (fun V l => (V.setStatus l .exited).leaveSets l)
    { W with seq := W.seq + 1, exits := if W.handler then W.exits ||| act else W.exits }

/-- The end of one lane's run, with its clause, mode, time and argument (R183). -/
def Ctx.yielded (z : Ctx) (retire : Bool) (scope : Scope) (a b k : Opnd) (l slot element : Nat) : BudEnd :=
  { warp := z.w, seq := z.W.seq, dispatch := z.g.dispatch, slot := slot, element := element,
    yielded := some (retire, bits (z.W.src z.w a l).toNat 15 0, bits (z.W.src z.w a l).toNat 23 16, (z.W.src z.w b l).toNat,
      z.W.src64 z.w k l),
    clause := z.c.h, index := z.c.index, scope := scope }

/-- The ends of the active lanes' runs wait in front of the engine of their site. -/
def State.toCambiumEnds (s : State) (z : Ctx) (retire : Bool) (scope : Scope) (a b k : Opnd) : State :=
  (lanesOf z.act).foldl (fun s l =>
    match tfind z.W.buds l with
    | none => s
    | some (slot, element) => s.onCambium (siteOf (coreOf z.w)) fun e =>
      { e with ends := e.ends ++ [z.yielded retire scope a b k l slot element] }) s

theorem exec_byield_of_passes {retire : Bool} (h : Issues { engNeeds g [rd a, rd b, rd k true] with ends := true } s q c W gr) :
    let z := sees q c W gr g
    let v (l : Nat) : Nat := (W.src c.warp a l).toNat
    laneFault z.act [(3, fun l => bits (v l) 31 24 ≠ 0), (4, fun l => (tfind W.buds l).isNone),
      (5, fun l => s.nbud z ≤ bits (v l) 15 0 || 3 ≤ bits (v l) 23 16)] = none →
    exec (.byield g scope retire a b k) s =
      .next (((s.onWarp c.warp fun _ => W.yields z.act).toCambiumEnds z retire scope a b k).advance q) := by
  intro z v hlanes
  obtain ⟨⟨_, _, _, hW, _⟩, _, _⟩ := id h
  rw [← State.onWarp_congr hW (f := fun V => V.yields z.act) rfl]
  simp only [exec, execByield]
  exact issue_of_done h (checkThen_of_passes hlanes)

/-- A wake of one element for each active lane reaches the engine of the warp's site (R184). -/
theorem wakeOp_of_passes {next : Bool} (h : Issues (engNeeds g [rd a, rd b]) s q c W gr)
    (hslot : s.slotFault (sees q c W gr g) b = none) (hroom : W.counter 7 < 63) :
    let z := sees q c W gr g
    wakeOp g scope next a b s =
      .next (((lanesOf z.act).foldl (fun s l => s.toCambium z scope (siteOf (coreOf c.warp))
        (.wake (W.src c.warp b l).toNat (W.src c.warp a l).toNat next))
        (s.pushOp c.warp (z.engOp (some 7) (.cambium (lanesOf z.act).length) scope))).advance q) := by
  have hfree : ¬(sees q c W gr g).W.saturated 7 = true := ne_true_of_eq_false (not_saturated hroom)
  exact issue_of_done h ((checkThen_of_passes hslot).trans (if_neg hfree))

theorem exec_bstate_of_passes (h : Issues (engNeeds g [wr d, rd a, rd b]) s q c W gr)
    (hslot : s.slotFault (sees q c W gr g) b = none) (hroom : W.counter 0 < 63) :
    let z := sees q c W gr g
    exec (.bstate g d a b) s = .next ((s.pushOp c.warp { z.op (some 0) .bud with
      dst := d
      acc := (lanesOf z.act).map fun l =>
        ({ lane := l, dest := (W.src c.warp b l).toNat, loc := .global 0, size := 0, data := [],
           cmp := (W.src c.warp a l).toNat, done := false } : Access) }).advance q) := by
  have hfree : ¬(sees q c W gr g).W.saturated 0 = true := ne_true_of_eq_false (not_saturated hroom)
  simp only [exec, execBstate]
  exact issue_of_done h ((checkThen_of_passes hslot).trans (if_neg hfree))

end

/-- Settles O30: cdecl and sweep are `engineOp`s whose checks pass; the lanes of the others pass theirs, and byield's warp is the one
that issued it. -/
theorem cambiumCommandsAreHandedOver : Obligations.CambiumCommandsAreHandedOver := by
  unfold Obligations.CambiumCommandsAreHandedOver
  intro op
  refine ⟨?cdecl, ?sweep, ?byield, ?bwake, ?bstate⟩
  case cdecl =>
    intro g scope a b s q c W gr h z n t hdesc hdesc' hslot hcambial hroom
    exact exec_cdecl_of_passes h ⟨hdesc, hdesc'⟩ hslot hcambial hroom
  case sweep =>
    intro g scope d a b k s q c W gr h z hstop hbarrier hslot hupper hcambial hnamed hroom
    exact exec_sweep_of_passes h hstop hbarrier hslot hupper hcambial hnamed hroom
  case byield =>
    intro g scope retire a b k s q c W gr h z v hlanes
    exact exec_byield_of_passes h hlanes
  case bwake =>
    intro next g scope a b s q c W gr h z hslot hroom
    cases next
    · exact wakeOp_of_passes h hslot hroom
    · exact wakeOp_of_passes h hslot hroom
  case bstate =>
    intro g d a b s q c W gr h z hslot hroom
    exact exec_bstate_of_passes h hslot hroom

end Sys2Proof.Machine
end

section
/-! ## Engine commands

Proofs of the statements over spec/08_isa_engines_system.md, R190 to R193: what each command of a root or canopy engine's program
does once it starts. -/

namespace Sys2Proof.Machine

/-! ### A program that starts a command (R192, R193) -/

/-- A program whose next command starts: it counts, the command address moves on, and the context may take the chunk slot. -/
def Prog.starts (p : Prog) (counted takesChunk : Bool) : Prog :=
  { p.startCmd counted with holdsChunk := p.holdsChunk || takesChunk }

section
variable {s t : State} {e : EngRef} {p q : Prog} {releases data : Bool} {reads : List (Nat × Nat)}

theorem Starts.prog? (h : Starts s e p releases data reads) : s.prog? e = some p := h.2.1

theorem Starts.prog?_started (h : Starts s e p releases data reads) (d : Bool) :
    (s.started e d).prog? e = some (p.starts true (d && isCanopy e)) := by
  rw [State.started, State.prog_onProg, State.prog_passTurn, h.prog?]
  rfl

/-- Two changes that agree on the program of a context are one. -/
theorem State.onProg_congr {f g : Prog → Prog} (hp : s.prog? e = some p) (h : f p = g p) : s.onProg e f = s.onProg e g := by
  have hctxs {t : Table Prog} {c : Nat} (ht : tfind t c = some p) : tmap f t c = tmap g t c :=
    tmap_congr fun x hx => by rw [← Option.some.inj (ht.symm.trans hx), h]
  cases e with
  | root d n c => simp only [State.onProg, State.onRoot, hctxs hp]
  | canopy d n c => simp only [State.onProg, State.onCanopy, hctxs hp]

end

/-! ### What an engine leaves outside (R191) -/

/-- Memory, cores, dies, the controller and the module are as they were. -/
structure State.SameOutside (t s : State) : Prop where
  mem  : t.mem = s.mem
  comp : t.comp = s.comp
  ctl  : t.ctl = s.ctl
  dies : t.dies = s.dies
  mod  : t.mod = s.mod

theorem State.SameOutside.trans {s t u : State} (hu : u.SameOutside t) (ht : t.SameOutside s) : u.SameOutside s :=
  ⟨hu.mem.trans ht.mem, hu.comp.trans ht.comp, hu.ctl.trans ht.ctl, hu.dies.trans ht.dies, hu.mod.trans ht.mod⟩

theorem State.onProg_outside (s : State) (e : EngRef) (f : Prog → Prog) : (s.onProg e f).SameOutside s :=
  ⟨by simp, by simp, by simp, by simp, by simp⟩

theorem State.passTurn_outside (s : State) (e : EngRef) : (s.passTurn e).SameOutside s :=
  ⟨by simp, by simp, by simp, by simp, by simp⟩

/-! ### Arithmetic and branches (R191) -/

/-- A register holds a value modulo 2^64. -/
theorem Prog.setG_congr (p : Prog) {n : Fin 16} {v w : Nat} (h : v % 2 ^ 64 = w % 2 ^ 64) : p.setG n v = p.setG n w := by
  have hv : BitVec.ofNat 64 v = BitVec.ofNat 64 w := BitVec.eq_of_toNat_eq (by simpa using h)
  rw [Prog.setG, Prog.setG, hv]

@[simp] theorem Prog.setG_phase (p : Prog) (n : Fin 16) (v : Nat) : (p.setG n v).phase = p.phase := by
  unfold Prog.setG
  split <;> rfl

@[simp] theorem Prog.setG_writes (p : Prog) (n : Fin 16) (v : Nat) : (p.setG n v).writes = p.writes := by
  unfold Prog.setG
  split <;> rfl

@[simp] theorem Prog.setG_pc (p : Prog) (n : Fin 16) (v : Nat) : (p.setG n v).pc = p.pc := by
  unfold Prog.setG
  split <;> rfl

@[simp] theorem Prog.setG_ncmd (p : Prog) (n : Fin 16) (v : Nat) : (p.setG n v).ncmd = p.ncmd := by
  unfold Prog.setG
  split <;> rfl

@[simp] theorem Prog.setG_caddr (p : Prog) (n : Fin 16) (v : Nat) : (p.setG n v).caddr = p.caddr := by
  unfold Prog.setG
  split <;> rfl

/-- The register that an arithmetic command writes, with its exact value, if it writes one. -/
abbrev Written := Option (Fin 16 × Int)

/-- A program q whose register is written, and which branches from the command address of p. -/
def Prog.moved (p q : Prog) (value : Written) (jump : Option Word) : Prog :=
  let r := match value with
    | some (n, v) => q.setG n (wrap 64 v)
    | none => q
  match jump with
    | some imm => { r with pc := addr64 (p.pc + 16 * sext64 imm) }
    | none => r

/-- What an arithmetic or branch command does: a register written, and a branch taken. -/
def State.moves (s : State) (e : EngRef) (p : Prog) (value : Written) (jump : Option Word) : State :=
  let t := match value with
    | some (n, v) => s.setReg e n (wrap 64 v)
    | none => s
  match jump with
    | some imm => t.branch e p imm
    | none => t

theorem sext64_modEq (imm : Word) : (sext64 imm : Int) ≡ imm.toInt [ZMOD (2 ^ 64 : Nat)] := by
  have hsigned : toSigned 32 imm.toNat = imm.toInt := by rw [toSigned_eq_toInt, BitVec.ofNat_toNat, BitVec.setWidth_eq]
  rw [sext64, hsigned]
  exact wrap_modEq 64 _

section
variable {s : State} {e : EngRef} {p q : Prog} {value : Written} {jump : Option Word}

theorem State.prog?_moves : (s.moves e p value jump).prog? e = (s.prog? e).map fun q => p.moved q value jump := by
  unfold State.moves Prog.moved
  rcases value with _ | ⟨n, v⟩ <;> cases jump <;> simp [State.setReg, State.branch, Option.map_map, Function.comp_def]

theorem State.moves_outside : (s.moves e p value jump).SameOutside s := by
  have hset : (match value with | some (n, v) => s.setReg e n (wrap 64 v) | none => s).SameOutside s := by
    rcases value with _ | ⟨n, v⟩
    · exact ⟨rfl, rfl, rfl, rfl, rfl⟩
    · exact State.onProg_outside ..
  cases jump with
  | none => exact hset
  | some imm => exact (State.onProg_outside ..).trans hset

/-- Such a command keeps a program's phase, what it has to write, and its count. -/
theorem Prog.moved_keeps : (p.moved q value jump).phase = q.phase ∧ (p.moved q value jump).writes = q.writes ∧
    (p.moved q value jump).ncmd = q.ncmd ∧ (p.moved q value jump).caddr = q.caddr := by
  unfold Prog.moved
  rcases value with _ | ⟨n, v⟩ <;> cases jump <;> simp

/-- The registers after the command: the written one modulo 2^64. -/
theorem Prog.moved_g (n : Fin 16) : (p.moved q value jump).g n =
    match value with
    | some (fa, v) => if n = fa ∧ n.val ≠ 0 then (v % 2 ^ 64).toNat else q.g n
    | none => q.g n := by
  have hg : (p.moved q value jump).g n = (match value with | some (n, v) => q.setG n (wrap 64 v) | none => q).g n := by
    cases jump <;> rfl
  rw [hg]
  rcases value with _ | ⟨fa, v⟩
  · rfl
  · simp only [Prog.g_setG, Nat.mod_eq_of_lt (wrap_lt 64 v)]
    rfl

/-- The address of a branch is exact modulo 2^64. -/
theorem addr64_branch (pc : Nat) (imm : Word) : addr64 (pc + 16 * sext64 imm) = (((pc : Int) + 16 * imm.toInt) % 2 ^ 64).toNat := by
  rw [addr64, ← wrap_natCast]
  refine wrap_congr ?_
  push_cast
  exact (sext64_modEq imm).mul_left 16 |>.add_left _

/-- The command address after the command. -/
theorem Prog.moved_pc : (p.moved q value jump).pc =
    match jump with
    | some imm => (((p.pc : Int) + 16 * imm.toInt) % 2 ^ 64).toNat
    | none => q.pc := by
  unfold Prog.moved
  cases jump with
  | none => split <;> simp
  | some imm => exact addr64_branch p.pc imm

/-- What an arithmetic or branch command that starts leaves. -/
theorem command_moves {i : Instr} {counted : Bool} {value : Prog → Written} {jump : Prog → Option Word} (h : Starts s e p)
    (hexec : exec i s = command { counted := counted } (fun e p s => s.moves e p (value p) (jump p)) s) :
    ∃ t, exec i s = .next t ∧ t.prog? e = some (p.moved (p.starts counted false) (value p) (jump p)) ∧ t.SameOutside s := by
  refine ⟨_, hexec.trans (command_of_starts h rfl), ?_, State.moves_outside.trans
    ((State.onProg_outside ..).trans (State.passTurn_outside ..))⟩
  rw [State.prog?_moves, State.prog_onProg, State.prog_passTurn, h.prog?]
  rfl

end

/-! ### The commands (R191) -/

/-- Two 64-bit values read as signed compare as their exact values do. -/
def signedDouble (v : Nat) : Int := if v < 2 ^ 63 then v else (v : Int) - 2 ^ 64

/-- The comparisons of R91 on 64-bit values. -/
def MCond.holds (c : MCond) (a b : Nat) : Bool :=
  match c with
  | .eq => a = b
  | .ne => a ≠ b
  | .ltu => a < b
  | .geu => b ≤ a
  | .lts => signedDouble a < signedDouble b
  | .ges => signedDouble b ≤ signedDouble a

theorem toSigned_of_lt {v : Nat} (h : v < 2 ^ 64) : toSigned 64 v = signedDouble v := by
  rw [toSigned, Nat.mod_eq_of_lt h]
  rfl

theorem compareAt_num {a b : Nat} (c : MCond) (ha : a < 2 ^ 64) (hb : b < 2 ^ 64) :
    compareAt 64 (MCond.num c) a b = MCond.holds c a b := by
  cases c <;> simp only [compareAt, MCond.num, MCond.holds, Nat.mod_eq_of_lt ha, Nat.mod_eq_of_lt hb, toSigned_of_lt ha,
    toSigned_of_lt hb]

theorem Prog.g_lt (p : Prog) (n : Fin 16) : p.g n < 2 ^ 64 := by
  unfold Prog.g
  split
  · decide
  · exact BitVec.isLt _

section
variable (s : State) (e : EngRef) (p : Prog)

/-- A register written with a value is written with what the value is modulo 2^64. -/
theorem State.setReg_eq_moves {n : Fin 16} {v : Nat} {w : Int} (h : (v : Int) ≡ w [ZMOD (2 ^ 64 : Nat)]) :
    s.setReg e n v = s.moves e p (some (n, w)) none := by
  have hmod : v % 2 ^ 64 = wrap 64 w % 2 ^ 64 := by rw [Nat.mod_eq_of_lt (wrap_lt 64 w), ← wrap_natCast, wrap_congr h]
  exact congrArg (s.onProg e) (funext fun q => q.setG_congr hmod)

theorem State.brc_eq_moves (fa fb : Fin 16) (c : MCond) (imm : Word) :
    (if compareAt 64 (MCond.num c) (p.g fa) (p.g fb) then s.branch e p imm else s) =
      s.moves e p none (if MCond.holds c (p.g fa) (p.g fb) then some imm else none) := by
  rw [compareAt_num c (p.g_lt fa) (p.g_lt fb)]
  cases MCond.holds c (p.g fa) (p.g fb) <;> rfl

/-- A loop counts its register down and branches unless it was 1; g0 stays 0 (R191). -/
theorem State.loop_eq_moves (fa : Fin 16) (imm : Word) :
    (if (p.setG fa (p.g fa + (2 ^ 64 - 1))).g fa ≠ 0 then (s.setReg e fa (p.g fa + (2 ^ 64 - 1))).branch e p imm
      else s.setReg e fa (p.g fa + (2 ^ 64 - 1))) =
      s.moves e p (some (fa, (p.g fa : Int) - 1)) (if fa.val ≠ 0 ∧ p.g fa ≠ 1 then some imm else none) := by
  have hset : s.setReg e fa (p.g fa + (2 ^ 64 - 1)) = s.moves e p (some (fa, (p.g fa : Int) - 1)) none :=
    s.setReg_eq_moves e p (Int.modEq_iff_dvd.2 ⟨-1, by push_cast; ring⟩)
  have hlt := p.g_lt fa
  have hzero : fa.val = 0 → p.g fa = 0 := fun h => by simp [Prog.g, h]
  have hleft : (p.setG fa (p.g fa + (2 ^ 64 - 1))).g fa ≠ 0 ↔ fa.val ≠ 0 ∧ p.g fa ≠ 1 := by
    rw [Prog.g_setG]
    by_cases h : fa.val = 0
    · simp [h, hzero h]
    · simp only [h, ne_eq, not_false_eq_true, and_self, if_true, true_and]
      omega
  rw [hset]
  by_cases h : fa.val ≠ 0 ∧ p.g fa ≠ 1
  · rw [if_pos (hleft.2 h), if_pos h]
    rfl
  · rw [if_neg (mt hleft.1 h), if_neg h]

end

theorem command_congr {c : CmdSpec} {f g : EngRef → Prog → State → State} (s : State) (h : ∀ e p s, f e p s = g e p s) :
    command c f s = command c g s := by
  rw [show f = g from funext fun e => funext fun p => funext (h e p)]

/-- Settles O31: each command writes a register, branches, or both, from the state in which it starts. -/
theorem engineArithmeticAndBranches : Obligations.EngineArithmeticAndBranches := by
  unfold Obligations.EngineArithmeticAndBranches
  intro signed holds runs
  have hruns {i : Instr} {counted : Bool} {value : Prog → Written} {jump : Prog → Option Word}
      (hexec : ∀ s, exec i s = command { counted := counted } (fun e p s => s.moves e p (value p) (jump p)) s) :
      runs i value jump := by
    intro s e p h
    obtain ⟨t, ht, hq, hmem, hcomp, hctl, hdies, hmod⟩ := command_moves h (hexec s)
    obtain ⟨hphase, hwrites, hncmd, hcaddr⟩ :=
      Prog.moved_keeps (p := p) (q := p.starts counted false) (value := value p) (jump := jump p)
    refine ⟨t, _, ht, hq, hphase.trans h.2.2.1, hwrites, fun n => Prog.moved_g n, Prog.moved_pc, fun hown => ?_,
      hmem, hcomp, hctl, hdies, hmod⟩
    rw [hncmd, hcaddr]
    simp [Prog.starts, Prog.startCmd, hown, bump]
  clear_value runs
  refine ⟨hruns (counted := true) fun s => rfl, ?seti, ?addi, ?add, ?mad, fun imm => hruns (counted := true) fun s => rfl, ?brc,
    ?loop⟩
  case seti =>
    exact fun fa x => hruns (counted := false) fun s => command_congr s fun e p s => s.setReg_eq_moves e p rfl
  case addi =>
    exact fun fa fb x => hruns (counted := true) fun s => command_congr s fun e p s => s.setReg_eq_moves e p (by push_cast; rfl)
  case add =>
    exact fun fa fb fc imm => hruns (counted := true) fun s => command_congr s fun e p s =>
      s.setReg_eq_moves e p (by push_cast; exact (sext64_modEq imm).add_left _)
  case mad =>
    exact fun fa fb fc x => hruns (counted := true) fun s => command_congr s fun e p s => s.setReg_eq_moves e p (by push_cast; rfl)
  case brc =>
    refine fun fa fb c imm => hruns (counted := true) fun s => ?_
    simp only [exec, execCmdBrc]
    exact command_congr s fun e p s => s.brc_eq_moves e p fa fb c imm
  case loop =>
    exact fun fa imm => hruns (counted := true) fun s => command_congr s fun e p s => s.loop_eq_moves e p fa imm

end Sys2Proof.Machine
end

section
/-! ## Engine commands: memory

Proof of the statement over the commands that read and write memory, fence and end (R191 to R193). -/

namespace Sys2Proof.Machine

/-! ### What a walk leaves of the engines (R308) -/

section
variable (s : State)

theorem State.retireFrame_eng (die frame : Nat) : (s.retireFrame die frame).eng = s.eng := by
  unfold State.retireFrame
  split <;> simp

theorem State.markSector_eng (sector : Nat) : (s.markSector sector).eng = s.eng := by
  rw [State.markSector, State.retireFrame_eng, State.ring_eng]

theorem State.checkMac_eng (world pa n : Nat) : (s.checkMac world pa n).eng = s.eng := by
  unfold State.checkMac
  split
  · refine foldl_keeps (fun t : State => t.eng = s.eng) _ (fun t k ht => ?_) _ _ rfl
    split
    · exact (t.markSector_eng k).trans ht
    · exact ht
  · rfl

theorem State.markWalk_eng (die slot va : Nat) : (s.markWalk die slot va).eng = s.eng := by
  unfold State.markWalk
  split
  · rfl
  · split
    · exact s.checkMac_eng ..
    · rfl

/-- A walk changes no engine. -/
theorem State.keepWalk_eng (die slot va : Nat) (need : Need) : (s.keepWalk die slot va need).eng = s.eng := by
  simp only [State.keepWalk]
  split
  · exact (State.markWalk_eng ..).trans (s.onDie_eng ..)
  · exact (State.onDie_eng ..).trans (s.onDie_eng ..)

theorem State.keepWalks_eng (die slot va n : Nat) (need : Need) : (s.keepWalks die slot va n need).eng = s.eng :=
  foldl_keeps (fun t : State => t.eng = s.eng) _ (fun t _ ht => (t.keepWalk_eng ..).trans ht) _ _ rfl

theorem State.prog?_congr {t : State} (h : t.eng = s.eng) (e : EngRef) : t.prog? e = s.prog? e := by
  cases e <;> simp only [State.prog?, State.root, State.canopy, h]

end

/-! ### Writes that are held (R192) -/

section
variable {s : State} {e : EngRef} {p q : Prog}

/-- A program holds the bytes that it writes, with their place among its commands, until they are performed. -/
def State.holdWrite (s : State) (e : EngRef) (slot place va : Nat) (bytes : List Byte) : State :=
  let t := s.keepWalks (engDie e) slot va bytes.length .write
  if bytes.isEmpty then t
  else t.onProg e fun q => { q with writes := q.writes ++ [{ place := place, va := va, bytes := bytes }] }

theorem State.engStore_of_writable {va : Nat} {bytes : List Byte} (hp : s.prog? e = some q)
    (hok : s.engWriteFault (engDie e) q.slot va bytes.length = none) :
    s.engStore e va bytes = s.holdWrite e q.slot q.issued va bytes := by
  have hq : (s.keepWalks (engDie e) q.slot va bytes.length .write).prog? e = some q :=
    (s.prog?_congr (s.keepWalks_eng ..) e).trans hp
  simp only [State.engStore, hp, hok, State.holdWrite]
  split
  · rfl
  · exact State.onProg_congr hq rfl

theorem State.engStore_of_fault {va c : Nat} {bytes : List Byte} (hp : s.prog? e = some q)
    (hfault : s.engWriteFault (engDie e) q.slot va bytes.length = some c) :
    s.engStore e va bytes = (s.keepWalks (engDie e) q.slot va bytes.length .write).progFault e c := by
  simp only [State.engStore, hp, hfault]

theorem toBytes_length (n v : Nat) : (toBytes n v).length = n := by
  induction n generalizing v with
  | zero => rfl
  | succ n ih => simp only [toBytes, List.length_cons, ih]

/-- Bytes hold a value modulo their range. -/
theorem toBytes_mod (n v : Nat) : toBytes n (v % 256 ^ n) = toBytes n v := by
  induction n generalizing v with
  | zero => rfl
  | succ n ih =>
    have hlow : BitVec.ofNat 8 (v % 256 ^ (n + 1)) = BitVec.ofNat 8 v := by
      refine BitVec.eq_of_toNat_eq ?_
      rw [BitVec.toNat_ofNat, BitVec.toNat_ofNat, Nat.mod_mod_of_dvd _ ⟨256 ^ n, by ring⟩]
    have hhigh : v % 256 ^ (n + 1) / 256 = v / 256 % 256 ^ n := by rw [pow_succ', Nat.mod_mul_right_div_self]
    rw [toBytes, toBytes, hlow, hhigh, ih]

/-! ### Loads and stores of a program -/

/-- The address of an LDG or STG. -/
def Prog.addr (p : Prog) (fb : Fin 16) (x : Double) : Nat := (p.g fb + x.toNat) % 2 ^ 64

section
variable {fa fb : Fin 16} {x : Double} (h : Starts s e p false false [(p.addr fb x, 8)])
include h

theorem exec_cmdLdg_misaligned (hodd : p.addr fb x % 8 ≠ 0) :
    exec (.cmdLdg fa fb x) s = .next ((s.started e).progFault e 8) := by
  simp only [exec, execCmdLdg]
  exact (command_started h rfl rfl).trans (congrArg _ (if_pos hodd))

theorem exec_cmdLdg_of_read {b : List Byte} (heven : p.addr fb x % 8 = 0)
    (hread : (s.started e).engRead (engDie e) p.slot (p.addr fb x) 8 = .ok b) :
    exec (.cmdLdg fa fb x) s = .next ((s.started e).setReg e fa (ofBytes b)) := by
  simp only [exec, execCmdLdg]
  refine (command_started h rfl rfl).trans (congrArg _ ((if_neg (not_not.2 heven)).trans ?_))
  simp only [Prog.addr] at hread
  simp only [addr64, hread]

theorem exec_cmdLdg_of_error {c : Nat} (heven : p.addr fb x % 8 = 0)
    (hread : (s.started e).engRead (engDie e) p.slot (p.addr fb x) 8 = .error c) :
    exec (.cmdLdg fa fb x) s = .next ((s.started e).progError e c [(p.addr fb x, 8)]) := by
  simp only [exec, execCmdLdg]
  refine (command_started h rfl rfl).trans (congrArg _ ((if_neg (not_not.2 heven)).trans ?_))
  simp only [Prog.addr] at hread
  simp only [addr64, hread, Prog.addr]

end

section
variable {fa fb : Fin 16} {x : Double} {rel : Bool} (h : Starts s e p rel)
include h

theorem exec_cmdStg_misaligned (hodd : p.addr fb x % 8 ≠ 0) :
    exec (.cmdStg fa fb x rel) s = .next ((s.started e).progFault e 8) := by
  simp only [exec, execCmdStg]
  exact (command_started h rfl rfl).trans (congrArg _ (if_pos hodd))

theorem exec_cmdStg_of_aligned (heven : p.addr fb x % 8 = 0) :
    exec (.cmdStg fa fb x rel) s = .next ((s.started e).engStore e (p.addr fb x) (toBytes 8 (p.g fa))) := by
  simp only [exec, execCmdStg]
  exact (command_started h rfl rfl).trans (congrArg _ (if_neg (not_not.2 heven)))

end

theorem exec_cmdAtom_of_good {fa fb : Fin 16} {x : Double} {b : List Byte} (h : Starts s e p false false [(p.g fb, 8)])
    (heven : p.g fb % 8 = 0) (hwrite : (s.started e).engWriteFault (engDie e) p.slot (p.g fb) 8 = none)
    (hread : (s.started e).engRead (engDie e) p.slot (p.g fb) 8 = .ok b) :
    exec (.cmdAtom fa fb x) s = .next (((s.started e).engWrite (engDie e) p.dispatch p.slot (p.g fb)
      (toBytes 8 ((ofBytes b + x.toNat) % 2 ^ 64))).setReg e fa (ofBytes b)) := by
  simp only [exec, execCmdAtom]
  refine (command_started h rfl rfl).trans (congrArg _ ((if_neg (not_not.2 heven)).trans ?_))
  simp only [hwrite, hread]
  rw [show (2 : Nat) ^ 64 = 256 ^ 8 by norm_num, toBytes_mod]

/-! ### Moves and sums (R191) -/

section
variable {fa fb : Fin 16} {imm : Word} (h : Starts s e p false true [(p.g fb, imm.toNat)])
include h

theorem exec_cmdMove_overlapping (hmeet : overlaps (p.g fa) imm.toNat (p.g fb) imm.toNat = true) :
    exec (.cmdMove fa fb imm) s = .next ((s.started e true).progFault e 9) := by
  simp only [exec, execCmdMove]
  exact (command_started h rfl rfl).trans (congrArg _ (if_pos hmeet))

theorem exec_cmdMove_of_read {b : List Byte} (hapart : overlaps (p.g fa) imm.toNat (p.g fb) imm.toNat = false)
    (hread : (s.started e true).engRead (engDie e) p.slot (p.g fb) imm.toNat = .ok b) :
    exec (.cmdMove fa fb imm) s = .next ((s.started e true).engStore e (p.g fa) b) := by
  simp only [exec, execCmdMove]
  refine (command_started h rfl rfl).trans (congrArg _ ((if_neg (ne_true_of_eq_false hapart)).trans ?_))
  simp only [hread]

theorem exec_cmdMove_of_error {c : Nat} (hapart : overlaps (p.g fa) imm.toNat (p.g fb) imm.toNat = false)
    (hread : (s.started e true).engRead (engDie e) p.slot (p.g fb) imm.toNat = .error c) :
    exec (.cmdMove fa fb imm) s = .next ((s.started e true).progError e c [(p.g fb, imm.toNat)]) := by
  simp only [exec, execCmdMove]
  refine (command_started h rfl rfl).trans (congrArg _ ((if_neg (ne_true_of_eq_false hapart)).trans ?_))
  simp only [hread]

end

/-- Two arrays of a sum are one array or do not meet (R191). -/
theorem sameOrApart_passes {a c n : Nat} (h : c = a ∨ overlaps c n a n = false) : (c ≠ a && overlaps c n a n) = false := by
  rcases h with h | h
  · simp [h]
  · rw [h, Bool.and_false]

theorem exec_cmdSum_of_good {fa fb fc : Fin 16} {imm : Word} {bf16 : Bool} {x y : List Byte}
    (h : Starts s e p false true [(p.g fa, imm.toNat), (p.g fb, imm.toNat)]) :
    let t := s.started e true
    let n := imm.toNat
    let es := if bf16 then 2 else 4
    n % es = 0 → p.g fa % es = 0 → p.g fb % es = 0 → p.g fc % es = 0 →
    (p.g fc = p.g fa ∨ overlaps (p.g fc) n (p.g fa) n = false) →
    (p.g fc = p.g fb ∨ overlaps (p.g fc) n (p.g fb) n = false) →
    t.engRead (engDie e) p.slot (p.g fa) n = .ok x → t.engRead (engDie e) p.slot (p.g fb) n = .ok y →
    exec (.cmdSum fa fb fc imm bf16) s = .next (t.engStore e (p.g fc) (sumArrays bf16 x y)) := by
  intro t n es hn ha hb hc hca hcb hx hy
  have hodd : ¬(p.g fa % es ≠ 0 ∨ p.g fb % es ≠ 0 ∨ p.g fc % es ≠ 0) := by simp only [ha, hb, hc]; decide
  have hmeet : ¬((p.g fc ≠ p.g fa && overlaps (p.g fc) n (p.g fa) n) ||
      (p.g fc ≠ p.g fb && overlaps (p.g fc) n (p.g fb) n)) = true := by
    rw [sameOrApart_passes hca, sameOrApart_passes hcb]
    decide
  simp only [exec, execCmdSum]
  refine (command_started h rfl rfl).trans (congrArg _ ((if_neg (not_not.2 hn)).trans ((if_neg hodd).trans
    ((if_neg hmeet).trans ?_))))
  simp only [t, n] at hx hy
  simp only [hx, hy]
  rfl

/-! ### Fences and ends (R192, R193) -/

theorem exec_cmdFence_of_wide {scope : Scope} (hscope : 2 ≤ scope.level) (h : Starts s e p true) :
    exec (.cmdFence scope) s = .next (s.started e) := by
  have h' : Starts s e p (decide (2 ≤ scope.level)) := by rwa [decide_eq_true hscope]
  simp only [exec, execCmdFence]
  exact (command_started h' rfl rfl).trans (congrArg _ (if_neg (Nat.not_lt.2 hscope)))

end

/-- Settles O32: each command answers from the state in which it starts; what it writes is held at the place that the start gave
it. -/
theorem engineMemoryCommands : Obligations.EngineMemoryCommands := by
  unfold Obligations.EngineMemoryCommands
  intro at' walked held
  have hheld {s : State} {e : EngRef} {p : Prog} {r d : Bool} {l : List (Nat × Nat)} (h : Starts s e p r d l) (data : Bool)
      (va : Nat) (bytes : List Byte) (hok : (s.started e data).engWriteFault (engDie e) p.slot va bytes.length = none) :
      (s.started e data).engStore e va bytes = held (s.started e data) e p va bytes :=
    State.engStore_of_writable (h.prog?_started data) hok
  refine ⟨?ldg, ?stg, ?atom, ?move, ?sum, fun scope hscope s e p h => exec_cmdFence_of_wide hscope h, ?finish, ?bad⟩
  case ldg =>
    intro fa fb x s e p h t a
    exact ⟨exec_cmdLdg_misaligned h, fun b => exec_cmdLdg_of_read h, fun c => exec_cmdLdg_of_error h⟩
  case stg =>
    intro fa fb x rel s e p h t a
    refine ⟨exec_cmdStg_misaligned h, fun heven hok => ?_, fun c heven hfault => ?_⟩
    · rw [exec_cmdStg_of_aligned h heven, hheld h false _ _ (by rwa [toBytes_length])]
      rfl
    · rw [exec_cmdStg_of_aligned h heven, State.engStore_of_fault (h.prog?_started false) (by rwa [toBytes_length]), toBytes_length]
      rfl
  case atom =>
    intro fa fb x s e p b h heven t hwrite hread
    exact exec_cmdAtom_of_good h heven hwrite hread
  case move =>
    intro fa fb imm s e p h t n
    refine ⟨exec_cmdMove_overlapping h, fun b hapart hread hok => ?_, fun c => exec_cmdMove_of_error h⟩
    rw [exec_cmdMove_of_read h hapart hread, hheld h true _ _ hok]
  case sum =>
    intro fa fb fc imm bf16 s e p x y h t n es hn ha hb hc hca hcb hx hy hok
    rw [exec_cmdSum_of_good h hn ha hb hc hca hcb hx hy, hheld h true _ _ hok]
  case finish =>
    intro s e p h
    simp only [exec, execCmdEnd]
    exact command_started h rfl rfl
  case bad =>
    intro opc s e p h
    simp only [exec, execCmdBadOpcode]
    exact command_started h rfl rfl

end Sys2Proof.Machine
end

section
/-! ## Engine commands: pushes, signals, tokens and collectives

Proof of the statement over PUSH, PUSHMC, STEP, SIG, TOK, RED and CHUNK (R191, R192, R237, R246, R248, R273, R275, R277). -/

namespace Sys2Proof.Machine

section
variable {s : State} {e : EngRef} {p : Prog}

/-! ### Pushes and steps (R237, R246 to R248) -/

theorem exec_cmdPush_of_good {fa fb fc : Fin 16} {t : State} {r : BitVec 512} {l : List (Desc × Nat)}
    (h : Starts s e p false true [(p.g fb, 64)]) (hhere : s.descSaved p.dispatch (p.g fa) = false)
    (hrecord : (s.started e true).pushRecord e p.slot (p.g fb) (p.g fc) = (t, .ok r))
    (hdesc : t.checkDescs (engDie e) p.dispatch (recSize r.toNat) [p.g fa] = .ok l) :
    exec (.cmdPush fa fb fc) s = .next (t.startPush e p r (p.g fc) false l) := by
  simp only [exec, execCmdPush]
  refine (command_started h ((s.descSaved_passTurn ..).trans hhere) rfl).trans (congrArg _ ?_)
  simp only [hrecord, hdesc]

theorem exec_cmdPushmc_of_good {fa fb fc : Fin 16} {imm : Word} {t : State} {r : BitVec 512} {ds : List Nat}
    {l : List (Desc × Nat)} (h : Starts s e p false true [(p.g fa, 8 * imm.toNat), (p.g fb, 64)]) (hpos : 1 ≤ imm.toNat)
    (hle : imm.toNat ≤ 32)
    (hhere : ∀ ds, (s.passTurn e).descList e p (p.g fa) imm.toNat = .ok ds → ∀ d ∈ ds, s.descSaved p.dispatch d = false)
    (hrecord : (s.started e true).pushRecord e p.slot (p.g fb) (p.g fc) = (t, .ok r))
    (hlist : t.descList e p (p.g fa) imm.toNat = .ok ds)
    (hdesc : t.checkDescs (engDie e) p.dispatch (recSize r.toNat) ds = .ok l) :
    exec (.cmdPushmc fa fb fc imm) s = .next (t.startPush e p r (p.g fc) true l) := by
  simp only [exec, execCmdPushmc]
  refine (command_started h ?_ rfl).trans (congrArg _ ((if_neg (by omega)).trans ?_))
  · cases hds : (s.passTurn e).descList e p (p.g fa) imm.toNat with
    | error c => simp only [hds, Bool.and_false]
    | ok ds =>
      have hnone : ds.any (fun d => (s.passTurn e).descSaved p.dispatch d) = false :=
        List.any_eq_false.2 fun d hd => by simp [hhere ds hds d hd]
      simp only [hds, hnone, Bool.and_false]
  · simp only [hrecord, hlist, hdesc]

theorem exec_cmdStep_of_good {fa fb : Fin 16} {t : State} {r : BitVec 512} (h : Starts s e p false false [(p.g fb, 64)])
    (hrecord : (s.started e).pushRecord e p.slot (p.g fb) (p.g fa) = (t, .ok r)) :
    exec (.cmdStep fa fb) s = .next (t.setReg e fa (stepCoords r.toNat (p.g fa))) := by
  simp only [exec, execCmdStep]
  refine (command_started h rfl rfl).trans (congrArg _ ?_)
  simp only [hrecord]

/-! ### Signals and tokens (R191, R192) -/

@[simp] theorem State.signalWaits_passTurn (s : State) (e : EngRef) (p : Prog) (d : Nat) :
    (s.passTurn e).signalWaits e p d = s.signalWaits e p d := by
  unfold State.signalWaits
  rw [State.descSaved_passTurn]
  cases e <;> rfl

section
variable {fa : Fin 16} {imm : Word} (h : Starts s e p true) (hhere : s.signalWaits e p (p.g fa) = false)
include h hhere

theorem exec_cmdSig_of_reserved (hbits : bits (p.g fa) 63 58 ≠ 0) :
    exec (.cmdSig fa imm) s = .next ((s.started e).progFault e 4) := by
  have hfault : (s.started e).signalFault (engDie e) p.dispatch (p.g fa) = some 4 := if_pos hbits
  simp only [exec, execCmdSig]
  refine (command_started h ((s.signalWaits_passTurn ..).trans hhere) rfl).trans (congrArg _ ?_)
  simp only [hfault]

theorem exec_cmdSig_of_good (hbits : bits (p.g fa) 63 58 = 0)
    (hbar : (s.started e).barFault (engDie e) p.dispatch (descOf (p.g fa)) = none) :
    let t := s.started e
    let d := descOf (p.g fa)
    exec (.cmdSig fa imm) s = .next
      (match d.bar with
        | some o => if t.barPoison d.core o then t.progBadData e o else t.arrive d.core o imm.toNat
        | none => t) := by
  have hfault : (s.started e).signalFault (engDie e) p.dispatch (p.g fa) = none := (if_neg (not_not.2 hbits)).trans hbar
  simp only [exec, execCmdSig]
  refine (command_started h ((s.signalWaits_passTurn ..).trans hhere) rfl).trans (congrArg _ ?_)
  cases (descOf (p.g fa)).bar <;> simp only [hfault]

end

theorem exec_cmdTok_of_up {imm : Word} {die : BitVec 10} (h : Starts s e p true)
    (hup : (s.started e).dieUp (if die.toNat = 0x3FF then engDie e else die.toNat) = true) :
    exec (.cmdTok imm die) s = .next ((s.started e).send (engDie e)
      (.token p.slot imm.toNat (if die.toNat = 0x3FF then engDie e else die.toNat) none)) := by
  simp only [exec, execCmdTok]
  exact (command_started h rfl rfl).trans (congrArg _ (if_pos hup))

/-! ### Collectives (R191, R273, R275, R277) -/

theorem State.started_dies (s : State) (e : EngRef) (data : Bool) : (s.started e data).dies = s.dies :=
  (State.onProg_dies ..).trans (State.passTurn_dies ..)

theorem State.comms_started {d k : Nat} {c : Comm} {data : Bool} (h : tfind (s.die d).comms k = some c) :
    tfind ((s.started e data).die d).comms k = some c := by
  rwa [State.die, State.started_dies]

section
variable {fa fb : Fin 16} {imm : Word} {comm : BitVec 8} {bf16 : Bool} {c : Comm}

/-- The communicator's next RED on the die takes the next sequence number (R275). -/
def State.countRed (s : State) (e : EngRef) (p : Prog) (comm : BitVec 8) : State :=
  s.onDie (engDie e) fun d => { d with
    comms := tmap (fun c => { c with seq := c.seq + 1 }) d.comms (p.slot * 256 + comm.toNat) }

variable (h : Starts s e p false true (p.redReads 1024 (p.g fa) imm.toNat)) (hcanopy : isCanopy e = true)
  (hcomm : tfind (s.die (engDie e)).comms (p.slot * 256 + comm.toNat) = some c)
include h hcanopy hcomm

theorem exec_cmdRed_of_contributed {b : List Byte} (htree : p.tree = true)
    (hread : (s.started e true).contributed e p c (p.g fa) imm.toNat = .ok b) :
    let node := lowestRank c.members 0 c.rank
    exec (.cmdRed fa fb imm comm bf16) s = .next
      (((((s.started e true).countRed e p comm).onProg e fun q =>
        { q with reds := tput q.reds (c.seq * 256 + comm.toNat)
                   { place := p.issued + 1, src := p.g fa, dst := p.g fb, length := imm.toNat, block := none } }).send (engDie e)
        (.child p.slot comm.toNat c.attempt c.seq 0 c.rank node (nth 0 c.members node)
          { op := p.op, bf16 := bf16, length := imm.toNat, data := elements bf16 b }))) := by
  have hfound := State.comms_started (e := e) (data := true) hcomm
  simp only [exec, execCmdRed]
  refine (command_started h rfl rfl).trans (congrArg _ ?_)
  simp only [hcanopy, hfound, htree, hread]
  rfl

/-- A leaf whose source fails ends its attempt, where the data cannot be corrected, or its program (R193, R325). -/
theorem exec_cmdRed_of_error {k : Nat} (htree : p.tree = true)
    (hread : (s.started e true).contributed e p c (p.g fa) imm.toNat = .error k) :
    let rs := p.redReads c.members.length (p.g fa) imm.toNat
    let t := (s.started e true).engMark (engDie e) p.slot rs
    exec (.cmdRed fa fb imm comm bf16) s = .next
      (if k = 3 then (t.consume p.dispatch (engDie e) 6 (t.badPlace (engDie e) p.slot rs)).sendAbort p.slot (engDie e)
        comm.toNat c.attempt
      else t.progFault e k) := by
  have hfound := State.comms_started (e := e) (data := true) hcomm
  simp only [exec, execCmdRed]
  refine (command_started h rfl rfl).trans (congrArg _ ?_)
  simp only [hcanopy, hfound, htree, hread]
  rfl

theorem exec_cmdRed_of_part (htree : p.tree = false) :
    exec (.cmdRed fa fb imm comm bf16) s =
      .next (((s.started e true).countRed e p comm).startPart e p c comm.toNat (p.g fa) (p.g fb) imm.toNat) := by
  have hfound := State.comms_started (e := e) (data := true) hcomm
  simp only [exec, execCmdRed]
  refine (command_started h rfl rfl).trans (congrArg _ ?_)
  simp only [hcanopy, hfound, htree]
  rfl

end

section
variable {c : Comm} {comm src dst length : Nat}

/-- What a RED of a ring or direct collective waits for: its block, named by g5 (R277; log entry 62). -/
def Prog.partWait (p : Prog) (src dst length : Nat) : RedWait :=
  { place := p.issued + 1, src := src, dst := dst, length := length, block := some (p.g 5) }

/-- The RED of a ring or direct collective waits for its block (R277). -/
def State.awaitPart (s : State) (e : EngRef) (p : Prog) (c : Comm) (comm src dst length : Nat) : State :=
  s.onProg e fun q => { q with reds := tput q.reds (c.seq * 256 + comm) (p.partWait src dst length) }

/-- The rank that starts a block: the one after it where the members add, its own otherwise (R277). -/
def Prog.firstRank (p : Prog) (c : Comm) : Nat := if p.op = 0 ∨ p.op = 4 then (p.g 5 + 1) % c.members.length else p.g 5

theorem firstRank_eq : (if p.op = 0 || p.op = 4 then (p.g 5 + 1) % c.members.length else p.g 5) = p.firstRank c := by
  simp [Prog.firstRank]

theorem startPart_of_other (hrank : c.rank ≠ p.firstRank c) :
    s.startPart e p c comm src dst length = s.awaitPart e p c comm src dst length := by
  simp only [State.startPart, firstRank_eq]
  exact if_neg hrank

theorem startPart_of_first {b : List Byte} (hrank : c.rank = p.firstRank c)
    (hread : (s.awaitPart e p c comm src dst length).engRead (engDie e) p.slot src length = .ok b) :
    s.startPart e p c comm src dst length = (s.awaitPart e p c comm src dst length).passPart e p c comm (c.seq * 256 + comm)
      (p.g 5) (p.op = 0 || p.op = 4)
      (p.partWait src dst length) b := by
  simp only [State.startPart, firstRank_eq]
  refine (if_pos hrank).trans ?_
  simp only [State.awaitPart, Prog.partWait] at hread
  simp only [hread]
  rfl

end

/-! ### The chunk slot (R192) -/

theorem exec_cmdChunk_of_counted (h : Starts s e p) (hcounted : p.internal = false ∨ p.tree = true) :
    exec .cmdChunk s = .next ((s.started e).onProg e fun q => { q with holdsChunk := false }) := by
  have hopen : ¬(p.internal && !p.tree) = true := by rcases hcounted with hc | hc <;> simp [hc]
  simp only [exec, execCmdChunk]
  exact (command_started h rfl rfl).trans (congrArg _ (if_neg hopen))

/-- How many commands the expansion of a ring or direct collective counts is a free value (log entry 62). -/
theorem exec_cmdChunk_of_free (h : Starts s e p) (hinternal : p.internal = true) (htree : p.tree = false) :
    let t := (s.started e).onProg e fun q => { q with holdsChunk := false }
    exec .cmdChunk s = .next (t.free.2.onProg e fun q => { q with ncmd := min (2 ^ 32 - 1) (q.ncmd + t.free.1) }) := by
  have hopen : (p.internal && !p.tree) = true := by rw [hinternal, htree]; rfl
  simp only [exec, execCmdChunk]
  exact (command_started h rfl rfl).trans (congrArg _ (if_pos hopen))

end

/-- Settles O33: the records and descriptors that each command reads are good, and a RED of a ring or direct collective starts its
block or waits for it. -/
theorem enginePushAndSignalCommands : Obligations.EnginePushAndSignalCommands := by
  unfold Obligations.EnginePushAndSignalCommands
  intro counts
  refine ⟨?push, ?pushmc, ?step, ?sig, ?tok, ?red, ?chunk⟩
  case push =>
    intro fa fb fc s e p t r l h hhere hrecord hdesc
    exact exec_cmdPush_of_good h hhere hrecord hdesc
  case pushmc =>
    intro fa fb fc imm s e p t r ds l h hpos hle hhere hrecord hlist hdesc
    exact exec_cmdPushmc_of_good h hpos hle hhere hrecord hlist hdesc
  case step =>
    intro fa fb s e p t r h hrecord
    exact exec_cmdStep_of_good h hrecord
  case sig =>
    intro fa imm s e p h hhere t d
    exact ⟨exec_cmdSig_of_reserved h hhere, exec_cmdSig_of_good h hhere⟩
  case tok =>
    intro imm die s e p h d hup
    exact exec_cmdTok_of_up h hup
  case red =>
    intro fa fb imm comm bf16 s e p c h hcanopy hcomm key node
    refine ⟨fun b => exec_cmdRed_of_contributed h hcanopy hcomm, fun k => exec_cmdRed_of_error h hcanopy hcomm,
      fun htree => ?_⟩
    intro block w t first
    rw [exec_cmdRed_of_part h hcanopy hcomm htree]
    exact ⟨fun hrank => congrArg _ (startPart_of_other hrank), fun b hrank hread => congrArg _ (startPart_of_first hrank hread)⟩
  case chunk =>
    intro s e p h t
    exact ⟨exec_cmdChunk_of_counted h, exec_cmdChunk_of_free h⟩

end Sys2Proof.Machine
end

section
/-! ## Engine commands: waits

Proof of the statement over WTOK, WBAR and WMEM, over waiting programs as they are judged again, and over pushes that wait for
credit (R191 to R193, R278, R325). -/

namespace Sys2Proof.Machine

section
variable {s : State} {e : EngRef} {p : Prog}

/-! ### A wait as it is judged (R193) -/

/-- A program gives its chunk slot up and waits for a condition. -/
def State.waitsFor (s : State) (e : EngRef) (cmd : Instr) (deadline : Option Nat) : State :=
  s.onProg e fun q => { q with phase := .waiting cmd deadline, holdsChunk := false }

/-- A program runs on. -/
def State.runsOn (s : State) (e : EngRef) : State := s.onProg e fun q => { q with phase := .running }

section
variable {cmd : Instr} {deadline : Option Nat}

theorem judgeWait_of_met (h : s.engineCond e p cmd = .ok true) : s.judgeWait e p cmd deadline = s.waitDone e p cmd := by
  simp only [State.judgeWait, h]

theorem judgeWait_of_unmet (h : s.engineCond e p cmd = .ok false) : s.judgeWait e p cmd deadline = s.waitsFor e cmd deadline := by
  simp only [State.judgeWait, h]
  rfl

theorem judgeWait_of_badBarrier {fa : Fin 16} {phase : Bool} {tmo : BitVec 28} {c : Nat}
    (h : s.engineCond e p (.cmdWbar fa phase tmo) = .error c) :
    s.judgeWait e p (.cmdWbar fa phase tmo) deadline = s.progBadData e ((descOf (p.g fa)).bar.getD 0) := by
  simp only [State.judgeWait, h]

theorem judgeWait_of_badWord {fa fb : Fin 16} {cmp : MCond} {wide : Bool} {tmo : BitVec 28} {c : Nat}
    (h : s.engineCond e p (.cmdWmem fa fb cmp wide tmo) = .error c) :
    s.judgeWait e p (.cmdWmem fa fb cmp wide tmo) deadline = s.progError e c [(p.g fa, if wide then 8 else 4)] := by
  simp only [State.judgeWait, h]

end

theorem State.deadline_started (s : State) (e : EngRef) (data : Bool) (tmo : BitVec 28) :
    (s.started e data).deadline tmo = s.deadline tmo := by
  cases e <;> rfl

/-! ### Tokens (R191, R278) -/

theorem State.tokens_onProg (s : State) (e : EngRef) (f : Prog → Prog) (die slot id : Nat) :
    (s.onProg e f).tokens die slot id = s.tokens die slot id := by
  simp only [State.tokens, State.die, State.onProg_dies]

section
variable {imm : Word} {consume : Bool} {tmo : BitVec 28}

theorem exec_cmdWtok (h : Starts s e p) : exec (.cmdWtok imm consume tmo) s =
    .next ((s.started e).judgeWait e p (.cmdWtok imm consume tmo) ((s.started e).deadline tmo)) := by
  simp only [exec, execCmdWtok]
  exact command_started h rfl rfl

theorem exec_cmdWtok_of_met (h : Starts s e p) (htoken : 1 ≤ (s.started e).tokens (engDie e) p.slot imm.toNat) :
    let t := s.started e
    exec (.cmdWtok imm consume tmo) s = .next (if consume then
      (t.runsOn e).setTokens (engDie e) p.slot imm.toNat (t.tokens (engDie e) p.slot imm.toNat - 1) else t.runsOn e) := by
  intro t
  have hmet : t.engineCond e p (.cmdWtok imm consume tmo) = .ok true := congrArg _ (decide_eq_true htoken)
  rw [exec_cmdWtok h, judgeWait_of_met hmet]
  cases consume with
  | false => rfl
  | true =>
    simp only [State.waitDone, State.tokens_onProg]
    rfl

theorem exec_cmdWtok_of_unmet (h : Starts s e p) (htoken : (s.started e).tokens (engDie e) p.slot imm.toNat = 0) :
    let t := s.started e
    exec (.cmdWtok imm consume tmo) s = .next (t.waitsFor e (.cmdWtok imm consume tmo) (t.deadline tmo)) := by
  intro t
  have hunmet : t.engineCond e p (.cmdWtok imm consume tmo) = .ok false :=
    congrArg _ (decide_eq_false (by rw [htoken]; decide))
  rw [exec_cmdWtok h, judgeWait_of_unmet hunmet]

end

/-! ### Barriers (R191, R325) -/

/-- A good barrier lies in the barrier space of a group of the dispatch (R192). -/
theorem barrierGroup_of_barFault {t : State} {die dispatch o : Nat} {d : Desc} (hbar : d.bar = some o)
    (hgood : t.barFault die dispatch d = none) : (t.barrierGroup dispatch d.core o).isSome = true := by
  simp only [State.barFault, hbar] at hgood
  split at hgood
  · cases hgood
  · split at hgood
    · cases hgood
    · rename_i hreached
      simp only [Bool.not_eq_true', Bool.not_eq_false, Bool.and_eq_true] at hreached
      exact hreached.2

section
variable {fa : Fin 16} {phase : Bool} {tmo : BitVec 28} {o : Nat}

theorem exec_cmdWbar (h : Starts s e p) (hhere : s.descSaved p.dispatch (p.g fa) = false) (hbits : bits (p.g fa) 63 58 = 0)
    (hgood : (s.started e).barFault (engDie e) p.dispatch (descOf (p.g fa)) = none) (hbar : (descOf (p.g fa)).bar = some o) :
    exec (.cmdWbar fa phase tmo) s =
      .next ((s.started e).judgeWait e p (.cmdWbar fa phase tmo) ((s.started e).deadline tmo)) := by
  have hfault : (s.started e).signalFault (engDie e) p.dispatch (p.g fa) = none := (if_neg (not_not.2 hbits)).trans hgood
  simp only [exec, execCmdWbar]
  refine (command_started h ((s.descSaved_passTurn ..).trans hhere) rfl).trans (congrArg _ ?_)
  simp only [hfault, hbar]

/-- A barrier's phase is read where its group stands, unless its granule holds an error. -/
theorem engineCond_cmdWbar {t : State} (hgood : t.barFault (engDie e) p.dispatch (descOf (p.g fa)) = none)
    (hbar : (descOf (p.g fa)).bar = some o) :
    t.engineCond e p (.cmdWbar fa phase tmo) =
      if t.barPoison (descOf (p.g fa)).core o then .error 3
      else .ok (decide (t.barrierPhase (descOf (p.g fa)).core o = b2n phase)) := by
  have hgroup : ¬(t.barrierGroup p.dispatch (descOf (p.g fa)).core o).isNone = true := by
    rw [Option.isNone_iff_eq_none, ← ne_eq, Option.ne_none_iff_isSome]
    exact barrierGroup_of_barFault hbar hgood
  simp only [State.engineCond, hbar]
  exact if_neg hgroup

end

/-! ### Words of memory (R191) -/

@[simp] theorem State.translate_onProg (s : State) (e : EngRef) (f : Prog → Prog) (d n v : Nat) (k : Need) :
    (s.onProg e f).translate d n v k = s.translate d n v k := by
  apply State.translate_congr <;> simp

@[simp] theorem State.rangeWaits_onProg (s : State) (e : EngRef) (f : Prog → Prog) (d n v k : Nat) :
    (s.onProg e f).rangeWaits d n v k = s.rangeWaits d n v k := by
  unfold State.rangeWaits
  simp only [State.translate_onProg]
  cases e <;> rfl

section
variable {fa fb : Fin 16} {cmp : MCond} {wide : Bool} {tmo : BitVec 28} {b : List Byte}

theorem exec_cmdWmem (h : Starts s e p false false [(p.g fa, if wide then 8 else 4)])
    (heven : p.g fa % (if wide then 8 else 4) = 0) : exec (.cmdWmem fa fb cmp wide tmo) s =
      .next ((s.started e).judgeWait e p (.cmdWmem fa fb cmp wide tmo) ((s.started e).deadline tmo)) := by
  simp only [exec, execCmdWmem]
  exact (command_started h rfl rfl).trans (congrArg _ (if_neg (not_not.2 heven)))

theorem engineCond_cmdWmem (h : Starts s e p false false [(p.g fa, if wide then 8 else 4)])
    (hread : (s.started e).engRead (engDie e) p.slot (p.g fa) (if wide then 8 else 4) = .ok b) :
    (s.started e).engineCond e p (.cmdWmem fa fb cmp wide tmo) =
      .ok (compareAt (if wide then 64 else 32) (MCond.num cmp) (ofBytes b) (p.g fb)) := by
  obtain ⟨_, _, _, _, _, _, hroutes⟩ := h
  have hroute : ¬(s.started e).rangeWaits (engDie e) p.slot (p.g fa) (if wide then 8 else 4) = true := by
    rw [State.started, State.rangeWaits_onProg, State.rangeWaits_passTurn, hroutes _ (List.mem_singleton_self _)]
    decide
  simp only [State.engineCond, if_neg hroute, hread]

end

/-! ### Waiting programs (R92, R193) -/

section
variable {cmd : Instr} {deadline : Option Nat}

theorem exec_engineWaitMet_of_waiting (hp : s.prog? e = some p) (hphase : p.phase = .waiting cmd deadline) :
    exec (.engineWaitMet e) s = .next (s.judgeWait e p cmd deadline) := by
  simp only [exec, execEngineWaitMet, hp, hphase]

theorem exec_engineWaitMet_of_charging {l : List Nat} (hp : s.prog? e = some p) (hphase : p.phase = .charging l) :
    exec (.engineWaitMet e) s = .next (s.pushOn e l) := by
  simp only [exec, execEngineWaitMet, hp, hphase]

theorem exec_engineWaitTimeout_of_past {t : Nat} (hp : s.prog? e = some p) (hphase : p.phase = .waiting cmd (some t))
    (hpast : t ≤ s.rt) : exec (.engineWaitTimeout e) s = .next (s.progFault e 5) := by
  simp only [exec, execEngineWaitTimeout, hp, hphase]
  exact if_pos hpast

end

end

/-- Settles O35: a waiting command is judged as it starts and again while it waits, by its condition in that state. -/
theorem engineWaits : Obligations.EngineWaits := by
  unfold Obligations.EngineWaits
  intro deadline waits resumes
  have hdeadline (s : State) (e : EngRef) (tmo : BitVec 28) : (s.started e).deadline tmo = deadline s tmo := by
    have hzero : tmo.toNat = 0 ↔ tmo = 0 := by rw [← BitVec.toNat_inj]; rfl
    rw [State.deadline_started]
    simp only [State.deadline, deadline, hzero]
  clear_value deadline
  refine ⟨?wtok, ?wbar, ?wmem, ?waiting, fun s e p l hp hphase => exec_engineWaitMet_of_charging hp hphase⟩
  case wtok =>
    intro imm consume tmo s e p h t i n
    refine ⟨exec_cmdWtok_of_met h, fun hn => ?_⟩
    rw [← hdeadline s e]
    exact exec_cmdWtok_of_unmet h hn
  case wbar =>
    intro fa phase tmo s e p o h hhere hbits t i d hgood hbar
    have hcond := engineCond_cmdWbar (phase := phase) (tmo := tmo) hgood hbar
    rw [exec_cmdWbar h hhere hbits hgood hbar, ← hdeadline s e]
    refine ⟨fun hbad => ?_, fun hclean hphase => ?_, fun hclean hphase => ?_⟩
    · rw [if_pos hbad] at hcond
      rw [judgeWait_of_badBarrier hcond, hbar]
      rfl
    · rw [if_neg (ne_true_of_eq_false hclean), decide_eq_true hphase] at hcond
      rw [judgeWait_of_met hcond]
      rfl
    · rw [if_neg (ne_true_of_eq_false hclean), decide_eq_false hphase] at hcond
      rw [judgeWait_of_unmet hcond]
      rfl
  case wmem =>
    intro fa fb cmp wide tmo s e p b h heven t i met hread
    have hcond : t.engineCond e p i = .ok met := engineCond_cmdWmem h hread
    rw [exec_cmdWmem h heven, ← hdeadline s e]
    cases hmet : met with
    | true =>
      rw [hmet] at hcond
      rw [judgeWait_of_met hcond]
      rfl
    | false =>
      rw [hmet] at hcond
      rw [judgeWait_of_unmet hcond]
      rfl
  case waiting =>
    intro s e p cmd d hp hphase
    rw [exec_engineWaitMet_of_waiting hp hphase]
    refine ⟨fun hmet => ?_, fun hunmet => ?_, fun c herror => ⟨?_, ?_⟩, ?_⟩
    · rw [judgeWait_of_met hmet]
    · rw [judgeWait_of_unmet hunmet]
      rfl
    · rintro fa phase tmo rfl
      rw [judgeWait_of_badBarrier herror]
    · rintro fa fb cmp wide tmo rfl
      rw [judgeWait_of_badWord herror]
    · rintro t rfl hpast
      exact exec_engineWaitTimeout_of_past hp hphase hpast

end Sys2Proof.Machine
end

section
/-! ## Root and canopy engines

Proof of the statement over the programs and blocks that engines accept and start, and over the tokens that fire them (R176 to R179,
R268 to R272, R278, R279). -/

namespace Sys2Proof.Machine

/-! ### Root engines (R177, R178) -/

section
variable {s : State} {die n : Nat}

theorem exec_rootProgramAccept_of_abort {a : RootAbort}
    (hdue : (s.root (die * 32 + n)).aborts.find? (s.abortDue (die * 32 + n)) = some a) :
    exec (.rootProgramAccept die n) s = .next (s.serveAbort (die * 32 + n) a) := by
  simp only [exec, execRootProgramAccept, hdue]

theorem exec_rootProgramAccept_of_room {p : Prog}
    (hdue : (s.root (die * 32 + n)).aborts.find? (s.abortDue (die * 32 + n)) = none)
    (hnext : s.nextSubmission (die * 32 + n) = some p) (hroom : (s.root (die * 32 + n)).queue.length < 16) :
    exec (.rootProgramAccept die n) s = .next ((s.onRoot (die * 32 + n) fun x =>
      { x with front := x.front.filter fun q => q ≠ p, queue := x.queue ++ [p] }).accepted p) := by
  simp only [exec, execRootProgramAccept, hdue, hnext]
  exact if_neg (Nat.not_le.2 hroom)

theorem exec_rootProgramStart_of_free {p : Prog} {t : List Prog} {c : Nat} (hqueue : (s.root (die * 32 + n)).queue = p :: t)
    (hfree : (List.range 4).find? (fun c => (tfind (s.root (die * 32 + n)).ctxs c).isNone) = some c) :
    exec (.rootProgramStart die n) s = .next (s.onRoot (die * 32 + n) fun x =>
      { x with queue := t, ctxs := tput x.ctxs c p.begin }) := by
  simp only [exec, execRootProgramStart, hqueue, hfree]

/-! ### Messages in front of a canopy engine (R178, R179) -/

section
variable {m : CanopyFront} (hnext : s.nextMessage (die * 2 + n) = some m)
include hnext

theorem exec_canopyBlockAccept_of_post {a : Nat} (hmsg : m.msg = .post a) :
    exec (.canopyBlockAccept die n) s = .next (s.acceptBlock die n m a) := by
  simp only [exec, execCanopyBlockAccept, hnext, hmsg]

theorem exec_canopyBlockAccept_of_token {id d : Nat} (hmsg : m.msg = .token id d) :
    exec (.canopyBlockAccept die n) s =
      .next ((if s.dieUp d then s.send die (.token m.slot id d (some (m.warp, m.seq, m.clause, m.index)))
        else s.messageFault die m).takeMessage (die * 2 + n) m) := by
  simp only [exec, execCanopyBlockAccept, hnext, hmsg]

theorem exec_canopyBlockAccept_of_abort {c k : Nat} (hmsg : m.msg = .abort c k) :
    exec (.canopyBlockAccept die n) s =
      .next ((if (s.comm? die m.slot c).isSome then s.sendAbort m.slot die c (BitVec.ofNat 16 k)
        else s.messageFault die m).takeMessage (die * 2 + n) m) := by
  simp only [exec, execCanopyBlockAccept, hnext, hmsg]

end

/-! ### Blocks judged and accepted (R268, R270, R272, R279) -/

/-- A block that no agreement round holds is judged against the communicator's entry, where there is one: malformed first, then its
version, then its attempt. -/
theorem blockFault_of_open {slot b : Nat} (hopen : s.roundHolds die slot (blockComm b) = false) :
    s.blockFault die slot b = s.entryFault die slot b :=
  if_neg (ne_true_of_eq_false hopen)

theorem blockFault_of_held {slot b : Nat} (hheld : s.roundHolds die slot (blockComm b) = true) :
    s.blockFault die slot b = if blockMalformed b none then some (2, 11) else none :=
  if_pos hheld

section
variable {m : CanopyFront} {a : Nat} {bytes : List Byte} (hroute : s.rangeWaits die m.slot a 128 = false)
  (hread : s.engRead die m.slot a 128 = .ok bytes)
include hroute hread

theorem acceptBlock_of_fault {state code : Nat} (hfault : s.blockFault die m.slot (ofBytes bytes) = some (state, code)) :
    s.acceptBlock die n m a = if s.queueRoom (die * 2 + n) then (s.takeMessage (die * 2 + n) m).abortQueued (.canopy die n 0)
      { blockProg m.dispatch m.slot a (ofBytes bytes) with accepted := s.rt } state code else s := by
  simp only [State.acceptBlock, hread, hfault]
  exact if_neg (ne_true_of_eq_false hroute)

theorem acceptBlock_of_ready (hgood : s.blockFault die m.slot (ofBytes bytes) = none) (htokens : blockTokens (ofBytes bytes) = []) :
    s.acceptBlock die n m a = if s.queueRoom (die * 2 + n) then (s.takeMessage (die * 2 + n) m).enqueueBlock die n
      { blockProg m.dispatch m.slot a (ofBytes bytes) with accepted := s.rt } else s := by
  simp only [State.acceptBlock, hread, hgood, htokens]
  exact if_neg (ne_true_of_eq_false hroute)

theorem acceptBlock_of_tokens (hgood : s.blockFault die m.slot (ofBytes bytes) = none)
    (htokens : blockTokens (ofBytes bytes) ≠ []) :
    s.acceptBlock die n m a = if 256 ≤ (s.die die).waiting.length then s else
      ((s.takeMessage (die * 2 + n) m).onDie die fun d => { d with waiting := d.waiting ++
        [(n, { blockProg m.dispatch m.slot a (ofBytes bytes) with accepted := s.rt })] }).fireBlocks die := by
  have hsome : ¬(blockTokens (ofBytes bytes)).isEmpty = true := fun h => htokens (List.isEmpty_iff.1 h)
  simp only [State.acceptBlock, hread, hgood, if_neg hsome]
  exact if_neg (ne_true_of_eq_false hroute)

end

end

/-! ### The matching store (R278, R279) -/

/-- Two changes of one die are one. -/
theorem State.onDie_onDie (s : State) (d : Nat) (f g : Die → Die) : (s.onDie d f).onDie d g = s.onDie d fun x => g (f x) := by
  simp only [State.onDie, tmap_tmap]

theorem State.onDie_congr {s : State} {d : Nat} {f g : Die → Die} (h : f (s.die d) = g (s.die d)) : s.onDie d f = s.onDie d g := by
  have hmap : tmap f s.dies d = tmap g s.dies d := by
    refine tmap_congr fun x hx => ?_
    rwa [State.die, tget_eq, hx] at h
  simp only [State.onDie, hmap]

/-- What a change of a die keeps of every die. -/
theorem State.die_onDie_keeps {α : Type} {s : State} {d e : Nat} {f : Die → Die} (g : Die → α) (h : ∀ x, g (f x) = g x) :
    g ((s.onDie d f).die e) = g (s.die e) := by
  by_cases hde : d = e
  · subst hde
    cases hx : tfind s.dies d with
    | none => simp [State.onDie, State.die, tget_eq, hx]
    | some x => rw [s.die_onDie f hx, h]
  · rw [s.die_onDie_other f hde]

/-- The counts of a block's tokens are taken. -/
def State.takeTokens (s : State) (die slot : Nat) (ids : List Nat) : State :=
  ids.foldl (fun t i => t.setTokens die slot i (t.tokens die slot i - 1)) s

theorem State.takeTokens_die {α : Type} (s : State) (die slot : Nat) (ids : List Nat) (g : Die → α)
    (h : ∀ (x : Die) t, g { x with tokens := t } = g x) : g ((s.takeTokens die slot ids).die die) = g (s.die die) :=
  foldl_keeps (fun t : State => g (t.die die) = g (s.die die)) _
    (fun _ _ ht => (State.die_onDie_keeps g fun x => h x _).trans ht) _ _ rfl

theorem State.takeTokens_eng (s : State) (die slot : Nat) (ids : List Nat) : (s.takeTokens die slot ids).eng = s.eng :=
  foldl_keeps (fun t : State => t.eng = s.eng) (fun t i => t.setTokens die slot i (t.tokens die slot i - 1))
    (fun _ _ ht => ht) ids s rfl

/-- A block that has fired, with its place in the order of R271. -/
def Prog.ready (p : Prog) (place : Nat) : Prog := { p with phase := .blocked, order := place }

/-- A die that has given a place in the order of R271, with what its store then holds. -/
def Die.placed (d : Die) (place : Nat) (waiting : List (Nat × Prog)) : Die := { d with orders := place + 1, waiting := waiting }

section
variable {s : State} {die n : Nat} {p : Prog}

/-- A die that stores a block is one that the module holds. -/
theorem exists_of_waiting {x : Nat × Prog} {l : List (Nat × Prog)} (h : (s.die die).waiting = x :: l) :
    ∃ d, tfind s.dies die = some d := by
  cases hd : tfind s.dies die with
  | none =>
    rw [State.die, tget_eq, hd] at h
    cases h
  | some d => exact ⟨d, rfl⟩

/-- The one block of a store leaves it for its engine's queue once it has fired and there is room (R272; log entry 63). -/
theorem moveFired_of_one (hone : (s.die die).waiting = [(n, p)]) :
    s.moveFired die = if p.fired && s.queueRoom (die * 2 + n) then
      (s.onDie die fun d => { d with waiting := d.waiting.erase (n, p) }).onCanopy (die * 2 + n) fun c =>
        { c with queue := c.queue ++ [{ p with phase := .queued }] }
      else s := by
  simp only [State.moveFired, hone, List.foldl_cons, List.foldl_nil, List.all_cons, List.all_nil, Nat.le_refl, decide_true,
    Bool.or_true, Bool.and_true]

variable {b : BitVec 1024} (hone : (s.die die).waiting = [(n, p)]) (hblock : p.block = some b) (hwaits : p.fired = false)
include hone hblock hwaits

/-- The one block of a store fires when its tokens have come and its timeout has not passed (R279). -/
theorem fireReady_of_one :
    s.fireReady die = if s.canFire die p.slot (blockTokens b.toNat) && !s.blockExpired p then
      (s.takeTokens die p.slot (blockTokens b.toNat)).onDie die fun d =>
        d.placed (s.die die).orders [(n, p.ready (s.die die).orders)]
      else s := by
  simp only [State.fireReady, hone, List.foldl_cons, List.foldl_nil, hblock, hwaits, Bool.not_false, Bool.true_and]
  congr 1
  refine State.onDie_congr ?_
  have hwaiting := s.takeTokens_die die p.slot (blockTokens b.toNat) Die.waiting fun _ _ => rfl
  have horders := s.takeTokens_die die p.slot (blockTokens b.toNat) Die.orders fun _ _ => rfl
  rw [State.takeTokens] at hwaiting horders
  simp only [hwaiting, horders, hone, List.map_cons, List.map_nil, if_true, Die.placed, Prog.ready, hblock]

/-- It does not fire: the store is as it was. -/
theorem fireBlocks_of_early (hearly : (s.canFire die p.slot (blockTokens b.toNat) && !s.blockExpired p) = false) :
    s.fireBlocks die = s := by
  rw [State.fireBlocks, fireReady_of_one hone hblock hwaits, if_neg (ne_true_of_eq_false hearly), moveFired_of_one hone, hwaits]
  rfl

section
variable (hfires : (s.canFire die p.slot (blockTokens b.toNat) && !s.blockExpired p) = true)
include hfires

/-- It fires: its tokens are taken, and it goes to its engine's queue or stays ready in the store. -/
theorem fireBlocks_of_fires :
    let taken := s.takeTokens die p.slot (blockTokens b.toNat)
    let place := (s.die die).orders
    s.fireBlocks die = if s.queueRoom (die * 2 + n) then
        (taken.onDie die fun d => d.placed place []).onCanopy (die * 2 + n) fun c =>
          { c with queue := c.queue ++ [{ p.ready place with phase := .queued }] }
      else taken.onDie die fun d => d.placed place [(n, p.ready place)] := by
  intro taken place
  have hwaiting : (taken.die die).waiting = [(n, p)] := (s.takeTokens_die die _ _ Die.waiting fun _ _ => rfl).trans hone
  obtain ⟨x, hx⟩ := exists_of_waiting hwaiting
  have hstored : ((taken.onDie die fun d => d.placed place [(n, p.ready place)]).die die).waiting = [(n, p.ready place)] := by
    rw [taken.die_onDie _ hx]
    rfl
  have hroom (f : Die → Die) : (taken.onDie die f).queueRoom (die * 2 + n) = s.queueRoom (die * 2 + n) := by
    have heng : taken.eng = s.eng := s.takeTokens_eng die p.slot _
    have hcanopy : (taken.onDie die f).canopy (die * 2 + n) = s.canopy (die * 2 + n) := by
      rw [State.canopy, State.onDie_eng, heng, State.canopy]
    rw [State.queueRoom, State.queueRoom, hcanopy]
  have hfired : (p.ready place).fired = true := rfl
  rw [State.fireBlocks, fireReady_of_one hone hblock hwaits, if_pos hfires, moveFired_of_one hstored, State.onDie_onDie, hroom,
    hfired, Bool.true_and]
  simp only [Die.placed, List.erase_cons_head]

end

end

/-- Every token that a block names has its count, and its timeout has not passed (R279). -/
theorem fires_iff {s : State} {die slot : Nat} {ids : List Nat} {p : Prog} {b : BitVec 1024} (hblock : p.block = some b) :
    (s.canFire die slot ids && !s.blockExpired p) = true ↔
      (∀ i ∈ ids, (ids.filter (· = i)).length ≤ s.tokens die slot i) ∧
        (bits b.toNat 667 640 = 0 ∨ s.rt < p.accepted + bits b.toNat 667 640) := by
  have htime : (!s.blockExpired p) = true ↔ bits b.toNat 667 640 = 0 ∨ s.rt < p.accepted + bits b.toNat 667 640 := by
    simp only [State.blockExpired, hblock, Bool.not_eq_true', Bool.and_eq_false_iff, decide_eq_false_iff_not, not_not, not_le]
  rw [Bool.and_eq_true, htime, State.canFire]
  simp only [List.all_eq_true, decide_eq_true_eq]

/-! ### Blocks that start (R268, R271, R272) -/

section
variable {s : State} {die n : Nat} {p : Prog} {b : BitVec 1024} {c : Nat}

/-- A block taken out of its queue or out of the store. -/
def State.unqueue (s : State) (die n : Nat) (p : Prog) : State :=
  (s.onCanopy (die * 2 + n) fun x => { x with queue := x.queue.erase p }).onDie die fun d =>
    { d with waiting := d.waiting.erase (n, p) }

variable (hready : ((s.fireBlocks die).readyBlocks die n).find? ((s.fireBlocks die).blockFirst die) = some p)
  (hblock : p.block = some b)
  (hfree : (List.range 8).find? (fun c => (tfind ((s.fireBlocks die).canopy (die * 2 + n)).ctxs c).isNone) = some c)
include hready hblock hfree

theorem exec_canopyBlockStart_of_fault {state code : Nat}
    (hfault : ((s.fireBlocks die).unqueue die n p).entryFault die p.slot b.toNat = some (state, code)) :
    exec (.canopyBlockStart die n) s =
      .next (((s.fireBlocks die).unqueue die n p).abortQueued (.canopy die n 0) p state code) := by
  simp only [State.unqueue] at hfault
  simp only [exec, execCanopyBlockStart, hready, hfree, hblock, hfault]
  rfl

theorem exec_canopyBlockStart_of_good {m : Comm}
    (hgood : ((s.fireBlocks die).unqueue die n p).entryFault die p.slot b.toNat = none)
    (hcomm : ((s.fireBlocks die).unqueue die n p).comm? die p.slot (blockComm b.toNat) = some m) :
    exec (.canopyBlockStart die n) s = .next (((s.fireBlocks die).unqueue die n p).onCanopy (die * 2 + n) fun x =>
      { x with ctxs := tput x.ctxs c (if blockOp b.toNat = 7 then p.begin
        else { p.begin with script := (expansion b.toNat m.members.length).map commandWord }) }) := by
  simp only [State.unqueue] at hgood hcomm
  simp only [exec, execCanopyBlockStart, hready, hfree, hblock, hgood, hcomm]
  rfl

end

section
variable {s : State} {die slot b : Nat} {m : Comm}

theorem entryFault_of_malformed (hcomm : s.comm? die slot (blockComm b) = some m)
    (hbad : blockMalformed b (some m.members.length) = true) : s.entryFault die slot b = some (2, 11) := by
  rw [State.entryFault, hcomm]
  exact if_pos hbad

theorem entryFault_of_entry (hcomm : s.comm? die slot (blockComm b) = some m)
    (hgood : blockMalformed b (some m.members.length) = false) :
    s.entryFault die slot b = if bits b 463 448 ≠ m.version.toNat then some (2, 10)
      else if bits b 479 464 ≠ m.attempt.toNat then some (3, 6) else none := by
  rw [State.entryFault, State.commFault, hcomm]
  exact if_neg (ne_true_of_eq_false hgood)

theorem entryFault_of_none (hcomm : s.comm? die slot (blockComm b) = none) (hgood : blockMalformed b none = false) :
    s.entryFault die slot b = some (2, 10) := by
  rw [State.entryFault, State.commFault, hcomm]
  exact if_neg (ne_true_of_eq_false hgood)

end

/-! ### Tokens and timeouts (R278, R279) -/

section
variable {s : State} {n src slot id die : Nat} {owner : Option (Nat × Nat × Nat × Nat)} {passed : List Nat}
  (hflight : tfind s.eng.flights n = some { src := src, msg := .token slot id die owner, passed := passed })
  (hroute : s.pairWaits fabricUnit src die = false) (hup : (s.landed n).dieUp die = true)
include hflight hroute hup

theorem exec_tokenDeliver_of_taken (htakes : (s.landed n).refuses die slot id = false) :
    let t := s.landed n
    exec (.tokenDeliver n) s = .next ((t.setTokens die slot id (t.tokens die slot id + 1)).fireBlocks die) := by
  simp only [exec, execTokenDeliver, hflight, hroute, hup, htakes]
  rfl

theorem exec_tokenDeliver_of_refused (hrefuses : (s.landed n).refuses die slot id = true) :
    let t := (s.landed n).ring die 0x13 ((s.landed n).ident slot) [32, 0, id]
    exec (.tokenDeliver n) s = .next (match owner with
      | some (w, seq, clause, index) => t.deferFault w seq clause index { cause := 0x22 }
      | none => t) := by
  simp only [exec, execTokenDeliver, hflight, hroute, hup, hrefuses]
  cases owner <;> rfl

end

theorem exec_blockTokenTimeout_of_past {s : State} {die i n : Nat} {p : Prog} {b : BitVec 1024}
    (hthere : (s.die die).waiting[i]? = some (n, p)) (hblock : p.block = some b) (hwaits : p.phase ≠ .blocked)
    (htimed : bits b.toNat 667 640 ≠ 0) (hpast : p.accepted + bits b.toNat 667 640 ≤ s.rt) :
    exec (.blockTokenTimeout die i) s =
      .next ((s.onDie die fun d => { d with waiting := d.waiting.eraseIdx i }).abortQueued (.canopy die n 0) p 2 5) := by
  have hexpired : s.blockExpired p = true := by
    simp only [State.blockExpired, hblock, decide_eq_true htimed, decide_eq_true hpast, Bool.and_self]
  have hfired : p.fired = false := decide_eq_false hwaits
  simp only [exec, execBlockTokenTimeout, hthere, hexpired, hfired]
  rfl

/-- Settles O49: each move of an engine answers by the branch that its work meets; the one block of a store fires as a whole or
not at all, and a block that starts ends where its communicator's entry refuses it. -/
theorem enginesTakeTheirWork : Obligations.EnginesTakeTheirWork := by
  unfold Obligations.EnginesTakeTheirWork
  refine ⟨?accept, ?abort, ?start, ?message, ?block, ?fire, ?begin, ?token, ?timeout⟩
  case accept =>
    intro s die n p hdue hnext hroom
    exact exec_rootProgramAccept_of_room hdue hnext hroom
  case abort =>
    intro s die n a hdue
    exact exec_rootProgramAccept_of_abort hdue
  case start =>
    intro s die n p t c hqueue hfree
    exact exec_rootProgramStart_of_free hqueue hfree
  case message =>
    intro s die n m hnext
    exact ⟨fun a => exec_canopyBlockAccept_of_post hnext, fun id d => exec_canopyBlockAccept_of_token hnext,
      fun c k => exec_canopyBlockAccept_of_abort hnext⟩
  case block =>
    intro s die n m a bytes hroute hread p room
    have hroom : room → s.queueRoom (die * 2 + n) = true := decide_eq_true
    have hfull : ¬room → ¬s.queueRoom (die * 2 + n) = true := mt of_decide_eq_true
    refine ⟨?_, blockFault_of_held, fun state code hfault => ?_, fun hgood htokens => ?_, fun hgood htokens => ?_⟩
    · rintro c rfl hopen
      rw [blockFault_of_open hopen]
      cases hcomm : s.comm? die m.slot (blockComm (ofBytes bytes)) <;> simp only [State.entryFault, State.commFault, hcomm]
    · rw [acceptBlock_of_fault hroute hread hfault]
      exact ⟨fun h => if_pos (hroom h), fun h => if_neg (hfull h)⟩
    · rw [acceptBlock_of_ready hroute hread hgood htokens]
      exact ⟨fun h => if_pos (hroom h), fun h => if_neg (hfull h)⟩
    · rw [acceptBlock_of_tokens hroute hread hgood htokens]
      exact ⟨fun h => if_neg (Nat.not_le.2 h), fun h => if_pos h⟩
  case fire =>
    intro s die n p b hone hblock hphase ids tmo fires room place taken
    have hwaits : p.fired = false := decide_eq_false hphase
    have hfires : fires ↔ (s.canFire die p.slot ids && !s.blockExpired p) = true := (fires_iff hblock).symm
    have hroom : room → s.queueRoom (die * 2 + n) = true := decide_eq_true
    have hfull : ¬room → ¬s.queueRoom (die * 2 + n) = true := mt of_decide_eq_true
    refine ⟨fun h hr => ?_, fun h hr => ?_, fun h => ?_⟩
    · exact (fireBlocks_of_fires hone hblock hwaits (hfires.1 h)).trans (if_pos (hroom hr))
    · exact (fireBlocks_of_fires hone hblock hwaits (hfires.1 h)).trans (if_neg (hfull hr))
    · exact fireBlocks_of_early hone hblock hwaits (Bool.eq_false_iff.2 (mt hfires.2 h))
  case begin =>
    intro s die n p c b f ready hready hblock hfree t ends
    have hends {state code : Nat} (hfault : t.entryFault die p.slot b.toNat = some (state, code)) :
        exec (.canopyBlockStart die n) s = ends state code := exec_canopyBlockStart_of_fault hready hblock hfree hfault
    refine ⟨fun m hcomm => ⟨fun hbad => hends (entryFault_of_malformed hcomm hbad), fun hgood => ?_⟩,
      fun hcomm hgood => hends (entryFault_of_none hcomm hgood)⟩
    have hentry := entryFault_of_entry hcomm hgood
    refine ⟨fun hversion => hends (hentry.trans (if_pos hversion)), fun hversion => ?_⟩
    rw [if_neg (not_not.2 hversion)] at hentry
    refine ⟨fun hattempt => ?_, fun hattempt => hends (hentry.trans (if_pos hattempt))⟩
    exact exec_canopyBlockStart_of_good hready hblock hfree (hentry.trans (if_neg (not_not.2 hattempt))) hcomm
  case token =>
    intro s n src slot id die owner passed hflight hroute hup t
    refine ⟨exec_tokenDeliver_of_taken hflight hroute hup, ?_, ?_⟩
    · rintro hrefuses rfl
      exact exec_tokenDeliver_of_refused hflight hroute hup hrefuses
    · rintro w seq c k hrefuses rfl
      exact exec_tokenDeliver_of_refused hflight hroute hup hrefuses
  case timeout =>
    intro s die i n p b hthere hblock hwaits htimed hpast
    exact exec_blockTokenTimeout_of_past hthere hblock hwaits htimed hpast

end Sys2Proof.Machine
end

section
/-! ## Cambium engines: declarations, sweep requests, scans and launches

The moves that start a sweep and fill its warps (R182, R251, R255 to R257). -/

namespace Sys2Proof.Machine

section
variable {s : State} {site slot : Nat} {m : CamFront}

/-! ### Declarations (R182, R251) -/

/-- A bad declaration is dropped at every engine where it is the first to be judged, and at this engine otherwise. -/
def State.dropAt (s : State) (site : Nat) (m : CamFront) (everywhere : Bool) : State :=
  if everywhere then s.dropDecl m else (s.camMsgFault site m).takeCam site m

/-- No engine of the dispatch has taken a declaration yet. -/
def State.untaken (s : State) (m : CamFront) : Bool := (s.sitesOf m.dispatch).all fun e => (s.cambium e).front.contains m

section
variable {addr : Nat} {scope : Scope} (hnext : s.nextCam site CamMsg.isDeclare = some m) (hmsg : m.msg = .declare slot addr scope)
include hnext hmsg

theorem exec_declarationAccept_of_good {b : List Byte} (hread : s.camRead site (s.slotOfDispatch m.dispatch) addr 64 = some b)
    (hok : camOk (ofBytes b) = true) (hidle : s.slotSweeps m.dispatch slot = false) :
    exec (.declarationAccept site) s = .next ((s.onCambium site fun c =>
      { c with
        slots := tput c.slots (camKey m.dispatch slot)
          { dispatch := m.dispatch, ctx := s.slotOfDispatch m.dispatch, descriptor := addr,
            desc := BitVec.ofNat 512 (ofBytes b), scope := scope, pending := [], sweep := none } }).takeCam site m) := by
  have hinstalls : (camOk (ofBytes b) && !s.slotSweeps m.dispatch slot) = true := by rw [hok, hidle]; rfl
  simp only [exec, execDeclarationAccept, hnext, hmsg, hread]
  exact if_pos hinstalls

theorem exec_declarationAccept_of_bad {b : List Byte} (hread : s.camRead site (s.slotOfDispatch m.dispatch) addr 64 = some b)
    (hbad : camOk (ofBytes b) = false ∨ s.slotSweeps m.dispatch slot = true) :
    exec (.declarationAccept site) s = .next (s.dropAt site m (s.untaken m)) := by
  have hdrops : ¬(camOk (ofBytes b) && !s.slotSweeps m.dispatch slot) = true := by rcases hbad with h | h <;> simp [h]
  simp only [exec, execDeclarationAccept, hnext, hmsg, hread, State.dropAt, apply_ite Host.Outcome.next]
  exact if_neg hdrops

theorem exec_declarationAccept_of_unread (hread : s.camRead site (s.slotOfDispatch m.dispatch) addr 64 = none) :
    exec (.declarationAccept site) s =
      .next ((s.camMark site (s.slotOfDispatch m.dispatch) [(addr, 64, false)]).dropAt site m (s.untaken m)) := by
  simp only [exec, execDeclarationAccept, hnext, hmsg, hread, State.dropAt, apply_ite Host.Outcome.next]
  rfl

end

/-! ### Sweep requests (R182, R255) -/

/-- Every engine of the dispatch starts to sweep a slot, from the first element of its range. -/
def State.startSweeps (s : State) (m : CamFront) (slot limit : Nat) (stop barrier : Option Nat) : State :=
  (s.sitesOf m.dispatch).foldl (fun s e =>
    match s.camSlot? e m.dispatch slot with
    | none => s
    | some x => s.onCamSlot e m.dispatch slot fun y =>
        { y with
          sweep := some
            { warp := m.warp, seq := m.seq, clause := m.clause, index := m.index, limit := limit, k := 0, stop := stop,
              barrier := barrier, cursor := none, launched := none,
              scanned := (s.camRange e m.dispatch (camCount x.desc.toNat)).1, forming := [] } }) s

theorem exec_sweepRequestAccept {limit : Nat} {stop barrier : Option Nat} (hnext : s.nextCam site CamMsg.isSweep = some m)
    (hmsg : m.msg = .sweep slot limit stop barrier) : exec (.sweepRequestAccept site) s =
      .next ((if (s.camSlot? site m.dispatch slot).isNone || s.slotSweeps m.dispatch slot then s.camMsgFault site m
        else s.startSweeps m slot limit stop barrier).takeCam site m) := by
  simp only [exec, execSweepRequestAccept, hnext, hmsg]
  rfl

end

/-! ### Elements of a scan (R256) -/

section
variable {s : State} {site dispatch slot nbud i : Nat} {c : CamSlot} {x : Sweep}

/-- What a failing access of a scan leaves: the mark of the line, and a deferred fault of the warp that asked for the sweep. -/
def State.scanFails (s : State) (site dispatch : Nat) (c : CamSlot) (x : Sweep) (l : List (Nat × Nat × Bool)) : State :=
  (s.camMark site c.ctx l).camFault site dispatch x.warp x.seq x.clause x.index

theorem scanElement_of_unmapped
    (h : s.mapBit site c.ctx (camMap c.desc.toNat) i = none ∨ s.mapBit site c.ctx (camNextm c.desc.toNat) i = none) :
    s.scanElement site dispatch slot c x nbud i = s.scanFails site dispatch c x
      [(mapDouble (camMap c.desc.toNat) i, 8, false), (mapDouble (camNextm c.desc.toNat) i, 8, false)] := by
  unfold State.scanElement
  rcases h with h | h
  · simp only [h]
    rfl
  · simp only [h]
    cases s.mapBit site c.ctx (camMap c.desc.toNat) i <;> rfl

section
variable {p q : Bool} (hmap : s.mapBit site c.ctx (camMap c.desc.toNat) i = some p)
  (hnextm : s.mapBit site c.ctx (camNextm c.desc.toNat) i = some q)
include hmap hnextm

theorem scanElement_of_passed (h : (p || q) = true) : s.scanElement site dispatch slot c x nbud i = s := by
  simp only [State.scanElement, hmap, hnextm]
  exact if_pos h

variable (hready : (p || q) = false)
include hready

theorem scanElement_of_unread (hread : s.readBud site c.ctx c.desc.toNat i = none) :
    s.scanElement site dispatch slot c x nbud i = s.scanFails site dispatch c x [(budAddr c.desc.toNat i, 16, true)] := by
  simp only [State.scanElement, hmap, hnextm, hread]
  exact if_neg (ne_true_of_eq_false hready)

section
variable {b : Bud} (hread : s.readBud site c.ctx c.desc.toNat i = some b)
include hread

section
variable (hstate : b.state = 1)
include hstate

/-- A ready element joins the warp that forms. -/
theorem scanElement_of_gathered {t : State} (hclause : b.clause < nbud)
    (hwrite : s.writeBud site dispatch c.ctx c.desc.toNat i { b with state := 2 } = some t) :
    s.scanElement site dispatch slot c x nbud i = t.onSweep site dispatch slot fun y =>
      { y with forming := y.forming ++ [(i, b.clause, b.locals)], cursor := some i } := by
  simp only [State.scanElement, hmap, hnextm, hread, hwrite]
  exact (if_neg (ne_true_of_eq_false hready)).trans (if_pos ⟨hstate, hclause⟩)

theorem scanElement_of_ungathered (hclause : b.clause < nbud)
    (hwrite : s.writeBud site dispatch c.ctx c.desc.toNat i { b with state := 2 } = none) :
    s.scanElement site dispatch slot c x nbud i = s.scanFails site dispatch c x [(budAddr c.desc.toNat i, 16, true)] := by
  simp only [State.scanElement, hmap, hnextm, hread, hwrite]
  exact (if_neg (ne_true_of_eq_false hready)).trans (if_pos ⟨hstate, hclause⟩)

/-- An element whose clause names no bud clause retires. -/
theorem scanElement_of_retired {t : State} (hclause : nbud ≤ b.clause)
    (hwrite : s.writeBud site dispatch c.ctx c.desc.toNat i { b with state := 3 } = some t) :
    s.scanElement site dispatch slot c x nbud i =
      ((t.setMapBit site dispatch c.ctx (camMap c.desc.toNat) i true).getD t).scanFails site dispatch c x
        [(mapDouble (camMap c.desc.toNat) i, 8, true)] := by
  have hbad : ¬(b.state = 1 ∧ b.clause < nbud) := fun h => Nat.not_lt.2 hclause h.2
  simp only [State.scanElement, hmap, hnextm, hread, hwrite]
  exact (if_neg (ne_true_of_eq_false hready)).trans ((if_neg hbad).trans (if_pos hstate))

theorem scanElement_of_unretired (hclause : nbud ≤ b.clause)
    (hwrite : s.writeBud site dispatch c.ctx c.desc.toNat i { b with state := 3 } = none) :
    s.scanElement site dispatch slot c x nbud i = s.scanFails site dispatch c x [(budAddr c.desc.toNat i, 16, true)] := by
  have hbad : ¬(b.state = 1 ∧ b.clause < nbud) := fun h => Nat.not_lt.2 hclause h.2
  simp only [State.scanElement, hmap, hnextm, hread, hwrite]
  exact (if_neg (ne_true_of_eq_false hready)).trans ((if_neg hbad).trans (if_pos hstate))

end

/-- An element that runs is passed. -/
theorem scanElement_of_running (hstate : b.state = 2) : s.scanElement site dispatch slot c x nbud i = s := by
  have hother : b.state ≠ 1 := by omega
  simp only [State.scanElement, hmap, hnextm, hread]
  exact (if_neg (ne_true_of_eq_false hready)).trans ((if_neg fun h => hother h.1).trans ((if_neg hother).trans (if_pos hstate)))

/-- An element that waits or is retired becomes dormant. -/
theorem scanElement_of_dormant (hstate : b.state = 0 ∨ b.state = 3) : s.scanElement site dispatch slot c x nbud i =
    (s.setMapBit site dispatch c.ctx (camMap c.desc.toNat) i true).getD
      (s.scanFails site dispatch c x [(mapDouble (camMap c.desc.toNat) i, 8, true)]) := by
  have hone : b.state ≠ 1 := by omega
  have htwo : b.state ≠ 2 := by omega
  simp only [State.scanElement, hmap, hnextm, hread]
  refine (if_neg (ne_true_of_eq_false hready)).trans ((if_neg fun h => hone h.1).trans ((if_neg hone).trans
    ((if_neg htwo).trans ?_)))
  cases s.setMapBit site dispatch c.ctx (camMap c.desc.toNat) i true <;> rfl

end

end

end

/-! ### A scan's step (R256, R257) -/

section
variable {s : State} {site key : Nat} {c : CamSlot} {x : Sweep}

/-- A scan takes the next element of its range, if one is left. -/
def State.scanNext (s : State) (site key : Nat) (c : CamSlot) (x : Sweep) (nbud : Nat) : State :=
  if x.scanned < (s.camRange site (key / 4) (camCount c.desc.toNat)).2 then
    (s.scanElement site (key / 4) (key % 4) c x nbud x.scanned).onSweep site (key / 4) (key % 4) fun z =>
      { z with scanned := x.scanned + 1 }
  else s

theorem exec_scanStep_of_ready {w : Nat} {ws : List Nat} {y : Dispatch} (hslot : s.camSlot? site (key / 4) (key % 4) = some c)
    (hsweep : c.sweep = some x) (hfree : s.freeWarps site (key / 4) = w :: ws) (hdispatch : s.dispatch? (key / 4) = some y)
    (hphase : y.phase = .accepted) (hhere : s.away (key / 4) = false) (halone : s.gathersAlone site key = true)
    (hroute : s.enginesWait (dieOfSite site) = false) :
    let t := s.scanNext site key c x y.buds.length
    let hi := (s.camRange site (key / 4) (camCount c.desc.toNat)).2
    ∀ z v, (t.camSlot? site (key / 4) (key % 4)).bind CamSlot.sweep = some z → (t.freeWarps site (key / 4)).head? = some v →
      exec (.scanStep site key) s = if z.forming ≠ [] ∧ (camWidth c.desc.toNat ≤ z.forming.length ∨ hi ≤ z.scanned) then
        .next (t.launch site (key / 4) (key % 4) c z v) else .next t := by
  intro t hi z v hz hv
  have hgoes : ¬(s.away (key / 4) || decide (y.phase ≠ .accepted) || !s.gathersAlone site key || s.enginesWait (dieOfSite site)) =
      true := by
    rw [hhere, hphase, halone, hroute]
    decide
  simp only [exec, execScanStep, hslot, hfree, hdispatch, hsweep, if_neg hgoes]
  simp only [t, State.scanNext] at hz hv
  simp only [hz, hv]
  rfl

end

/-! ### A launch (R30, R257) -/

section
variable {s : State}

theorem State.acquire_warps (s : State) (w : Nat) (scope : Scope) : (s.acquire w scope).comp.warps = s.comp.warps := by
  unfold State.acquire
  split
  · exact State.onCore_comp_warps ..
  · rfl

/-- A change of a slot's sweep is what its sweep then reads as. -/
theorem State.sweep_onSweep (s : State) (site dispatch slot : Nat) (f : Sweep → Sweep) :
    ((s.onSweep site dispatch slot f).camSlot? site dispatch slot).bind CamSlot.sweep =
      ((s.camSlot? site dispatch slot).bind CamSlot.sweep).map f := by
  simp only [State.camSlot?, State.onSweep, State.onCamSlot, State.cambium_onCambium, tfind_tmap_same]
  cases tfind (s.cambium site).slots (camKey dispatch slot) <;> rfl

/-- The element that a lane of the forming warp runs, with its bud's clause and argument. -/
def Sweep.lane (x : Sweep) (l : Nat) : Nat × Nat × Nat := nth (0, 0, 0) x.forming l

/-- The lanes of the forming warp. -/
def Sweep.lanes (x : Sweep) : LaneSet := laneSet fun l => l < x.forming.length

/-- What v0 to v5 of a bud thread hold: its element, clause, the element's address and the bud's argument (R257). -/
def budRegs (desc : Nat) (e : Nat × Nat × Nat) : List (Nat × Nat) :=
  let a := elemAddr desc e.1
  [(0, e.1), (1, e.2.1), (2, a), (3, a / 2 ^ 32), (4, e.2.2), (5, e.2.2 / 2 ^ 32)]

/-- Writes some registers of one lane. -/
def putRegs (t : Table Word) (l : Nat) (rs : List (Nat × Nat)) : Table Word :=
  rs.foldl (fun t (n, b) => tset 0 t (32 * n + l) (BitVec.ofNat 32 b)) t

/-- The warp that a launch puts in a free slot. -/
def State.budWarp (s : State) (c : CamSlot) (x : Sweep) (slot w : Nat) (d : Dispatch) (g : Group) : Warp :=
  let W := startWarp d g (coreOf w) (s.comp.launched + 1) s.time.now x.lanes fun l => d.budClause (x.lane l).2.1
  { W with
    v := (lanesOf x.lanes).foldl (fun t l => putRegs t l (budRegs c.desc.toNat (x.lane l))) W.v
    buds := (lanesOf x.lanes).foldl (fun t l => tput t l (slot, (x.lane l).1)) [] }

section
variable {site dispatch slot w : Nat} {c : CamSlot} {x : Sweep} {d : Dispatch} {g : Group} (hd : s.dispatch? dispatch = some d)
  (hg : s.group? (groupOf w) = some g)
include hd hg

theorem launch_warp : (s.launch site dispatch slot c x w).warp? w = some (s.budWarp c x slot w d g) := by
  simp only [State.launch, hd, hg]
  simp only [State.warp?, State.onSweep, State.onCamSlot, State.onCambium_comp, State.progress, State.onCore_comp_warps,
    State.acquire_warps, tfind_tput_same]
  rfl

theorem launch_sweep {y : Sweep}
    (hy : ((s.launch site dispatch slot c x w).camSlot? site dispatch slot).bind CamSlot.sweep = some y) :
    y.forming = [] ∧ y.launched = (x.forming.getLast?).map Prod.fst := by
  simp only [State.launch, hd, hg, State.sweep_onSweep, Option.map_eq_some_iff] at hy
  obtain ⟨z, _, rfl⟩ := hy
  exact ⟨rfl, rfl⟩

end

end

/-! ### The warp that is launched (R22, R257) -/

/-- A warp with its preloads, before a thread of it runs (R29). -/
def preloaded (d : Dispatch) (g : Group) (core : Nat) : Warp :=
  (preloads d g core).foldl (fun W (n, v) => W.putK n (BitVec.ofNat 32 v)) Warp.reset

/-- A thread of a warp starts at its pc. -/
def Warp.startThread (pc : Nat → Nat) (W : Warp) (l : Nat) : Warp :=
  { W.setStatus l .running with pcs := tset 0 W.pcs l (pc l) }

section
variable {d : Dispatch} {g : Group} {core run now : Nat} {lanes : LaneSet} {pc : Nat → Nat}

/-- Preloads are uniform registers. -/
theorem preloaded_rest : (preloaded d g core).v = [] ∧ (preloaded d g core).mrs = [] ∧ (preloaded d g core).phase = .between ∧
    (preloaded d g core).status = [] := by
  unfold preloaded
  refine foldl_keeps (fun W : Warp => W.v = [] ∧ W.mrs = [] ∧ W.phase = .between ∧ W.status = []) _ (fun _ _ h => ?_) _ _
    ⟨rfl, rfl, rfl, rfl⟩
  exact h

/-- What a started warp shows of its threads and registers. -/
theorem startWarp_eq : ∃ seq readyAt issuePc, startWarp d g core run now lanes pc =
    { (lanesOf lanes).foldl (Warp.startThread pc) (preloaded d g core) with
      seq := seq, readyAt := readyAt, issuePc := issuePc } := ⟨_, _, _, rfl⟩

theorem startWarp_fresh : (startWarp d g core run now lanes pc).v = [] ∧ (startWarp d g core run now lanes pc).mrs = [] ∧
    (startWarp d g core run now lanes pc).phase = .between := by
  obtain ⟨hv, hmrs, hphase, _⟩ := preloaded_rest (d := d) (g := g) (core := core)
  obtain ⟨_, _, _, hstart⟩ := startWarp_eq (d := d) (g := g) (core := core) (run := run) (now := now) (lanes := lanes) (pc := pc)
  rw [hstart]
  exact foldl_keeps (fun W : Warp => W.v = [] ∧ W.mrs = [] ∧ W.phase = .between) (Warp.startThread pc) (fun _ _ h => h) _ _
    ⟨hv, hmrs, hphase⟩

theorem startWarp_status (l : Nat) : (startWarp d g core run now lanes pc).statusOf l =
    if l ∈ lanesOf lanes then .running else .exited := by
  obtain ⟨_, _, _, hstatus⟩ := preloaded_rest (d := d) (g := g) (core := core)
  obtain ⟨_, _, _, hstart⟩ := startWarp_eq (d := d) (g := g) (core := core) (run := run) (now := now) (lanes := lanes) (pc := pc)
  have hinit : (preloaded d g core).statusOf l = .exited := by
    rw [Warp.statusOf, hstatus]
    rfl
  rw [hstart, ← hinit]
  exact foldl_read (step := Warp.startThread pc) (read := fun W : Warp => W.statusOf l) (j := l) (v := .running)
    (fun V => tget_tset_same Status.exited V.status l .running)
    (fun V i _ hne => (tget_tset Status.exited V.status i l .running).trans (if_neg hne)) (preloaded d g core)

theorem startWarp_pc {l : Nat} (hl : l ∈ lanesOf lanes) : (startWarp d g core run now lanes pc).pcOf l = pc l := by
  obtain ⟨_, _, _, hstart⟩ := startWarp_eq (d := d) (g := g) (core := core) (run := run) (now := now) (lanes := lanes) (pc := pc)
  rw [hstart]
  exact (foldl_read (step := Warp.startThread pc) (read := fun W : Warp => W.pcOf l)
    (fun V => tget_tset_same 0 V.pcs l (pc l))
    (fun V i _ hne => (tget_tset 0 V.pcs i l (pc i)).trans (if_neg hne)) (preloaded d g core)).trans (if_pos hl)

end

section
variable {t : Table Word} {l m : Nat} (hl : l < 32) (hm : m < 32)
include hl hm

/-- Another lane's registers stay. -/
theorem putRegs_other {rs : List (Nat × Nat)} (hne : l ≠ m) (n : Nat) :
    tget 0 (putRegs t l rs) (32 * n + m) = tget 0 t (32 * n + m) :=
  foldl_keeps (fun u : Table Word => tget 0 u (32 * n + m) = tget 0 t (32 * n + m)) _
    (fun u e h => (tget_tset ..).trans ((if_neg (by omega)).trans h)) _ _ rfl

end

theorem putRegs_unnamed {t : Table Word} {l n : Nat} {rs : List (Nat × Nat)} (hn : ∀ e ∈ rs, e.1 ≠ n) :
    tget 0 (putRegs t l rs) (32 * n + l) = tget 0 t (32 * n + l) := by
  induction rs generalizing t with
  | nil => rfl
  | cons e rs ih =>
    have he := hn e List.mem_cons_self
    exact (ih fun r hr => hn r (List.mem_cons_of_mem _ hr)).trans ((tget_tset ..).trans (if_neg (by omega)))

/-- Registers named once hold what they are given. -/
theorem putRegs_named {t : Table Word} {l n b : Nat} {rs : List (Nat × Nat)} (hkeys : (rs.map Prod.fst).Nodup) (hb : (n, b) ∈ rs) :
    tget 0 (putRegs t l rs) (32 * n + l) = BitVec.ofNat 32 b := by
  induction rs generalizing t with
  | nil => cases hb
  | cons e rs ih =>
    obtain ⟨hfirst, hrest⟩ := List.nodup_cons.1 hkeys
    rcases List.mem_cons.1 hb with rfl | hb
    · exact (putRegs_unnamed fun r hr h => hfirst (List.mem_map.2 ⟨r, hr, h⟩)).trans (tget_tset_same ..)
    · exact ih hrest hb

section
variable {s : State} {site dispatch slot w : Nat} {c : CamSlot} {x : Sweep} {d : Dispatch} {g : Group}

theorem Sweep.mem_lanes {l : Nat} : l ∈ lanesOf x.lanes ↔ l < 32 ∧ l < x.forming.length := by
  rw [mem_lanesOf]
  exact and_congr_right fun hl => by rw [Sweep.lanes, inSet_laneSet _ hl, decide_eq_true_eq]

theorem budWarp_v : (s.budWarp c x slot w d g).v =
    (lanesOf x.lanes).foldl (fun t l => putRegs t l (budRegs c.desc.toNat (x.lane l))) [] := by
  rw [State.budWarp, startWarp_fresh.1]

theorem budWarp_named {l n b : Nat} (hl : l ∈ lanesOf x.lanes) (hb : (n, b) ∈ budRegs c.desc.toNat (x.lane l)) :
    tget 0 (s.budWarp c x slot w d g).v (32 * n + l) = BitVec.ofNat 32 b := by
  have hlow := (mem_lanesOf.1 hl).1
  rw [budWarp_v]
  exact (foldl_read (read := fun t : Table Word => tget 0 t (32 * n + l))
    (fun t => putRegs_named (rs := budRegs c.desc.toNat (x.lane l)) (by simp [budRegs]) hb)
    (fun t i hi hne => putRegs_other (mem_lanesOf.1 hi).1 hlow hne n) []).trans (if_pos hl)

/-- A register beyond v5, or of a lane without a bud, is zero (R30, R257). -/
theorem budWarp_zero {l n : Nat} (hl : l < 32) (hn : l ∈ lanesOf x.lanes → 6 ≤ n) :
    tget 0 (s.budWarp c x slot w d g).v (32 * n + l) = 0 := by
  rw [budWarp_v]
  refine List.foldlRecOn (motive := fun t : Table Word => tget 0 t (32 * n + l) = 0) _ _ rfl fun t ht i hi => ?_
  by_cases hil : i = l
  · subst hil
    have hbeyond := hn hi
    refine (putRegs_unnamed fun e he h => ?_).trans ht
    have hlow : e.1 ∈ [0, 1, 2, 3, 4, 5] := List.mem_map_of_mem (f := Prod.fst) he
    simp only [List.mem_cons, List.not_mem_nil, or_false] at hlow
    omega
  · exact (putRegs_other (mem_lanesOf.1 hi).1 hl hil n).trans ht

theorem budWarp_buds (l : Nat) : tfind (s.budWarp c x slot w d g).buds l =
    if l ∈ lanesOf x.lanes then some (slot, (x.lane l).1) else none :=
  foldl_read (read := fun t : Table (Nat × Nat) => tfind t l) (fun _ => tfind_tput_same ..)
    (fun t _ _ hne => tfind_tput_other t _ hne) []

end

end Sys2Proof.Machine
end

section
/-! ## Cambium engines: wakes, ended runs and waits

The moves that take what threads leave of their buds (R183, R184, R253, R258). -/

namespace Sys2Proof.Machine

/-! ### Wakes (R184, R258) -/

section
variable {s : State} {site slot i : Nat} {next : Bool} {m : CamFront} (hnext : s.nextCam site CamMsg.isWake = some m)
  (hmsg : m.msg = .wake slot i next)
include hnext hmsg

/-- A wake of a slot that is not declared, or of no element, is a deferred fault. -/
theorem exec_wakeTake_of_bad
    (hbad : s.camSlot? site m.dispatch slot = none ∨ ∃ c, s.camSlot? site m.dispatch slot = some c ∧ camCount c.desc.toNat ≤ i) :
    exec (.wakeTake site) s = .next ((s.camMsgFault site m).takeCam site m) := by
  rcases hbad with hnone | ⟨c, hc, hi⟩
  · simp only [exec, execWakeTake, hnext, hmsg, hnone]
    rfl
  · simp only [exec, execWakeTake, hnext, hmsg, hc, if_pos hi]
    rfl

/-- A good wake reaches the engine that owns its element. -/
theorem exec_wakeTake_of_owner {c x : CamSlot} (hc : s.camSlot? site m.dispatch slot = some c) (hi : i < camCount c.desc.toNat)
    (hx : s.camSlot? (s.camOwner m.dispatch (camCount c.desc.toNat) i) m.dispatch slot = some x) :
    let owner := s.camOwner m.dispatch (camCount c.desc.toNat) i
    let map := if next then camNextm c.desc.toNat else camMap c.desc.toNat
    exec (.wakeTake site) s = .next (((s.wakeElement owner m.dispatch slot x i next).getD
      ((s.camMark owner c.ctx [(budAddr c.desc.toNat i, 16, true), (mapDouble map i, 8, true)]).camMsgFault site m)).takeCam
        site m) := by
  simp only [exec, execWakeTake, hnext, hmsg, hc, hx, if_neg (Nat.not_le.2 hi)]

end

section
variable {s : State} {owner dispatch slot i : Nat} {next : Bool} {x : CamSlot} {b : Bud}
  (hread : s.readBud owner x.ctx x.desc.toNat i = some b)
include hread

/-- A running element is noted in PENDING. -/
theorem wakeElement_of_running (hstate : b.state = 2) : s.wakeElement owner dispatch slot x i next =
    some (s.onCamSlot owner dispatch slot fun y =>
      { y with pending := if y.pending.contains i then y.pending else y.pending ++ [i] }) := by
  have hzero : b.state ≠ 0 := by omega
  simp only [State.wakeElement, hread, if_neg hzero, if_pos hstate]

/-- A waiting element becomes ready, in the next sweep or in this one. -/
theorem wakeElement_of_waiting {t : State} (hstate : b.state = 0)
    (hwrite : s.writeBud owner dispatch x.ctx x.desc.toNat i { b with state := 1 } = some t) :
    s.wakeElement owner dispatch slot x i next =
      if next then t.setMapBit owner dispatch x.ctx (camNextm x.desc.toNat) i true
      else t.setMapBit owner dispatch x.ctx (camMap x.desc.toNat) i false := by
  simp only [State.wakeElement, hread, if_pos hstate, hwrite]

theorem wakeElement_of_other (hstate : b.state = 1 ∨ b.state = 3) :
    s.wakeElement owner dispatch slot x i next = some s := by
  have hzero : b.state ≠ 0 := by omega
  have htwo : b.state ≠ 2 := by omega
  simp only [State.wakeElement, hread, if_neg hzero, if_neg htwo]

end

/-! ### Ended runs (R183, R253, R258) -/

/-- The end of a run that an engine can take: its engine is not held, the earlier commands of its warp are taken, and what a byield
releases is performed. -/
def State.endDue (s : State) (site : Nat) (e : BudEnd) : Bool :=
  !s.enginesWait (dieOfSite site) && s.camFirst e.dispatch e.warp e.seq && match e.yielded with
    | some _ => s.handed e.warp e.seq e.scope
    | none => true

theorem exec_byieldTake_of_due {s : State} {site : Nat} {e : BudEnd} {c : CamSlot}
    (hdue : (s.cambium site).ends.find? (s.endDue site) = some e) :
    let t := (s.markRelease e.warp e.seq e.scope).onCambium site fun c => { c with ends := c.ends.erase e }
    t.camSlot? site e.dispatch e.slot = some c → exec (.byieldTake site) s = .next (t.endRun site e c) := by
  intro t hc
  have heq : exec (.byieldTake site) s = match (s.cambium site).ends.find? (s.endDue site) with
      | none => .next s
      | some e =>
        let t := (s.markRelease e.warp e.seq e.scope).onCambium site fun c => { c with ends := c.ends.erase e }
        match t.camSlot? site e.dispatch e.slot with
        | none => .next t
        | some c => .next (t.endRun site e c) := rfl
  simp only [t] at hc
  rw [heq]
  simp only [hdue, hc]
  rfl

/-- An ended run leaves a bud and its dormancy bit, where both can be written, and no wake waits for the element. -/
def LeavesBud (s : State) (site : Nat) (e : BudEnd) (c : CamSlot) (b : Bud) (dormant : Bool) : Prop :=
  ∀ t u, s.writeBud site e.dispatch c.ctx c.desc.toNat e.element b = some t →
    t.setMapBit site e.dispatch c.ctx (camMap c.desc.toNat) e.element dormant = some u →
    s.endRun site e c = u.onCamSlot site e.dispatch e.slot fun x => { x with pending := x.pending.filter fun i => i ≠ e.element }

section
variable {s : State} {site : Nat} {e : BudEnd} {c : CamSlot} {b : Bud}
  (hread : s.readBud site c.ctx c.desc.toNat e.element = some b)
include hread

/-- An exit leaves its bud ready (log entry 83). -/
theorem endRun_of_exit (hexit : e.yielded = none) : LeavesBud s site e c { b with state := 1 } false := by
  intro t u hwrite hbit
  simp only [State.endRun, hread, hexit, hwrite, hbit, Option.getD_some]

section
variable {retire : Bool} {clause kind opnd : Nat} {locals : Double}
  (hyield : e.yielded = some (retire, clause, kind, opnd, locals))
include hyield

theorem endRun_of_retire (hretire : retire = true) : LeavesBud s site e c
    { b with state := 3, clause := clause, wkind := kind, wopnd := opnd, locals := locals.toNat } true := by
  subst hretire
  intro t u hwrite hbit
  simp only [State.endRun, hread, hyield, hwrite, hbit, Option.getD_some, Bool.not_true, Bool.and_false, Bool.false_eq_true,
    if_false, if_true]

section
variable {met : Bool} (hwait : s.budWait site c.ctx c.desc.toNat e.element kind opnd = some met) (hretire : retire = false)
include hwait hretire

theorem endRun_of_met (hready : e.element ∈ c.pending ∨ met = true) : LeavesBud s site e c
    { b with state := 1, clause := clause, wkind := kind, wopnd := opnd, locals := locals.toNat } false := by
  subst hretire
  have hgoes : (c.pending.contains e.element || met) = true := by
    rcases hready with h | h
    · rw [List.contains_iff_mem.2 h, Bool.true_or]
    · rw [h, Bool.or_true]
  intro t u hwrite hbit
  simp only [State.endRun, hread, hyield, hwait, hwrite, hbit, hgoes, Option.getD_some, Option.isNone_some, Bool.false_and,
    Bool.false_eq_true, if_false, if_true]

theorem endRun_of_unmet (hpending : e.element ∉ c.pending) (hmet : met = false) : LeavesBud s site e c
    { b with state := 0, clause := clause, wkind := kind, wopnd := opnd, locals := locals.toNat } true := by
  subst hretire hmet
  have hstays : (c.pending.contains e.element || false) = false := by simpa using hpending
  intro t u hwrite hbit
  simp only [State.endRun, hread, hyield, hwait, hwrite, hbit, hstays, Option.getD_some, Option.isNone_some, Bool.false_and,
    Bool.false_eq_true, if_false]

end

end

end

/-! ### Waits of buds (R253) -/

/-- Taking a neighbour's level into account: the step of `budWait`. -/
def State.levelStep (s : State) (site ctx d opnd : Nat) (acc : Option Bool) (j : Nat) : Option Bool :=
  match acc, s.camRead site ctx (camLevel d + 4 * j) 4 with
  | some a, some b => some (a && decide (opnd ≤ ofBytes b))
  | _, _ => none

/-- Where every level can be read, the levels of a list decide. -/
theorem foldl_levels {s : State} {site ctx d opnd : Nat} {l : List Nat}
    (hlevels : ∀ j ∈ l, (s.camRead site ctx (camLevel d + 4 * j) 4).isSome = true) (a : Bool) :
    ∃ met, l.foldl (s.levelStep site ctx d opnd) (some a) = some met ∧
      (met = true ↔ a = true ∧ ∀ j ∈ l, ∀ v, s.camRead site ctx (camLevel d + 4 * j) 4 = some v → opnd ≤ ofBytes v) := by
  induction l generalizing a with
  | nil => exact ⟨a, rfl, by simp⟩
  | cons j l ih =>
    obtain ⟨v, hv⟩ := Option.isSome_iff_exists.1 (hlevels j List.mem_cons_self)
    obtain ⟨met, hmet, hiff⟩ := ih (fun k hk => hlevels k (List.mem_cons_of_mem _ hk)) (a && decide (opnd ≤ ofBytes v))
    refine ⟨met, ?_, hiff.trans ?_⟩
    · simp only [List.foldl_cons, State.levelStep, hv] at hmet ⊢
      exact hmet
    · simp only [Bool.and_eq_true, decide_eq_true_eq, List.forall_mem_cons, hv, Option.some.injEq, forall_eq', and_assoc]

section
variable {s : State} {site ctx d i kind opnd : Nat}

theorem budWait_of_none (hkind : kind = 0) : s.budWait site ctx d i kind opnd = some true := by
  subst hkind
  rfl

theorem budWait_of_unknown (hzero : kind ≠ 0) (htwo : kind ≠ 2) : s.budWait site ctx d i kind opnd = some false := by
  unfold State.budWait
  split
  · exact absurd rfl hzero
  · exact absurd rfl htwo
  · rfl

theorem budWait_of_noLevels (hkind : kind = 2) (hlevel : camLevel d = 0) : s.budWait site ctx d i kind opnd = none := by
  subst hkind
  exact if_pos hlevel

section
variable (hkind : kind = 2) (hlevel : camLevel d ≠ 0)
include hkind hlevel

theorem budWait_of_unread (hread : s.camRead site ctx (camNbr d + 32 * i) 32 = none) :
    s.budWait site ctx d i kind opnd = none := by
  subst hkind
  have hnone : s.neighbours site ctx d i = none := by rw [State.neighbours, hread, Option.map_none]
  simp only [State.budWait, if_neg hlevel, hnone]

/-- A wait for the neighbours is met when the level of each of them has reached the operand. -/
theorem budWait_iff {b : List Byte} (hread : s.camRead site ctx (camNbr d + 32 * i) 32 = some b) :
    let near (j : Nat) : Prop := j ∈ (chunks 4 8 b).map ofBytes ∧ j ≠ 0xFFFFFFFF ∧ j < camCount d
    (∀ j, near j → (s.camRead site ctx (camLevel d + 4 * j) 4).isSome = true) → ∃ met,
      s.budWait site ctx d i kind opnd = some met ∧
      (met = true ↔ ∀ j v, near j → s.camRead site ctx (camLevel d + 4 * j) 4 = some v → opnd ≤ ofBytes v) := by
  subst hkind
  intro near hlevels
  obtain ⟨l, hl⟩ : ∃ l, l = ((chunks 4 8 b).map ofBytes).filter fun j => j ≠ 0xFFFFFFFF && decide (j < camCount d) := ⟨_, rfl⟩
  have hnear : s.neighbours site ctx d i = some l := by rw [State.neighbours, hread, Option.map_some, hl]
  have hmem (j : Nat) : j ∈ l ↔ near j := by simp only [hl, List.mem_filter, Bool.and_eq_true, decide_eq_true_eq, near]
  obtain ⟨met, hmet, hiff⟩ := foldl_levels (s := s) (site := site) (ctx := ctx) (d := d) (opnd := opnd) (l := l)
    (fun j hj => hlevels j ((hmem j).1 hj)) true
  refine ⟨met, ?_, hiff.trans ?_⟩
  · simp only [State.budWait, if_neg hlevel, hnear]
    exact hmet
  · simp only [true_and, hmem]
    exact ⟨fun h j v hj => h j hj v, fun h j hj v => h j v hj⟩

end

end

end Sys2Proof.Machine
end

section
/-! ## Cambium engines: the ends of sweeps

The end of a sweep (R259, R260), and the proof of the statement over cambium engines. -/

namespace Sys2Proof.Machine

/-! ### Step 1: deferrals clear -/

/-- Deferred elements of an engine's range are dormant no more. -/
theorem clearDeferrals_eq (s : State) (site dispatch : Nat) (c : CamSlot) :
    let d := c.desc.toNat
    let r := s.camRange site dispatch (camCount d)
    s.clearDeferrals site dispatch c = (List.range (r.2 - r.1)).foldl (fun acc n => acc.bind fun s =>
      (s.mapBit site c.ctx (camNextm d) (r.1 + n)).bind fun deferred =>
        if deferred then (s.setMapBit site dispatch c.ctx (camMap d) (r.1 + n) false).bind fun s =>
          s.setMapBit site dispatch c.ctx (camNextm d) (r.1 + n) false
        else some s) (some s) := by
  intro d r
  simp only [State.clearDeferrals, List.foldl_map]
  refine congrArg (fun f => List.foldl f (some s) (List.range (r.2 - r.1))) (funext fun acc => funext fun n => ?_)
  cases acc with
  | none => rfl
  | some t =>
    simp only [Option.bind_some]
    cases t.mapBit site c.ctx (camNextm d) (r.1 + n) with
    | none => rfl
    | some deferred =>
      cases deferred with
      | false => rfl
      | true => cases t.setMapBit site dispatch c.ctx (camMap d) (r.1 + n) false <;> rfl

/-! ### Step 3: whether sweeping ends -/

section
variable {s : State} {site : Nat} {c : CamSlot} {x : Sweep}

/-- Looking at one element's dormancy bit: the step of `anyReady`. -/
def State.readyStep (s : State) (site : Nat) (c : CamSlot) (acc : Option Bool) (i : Nat) : Option Bool :=
  match acc with
  | some false => (s.mapBit site c.ctx (camMap c.desc.toNat) i).map fun b => !b
  | x => x

/-- Once a ready element is found, the others are not looked at. -/
theorem foldl_readyStep_found (l : List Nat) : l.foldl (s.readyStep site c) (some true) = some true :=
  foldl_keeps (fun acc => acc = some true) _ (fun _ _ h => by rw [h]; rfl) _ _ rfl

theorem foldl_readyStep {l : List Nat} (hbits : ∀ i ∈ l, (s.mapBit site c.ctx (camMap c.desc.toNat) i).isSome = true) :
    ∃ r, l.foldl (s.readyStep site c) (some false) = some r ∧
      (r = true ↔ ∃ i ∈ l, s.mapBit site c.ctx (camMap c.desc.toNat) i = some false) := by
  induction l with
  | nil => exact ⟨false, rfl, by simp⟩
  | cons i l ih =>
    obtain ⟨b, hb⟩ := Option.isSome_iff_exists.1 (hbits i List.mem_cons_self)
    have hstep : s.readyStep site c (some false) i = some !b := by rw [State.readyStep, hb]; rfl
    rw [List.foldl_cons, hstep]
    cases b with
    | false => exact ⟨true, foldl_readyStep_found l, iff_of_true rfl ⟨i, List.mem_cons_self, hb⟩⟩
    | true =>
      obtain ⟨r, hr, hiff⟩ := ih fun k hk => hbits k (List.mem_cons_of_mem _ hk)
      exact ⟨r, hr, hiff.trans (by simp [hb])⟩

/-- A slot's dormancy bits, all readable, say whether an element is ready. -/
theorem anyReady_iff (hbits : ∀ i, i < camCount c.desc.toNat → (s.mapBit site c.ctx (camMap c.desc.toNat) i).isSome = true) :
    ∃ r, s.anyReady site c = some r ∧
      (r = true ↔ ∃ i, i < camCount c.desc.toNat ∧ s.mapBit site c.ctx (camMap c.desc.toNat) i = some false) := by
  obtain ⟨r, hr, hiff⟩ := foldl_readyStep (s := s) (site := site) (c := c) (l := List.range (camCount c.desc.toNat))
    fun i hi => hbits i (List.mem_range.1 hi)
  exact ⟨r, hr, by simpa only [List.mem_range] using hiff⟩

/-- The stop word of a sweep, as a Boolean; none where it cannot be read. -/
def State.stopWord (s : State) (site : Nat) (c : CamSlot) (x : Sweep) : Option Bool :=
  match x.stop with
  | none => some false
  | some a => (s.camRead site c.ctx a 8).map fun b => ofBytes b ≠ 0

theorem sweepDone_of_unread (hstop : s.stopWord site c x = none) : s.sweepDone site c x = none := by
  have heq : s.sweepDone site c x = match s.stopWord site c x, s.anyReady site c with
      | some w, some r => some ((x.limit ≠ 0 && x.k = x.limit) || w || !r)
      | _, _ => none := rfl
  rw [heq, hstop]

theorem sweepDone_iff {w : Bool} (hstop : s.stopWord site c x = some w)
    (hbits : ∀ i, i < camCount c.desc.toNat → (s.mapBit site c.ctx (camMap c.desc.toNat) i).isSome = true) :
    ∃ ended, s.sweepDone site c x = some ended ∧ (ended = true ↔ (x.limit ≠ 0 ∧ x.k = x.limit) ∨ w = true ∨
      ¬∃ i, i < camCount c.desc.toNat ∧ s.mapBit site c.ctx (camMap c.desc.toNat) i = some false) := by
  have heq : s.sweepDone site c x = match s.stopWord site c x, s.anyReady site c with
      | some w, some r => some ((x.limit ≠ 0 && x.k = x.limit) || w || !r)
      | _, _ => none := rfl
  obtain ⟨r, hr, hiff⟩ := anyReady_iff hbits
  refine ⟨_, by rw [heq, hstop, hr], ?_⟩
  simp only [Bool.or_eq_true, Bool.and_eq_true, decide_eq_true_eq, Bool.not_eq_true', ← hiff, Bool.not_eq_true, or_assoc]

end

/-! ### Step 5: the barrier of the sweep -/

section
variable {s : State} {site dispatch : Nat} {x : Sweep}

theorem sweepSignal_of_none (hbarrier : x.barrier = none) : s.sweepSignal site dispatch x = s := by
  simp only [State.sweepSignal, hbarrier]

theorem sweepSignal_of_barrier {o : Nat} {g : Group} (hbarrier : x.barrier = some o)
    (hg : s.group? (groupOf x.warp) = some g) : s.sweepSignal site dispatch x =
      if g.holds o 16 && !g.meetsRegisters o 16 then s.arrive (coreOf x.warp) o 1
      else s.camFault site dispatch x.warp x.seq x.clause x.index := by
  simp only [State.sweepSignal, hbarrier, hg]
  rfl

end

/-! ### SWEEP_END -/

/-- The engine whose warp asked for the sweep of a slot. -/
def State.sweepSite (s : State) (dispatch slot : Nat) : Nat :=
  ((s.sitesOf dispatch).find? fun e =>
    match s.camSlot? e dispatch slot with
    | some c => match c.sweep with
      | some x => siteOf (coreOf x.warp) = e
      | none => false
    | none => false).getD 0

/-- Step 1 at one more engine, while no error has come: the state, and whether none has. -/
def State.clearStep (s : State) (dispatch slot : Nat) (acc : State × Bool) (e : Nat) : State × Bool :=
  match acc, s.camSlot? e dispatch slot with
  | (s, ok), some c => if ok then
      match s.clearDeferrals e dispatch c with
      | some s => (s, true)
      | none => (s, false)
    else (s, false)
  | a, none => a

/-- An error, or an engine without the slot, leaves things as they are. -/
theorem clearStep_eq (s : State) (dispatch slot : Nat) : s.clearStep dispatch slot = fun acc e =>
    match acc.2, s.camSlot? e dispatch slot with
    | true, some c => match acc.1.clearDeferrals e dispatch c with
      | some s => (s, true)
      | none => (acc.1, false)
    | _, _ => acc := by
  funext ⟨u, ok⟩ e
  cases ok <;> cases h : s.camSlot? e dispatch slot <;> simp only [State.clearStep, h] <;> rfl

/-- Steps 2 to 5 of a sweep's end, where `done` says whether sweeping ends, or is none on an error. -/
def State.endSweep (s : State) (dispatch slot site : Nat) (c : CamSlot) (x : Sweep) (done : Option Bool) : Result :=
  let s := if done.isNone then (s.sweepMarks dispatch slot site c x).sweepFault site dispatch x else s
  let s := s.flushDispatch dispatch
  match done with
  | some false =>
    .next ((s.eachSweep dispatch slot fun lo _ y =>
      some { y with k := x.k, cursor := none, launched := none, scanned := lo, forming := [] }).sweepSignal site dispatch x)
  | _ =>
    let s := (s.camWrite site dispatch c.ctx (c.descriptor + 60) (toBytes 4 (2 ^ 31 + x.k % 2 ^ 31))).getD
      ((s.camMark site c.ctx [(c.descriptor + 60, 4, true)]).sweepFault site dispatch x)
    .next (((s.eachSweep dispatch slot fun _ _ _ => none).sweepSignal site dispatch x).endCambium dispatch)

section
variable {s : State} {dispatch slot : Nat} {c : CamSlot} {x : Sweep}

theorem exec_sweepEnd_of_exhausted (hslot : s.camSlot? (s.sweepSite dispatch slot) dispatch slot = some c)
    (hsweep : c.sweep = some x) (hhere : s.away dispatch = false) (hexhausted : s.sweepExhausted dispatch slot = true)
    (hresident : x.barrier.isSome = true → resident x.warp = true) (hroute : s.pathsWait dispatch = false) {t : State} {ok : Bool}
    (hcleared : (s.sitesOf dispatch).foldl (s.clearStep dispatch slot) (s, true) = (t, ok)) :
    let y := { x with k := x.k + 1 }
    exec (.sweepEnd dispatch slot) s = t.endSweep dispatch slot (s.sweepSite dispatch slot) c y
      (if ok then t.sweepDone (s.sweepSite dispatch slot) c y else none) := by
  intro y
  have hsignals : (x.barrier.isSome && !resident x.warp) = false := by
    cases h : x.barrier.isSome with
    | false => rfl
    | true => rw [hresident h]; rfl
  have hgoes : ¬(s.away dispatch || !s.sweepExhausted dispatch slot || (x.barrier.isSome && !resident x.warp) ||
      s.pathsWait dispatch) = true := by
    rw [hhere, hexhausted, hsignals, hroute]
    decide
  have heq : exec (.sweepEnd dispatch slot) s =
      let site := s.sweepSite dispatch slot
      match s.camSlot? site dispatch slot with
      | none => .next s
      | some c => match c.sweep with
        | none => .next s
        | some x =>
          if s.away dispatch || !s.sweepExhausted dispatch slot || (x.barrier.isSome && !resident x.warp) ||
              s.pathsWait dispatch then
            .next s
          else
            let r := (s.sitesOf dispatch).foldl (s.clearStep dispatch slot) (s, true)
            let y := { x with k := x.k + 1 }
            r.1.endSweep dispatch slot site c y (if r.2 then r.1.sweepDone site c y else none) := rfl
  simp only [heq, hslot, hsweep, if_neg hgoes, hcleared]
  rfl

end

section
variable {t : State} {dispatch slot site : Nat} {c : CamSlot} {x : Sweep}

theorem endSweep_of_more : t.endSweep dispatch slot site c x (some false) =
    .next (((t.flushDispatch dispatch).eachSweep dispatch slot fun lo _ z =>
      some { z with k := x.k, cursor := none, launched := none, scanned := lo, forming := [] }).sweepSignal site dispatch x) := rfl

/-- The slot's sweep ends on every engine, and its barrier is signalled. -/
def State.finishSweep (u : State) (dispatch slot site : Nat) (x : Sweep) : State :=
  ((u.eachSweep dispatch slot fun _ _ _ => none).sweepSignal site dispatch x).endCambium dispatch

theorem endSweep_of_done {u : State} (hwrite : (t.flushDispatch dispatch).camWrite site dispatch c.ctx (c.descriptor + 60)
      (toBytes 4 (2 ^ 31 + x.k % 2 ^ 31)) = some u) :
    t.endSweep dispatch slot site c x (some true) = .next (u.finishSweep dispatch slot site x) := by
  simp only [State.endSweep, Option.isNone_some, Bool.false_eq_true, if_false, hwrite, Option.getD_some]
  rfl

theorem endSweep_of_error {u : State}
    (hwrite : (((t.sweepMarks dispatch slot site c x).camFault site dispatch x.warp x.seq x.clause x.index).flushDispatch
      dispatch).camWrite site dispatch c.ctx (c.descriptor + 60) (toBytes 4 (2 ^ 31 + x.k % 2 ^ 31)) = some u) :
    t.endSweep dispatch slot site c x none = .next (u.finishSweep dispatch slot site x) := by
  simp only [State.endSweep, Option.isNone_none, if_true, State.sweepFault, hwrite, Option.getD_some]
  rfl

end

/-! ### A bud thread as it is launched (R30, R257) -/

section
variable {s : State} {c : CamSlot} {x : Sweep} {slot w : Nat} {d : Dispatch} {g : Group}

theorem budWarp_phase : (s.budWarp c x slot w d g).phase = .between ∧ (s.budWarp c x slot w d g).mrs = [] := by
  obtain ⟨_, hmrs, hphase⟩ := startWarp_fresh (d := d) (g := g) (core := coreOf w) (run := s.comp.launched + 1) (now := s.time.now)
    (lanes := x.lanes) (pc := fun l => d.budClause (x.lane l).2.1)
  exact ⟨hphase, hmrs⟩

theorem budWarp_status (l : Nat) : (s.budWarp c x slot w d g).statusOf l = if l ∈ lanesOf x.lanes then .running else .exited :=
  startWarp_status (run := s.comp.launched + 1) (now := s.time.now) (pc := fun l => d.budClause (x.lane l).2.1) l

theorem budWarp_pc {l : Nat} (hl : l ∈ lanesOf x.lanes) :
    (s.budWarp c x slot w d g).pcOf l = d.budClause (x.lane l).2.1 :=
  startWarp_pc (run := s.comp.launched + 1) (now := s.time.now) (pc := fun l => d.budClause (x.lane l).2.1) hl

theorem Sweep.lane_of_forming {l : Nat} {e : Nat × Nat × Nat} (h : x.forming[l]? = some e) : x.lane l = e := by
  rw [Sweep.lane, nth, List.getD_eq_getElem?_getD, h, Option.getD_some]

/-- A lane with an element runs at the clause of its bud, with its element in v0 to v5. -/
theorem budWarp_lane {l i clause locals : Nat} (hl : l < 32) (hforming : x.forming[l]? = some (i, clause, locals)) :
    let W := s.budWarp c x slot w d g
    let a := elemAddr c.desc.toNat i
    let reg (n : Nat) : Word := tget 0 W.v (32 * n + l)
    W.statusOf l = .running ∧ W.pcOf l = d.budClause clause ∧
    reg 0 = BitVec.ofNat 32 i ∧ reg 1 = BitVec.ofNat 32 clause ∧
    reg 2 = BitVec.ofNat 32 a ∧ reg 3 = BitVec.ofNat 32 (a / 2 ^ 32) ∧
    reg 4 = BitVec.ofNat 32 locals ∧ reg 5 = BitVec.ofNat 32 (locals / 2 ^ 32) ∧
    (∀ n, 6 ≤ n → reg n = 0) ∧ tfind W.buds l = some (slot, i) := by
  intro W a reg
  have hlane := Sweep.lane_of_forming hforming
  have hmem : l ∈ lanesOf x.lanes := Sweep.mem_lanes.2 ⟨hl, (List.getElem?_eq_some_iff.1 hforming).1⟩
  have hreg {n b : Nat} (hb : (n, b) ∈ budRegs c.desc.toNat (i, clause, locals)) : reg n = BitVec.ofNat 32 b :=
    budWarp_named hmem (by rw [hlane]; exact hb)
  refine ⟨(budWarp_status l).trans (if_pos hmem), ?_, hreg ?_, hreg ?_, hreg ?_, hreg ?_, hreg ?_, hreg ?_,
    fun n hn => budWarp_zero hl fun _ => hn, ?_⟩
  · rw [budWarp_pc hmem, hlane]
  iterate 6 simp [budRegs, a]
  · rw [budWarp_buds, if_pos hmem, hlane]

theorem budWarp_lane_of_none {l : Nat} (hl : l < 32) (hlen : x.forming.length ≤ l) :
    let W := s.budWarp c x slot w d g
    W.statusOf l = .exited ∧ tfind W.buds l = none ∧ ∀ n, tget 0 W.v (32 * n + l) = 0 := by
  intro W
  have hmem : l ∉ lanesOf x.lanes := fun h => Nat.not_lt.2 hlen (Sweep.mem_lanes.1 h).2
  exact ⟨(budWarp_status l).trans (if_neg hmem), (budWarp_buds l).trans (if_neg hmem),
    fun n => budWarp_zero hl fun h => absurd h hmem⟩

end

/-! ### The statement -/

/-- Settles O52: each move's clauses are the lemmas about that move. -/
theorem cambiumEnginesGoOn : Obligations.CambiumEnginesGoOn := by
  unfold Obligations.CambiumEnginesGoOn
  refine ⟨?declare, ?request, ?scan, ?element, ?launch, ?wake, ?badWake, ?byield, ?endRun, ?wait, ?clear, ?done, ?signal, ?sweepEnd⟩
  case declare =>
    intro s site m slot addr scope hnext hmsg
    exact ⟨fun b hread => exec_declarationAccept_of_good hnext hmsg hread,
      fun b hread => exec_declarationAccept_of_bad hnext hmsg hread, exec_declarationAccept_of_unread hnext hmsg⟩
  case request =>
    intro s site m slot limit stop barrier hnext hmsg
    rw [exec_sweepRequestAccept hnext hmsg]
    refine ⟨fun hbad => ?_, fun hslot hidle => ?_⟩
    · rw [if_pos (by simpa only [Bool.or_eq_true] using hbad)]
    · have hnone : (s.camSlot? site m.dispatch slot).isNone = false := by rw [Option.isNone_eq_false_iff]; exact hslot
      rw [hnone, hidle]
      rfl
  case scan =>
    intro s site key c x y w ws hslot hsweep hfree hdispatch hphase hhere halone hroute hi t z v hz hv
    have hscan := exec_scanStep_of_ready hslot hsweep hfree hdispatch hphase hhere halone hroute z v hz hv
    refine ⟨fun hsome hfull => hscan.trans (if_pos ⟨hsome, hfull⟩), fun hwaits => hscan.trans (if_neg ?_)⟩
    rintro ⟨hsome, hfull⟩
    rcases hwaits with hnil | ⟨hroom, hleft⟩
    · exact hsome hnil
    · omega
  case element =>
    intro s site dispatch slot c x nbud i d map bud fault
    refine ⟨scanElement_of_unmapped, fun p q hmap hnextm => ⟨scanElement_of_passed hmap hnextm, fun hready =>
      ⟨scanElement_of_unread hmap hnextm hready, fun b hread => ⟨fun hstate hclause => ⟨fun t => ?_, ?_⟩,
        fun hstate hclause => ⟨fun t => ?_, ?_⟩, scanElement_of_running hmap hnextm hready hread, fun hstate => ?_⟩⟩⟩⟩
    · exact scanElement_of_gathered hmap hnextm hready hread hstate hclause
    · exact scanElement_of_ungathered hmap hnextm hready hread hstate hclause
    · exact scanElement_of_retired hmap hnextm hready hread hstate hclause
    · exact scanElement_of_unretired hmap hnextm hready hread hstate hclause
    · rw [scanElement_of_dormant hmap hnextm hready hread hstate]
      exact ⟨fun t hbit => by rw [hbit, Option.getD_some], fun hbit => by rw [hbit, Option.getD_none]; rfl⟩
  case launch =>
    intro s site dispatch slot c x w d g hd hg t
    obtain ⟨hphase, hmrs⟩ := budWarp_phase (s := s) (c := c) (x := x) (slot := slot) (w := w) (d := d) (g := g)
    exact ⟨fun y => launch_sweep hd hg, _, launch_warp hd hg, hphase, hmrs, fun l i clause locals => budWarp_lane,
      fun l => budWarp_lane_of_none⟩
  case wake =>
    intro s site m slot i next c x hnext hmsg hc hi owner hx bud map
    have htake := exec_wakeTake_of_owner hnext hmsg hc hi hx
    refine ⟨fun hwake => ?_, fun t hwake => ?_, fun b hread =>
      ⟨wakeElement_of_running hread, fun hstate t => wakeElement_of_waiting hread hstate, wakeElement_of_other hread⟩⟩
    · rw [htake, hwake, Option.getD_none]
    · rw [htake, hwake, Option.getD_some]
  case badWake =>
    intro s site m slot i next hnext hmsg
    exact exec_wakeTake_of_bad hnext hmsg
  case byield =>
    intro s site e c hdue
    exact exec_byieldTake_of_due hdue
  case endRun =>
    intro s site e c b hread d ends
    refine ⟨endRun_of_exit hread, fun retire clause kind opnd locals hyield => ?_⟩
    refine ⟨endRun_of_retire hread hyield, fun met hwait hretire => ⟨?_, ?_⟩⟩
    · exact endRun_of_met hread hyield hwait hretire
    · exact endRun_of_unmet hread hyield hwait hretire
  case wait =>
    intro s site ctx d i kind opnd
    exact ⟨budWait_of_none, budWait_of_unknown, budWait_of_noLevels,
      fun hkind hlevel => ⟨budWait_of_unread hkind hlevel, fun b => budWait_iff hkind hlevel⟩⟩
  case clear => exact clearDeferrals_eq
  case done =>
    intro s site c x d hbits ready
    refine ⟨fun hstop => ?_, fun a b hstop hread => ?_, fun a hstop hread => ?_⟩
    · have hword : s.stopWord site c x = some false := by rw [State.stopWord, hstop]
      simpa only [Bool.false_eq_true, false_or] using sweepDone_iff hword hbits
    · have hword : s.stopWord site c x = some (decide (ofBytes b ≠ 0)) := by
        simp only [State.stopWord, hstop, hread, Option.map_some]
      simpa only [decide_eq_true_eq] using sweepDone_iff hword hbits
    · exact sweepDone_of_unread (by simp only [State.stopWord, hstop, hread, Option.map_none])
  case signal =>
    intro s site dispatch x
    refine ⟨sweepSignal_of_none, fun o g hbarrier hg => ⟨fun hholds hmeets => ?_, fun hbad => ?_⟩⟩
    · rw [sweepSignal_of_barrier hbarrier hg, hholds, hmeets]
      rfl
    · rw [sweepSignal_of_barrier hbarrier hg, if_neg]
      rcases hbad with h | h <;> simp [h]
  case sweepEnd =>
    intro s dispatch slot c x site hslot hsweep hhere hexhausted hresident hroute y word finish t ok hcleared
    have hend := exec_sweepEnd_of_exhausted hslot hsweep hhere hexhausted hresident hroute
      ((congrArg (fun f => List.foldl f (s, true) (s.sitesOf dispatch)) (clearStep_eq s dispatch slot)).trans hcleared)
    refine ⟨fun hok hdone => ?_, fun hok hdone u hwrite => ?_, fun herror u hwrite => ?_⟩
    · exact hend.trans (by rw [if_pos hok]; exact congrArg _ hdone)
    · exact hend.trans (by rw [if_pos hok]; exact (congrArg _ hdone).trans (endSweep_of_done hwrite))
    · have hnone : (if ok then t.sweepDone site c y else none) = none := by
        rcases herror with h | h
        · rw [h]; rfl
        · rw [h, ite_self]
      exact hend.trans ((congrArg _ hnone).trans (endSweep_of_error hwrite))

end Sys2Proof.Machine
end

section
/-! ## Canopy engines: how a block of a ring or direct collective goes on

One lemma for each way a block goes on from a rank (R273, R277): as a sum to the next rank, or finished, when the rank takes it and, by
the form of the collective, leaves it there, sends it to every other member or passes it around the ring. Then the proof of the
statement over them. -/

namespace Sys2Proof.Machine

section
variable {s : State} {e : EngRef} {p : Prog} {c : Comm} {comm key block : Nat} {w : RedWait} {bytes : List Byte}

/-- The engine of a rank sends a block on to the engine of another rank, as a part (log entry 62). -/
def State.sendPart (s : State) (e : EngRef) (p : Prog) (c : Comm) (comm key block : Nat) (bytes : List Byte) (rank : Nat)
    (adding : Bool) : State :=
  s.send (engDie e) (.part p.slot comm c.attempt (key / 256) block adding (nth 0 c.members rank) bytes)

/-! ### A sum -/

theorem passPart_of_sum (hrank : c.rank ≠ block) (hop : p.op ≠ 4) :
    s.passPart e p c comm key block true w bytes =
      s.sendPart e p c comm key block bytes ((c.rank + 1) % c.members.length) true :=
  (if_pos (by simp [hrank])).trans (if_neg hop)

/-- A rank that only adds for a reduce-scatter waits for nothing more. -/
theorem passPart_of_scatterSum (hrank : c.rank ≠ block) (hop : p.op = 4) :
    s.passPart e p c comm key block true w bytes =
      ((s.sendPart e p c comm key block bytes ((c.rank + 1) % c.members.length) true).onProg e fun q =>
        { q with reds := tdel q.reds key }).tryFinish e :=
  (if_pos (by simp [hrank])).trans (if_pos hop)

/-! ### A finished block -/

/-- The form of the collective is direct: ALG 2 in the block (R270). -/
def Prog.direct (p : Prog) : Bool :=
  match p.block with
  | some b => decide (bits b.toNat 415 412 = 2)
  | none => false

theorem direct_of_block {b : BitVec 1024} (hblock : p.block = some b) : p.direct = decide (bits b.toNat 415 412 = 2) := by
  rw [Prog.direct, hblock]

/-- A finished block, after the rank has taken it, goes to every other member from its own rank, or to the next rank unless that is its
own (R273, R277). -/
def State.sendOn (s : State) (e : EngRef) (p : Prog) (c : Comm) (comm key block : Nat) (bytes : List Byte) : State :=
  if p.direct then
    if c.rank = block then
      ((List.range c.members.length).filter (· ≠ block)).foldl
        (fun t r => t.sendPart e p c comm key block bytes r false) s
    else s
  else if (c.rank + 1) % c.members.length = block then s
  else s.sendPart e p c comm key block bytes ((c.rank + 1) % c.members.length) false

/-- A block is finished when no rank adds to it any more or its own rank has added: the rank takes it, and it goes on except in a
reduce-scatter. -/
theorem passPart_of_finished {adding : Bool} (hfinished : adding = true → c.rank = block) :
    s.passPart e p c comm key block adding w bytes =
      if p.op = 4 then s.takePart e p key w bytes else (s.takePart e p key w bytes).sendOn e p c comm key block bytes :=
  if_neg (by simpa using hfinished)

/-- The direct form: the block's own rank sends it to every other member. -/
theorem sendOn_of_direct_own (hdirect : p.direct = true) (hrank : c.rank = block) :
    s.sendOn e p c comm key block bytes =
      ((List.range c.members.length).filter (· ≠ block)).foldl
        (fun t r => t.sendPart e p c comm key block bytes r false) s :=
  (if_pos hdirect).trans (if_pos hrank)

/-- The direct form: another rank sends the block to none. -/
theorem sendOn_of_direct_other (hdirect : p.direct = true) (hrank : c.rank ≠ block) :
    s.sendOn e p c comm key block bytes = s :=
  (if_pos hdirect).trans (if_neg hrank)

theorem sendOn_of_ring (hring : p.direct = false) :
    s.sendOn e p c comm key block bytes =
      if (c.rank + 1) % c.members.length = block then s
      else s.sendPart e p c comm key block bytes ((c.rank + 1) % c.members.length) false :=
  if_neg (by simp [hring])

end

/-! ### The statement -/

/-- Settles O34: the two lemmas about a sum, and those about where a finished block goes on. -/
theorem ringPassesBlocks : Obligations.RingPassesBlocks := by
  unfold Obligations.RingPassesBlocks
  intro s e p c comm key block w bytes n next pass took
  refine ⟨passPart_of_sum, passPart_of_scatterSum, ?scattered, ?direct, ?ring⟩
  case scattered =>
    intro hrank hop
    exact (passPart_of_finished fun _ => hrank).trans (if_pos hop)
  case direct =>
    intro b hblock hop halg
    have hdirect : p.direct = true := (direct_of_block hblock).trans (decide_eq_true halg)
    refine ⟨fun hrank adding => ?own, fun hrank => ?other⟩
    case own =>
      rw [passPart_of_finished fun _ => hrank, if_neg hop]
      exact sendOn_of_direct_own hdirect hrank
    case other =>
      rw [passPart_of_finished (by simp), if_neg hop]
      exact sendOn_of_direct_other hdirect hrank
  case ring =>
    intro b adding hblock hop halg hfinished
    have hring : p.direct = false := (direct_of_block hblock).trans (decide_eq_false (by omega))
    rw [passPart_of_finished hfinished, if_neg hop]
    exact sendOn_of_ring hring

end Sys2Proof.Machine
end

section
/-! ## Dispatches: from the mailbox to the completion record

One lemma for each way an event of the controller ends: an entry taken (R293, R294), a dispatch accepted (R297), a group placed (R198 to
R200), a dispatch completed (R249, R298), killed (R299) or replayed (R301), and a context saved (R314 to R316). Then the proof of the
statement over them. -/

namespace Sys2Proof.Machine

/-! ### Entries of a mailbox (R293, R294) -/

section
variable {s : State} {m slot v : Nat}

/-- A mailbox gives up the entry at MBHEAD, and the next mailbox is served next. -/
def State.givesEntry (s : State) (m : Nat) : State :=
  let t := s.onMailbox m fun x => { x with head := x.head + 1 }
  { t with ctl := { t.ctl with nextMailbox := (m + 1) % 64 } }

/-- An entry that is given up is dropped, and the ring record says so. -/
def State.dropsEntry (s : State) (m slot : Nat) : State :=
  (s.givesEntry m).ring 0 0x14 ((s.givesEntry m).ident slot) [m, (s.mailbox m).head.toNat]

theorem overrun_of_fits {x : Mailbox} (hsize : x.waiting ≤ x.size) : x.overrun = false := decide_eq_false (Nat.not_lt.2 hsize)

section
variable (hfirst : s.mailboxOrder.find? (fun i => (s.takeable i).isSome) = some m) (hslot : s.takeable m = some slot)
include hfirst hslot

theorem execMailboxTakeEntry_of_overrun (hsize : (s.mailbox m).size < (s.mailbox m).waiting) :
    execMailboxTakeEntry m s = .next (s.mailboxError m) := by
  have hover : (s.mailbox m).overrun = true := decide_eq_true hsize
  simp [execMailboxTakeEntry, hfirst, hslot, hover]

variable (hsize : (s.mailbox m).waiting ≤ (s.mailbox m).size)
include hsize

theorem execMailboxTakeEntry_of_unread (hread : s.readEntry m slot = none) :
    execMailboxTakeEntry m s = .next
      ((if (s.mailbox m).local then s.engMark 0 slot [((s.mailbox m).entryAddress, 256)] else s).mailboxError m) := by
  simp [execMailboxTakeEntry, hfirst, hslot, overrun_of_fits hsize, hread]

variable (hread : s.readEntry m slot = some v)
include hread

theorem execMailboxTakeEntry_of_dispatch (hkind : v % 256 = 1) (hversion : bits v 15 8 = 1) (hcrec : bits v 575 512 % 32 = 0) :
    execMailboxTakeEntry m s =
      .next ((s.givesEntry m).holdDispatch m slot (s.mailbox m).head.toNat (BitVec.ofNat 2048 v)) := by
  simp [execMailboxTakeEntry, hfirst, hslot, overrun_of_fits hsize, hread, entryCrec, hkind, hversion, hcrec, State.givesEntry]

theorem execMailboxTakeEntry_of_command (hkind : v % 256 = 2) (hversion : bits v 15 8 = 1) (hcrec : bits v 255 192 % 32 = 0)
    (hclean : bits v 2047 320 = 0) :
    execMailboxTakeEntry m s = .next ((s.givesEntry m).holdCommand m slot (BitVec.ofNat 320 v)) := by
  simp [execMailboxTakeEntry, hfirst, hslot, overrun_of_fits hsize, hread, entryCrec, hkind, hversion, hcrec, hclean,
    State.givesEntry]

/-- A dispatch record of another version is dropped, and completed as rejected with code 9. -/
theorem execMailboxTakeEntry_of_version (hkind : v % 256 = 1) (hversion : bits v 15 8 ≠ 1) (hcrec : bits v 575 512 % 32 = 0) :
    execMailboxTakeEntry m s = .next ((s.dropsEntry m slot).complete m slot (bits v 575 512)
      (completionBytes (bits v 703 640) (s.dropsEntry m slot).rt 0 0 0 9 2)) := by
  simp [execMailboxTakeEntry, hfirst, hslot, overrun_of_fits hsize, hread, entryCrec, hkind, hversion, hcrec, State.dropsEntry,
    State.givesEntry]

theorem execMailboxTakeEntry_of_kind (hkind : v % 256 ≠ 1 ∧ v % 256 ≠ 2) :
    execMailboxTakeEntry m s = .next (s.dropsEntry m slot) := by
  simp [execMailboxTakeEntry, hfirst, hslot, overrun_of_fits hsize, hread, hkind, State.dropsEntry, State.givesEntry]

end
end

/-! ### Acceptance (R297) -/

section
variable {s : State} {d : Nat} {x : Dispatch} (hd : s.dispatch? d = some x)
include hd

section
variable (hphase : x.phase = .held) (hserial : s.serialWaits d x = false)
include hphase hserial

theorem execDispatchAccept_of_error {c : Nat} (hcheck : s.checkDispatch x.slot x.record true = .error c) :
    execDispatchAccept d s = .next (s.reject d x c) := by
  simp [execDispatchAccept, hd, hphase, hserial, hcheck]

theorem execDispatchAccept_of_ok {a : Accepted} (hcheck : s.checkDispatch x.slot x.record true = .ok a) :
    execDispatchAccept d s = .next (s.acceptDispatch d x a) := by
  simp [execDispatchAccept, hd, hphase, hserial, hcheck]

end

/-! ### Placing (R198 to R200, R317) -/

theorem execGroupPlace_of_resuming (hresuming : (s.slot x.slot).resuming = true) :
    execGroupPlace d s = .next (s.resumeSlot x.slot) := by
  simp only [execGroupPlace, hd, hresuming, if_true]

/-- The dies of a dispatch's next group that no earlier dispatch blocks. -/
def State.openDies (s : State) (d : Nat) (x : Dispatch) : List Nat :=
  (x.domain x.nextRank).filter fun e => !(s.ahead x d).2.contains e

theorem execGroupPlace_of_placed {t : State} (hresuming : (s.slot x.slot).resuming = false) (hwants : s.wantsPlace x = true)
    (hfirst : ∀ e ∈ s.openDies d x, e ∉ (s.ahead x d).1) (hplace : s.placeNext d x (s.openDies d x) = some t) :
    execGroupPlace d s = .next t := by
  have hnone : (s.openDies d x).any (s.ahead x d).1.contains = false := by simpa using hfirst
  simp only [State.openDies] at hnone hplace
  simp only [execGroupPlace, hd, hresuming, hwants, hnone, hplace, Bool.not_true, Bool.false_eq_true, if_false]

/-! ### The end of a cambium dispatch (R249) -/

omit hd in
/-- Bit 64 of a kernel header makes its dispatch a cambium dispatch. -/
theorem bitOf_header_iff (h : BitVec 256) : bitOf h.toNat 64 = true ↔ hdrBits h 64 64 = 1 := decide_eq_true_iff

theorem endCambium_of_plain (hplain : hdrBits x.header 64 64 ≠ 1) : s.endCambium d = s := by
  have hbit : bitOf x.header.toNat 64 = false := Bool.eq_false_iff.2 fun h => hplain ((bitOf_header_iff _).1 h)
  simp only [State.endCambium, hd, hbit, Bool.and_false, Bool.false_and, Bool.false_eq_true, if_false]

theorem endCambium_of_ended (hphase : x.phase = .accepted) (hcambial : hdrBits x.header 64 64 = 1)
    (hstart : x.startEnded = true) (hsweeping : s.sweeping d = false) (hgone : ∀ e ∈ s.warpsOf d, e.2.phase = .gone) :
    s.endCambium d =
      (((s.groupsOf d).foldl (fun s e => s.freeGroup e.1) s).pruneSaves.dropCambium d).onDispatch d fun y =>
        { y with live := 0, nextRank := totalGroups y.record } := by
  have hbit : bitOf x.header.toNat 64 = true := (bitOf_header_iff _).2 hcambial
  have hall : (s.warpsOf d).all (fun e => e.2.phase = .gone) = true := by simpa using hgone
  simp [State.endCambium, hd, hphase, hbit, hstart, hsweeping, hall]

/-! ### Completion (R298) -/

theorem execDispatchComplete_of_waits (hwaits : s.recordWaits d x = true) : execDispatchComplete d s = .next s := by
  simp only [execDispatchComplete, hd, hwaits, if_true]

section
variable (hwaits : s.recordWaits d x = false)
include hwaits

/-- An accepted dispatch completes once its groups, programs and writes have ended, those of a cambium dispatch together. -/
theorem execDispatchComplete_of_ended {t : State} {y : Dispatch} (hphase : x.phase = .accepted) (hend : s.endCambium d = t)
    (hd' : t.dispatch? d = some y) (hplaced : totalGroups y.record ≤ y.nextRank) (hgroups : t.groupsOf d = [])
    (hprograms : t.hasPrograms d = false) (hpaths : t.pathsWait d = false) :
    execDispatchComplete d s = .next ((t.closeDispatch d y).finishDispatch d 1 0 y.attempts) := by
  simp [execDispatchComplete, hd, hwaits, hphase, hend, hd', hplaced, hgroups, hprograms, hpaths]

/-- A kill for no consumed error completes at once. -/
theorem execDispatchComplete_of_stopped {code : Nat} (hphase : x.phase = .stopped code false) (h6 : code ≠ 6) (h7 : code ≠ 7) :
    execDispatchComplete d s = .next (s.finishDispatch d 3 code x.attempts) := by
  simp [execDispatchComplete, hd, hwaits, hphase, h6, h7]

end

/-! ### Kills (R299) -/

omit hd in
/-- A kill notes the collectives of the dispatch, stops its warps and programs, and drops its cambium state. -/
def State.stopsDispatch (s : State) (d : Nat) : State :=
  let t := s.onDispatch d fun y => { y with colls := (y.colls ++ s.collectivesOf d).eraseDups }
  (((tkeys (t.warpsOf d)).foldl State.stopWarp t).abortPrograms d).dropCambium d

omit hd in
/-- A kill drops the transfers of the dispatch that are not charged or do not land. -/
def State.dropsTransfers (s : State) (d : Nat) : State :=
  (tkeys (s.comp.transfers.filter fun e => s.transferDispatch e.2 = d && !(e.2.charged && e.2.lands))).foldl
    State.cancelTransfer s

theorem execDispatchKill_of_killing {code : Nat} {again : Bool} (hphase : x.phase = .killing code again) :
    let t := (s.stopsDispatch d).dropsTransfers d
    execDispatchKill d s = .next (if t.quiet d then (t.closeDispatch d x).onDispatch d fun y =>
      { y with live := 0, nextRank := totalGroups y.record, phase := .stopped code again } else t) := by
  intro t
  simp only [execDispatchKill, hd, hphase]
  exact (apply_ite Host.Outcome.next _ _ _).symm

/-! ### Replays (R301) -/

omit hd in
/-- The pages of a snapshot that were copied are written back. -/
def State.restoresPages (s : State) (x : Dispatch) : State :=
  x.pages.foldl (fun s e =>
    match e.2 with
    | some b => s.restorePage e.1 b
    | none => s) s

omit hd in
/-- The collectives of a dispatch are aborted at their members. -/
def State.sendsAborts (s : State) (x : Dispatch) : State :=
  x.colls.foldl (fun s e => s.sendAbort x.slot e.1 e.2.1 e.2.2) s

section
variable {code : Nat} {again : Bool}

theorem execDispatchReplay_of_stopped (hphase : x.phase = .stopped code again) (herror : again = true ∨ code = 6 ∨ code = 7) :
    execDispatchReplay d s = .next (((s.restoresPages x).sendsAborts x).onDispatch d fun y =>
      { y with phase := .aborting code again }) := by
  have hrestores : (!again && code ≠ 6 && code ≠ 7) = false := by
    rcases herror with rfl | rfl | rfl <;> simp
  simp only [execDispatchReplay, hd, hphase]
  exact if_neg (ne_true_of_eq_false hrestores)

section
variable (hphase : x.phase = .aborting code again)
include hphase

theorem execDispatchReplay_of_aborting (haborting : s.aborting x = true) : execDispatchReplay d s = .next s := by
  simp only [execDispatchReplay, hd, hphase, haborting, if_true]

variable (haborting : s.aborting x = false)
include haborting

theorem execDispatchReplay_of_killed (hagain : again = false) (hwaits : s.recordWaits d x = false) :
    execDispatchReplay d s = .next (s.finishDispatch d 3 code x.attempts) := by
  simp only [execDispatchReplay, hd, hphase, haborting, hagain, hwaits, Bool.false_eq_true, if_false]

theorem execDispatchReplay_of_ok {a : Accepted} (hagain : again = true)
    (hcheck : s.checkDispatch x.slot x.record false = .ok a) :
    execDispatchReplay d s = .next (s.acceptDispatch d x a) := by
  simp only [execDispatchReplay, hd, hphase, haborting, hagain, hcheck, Bool.false_eq_true, if_false, if_true]

theorem execDispatchReplay_of_error {c : Nat} (hagain : again = true)
    (hcheck : s.checkDispatch x.slot x.record false = .error c) :
    execDispatchReplay d s = .next (s.reject d x c) := by
  simp only [execDispatchReplay, hd, hphase, haborting, hagain, hcheck, Bool.false_eq_true, if_false, if_true]

end
end

omit hd in
theorem reject_of_first {c : Nat} (hwaits : s.recordWaits d x = false) :
    s.reject d x c = (s.engMark 0 x.slot (s.acceptReads x.slot x.record c)).finishDispatch d 2 c 0 :=
  if_neg (by simp [hwaits])

end

/-! ### Saves (R314 to R316) -/

section
variable {s : State} {slot : Nat}

/-- The warps of a context slot stop for a save. -/
def State.stopsForSave (s : State) (slot : Nat) : State := (tkeys (s.slotWarps slot)).foldl State.stopForSave s

/-- The groups of a context slot go to its save area, and the host is told with the slot's vector. -/
def State.savesSlot (s : State) (slot : Nat) (gs : List Nat) : State :=
  let u := gs.foldl State.saveGroup (s.stopScans slot)
  (u.onSlot slot fun x => { x with ctxctl := (x.ctxctl &&& ~~~(1 : Word)) ||| 4, resuming := false }).output
    (.msix 0 (bits (u.slot slot).ctxctl.toNat 15 8))

theorem execPreemptSave_eq (hpreq : (s.slot slot).preq = true) :
    let t := s.stopsForSave slot
    let gs := t.slotGroups slot
    execPreemptSave slot s =
      if t.saveable gs = false then .next t
      else if Config.saveFrames slot * 65536 < t.saveBytes slot gs then .next (t.killWhere fun d => d.slot = slot)
      else .next (t.savesSlot slot gs) := by
  simp only [execPreemptSave, hpreq, State.saveShort, Bool.not_true, Bool.false_eq_true, if_false, Bool.not_eq_true',
    decide_eq_true_eq]
  rfl

end

/-! ### The statement -/

/-- Settles O46: each event of the controller by the lemma for the way it ends. -/
theorem dispatchesRunTheirCourse : Obligations.DispatchesRunTheirCourse := by
  unfold Obligations.DispatchesRunTheirCourse
  refine ⟨?entry, ?noEntry, ?accept, ?place, ?resume, ?cambium, ?complete, ?kill, ?stopped, ?aborting, ?save⟩
  case entry =>
    intro s m slot v hfirst hslot hsize hread
    exact ⟨execMailboxTakeEntry_of_dispatch hfirst hslot hsize hread, execMailboxTakeEntry_of_command hfirst hslot hsize hread,
      execMailboxTakeEntry_of_version hfirst hslot hsize hread,
      fun h1 h2 => execMailboxTakeEntry_of_kind hfirst hslot hsize hread ⟨h1, h2⟩⟩
  case noEntry =>
    intro s m slot hfirst hslot
    exact ⟨execMailboxTakeEntry_of_overrun hfirst hslot, execMailboxTakeEntry_of_unread hfirst hslot⟩
  case accept =>
    intro s d x hd hphase hserial
    exact ⟨fun c => execDispatchAccept_of_error hd hphase hserial, fun a => execDispatchAccept_of_ok hd hphase hserial⟩
  case place =>
    intro s d x hd hresuming hwants ds hfirst t
    exact execGroupPlace_of_placed hd hresuming hwants hfirst
  case resume =>
    intro s d x hd
    exact execGroupPlace_of_resuming hd
  case cambium =>
    intro s d x hd
    exact endCambium_of_ended hd
  case complete =>
    intro s d x hd hphase
    refine ⟨execDispatchComplete_of_waits hd, fun hwaits hplain => ?plain, fun hwaits _ y => ?cambial⟩
    case plain => exact execDispatchComplete_of_ended hd hwaits hphase (endCambium_of_plain hd hplain) hd
    case cambial => exact execDispatchComplete_of_ended hd hwaits hphase rfl
  case kill =>
    intro s d x code again hd
    exact execDispatchKill_of_killing hd
  case stopped =>
    intro s d x code again hd hphase
    refine ⟨fun hagain h6 h7 hwaits => ?_, execDispatchReplay_of_stopped hd hphase⟩
    exact execDispatchComplete_of_stopped hd hwaits (hagain ▸ hphase) h6 h7
  case aborting =>
    intro s d x code again hd hphase
    refine ⟨execDispatchReplay_of_aborting hd hphase, execDispatchReplay_of_killed hd hphase,
      fun a haborting => execDispatchReplay_of_ok hd hphase haborting, fun c haborting hagain hcheck hwaits => ?_⟩
    exact (execDispatchReplay_of_error hd hphase haborting hagain hcheck).trans (congrArg _ (reject_of_first hwaits))
  case save =>
    intro s slot hpreq t gs
    have heq := execPreemptSave_eq hpreq
    refine ⟨fun hsave => heq.trans (if_pos hsave), fun hsave hfits => ?fits, fun hsave hshort => ?short⟩
    case fits => exact heq.trans ((if_neg (ne_false_of_eq_true hsave)).trans (if_neg (Nat.not_lt.2 hfits)))
    case short => exact heq.trans ((if_neg (ne_false_of_eq_true hsave)).trans (if_pos hshort))

end Sys2Proof.Machine
end

section
/-! ## Host registers: what a write does, and what a read answers

The rules of the host's registers (R292, R293, R295, R299, R304, R310, R314, R342, R343): what a request to one of them comes to where
its interface takes it, and that it is ignored elsewhere. Then the proofs of the two statements over them. -/

namespace Sys2Proof.Machine

/-! ### The stream of a request, and tests of bits -/

@[simp] theorem State.useStream_ctl (s : State) (p : HostPort) : (s.useStream p).ctl = s.ctl := by
  unfold State.useStream
  split
  · split <;> rfl
  · rfl

@[simp] theorem State.useStream_mailbox (s : State) (p : HostPort) (m : Nat) : (s.useStream p).mailbox m = s.mailbox m :=
  congrArg (fun c : Ctl => tget Mailbox.reset c.mailboxes m) (s.useStream_ctl p)

@[simp] theorem State.useStream_slot (s : State) (p : HostPort) (n : Nat) : (s.useStream p).slot n = s.slot n :=
  congrArg (fun c : Ctl => tget Slot.reset c.slots n) (s.useStream_ctl p)

@[simp] theorem State.useStream_dispatch? (s : State) (p : HostPort) (d : Nat) : (s.useStream p).dispatch? d = s.dispatch? d :=
  congrArg (fun c : Ctl => tfind c.dispatches d) (s.useStream_ctl p)

theorem bitOf_toNat {n : Nat} (x : BitVec n) (i : Nat) : bitOf x.toNat i = x.getLsbD i := bitOf_eq_testBit x.toNat i

theorem tfind_map {α β : Type} (f : α → β) (t : Table α) (n : Nat) :
    tfind (t.map fun e => (e.1, f e.2)) n = (tfind t n).map f := by
  induction t with
  | nil => rfl
  | cons e t ih =>
    simp only [List.map_cons, tfind]
    split
    · rfl
    · exact ih

theorem State.onMailbox_congr {s : State} {m : Nat} {f g : Mailbox → Mailbox} (h : f (s.mailbox m) = g (s.mailbox m)) :
    s.onMailbox m f = s.onMailbox m g := by
  simp only [State.onMailbox, h]

/-- A dispatch that a kill with code 5 has met (R299). -/
def Dispatch.killed (x : Dispatch) : Dispatch := { x with phase := x.phase.kill }

theorem State.dispatch?_killWhere (s : State) (q : Dispatch → Bool) (d : Nat) :
    (s.killWhere q).dispatch? d = (s.dispatch? d).map fun z => if q z then z.killed else z :=
  tfind_map (fun z => if q z then z.killed else z) s.ctl.dispatches d

/-! ### Mailboxes (R292, R293, R299) -/

/-- What a write of MBCTL leaves of a mailbox, before its ring is judged. -/
def Mailbox.control (x : Mailbox) (v : Word) : Mailbox :=
  { x with
    ctl := (v &&& 0xFF05) ||| (if x.ctl.getLsbD 0 then x.ctl &&& 2 else v &&& 2) |||
      (if x.ctl.getLsbD 0 || 13 ≤ bits v.toNat 19 16 then x.ctl &&& 0xF0000 else v &&& 0xF0000) |||
      (if v.getLsbD 4 then 0 else x.ctl &&& 0x10)
    head := if v.getLsbD 4 then x.tail else x.head }

/-- A mailbox's ring is overrun, and its ERR does not say so yet. -/
abbrev Mailbox.newlyOverrun (x : Mailbox) : Prop := x.size < x.waiting ∧ x.ctl.getLsbD 4 = false

/-- A mailbox whose ring is judged: an overrun sets ERR (R293). -/
def Mailbox.judged (x : Mailbox) : Mailbox := if x.newlyOverrun then { x with ctl := x.ctl ||| 0x10 } else x

theorem getLsbD_enables {b : Nat} (hb : b < 32) :
    (0xFF05 : Word).getLsbD b = decide (b = 0 ∨ b = 2 ∨ (8 ≤ b ∧ b < 16)) := by
  revert b; decide

theorem getLsbD_location {b : Nat} (hb : b < 32) : (2 : Word).getLsbD b = decide (b = 1) := by
  revert b; decide

theorem getLsbD_sizes {b : Nat} (hb : b < 32) : (0xF0000 : Word).getLsbD b = decide (16 ≤ b ∧ b < 20) := by
  revert b; decide

theorem getLsbD_error {b : Nat} (hb : b < 32) : (0x10 : Word).getLsbD b = decide (b = 4) := by
  revert b; decide

/-- Each bit of MBCTL lies in one of its fields, or reads 0. -/
theorem Mailbox.getLsbD_control (x : Mailbox) (v : Word) {b : Nat} (hb : b < 32) : (x.control v).ctl.getLsbD b =
    if b = 0 ∨ b = 2 ∨ (8 ≤ b ∧ b < 16) then v.getLsbD b
    else if b = 1 then (if x.ctl.getLsbD 0 then x.ctl.getLsbD 1 else v.getLsbD 1)
    else if b = 4 then x.ctl.getLsbD 4 && !v.getLsbD 4
    else if 16 ≤ b ∧ b < 20 then
      (if x.ctl.getLsbD 0 = true ∨ 13 ≤ v.toNat / 2 ^ 16 % 16 then x.ctl.getLsbD b else v.getLsbD b)
    else false := by
  have hsize : bits v.toNat 19 16 = v.toNat / 2 ^ 16 % 16 := rfl
  simp only [Mailbox.control, BitVec.getLsbD_or, BitVec.getLsbD_and, apply_ite (BitVec.getLsbD · b), getLsbD_enables hb,
    getLsbD_location hb, getLsbD_sizes hb, getLsbD_error hb, hsize, Bool.or_eq_true, decide_eq_true_eq]
  grind

theorem Mailbox.getLsbD_judged (x : Mailbox) {b : Nat} (hb : b < 32) :
    x.judged.ctl.getLsbD b = (x.ctl.getLsbD b || (decide (b = 4) && decide (x.size < x.waiting))) := by
  unfold Mailbox.judged
  split
  next hover => simp only [BitVec.getLsbD_or, getLsbD_error hb, hover.1, decide_true, Bool.and_true]
  next hfits =>
    by_cases h4 : b = 4
    · subst h4
      cases hset : x.ctl.getLsbD 4 with
      | false => simp [show ¬ x.size < x.waiting from fun h => hfits ⟨h, hset⟩]
      | true => rfl
    · simp [h4]

/-- Judging a ring changes the mailbox's MBCTL alone. -/
theorem Mailbox.judged_eq (x : Mailbox) : x.judged = { x with ctl := x.judged.ctl } := by
  unfold Mailbox.judged
  split <;> rfl

/-- ERR is no part of the ring's size. -/
theorem Mailbox.size_judged (x : Mailbox) : x.judged.size = x.size := by
  have hfield (w : Word) : bits (w ||| 0x10).toNat 19 16 = bits w.toNat 19 16 := by
    simp only [bits, BitVec.toNat_or, ← Nat.shiftRight_eq_div_pow, Nat.shiftRight_or_distrib]
    simp
  unfold Mailbox.judged
  split
  · exact congrArg (fun k => 2 ^ (k + 4)) (hfield x.ctl)
  · rfl

theorem State.judgeOverrun_eq (s : State) (m : Nat) :
    s.judgeOverrun m = if (s.mailbox m).newlyOverrun then s.mailboxError m else s := by
  simp only [State.judgeOverrun, Mailbox.overrun, bitOf_toNat, Bool.and_eq_true, decide_eq_true_eq, Bool.not_eq_true']

theorem State.mailbox_mailboxError (s : State) (m : Nat) :
    (s.mailboxError m).mailbox m = { s.mailbox m with ctl := (s.mailbox m).ctl ||| 0x10 } :=
  s.mailbox_onMailbox m fun x => { x with ctl := x.ctl ||| 0x10 }

theorem State.mailbox_judgeOverrun (s : State) (m : Nat) : (s.judgeOverrun m).mailbox m = (s.mailbox m).judged := by
  rw [State.judgeOverrun_eq, apply_ite (State.mailbox · m), State.mailbox_mailboxError]
  rfl

theorem State.dispatches_judgeOverrun (s : State) (m : Nat) : (s.judgeOverrun m).ctl.dispatches = s.ctl.dispatches := by
  rw [State.judgeOverrun_eq]
  split <;> rfl

section
variable {s : State} {p : HostPort} {m : Nat}

theorem execMbtailWrite_of_foreign (v : Word) (hown : s.ownMailbox p m = false) : execMbtailWrite p m v s = .next s := by
  simp [execMbtailWrite, hown]

theorem writeMbctl_of_foreign (v : Word) (hown : s.ownMailbox p m = false) : s.writeMbctl p m v = s := by
  simp [State.writeMbctl, hown]

section
variable (hown : s.ownMailbox p m = true)
include hown

theorem execMbtailWrite_of_own (v : Word) : execMbtailWrite p m v s =
    .next (((s.useStream p).onMailbox m fun x => { x with tail := v }).judgeOverrun m) := by
  simp [execMbtailWrite, hown]

theorem execMbctxWrite_of_own (upper id : BitVec 16) : execMbctxWrite p m upper id s = .next (
    if p.pf = true ∧ (s.mailbox m).ctl.getLsbD 0 = false then (s.useStream p).onMailbox m fun x => { x with ctx := id }
    else s) := by
  simp only [execMbctxWrite, hown, bitOf_toNat, Bool.true_and, Bool.and_eq_true, Bool.not_eq_true']
  exact (apply_ite Host.Outcome.next _ _ _).symm

/-- The mailbox that a write of MBCTL controls, its ring judged. -/
def State.controlMailbox (s : State) (p : HostPort) (m : Nat) (v : Word) : State :=
  ((s.useStream p).onMailbox m fun x => x.control v).judgeOverrun m

theorem writeMbctl_of_own (v : Word) : s.writeMbctl p m v =
    if v.getLsbD 3 then (s.controlMailbox p m v).killWhere fun d => d.mailbox = m else s.controlMailbox p m v := by
  simp only [State.writeMbctl, State.controlMailbox, hown, bitOf_toNat, Bool.not_true, Bool.false_eq_true, if_false,
    State.useStream_mailbox]
  rw [State.onMailbox_congr (g := fun x => x.control v) (by simp only [State.useStream_mailbox]; rfl)]

theorem writeMbctl_mailbox (v : Word) : (s.writeMbctl p m v).mailbox m = ((s.mailbox m).control v).judged := by
  have hcontrol : (s.controlMailbox p m v).mailbox m = ((s.mailbox m).control v).judged := by
    simp [State.controlMailbox, State.mailbox_judgeOverrun]
  rw [writeMbctl_of_own hown, apply_ite (State.mailbox · m)]
  exact (ite_self _).trans hcontrol

theorem writeMbctl_dispatch? (v : Word) (d : Nat) : (s.writeMbctl p m v).dispatch? d =
    (s.dispatch? d).map fun z => if v.getLsbD 3 = true ∧ z.mailbox = m then z.killed else z := by
  have hcontrol : (s.controlMailbox p m v).dispatch? d = s.dispatch? d := by
    simp [State.dispatch?, State.controlMailbox, State.dispatches_judgeOverrun]
  rw [writeMbctl_of_own hown]
  cases v.getLsbD 3 with
  | false => simp [hcontrol]
  | true => simp [State.dispatch?_killWhere, hcontrol]

end
end

/-! ### Context slots (R304, R310, R314) -/

section
variable {s : State} {p : HostPort} {n : Nat}

theorem execCtxidWrite_of_refused (v : Word) (h : p.pf = false ∨ s.portOpen p = false ∨ s.slotBusy n = true) :
    execCtxidWrite p n v s = .next s := by
  refine if_pos ?_
  rcases h with h | h | h <;> simp [State.slotPort, h]

section
variable (hpf : p.pf = true) (hopen : s.portOpen p = true)
include hpf hopen

theorem slotPort_of_open (hn : n < 64) : s.slotPort p n = true := by simp [State.slotPort, hpf, hopen, hn]

theorem windowPort_of_open (hn : n < 16) : s.windowPort p n = true := by simp [State.windowPort, hpf, hopen, hn]

theorem execCtxidWrite_of_free (v : Word) (hn : n < 64) (hbusy : s.slotBusy n = false) (hvalid : (s.slot n).valid = false) :
    execCtxidWrite p n v s = .next (((s.useStream p).onSlot n fun x => { x with ctxid := v &&& 0x803FFFFF }).updateKeys) := by
  simp [execCtxidWrite, slotPort_of_open hpf hopen hn, hbusy, hvalid]

/-- A write of CTXCTL stores VEC. -/
def State.storesVec (s : State) (p : HostPort) (n : Nat) (v : Word) : State :=
  (s.useStream p).onSlot n fun x => { x with ctxctl := (x.ctxctl &&& 0xFFFF00FF) ||| (v &&& 0xFF00) }

theorem writeCtxctl_of_open (v : Word) (hn : n < 64) : s.writeCtxctl p n v =
    if (s.slot n).saved then
      if v.getLsbD 3 then ((s.storesVec p n v).onSlot n fun x => { x with resuming := true }).resumeSlot n
      else s.storesVec p n v
    else if v.getLsbD 0 then (s.storesVec p n v).onSlot n fun x => { x with ctxctl := x.ctxctl ||| 1 }
    else s.storesVec p n v := by
  simp [State.writeCtxctl, State.storesVec, hpf, hopen, bitOf_toNat, Nat.not_le.2 hn]

theorem execTlbictlInvalidate_of_open {v : Word} (hn : n < 64) (hbusy : (s.slot n).tlbictl.getLsbD 0 = false)
    (hv : v.getLsbD 0 = true) : execTlbictlInvalidate p n v s =
      .next (((s.useStream p).onSlot n fun x => { x with tlbictl := v &&& 7 }).dropCopies
        (tlbMatches n (v.toNat / 2 % 4) ((s.slot n).tlbiva.toNat % 2 ^ 57))) := by
  have hsize : bits v.toNat 2 1 = v.toNat / 2 % 4 := rfl
  simp only [execTlbictlInvalidate, slotPort_of_open hpf hopen hn, bitOf_toNat, hbusy, hv, hsize,
    Bool.not_true, Bool.or_self, Bool.false_eq_true, if_false, if_true]

end

theorem execTlbInvalidateComplete_of_drained (hbusy : (s.slot n).tlbictl.getLsbD 0 = true)
    (hpaths : ∀ e ∈ s.mem.paths, ∀ p ∈ e.2, ∀ x, s.dispatch? p.dispatch = some x → x.slot ≠ n) :
    execTlbInvalidateComplete n s = .next (s.onSlot n fun x => { x with tlbictl := x.tlbictl &&& 6 }) := by
  refine if_pos ?_
  simp only [bitOf_toNat, hbusy, Bool.true_and, List.all_eq_true, Bool.not_eq_true']
  intro e he p hp
  cases hx : s.dispatch? p.dispatch with
  | none => rfl
  | some x => exact decide_eq_false (hpaths e he p hp x hx)

end

/-! ### Windows of BAR2 (R295) -/

section
variable {s : State} {p : HostPort} {w : Nat}

theorem execApctlWrite_of_open (en : Bool) (v : Word) (hpf : p.pf = true) (hopen : s.portOpen p = true) (hw : w < 16) :
    execApctlWrite p w en v s = .next ((s.useStream p).onAperture p.iface w fun x => { x with
      ctl := ((if x.ctl.getLsbD 31 then x.ctl else v) &&& 0x403F003F) ||| if en then 0x80000000 else 0 }) := by
  simp only [execApctlWrite, windowPort_of_open hpf hopen hw, bitOf_toNat, Bool.not_true, Bool.false_eq_true, if_false]

theorem execHostBar2Read_of_refused {offset n : Nat} (h : s.hostTarget p w offset = none) :
    execHostBar2Read p w offset n s = .next (s.output (.unsupported p.iface)) := by
  simp only [execHostBar2Read, h]

theorem execHostBar2Write_of_refused {offset : Nat} (bytes : List Byte) (h : s.hostTarget p w offset = none) :
    execHostBar2Write p w offset bytes s = .next s := by
  simp only [execHostBar2Write, h]

section
variable {offset : Nat} {x : Aperture} {world a : Nat} (h : s.hostTarget p w offset = some (x, world, a))
include h

theorem execHostBar2Read_of_bytes {n : Nat} {l : List Nat} (hl : (s.useStream p).hostBytes x a n .read = some l) :
    execHostBar2Read p w offset n s = .next ((l.foldl (fun s pa => s.checkMac world pa 1) (s.useStream p)).output
      (.read p.iface (l.map ((s.useStream p).plainByte world)) (l.any ((s.useStream p).poisoned world)))) := by
  simp only [execHostBar2Read, h, hl]

theorem execHostBar2Read_of_none {n : Nat} (hl : (s.useStream p).hostBytes x a n .read = none) :
    execHostBar2Read p w offset n s = .next ((s.useStream p).output (.unsupported p.iface)) := by
  simp only [execHostBar2Read, h, hl]

theorem execHostBar2Write_of_bytes {bytes : List Byte} {l : List Nat}
    (hl : (s.useStream p).hostBytes x a bytes.length .write = some l) :
    execHostBar2Write p w offset bytes s = .next ((s.useStream p).hbmWrite world (l.zip bytes)) := by
  simp only [execHostBar2Write, h, hl]

end
end

/-! ### The statement over writes -/

/-- Settles O47: each register and window by the lemma for a request that takes effect, or that does not. -/
theorem hostAccessesTakeEffect : Obligations.HostAccessesTakeEffect := by
  unfold Obligations.HostAccessesTakeEffect
  refine ⟨?mbtail, ?mbctx, ?mbctl, ?ctxid, ?ctxctl, ?tlbictl, ?tlbDone, ?apctl, ?bar2, ?refused, ?slots, ?mbbase, ?apbase⟩
  case mbtail =>
    intro s p m v
    refine ⟨execMbtailWrite_of_foreign v, fun hown => ⟨fun hmany => ?_, fun hfew => ?_⟩⟩
    all_goals refine (execMbtailWrite_of_own hown v).trans (congrArg _ ((State.judgeOverrun_eq _ m).trans ?_))
    · exact if_pos hmany
    · exact if_neg hfew
  case mbctx =>
    intro s p m upper id hown
    exact execMbctxWrite_of_own hown upper id
  case mbctl =>
    intro s p m v hown i
    refine ⟨s.writeMbctl p m v, rfl, rfl, rfl, ?_⟩
    rw [writeMbctl_mailbox hown]
    refine ⟨fun b hb => ?bit, ?_, ?_, ?_, ?_, fun d z hd => ?dispatch⟩
    case bit =>
      have hwaiting : ((s.mailbox m).control v).judged.waiting = ((s.mailbox m).control v).waiting := by
        rw [Mailbox.judged_eq]; rfl
      rw [Mailbox.getLsbD_judged _ hb, Mailbox.getLsbD_control _ _ hb, Mailbox.size_judged, hwaiting]
      grind
    case dispatch =>
      rw [writeMbctl_dispatch? hown, hd]
      rfl
    all_goals
      rw [Mailbox.judged_eq]
      rfl
  case ctxid =>
    intro s p n v
    exact ⟨execCtxidWrite_of_refused v, fun hpf hopen hn => execCtxidWrite_of_free hpf hopen v hn⟩
  case ctxctl =>
    intro s p n v hpf hopen hn t
    have hwrite := writeCtxctl_of_open hpf hopen v hn
    refine ⟨fun hsaved => ?_, fun hsaved => ?_⟩
    all_goals exact congrArg _ (hwrite.trans (by rw [hsaved]; rfl))
  case tlbictl =>
    intro s p n v hpf hopen hn hbusy hv
    exact execTlbictlInvalidate_of_open hpf hopen hn hbusy hv
  case tlbDone =>
    intro s slot
    exact execTlbInvalidateComplete_of_drained
  case apctl =>
    intro s p w en v
    exact execApctlWrite_of_open en v
  case bar2 =>
    intro s p w offset n x world a htarget t
    exact ⟨fun l => execHostBar2Read_of_bytes htarget, execHostBar2Read_of_none htarget,
      fun bytes l => execHostBar2Write_of_bytes htarget⟩
  case refused =>
    intro s p w offset n bytes h
    exact ⟨execHostBar2Read_of_refused h, execHostBar2Write_of_refused bytes h⟩
  case slots =>
    intro s p n v hpf hopen hn t
    have hport := slotPort_of_open hpf hopen hn
    refine ⟨fun hbusy => ?_, ?_, ?_, ?_⟩
    all_goals simp [exec, execRegisterWrite, *, t]
  case mbbase =>
    intro s p m v hown
    simp only [exec, execRegisterWrite, hown, bitOf_toNat]
    cases (s.mailbox m).ctl.getLsbD 0 <;> rfl
  case apbase =>
    intro s p w v hpf hopen hw
    simp only [exec, execRegisterWrite, windowPort_of_open hpf hopen hw, bitOf_toNat]
    cases (s.aperture p.iface w).ctl.getLsbD 31 <;> rfl

/-! ### Reads (R292, R295, R304, R343, R347, R353) -/

theorem step_readRegister {s : State} {dt : Nat} {p : HostPort} {r : HostReg} {t : List (Nat × Move)}
    (h : s.sched.agenda = (dt, .readRegister p r) :: t) :
    step s = .next (({ s with sched := { s.sched with agenda := t } }.pass dt).readRegister p r) := by
  simp only [step, State.turn, h, State.moveTurn]

section
variable {s : State} {p : HostPort}

theorem readRegister_of_dead (r : HostReg) (h : s.ifaceLive p.iface = false) : s.readRegister p r = s := by
  simp [State.readRegister, h]

theorem readRegister_of_outside (r : HostReg) (hlive : s.ifaceLive p.iface = true) (h : s.streamOk p = false) :
    s.readRegister p r = s.output (.unsupported p.iface) := by
  simp [State.readRegister, hlive, h]

theorem readRegister_of_open (r : HostReg) (h : s.portOpen p = true) :
    s.readRegister p r = (s.useStream p).output (.register p.iface (BitVec.ofNat 64 (s.registerValue p r))) := by
  obtain ⟨hlive, hstream⟩ := Bool.and_eq_true_iff.1 h
  simp [State.readRegister, hlive, hstream]

theorem ownMailbox_of_other {m : Nat} (h : (Config.mailboxOwner m).val ≠ p.iface) : s.ownMailbox p m = false := by
  simp [State.ownMailbox, h]

theorem registerValue_mbctx {m slot : Nat} (hown : s.ownMailbox p m = true)
    (hslot : s.slotOf (s.mailbox m).ctx.toNat = some slot) :
    s.registerValue p (.mbctx m) = (s.mailbox m).ctx.toNat + (s.slot slot).world * 2 ^ 16 := by
  simp [State.registerValue, hown, hslot]

end

/-- KILL of MBCTL reads 0 after any write. -/
theorem testBit_kill_writeMbctl {s : State} {p : HostPort} {m : Nat} (v : Word) (hown : s.ownMailbox p m = true) :
    ((s.writeMbctl p m v).registerValue p (.mbctl m)).testBit 3 = false := by
  have hbit : ((s.writeMbctl p m v).mailbox m).ctl.getLsbD 3 = false := by
    rw [writeMbctl_mailbox hown, Mailbox.getLsbD_judged _ (by decide), Mailbox.getLsbD_control _ _ (by decide)]
    rfl
  simp only [State.registerValue]
  split
  · exact hbit
  · rfl

/-- Settles O48: each clause by what the register reads, after the write where there is one. -/
theorem hostRegistersReadBack : Obligations.HostRegistersReadBack := by
  unfold Obligations.HostRegistersReadBack
  refine ⟨?step, ?answer, ?foreign, ?mbctx, ?window, ?slots, ?kill, ?fixed⟩
  case step =>
    intro s dt p r t
    exact step_readRegister
  case answer =>
    intro s p r
    exact ⟨readRegister_of_dead r, readRegister_of_outside r, readRegister_of_open r⟩
  case foreign =>
    intro s p m hother
    simp [State.registerValue, ownMailbox_of_other hother]
  case mbctx =>
    intro s p m slot hown hslot
    have hid := (s.mailbox m).ctx.isLt
    rw [registerValue_mbctx hown hslot]
    omega
  case window =>
    intro s p w hw
    simp [State.registerValue, Nat.not_lt.2 hw]
  case slots =>
    intro s p n v t hpf hopen hn
    have hport := slotPort_of_open hpf hopen hn
    refine ⟨fun h => ?_, fun h => ?_⟩
    all_goals
      simp only [exec, execRegisterWrite, hport, if_true, Host.Outcome.next.injEq] at h
      simp [← h, State.registerValue]
  case kill =>
    intro s p m v t hown h
    rw [← Host.Outcome.next.inj h]
    exact testBit_kill_writeMbctl v hown
  case fixed =>
    intro s p m v
    exact ⟨rfl, rfl⟩

end Sys2Proof.Machine
end

section
/-! ## Trust: requests of SPDM, live activation and IDE streams

A request on a channel either has no answer, is refused for its version, or is answered by what it does (R12, R339): one lemma says so,
and each request's proof begins from it. Then an activation's end (R341) and the rules of a stream (R342, R343), and the proofs of the
statements over them. -/

namespace Sys2Proof.Machine

/-! ### Requests on a channel (R12, R339) -/

theorem State.channel_eq (s : State) (ch : Channel) : s.channel ch = if s.answers ch.iface = true then
    match ch.session with
    | none => some (s.responder ch.iface).conn
    | some n => (tfind (s.responder ch.iface).sessions n).bind fun x => if ch.key = x.keys then some x else none
    else none := by
  unfold State.channel Responder.channel
  cases ch.session with
  | none => simp
  | some n =>
    dsimp only
    cases tfind (s.responder ch.iface).sessions n with
    | none => simp
    | some x => by_cases hkey : ch.key = x.keys <;> simp [hkey]

theorem versionOk_iff {v : Nat} : versionOk v = true ↔ v = 0x12 ∨ v = 0x13 := by simp [versionOk]

section
variable {s : State} {ch : Channel} (f : Session → State)

theorem request_of_unanswered (h : s.channel ch = none) : s.request ch f = s := by
  simp only [State.request, h]

variable {x : Session} (h : s.channel ch = some x)
include h

theorem request_of_otherVersion (h2 : ch.version ≠ 0x12) (h3 : ch.version ≠ 0x13) :
    s.request ch f = s.output (.notSupported ch.iface) := by
  simp [State.request, h, versionOk, h2, h3]

theorem request_of_answered (hversion : ch.version = 0x12 ∨ ch.version = 0x13) : s.request ch f = f x := by
  simp [State.request, h, versionOk_iff.2 hversion]

end

/-- The session of a channel becomes another. -/
def State.setSession (s : State) (ch : Channel) (y : Session) : State :=
  s.onResponder ch.iface fun r => r.onChannel ch.session fun _ => y

/-- A change of the session that a channel has found sets it to what the change makes of it. -/
theorem onChannel_eq_setSession {s t : State} {ch : Channel} {x : Session} (h : s.channel ch = some x)
    (ht : t.mod.responders = s.mod.responders) (f : Session → Session) :
    (t.onResponder ch.iface fun r => r.onChannel ch.session f) = t.setSession ch (f x) := by
  have hfound : (s.responder ch.iface).channel ch.session = some x := by
    rw [State.channel_eq] at h
    unfold Responder.channel
    split at h
    next =>
      cases hsession : ch.session with
      | none => simpa only [hsession] using h
      | some n =>
        rw [hsession] at h
        obtain ⟨y, hy, hkey⟩ := Option.bind_eq_some_iff.1 h
        split at hkey
        · exact hy.trans hkey
        · nomatch hkey
    next => nomatch h
  have hsame : t.responder ch.iface = s.responder ch.iface := congrArg (tget Responder.reset · ch.iface) ht
  have hchange : (t.responder ch.iface).onChannel ch.session f = (t.responder ch.iface).onChannel ch.session fun _ => f x := by
    rw [hsame]
    cases hsession : ch.session with
    | none =>
      rw [hsession] at hfound
      simp only [Responder.onChannel]
      rw [Option.some.inj hfound]
    | some n =>
      rw [hsession] at hfound
      simp only [Responder.onChannel]
      rw [tmap_congr (g := fun _ => f x) fun y hy => by rw [Option.some.inj (hy.symm.trans hfound)]]
  simp only [State.setSession, State.onResponder, hchange]

/-! ### Measurements, identity and sessions -/

section
variable {s : State} {ch : Channel} {x : Session} (h : s.channel ch = some x) (hversion : ch.version = 0x12 ∨ ch.version = 0x13)
include h hversion

theorem execGetMeasurements_of_activation (index : Nat) (sign : Bool) (hact : s.mod.act = true) :
    execGetMeasurements ch index sign s = .next (s.output (.busy ch.iface)) := by
  simp [execGetMeasurements, request_of_answered _ h hversion, hact]

theorem execGetMeasurements_of_stale (index : Nat) (sign : Bool) (hact : s.mod.act = false) (hstale : x.stale = true) :
    execGetMeasurements ch index sign s =
      .next ((s.setSession ch { x with transcript := [], stale := false }).output (.resynch ch.iface)) := by
  simp [execGetMeasurements, request_of_answered _ h hversion, hact, hstale, State.setSession]

theorem execGetMeasurements_of_absent (index : Nat) (sign : Bool) (hact : s.mod.act = false) (hstale : x.stale = false)
    (habsent : s.blocks index = []) : execGetMeasurements ch index sign s = .next (s.output (.notSupported ch.iface)) := by
  simp [execGetMeasurements, request_of_answered _ h hversion, hact, hstale, habsent]

theorem execGetMeasurements_of_blocks (index : Nat) (sign : Bool) (hact : s.mod.act = false) (hstale : x.stale = false)
    (hblocks : s.blocks index ≠ []) :
    let t := x.transcript ++ (index :: (s.blocks index).map Prod.snd)
    let u := s.sign (Config.digest (packList t)).toNat
    execGetMeasurements ch index sign s = .next (if sign then
      (u.2.setSession ch { x with transcript := [], stale := false }).output (.measurements ch.iface (s.blocks index) (some u.1))
    else (s.setSession ch { x with transcript := t, stale := false }).output (.measurements ch.iface (s.blocks index) none)) := by
  simp [execGetMeasurements, request_of_answered _ h hversion, hact, hstale, hblocks, State.setSession]

theorem execGetCertificate_of_answered : execGetCertificate ch s = .next (s.output (.certificate ch.iface Config.certificate)) :=
  congrArg _ (request_of_answered _ h hversion)

theorem execChallenge_of_answered (nonce : BitVec 256) :
    let u := s.sign (Config.digest nonce.toNat).toNat
    execChallenge ch nonce s = .next (u.2.output (.challenge ch.iface nonce u.1)) :=
  congrArg _ (request_of_answered _ h hversion)

theorem execKeyUpdate_of_session (hsession : ch.session.isSome = true) : execKeyUpdate ch s =
    .next ((s.drawKey.2.setSession ch { x with keys := s.drawKey.1 }).output (.ack ch.iface)) := by
  rw [execKeyUpdate, request_of_answered _ h hversion, if_neg (ne_true_of_eq_false (Option.isNone_eq_false_iff.2 hsession))]
  exact congrArg (fun t : State => Host.Outcome.next (t.output (.ack ch.iface)))
    (onChannel_eq_setSession (t := s.drawKey.2) h rfl fun y => { y with keys := s.drawKey.1 })

theorem execHeartbeat_of_session (hsession : ch.session.isSome = true) : execHeartbeat ch s =
    .next ((s.setSession ch { x with beat := s.rt }).output (.ack ch.iface)) := by
  rw [execHeartbeat, request_of_answered _ h hversion, if_neg (ne_true_of_eq_false (Option.isNone_eq_false_iff.2 hsession))]
  exact congrArg (fun t : State => Host.Outcome.next (t.output (.ack ch.iface))) (onChannel_eq_setSession h rfl _)

theorem execSetMode_of_session {v : Byte} (hsession : ch.session.isSome = true) (hv : v.toNat < 2) :
    execSetMode (some ch) v s = .next ((s.setPend (v = 1)).output (.ack ch.iface)) := by
  simp [execSetMode, request_of_answered _ h hversion, hsession, hv]

/-- Outside a session the requests that need one are not expected. -/
theorem unexpected_of_connection (hsession : ch.session = none) :
    (∀ v, execSetMode (some ch) v s = .next (s.output (.unexpected ch.iface))) ∧
      execKeyUpdate ch s = .next (s.output (.unexpected ch.iface)) ∧
      execHeartbeat ch s = .next (s.output (.unexpected ch.iface)) ∧
      ∀ keys world, execIdeKeyProgram ch keys world s = .next (s.output (.unexpected ch.iface)) := by
  simp [execSetMode, execKeyUpdate, execHeartbeat, execIdeKeyProgram, request_of_answered _ h hversion, hsession]

theorem execGetReceipt_of_answered (nonce : BitVec 256) : execGetReceipt ch nonce s = .next (
    if s.mod.scrub then s.output (.busy ch.iface)
    else match s.mod.receipt with
      | none => s.output (.unexpected ch.iface)
      | some r =>
        let b := r.body nonce s.mod.flash.resets
        let u := s.sign (Config.digest (ofBytes b)).toNat
        u.2.output (.receipt ch.iface (b ++ signatureBytes u.1))) :=
  congrArg _ (request_of_answered _ h hversion)

end

theorem algorithmsOk_iff {o : KeyOffer} : algorithmsOk o = true ↔ o.asym = 0 ∧ o.hash = 0 ∧ o.group = 0 ∧ o.aead = 0 := by
  simp [algorithmsOk, and_assoc]

theorem offerOk_iff {o : KeyOffer} : offerOk o = true ↔ (o.version = 0x12 ∨ o.version = 0x13) ∧ o.asym = 0 ∧ o.hash = 0 ∧
    o.group = 0 ∧ o.aead = 0 ∧ o.psk = false ∧ o.auth = false := by
  simp [offerOk, versionOk_iff, algorithmsOk_iff, and_assoc]

section
variable {s : State} {iface : Nat} {offer : KeyOffer} (hanswers : s.answers iface = true)
include hanswers

theorem execKeyExchange_of_unlisted (h : offerOk offer ≠ true) :
    execKeyExchange iface offer s = .next (s.output (.notSupported iface)) := by
  simp [execKeyExchange, hanswers, h]

theorem execKeyExchange_of_room (h : offerOk offer = true) {n : Nat}
    (hn : tfresh (s.responder iface).sessions 0 4 = n) (hroom : n < 4) :
    execKeyExchange iface offer s = .next ((s.drawKey.2.onResponder iface fun r => { r with
      sessions := tput r.sessions n { transcript := [], stale := false, keys := s.drawKey.1, beat := s.rt } }).output
        (.session iface (some n))) := by
  subst hn
  simp only [execKeyExchange, hanswers, h, hroom, Bool.not_true, Bool.false_eq_true, if_false, if_true]
  rfl

theorem execKeyExchange_of_full (h : offerOk offer = true) (hfull : 4 ≤ tfresh (s.responder iface).sessions 0 4) :
    execKeyExchange iface offer s = .next (s.output (.session iface none)) := by
  simp [execKeyExchange, hanswers, h, Nat.not_lt.2 hfull]

end

theorem sessionLapse_of_found {s : State} {iface session : Nat} {x : Session}
    (h : tfind (s.responder iface).sessions session = some x) : s.sessionLapse iface session =
      if x.beat + Config.heartbeat < s.rt then s.sessionEnd iface session else s := by
  simp only [State.sessionLapse, h]

/-- Settles O59: each request by the lemma for a channel that answers it, that refuses it, or that is not answered. -/
theorem trustRequestsAreAnswered : Obligations.TrustRequestsAreAnswered := by
  unfold Obligations.TrustRequestsAreAnswered
  refine ⟨?unanswered, State.channel_eq, ?otherVersion, ?answered, ?exchange, ?lapse, ?controller⟩
  case unanswered =>
    intro s ch h
    have hnext (f : Session → State) : (.next (s.request ch f) : Result) = .next s := congrArg _ (request_of_unanswered f h)
    refine ⟨fun index sign => hnext _, hnext _, fun nonce => ⟨hnext _, hnext _⟩, fun v => hnext _, hnext _, hnext _,
      fun keys world => hnext _, fun q => ?query⟩
    cases q with
    | versions => simp [State.spdm, h]
    | capabilities | algorithms | vendor | other => exact request_of_unanswered _ h
  case otherVersion =>
    intro s ch x h h2 h3 refused
    have hnext (f : Session → State) : (.next (s.request ch f) : Result) = .next refused :=
      congrArg _ (request_of_otherVersion f h h2 h3)
    exact ⟨fun index sign => hnext _, hnext _, fun nonce => ⟨hnext _, hnext _⟩, fun v => hnext _, hnext _, hnext _,
      fun keys world => hnext _, by simp [State.spdm, h]⟩
  case answered =>
    intro s ch x h hversion set signed drawn
    refine ⟨fun index sign => execGetMeasurements_of_activation h hversion index sign,
      fun index sign => execGetMeasurements_of_stale h hversion index sign,
      fun index sign => execGetMeasurements_of_absent h hversion index sign, ?blocks, execGetCertificate_of_answered h hversion,
      ?versions, ?capabilities, ?algorithms, ?others, execChallenge_of_answered h hversion, ?session, ?connection, ?receipt⟩
    case blocks =>
      intro index hact hstale hblocks
      have hanswer (sign : Bool) := execGetMeasurements_of_blocks h hversion index sign hact hstale hblocks
      exact ⟨hanswer false, hanswer true⟩
    case versions => simp [State.spdm, h]
    case capabilities => exact request_of_answered _ h hversion
    case algorithms =>
      intro o listed
      have hanswer : s.spdm ch (.algorithms o) =
          s.output (if algorithmsOk o then .algorithms ch.iface Config.vendorId 0 0 0 0 else .notSupported ch.iface) :=
        request_of_answered _ h hversion
      refine ⟨fun hlisted => ?_, fun hlisted => ?_⟩
      · rw [hanswer, if_pos (algorithmsOk_iff.2 hlisted)]
      · rw [hanswer, if_neg (mt algorithmsOk_iff.1 hlisted)]
    case others =>
      rintro q (⟨n, rfl⟩ | ⟨id, code, rfl⟩)
      all_goals exact request_of_answered _ h hversion
    case session =>
      intro hsession
      exact ⟨execKeyUpdate_of_session h hversion hsession, execHeartbeat_of_session h hversion hsession,
        fun v => execSetMode_of_session h hversion hsession⟩
    case connection =>
      intro hsession
      obtain ⟨hmode, hkey, hbeat, -⟩ := unexpected_of_connection h hversion hsession
      exact ⟨hmode, hkey, hbeat⟩
    case receipt =>
      intro nonce
      have hanswer := execGetReceipt_of_answered h hversion nonce
      refine ⟨fun hscrub => hanswer.trans ?_, fun hscrub hnone => hanswer.trans ?_, fun r hscrub hsome => hanswer.trans ?_⟩
      · rw [hscrub]; rfl
      · rw [hscrub, hnone]; rfl
      · rw [hscrub, hsome]; rfl
  case exchange =>
    intro s iface offer hanswers listed n key
    exact ⟨fun hlisted => execKeyExchange_of_unlisted hanswers (mt offerOk_iff.1 hlisted),
      fun hlisted => execKeyExchange_of_room hanswers (offerOk_iff.2 hlisted) rfl,
      fun hlisted => execKeyExchange_of_full hanswers (offerOk_iff.2 hlisted)⟩
  case lapse =>
    intro s iface session x h
    exact ⟨fun hlate => (sessionLapse_of_found h).trans (if_pos hlate),
      fun hkept => (sessionLapse_of_found h).trans (if_neg (Nat.not_lt.2 hkept))⟩
  case controller =>
    intro s v hv
    exact congrArg _ (if_pos hv)

/-! ### Live activation (R338, R341) -/

theorem execLiveActivation_of_failed (s : State) (digest : Nat) : execLiveActivation false digest s = .next s := rfl

theorem execLiveActivation_of_verified {s : State} (digest : Nat) (hact : s.mod.act = false) (hlive : s.live = true) :
    execLiveActivation true digest s = .next { s with mod := { s.mod with
      act := true, actSince := s.rt, newRuntime := digest + 1 } } := by
  simp [execLiveActivation, hact, hlive]

/-- What the end of an activation makes of a responder. -/
def Responder.activated (r : Responder) : Responder :=
  { conn := r.conn.activated, sessions := r.sessions.map fun e => (e.1, e.2.activated) }

theorem execLiveActivationEnd_of_active {s : State} (hact : s.mod.act = true) : execLiveActivationEnd s =
    .next { s with mod := { s.mod with
      act := false, runtime := s.mod.newRuntime, activations := s.mod.activations + 1
      responders := s.mod.responders.map fun e => (e.1, e.2.activated) } } := by
  simp only [execLiveActivationEnd, hact, Bool.not_true, Bool.false_eq_true, if_false]
  rfl

/-! ### IDE streams (R342, R343) -/

section
variable {s : State} {ch : Channel} {x : Session} (h : s.channel ch = some x) (hversion : ch.version = 0x12 ∨ ch.version = 0x13)
  (hsession : ch.session.isSome = true) {keys : IdeKeys} {world : Nat}
include h hversion hsession

/-- Inside a session keys are refused for a link, for a second stream and for a world that none is; otherwise they key the stream,
or wait as its next keys where it is keyed. -/
theorem execIdeKeyProgram_of_session : execIdeKeyProgram ch keys world s = .next (
    if keys.link = true ∨ ((s.ideOf ch.iface).state ≠ 0 ∧ keys.stream ≠ (s.ideOf ch.iface).keys.stream) ∨ 64 ≤ world then
      s.output (.notSupported ch.iface)
    else (s.onIde ch.iface fun y =>
      if y.state = 1 then { y with next := some keys, world := world }
      else { state := 1, set := false, keys := keys, next := none, world := world }).output (.ack ch.iface)) := by
  simp only [execIdeKeyProgram, request_of_answered _ h hversion, Option.isNone_eq_false_iff.2 hsession, Bool.or_eq_true,
    decide_eq_true_eq, Bool.false_eq_true, if_false, or_assoc]

end

section
variable {s : State} {iface : Nat}

theorem execIdeKeySetSwitch_of_next {k : IdeKeys} (hkeyed : (s.ideOf iface).state = 1) (hnext : (s.ideOf iface).next = some k) :
    execIdeKeySetSwitch iface s =
      .next (s.onIde iface fun y => { y with set := !y.set, keys := k, next := none }) := by
  simp [execIdeKeySetSwitch, State.onIde, Ide.switch, hkeyed, hnext]

theorem execIdeKeySetSwitch_of_none (h : (s.ideOf iface).next = none ∨ (s.ideOf iface).state ≠ 1) :
    execIdeKeySetSwitch iface s = .next s := by
  refine congrArg _ (if_neg ?_)
  rintro ⟨hkeyed, hnext⟩
  rcases h with h | h
  · simp [h] at hnext
  · exact h hkeyed

theorem execIdeIntegrityFailure_of_keyed (hkeyed : (s.ideOf iface).state = 1) :
    let t := s.onIde iface fun y => { y with state := 2, next := none }
    execIdeIntegrityFailure iface s =
      .next (if s.mod.mode then t.killWhere fun d => (Config.mailboxOwner d.mailbox).val = iface else t) := by
  intro t
  simp only [execIdeIntegrityFailure, hkeyed, ne_eq, not_true_eq_false, if_false]
  exact (apply_ite Host.Outcome.next _ _ _).symm

end

/-- Settles O60: an activation and its end, and each event of a stream by the lemma for the state that the stream is in. -/
theorem activationsAndStreams : Obligations.ActivationsAndStreams := by
  unfold Obligations.ActivationsAndStreams
  refine ⟨fun s digest => ⟨rfl, execLiveActivation_of_verified digest⟩, ?ends, ?program, ?stream⟩
  case ends =>
    intro s hact
    refine ⟨_, execLiveActivationEnd_of_active hact, rfl, rfl, rfl, fun n r hr => ?_, rfl, rfl, rfl, rfl, rfl⟩
    refine ⟨r.activated, ?_, rfl, fun k x hx => ?_⟩
    · exact (tfind_map Responder.activated s.mod.responders n).trans (congrArg (Option.map _) hr)
    · exact (tfind_map Session.activated r.sessions k).trans (congrArg (Option.map _) hx)
  case program =>
    intro s ch x keys world h hversion other stream
    refine ⟨fun hnone => ?_, fun hsession hother => ?_, fun hsession hother => ⟨fun hfresh => ?_, fun hkeyed => ?_⟩⟩
    · obtain ⟨-, -, -, hprogram⟩ := unexpected_of_connection h hversion hnone
      exact hprogram keys world
    all_goals refine (execIdeKeyProgram_of_session h hversion hsession).trans (congrArg _ ?_)
    · exact if_pos hother
    · refine (if_neg hother).trans ?_
      simp [State.onIde, hfresh, stream]
    · refine (if_neg hother).trans ?_
      simp [State.onIde, hkeyed, stream]
  case stream =>
    intro s iface stream
    exact ⟨fun k => execIdeKeySetSwitch_of_next, execIdeKeySetSwitch_of_none, execIdeIntegrityFailure_of_keyed, rfl⟩

end Sys2Proof.Machine
end

section
/-! ## The start sequence and the controller

A step of a start passes or fails by what it covers (R353, R355): one lemma says what the step has met, and one for each says what it
comes to. Then the controller's requests (R336, R354, R357 to R359), and the proofs of the statements over them. -/

namespace Sys2Proof.Machine

/-! ### What a step has met (R353, R355) -/

section
variable {s : State} {k : Nat}

/-- A step that meets no failure passes, unless it is step 1 with a record that it does not accept. -/
theorem startSequence_of_unmet (h : ∀ f t, s.mod.fails = f :: t → f.step ≠ k) : s.startSequence k =
    if k = 1 ∧ configOk (s.mod.flash.inForce s.mod.record) = false then s.failStep k [] else s.passStep k [] := by
  have hunmet : s.startSequence k =
      if (if k = 5 then false else if k = 1 then !configOk (s.mod.flash.inForce s.mod.record) else false)
      then s.failStep k [] else s.passStep k [] := by
    cases hf : s.mod.fails with
    | nil => simp [State.startSequence, hf]
    | cons f t => simp [State.startSequence, hf, h f t hf]
  rw [hunmet]
  by_cases h5 : k = 5
  · simp [h5]
  · by_cases h1 : k = 1 <;> simp [h1, h5]

/-- The failing units of a step that are not absent yet, by the entries that name them. -/
def State.freshUnits (s : State) (k : Nat) (units : List Double) : List Double :=
  ((stepUnits k units).filter fun e => !s.mod.absent.contains e).eraseDups

/-- The module once the failure in front has been met. -/
def State.metFailure (s : State) (t : List StepFail) : State := { s with mod := { s.mod with fails := t } }

variable {whole : Bool} {units : List Double} {t : List StepFail}

theorem startSequence_of_failed (hf : s.mod.fails = { step := k, whole := whole, units := units } :: t)
    (hbad : whole = true ∨ (k ≠ 5 ∧ s.freshUnits k units ≠ [])) :
    s.startSequence k = (s.metFailure t).failStep k (s.freshUnits k units) := by
  have hmet : s.startSequence k = if (if k = 5 then whole
      else if k = 1 then whole || !(s.freshUnits k units).isEmpty || !configOk (s.mod.flash.inForce s.mod.record)
      else whole || !(s.freshUnits k units).isEmpty) then (s.metFailure t).failStep k (s.freshUnits k units)
      else (s.metFailure t).passStep k (if k = 5 then s.freshUnits k units else []) := by
    simp only [State.startSequence, hf, if_true]
    rfl
  refine hmet.trans (if_pos ?_)
  rcases hbad with rfl | ⟨h5, hfresh⟩
  · simp
  · simp [h5, hfresh]

theorem startSequence_of_scrubbed (hf : s.mod.fails = { step := 5, whole := false, units := units } :: t) :
    s.startSequence 5 = (s.metFailure t).passStep 5 (s.freshUnits 5 units) := by
  simp only [State.startSequence, hf, if_true]
  rfl

end

theorem step_of_start {s : State} {k : Nat} (hstart : s.mod.startAt = some k) (hagenda : s.sched.agenda = []) (hon : s.on = true) :
    step s = .next ((s.pass 1).startSequence k) := by
  obtain ⟨hpower, hheld⟩ := Bool.and_eq_true_iff.1 hon
  simp only [Bool.not_eq_true'] at hheld
  simp [step, State.turn, hagenda, hpower, hheld, hstart]

/-! ### A step that passes (R349, R353, R356) -/

/-- The start record with a passed step's result. -/
def StartRecord.passed (r : StartRecord) (k : Nat) : StartRecord := r.setStat k (if r.onAlt k then 2 else 1)

/-- A passed step is recorded, and the next one follows. -/
def State.recordsStep (s : State) (k : Nat) : State :=
  { s with mod := { s.mod with record := s.mod.record.passed k, startAt := some (k + 1) } }

section
variable {s : State} {k : Nat} {found : List Double}

theorem passStep_of_plain (hk : k < 11) (h1 : k ≠ 1) (h2 : k = 2 → s.mod.record.onAlt 2 = false)
    (h5 : k ≠ 5 ∨ s.mod.scrubbing = false) : s.passStep k found = s.recordsStep k := by
  have hscrub : ¬ (k = 5 ∧ s.mod.scrubbing = true) := by
    rintro ⟨rfl, h⟩
    simp [h] at h5
  have halt : ¬ (k = 2 ∧ s.mod.record.onAlt 2 = true) := fun ⟨hk2, h⟩ => by simp [h2 hk2] at h
  simp only [State.passStep, hscrub, h1, halt, hk, if_false, if_true]
  rfl

theorem passStep_one : s.passStep 1 found = s.configure.recordsStep 1 := rfl

theorem passStep_two_of_alt (halt : s.mod.record.onAlt 2 = true) : s.passStep 2 found = s.holdClocks.recordsStep 2 := by
  simp only [State.passStep, halt]
  rfl

theorem passStep_five_of_scrub (hscrub : s.mod.scrubbing = true) :
    s.passStep 5 found = (s.scrubAll found).recordsStep 5 := by
  simp only [State.passStep, hscrub]
  rfl

theorem passStep_eleven : s.passStep 11 found =
    { s with mod := { s.mod with
      record := s.mod.record.passed 11, startAt := none, scrub := false, scrubbing := false
      flash := { s.mod.flash with start := s.mod.record.passed 11 } } } := rfl

/-! ### The scrub (R348 to R350) -/

theorem retireUnit_mod (s : State) (e : Double) : (s.retireUnit e).mod = s.mod := by
  unfold State.retireUnit State.retireFrame
  split
  · split <;> rfl
  all_goals rfl

theorem retireUnit_mem (s : State) (e : Double) : (s.retireUnit e).mem = s.mem := by
  unfold State.retireUnit State.retireFrame
  split
  · split <;> rfl
  all_goals rfl

theorem foldl_retireUnit_mod (s : State) (l : List Double) : (l.foldl State.retireUnit s).mod = s.mod :=
  foldl_keeps (fun t : State => t.mod = s.mod) _ (fun t e h => (retireUnit_mod t e).trans h) l s rfl

theorem foldl_retireUnit_mem (s : State) (l : List Double) : (l.foldl State.retireUnit s).mem = s.mem :=
  foldl_keeps (fun t : State => t.mem = s.mem) _ (fun t e h => (retireUnit_mem t e).trans h) l s rfl

theorem scrubAll_mem (s : State) (l : List Double) : (s.scrubAll l).mem =
    { s.mem with hbm := [], keyed := [], poison := [], versions := [], lineKeys := [], paths := [] } :=
  foldl_retireUnit_mem _ l

/-- What the scrub takes and leaves of the module: the new MODE, a key drawn and the worlds' erased, and a receipt. -/
theorem scrubAll_mod (s : State) (l : List Double) : ∃ frames : Nat, ∃ retired : List Double,
    (s.scrubAll l).mod = { s.mod with
      mode := s.mod.newMode, worldKeys := [], keySerial := s.mod.keySerial + 1
      receipt := some { oldMode := b2n s.mod.mode, newMode := b2n s.mod.newMode, frames := frames, retired := retired,
                        failed := sortUnits l } } := by
  simp only [State.scrubAll, foldl_retireUnit_mod]
  exact ⟨_, _, rfl⟩

/-! ### A step that fails (R354, R355) -/

/-- The start record with a failed step's result. -/
def StartRecord.failed (r : StartRecord) (k : Nat) : StartRecord := { r.setStat k 3 with lastFail := BitVec.ofNat 8 k }

/-- A warm reset with a start record, after a failed step. -/
def State.restart (s : State) (r : StartRecord) : State :=
  ({ s with mod := { s.mod with flash := { s.mod.flash with start := r } } }).fullReset false s.mod.fails

/-- The module is held failed, with units out of service. -/
def State.heldWith (s : State) (r : StartRecord) (units : List Double) : State :=
  { s with mod := { s.mod with
      heldFailed := true, startAt := none, record := { r with units := units.take 16 }
      flash := { s.mod.flash with start := { r with units := units.take 16 } } } }

variable {units : List Double}

theorem failStep_of_next {r : StartRecord} (h : (s.mod.record.failed k).nextStart k units = some r) :
    s.failStep k units = s.restart r := by
  simp only [StartRecord.failed] at h
  simp only [State.failStep, h]
  rfl

theorem failStep_of_none (h : (s.mod.record.failed k).nextStart k units = none) : s.failStep k units =
    s.heldWith (s.mod.record.failed k) ((s.mod.record.failed k).units ++ if optionalStep k then units else []) := by
  simp only [StartRecord.failed] at h
  simp only [State.failStep, h]
  rfl

end

section
variable {r : StartRecord} {k : Nat} {units : List Double}

theorem nextStart_of_alternative (hk : k = 1 ∨ k = 2 ∨ k = 3 ∨ k = 9) (halt : r.onAlt k = false) :
    r.nextStart k units = some { r with alt := r.alt ||| BitVec.ofNat 12 (2 ^ k) } := by
  rcases hk with rfl | rfl | rfl | rfl <;> simp [StartRecord.nextStart, optionalStep, hasAlternative, halt]

theorem nextStart_four (halt : r.onAlt 4 = false) : r.nextStart 4 units = some { r with alt := r.alt ||| 0x010 } := by
  simp [StartRecord.nextStart, optionalStep, halt]

/-- A later optional step, and step 4 once it has taken its alternative, list their units where there is room. -/
theorem nextStart_of_optional (hk : (k = 4 ∧ r.onAlt 4 = true) ∨ k = 6 ∨ k = 7 ∨ k = 10) : r.nextStart k units =
    if 16 < r.units.length + units.length then none else some { r with units := r.units ++ units } := by
  rcases hk with ⟨rfl, halt⟩ | rfl | rfl | rfl
  · simp [StartRecord.nextStart, optionalStep, halt]
  all_goals simp [StartRecord.nextStart, optionalStep]

theorem nextStart_of_mandatory
    (hk : k = 0 ∨ k = 5 ∨ k = 8 ∨ k = 11 ∨ ((k = 1 ∨ k = 2 ∨ k = 3 ∨ k = 9) ∧ r.onAlt k = true)) :
    r.nextStart k units = none ∧ optionalStep k = false := by
  rcases hk with rfl | rfl | rfl | rfl | ⟨rfl | rfl | rfl | rfl, halt⟩
  all_goals simp_all [StartRecord.nextStart, optionalStep, hasAlternative]

end

/-- Settles O57: a step by what it has met, then by what its passing or failing comes to. -/
theorem startSequenceRunsItsSteps : Obligations.StartSequenceRunsItsSteps := by
  unfold Obligations.StartSequenceRunsItsSteps
  refine ⟨fun s k => step_of_start, ?passes, ?scrubs, ?fails, ?record⟩
  case passes =>
    intro s k hmet hconfig r dies
    have hpass : s.startSequence k = s.passStep k [] :=
      (startSequence_of_unmet hmet).trans (if_neg fun ⟨h1, hbad⟩ => by simp [hconfig h1] at hbad)
    refine ⟨fun hk h1 h2 h5 => ?_, ?_, ?_, ?_, ?_⟩
    · exact hpass.trans (passStep_of_plain hk h1 h2 h5)
    · rintro rfl
      exact hpass.trans passStep_one
    · rintro rfl halt
      exact hpass.trans (passStep_two_of_alt halt)
    · rintro rfl hscrub
      obtain ⟨frames, retired, hmod⟩ := scrubAll_mod s []
      refine ⟨_, hpass.trans (passStep_five_of_scrub hscrub), ?_⟩
      dsimp only [State.recordsStep]
      rw [scrubAll_mem, hmod]
      exact ⟨rfl, rfl, rfl, rfl, rfl, rfl, rfl⟩
    · rintro rfl
      exact ⟨_, hpass.trans passStep_eleven, rfl, rfl, rfl, rfl, rfl, rfl⟩
  case scrubs =>
    intro s units t hf hscrub found
    obtain ⟨frames, retired, hmod⟩ := scrubAll_mod (s.metFailure t) found
    refine ⟨_, (startSequence_of_scrubbed hf).trans (passStep_five_of_scrub hscrub), ?_⟩
    have hfound : s.freshUnits 5 units = found := rfl
    dsimp only [State.recordsStep]
    rw [hfound, hmod]
    exact ⟨rfl, rfl, rfl, rfl⟩
  case fails =>
    intro s k whole units t hf named fresh r kept restart held hbad
    have hfail : s.startSequence k = kept.failStep k fresh := startSequence_of_failed hf hbad
    refine ⟨fun hk halt => ?_, ?_, fun hk => ⟨fun hroom => ?_, fun hfull => ?_⟩, fun hk => ?_⟩
    · exact hfail.trans (failStep_of_next (nextStart_of_alternative hk halt))
    · rintro rfl halt
      exact hfail.trans (failStep_of_next (nextStart_four halt))
    · exact hfail.trans (failStep_of_next ((nextStart_of_optional (r := r) hk).trans (if_neg (Nat.not_lt.2 hroom))))
    · have hoptional : optionalStep k = true := by
        rcases hk with ⟨rfl, -⟩ | rfl | rfl | rfl <;> rfl
      refine hfail.trans ((failStep_of_none (s := kept) ((nextStart_of_optional (r := r) hk).trans (if_pos hfull))).trans ?_)
      rw [hoptional]
      rfl
    · obtain ⟨hnone, hmandatory⟩ := nextStart_of_mandatory (r := r) (units := fresh) hk
      refine hfail.trans ((failStep_of_none (s := kept) hnone).trans ?_)
      rw [hmandatory, if_neg Bool.false_ne_true, List.append_nil]
      rfl
  case record =>
    intro s hmet hbad halt r
    have hfail : s.startSequence 1 = s.failStep 1 [] := (startSequence_of_unmet hmet).trans (if_pos ⟨rfl, hbad⟩)
    exact hfail.trans (failStep_of_next (nextStart_of_alternative (.inl rfl) halt))

/-! ### The controller (R336, R354 to R359) -/

section
variable {s : State}

theorem execInstallConfigurationRecord_of_bad {r : ConfigRecord} (h : configOk r = false) :
    execInstallConfigurationRecord r s = .next s := by
  simp [execInstallConfigurationRecord, h]

theorem execInstallConfigurationRecord_of_good {r : ConfigRecord} (h : configOk r = true) :
    execInstallConfigurationRecord r s = .next { s with mod := { s.mod with
      heldFailed := false, record := StartRecord.reset
      flash := { s.mod.flash with config := r, config2 := r, start := StartRecord.reset } } } := by
  simp only [execInstallConfigurationRecord, h, if_true]
  rfl

/-- The rt count moved by one tick: one more is added, or the count is held where it stands (R359). -/
def State.moveTick (s : State) (up : Bool) : State :=
  { s with time := { s.time with
      adjust := if up then s.time.adjust + 1 else s.time.adjust - 1
      floor := if up then s.time.floor else s.rt
      lastMove := s.rt } }

theorem execRtRealign_eq (up : Bool) (ticks : Nat) : execRtRealign up ticks s = .next (
    if s.live = true ∧ 0 < ticks ∧ s.time.lastMove + 1024 ≤ s.rt then s.moveTick up else s) := by
  by_cases hdue : s.time.lastMove + 1024 ≤ s.rt
  · cases ticks with
    | zero => simp [execRtRealign]
    | succ n =>
      cases hlive : s.live with
      | false => simp [execRtRealign, hlive]
      | true => cases up <;> simp [execRtRealign, hlive, hdue, State.moveTick]
  · simp [execRtRealign, hdue]

/-- A move of the count takes it forward by at most one tick. -/
theorem rt_moveTick (s : State) (up : Bool) : s.rt ≤ (s.moveTick up).rt ∧ (s.moveTick up).rt ≤ s.rt + 1 := by
  cases up with
  | true =>
    simp only [State.moveTick, State.rt, if_true]
    omega
  | false =>
    simp only [State.moveTick, State.rt, Bool.false_eq_true, if_false]
    omega

end

/-- Settles O58: each request of the controller by what it comes to. -/
theorem controllerRequestsTakeEffect : Obligations.ControllerRequestsTakeEffect := by
  unfold Obligations.ControllerRequestsTakeEffect
  refine ⟨fun s => ⟨_, rfl, rfl, rfl, rfl, rfl, rfl⟩, fun s r => ⟨execInstallConfigurationRecord_of_bad,
    execInstallConfigurationRecord_of_good⟩, ?moves, ?moved, fun s die => rfl, fun s => rfl, fun s => rfl⟩
  case moves =>
    intro s up ticks t h
    have ht := Host.Outcome.next.inj ((execRtRealign_eq up ticks).symm.trans h)
    split at ht
    next hdue =>
      obtain ⟨hforward, hone⟩ := rt_moveTick s up
      subst ht
      exact ⟨hforward, hone, fun hsoon => absurd hdue.2.2 (Nat.not_le.2 hsoon)⟩
    next =>
      subst ht
      exact ⟨le_refl _, Nat.le_succ _, fun _ => rfl⟩
  case moved =>
    intro s ticks hlive hticks hdue up
    exact (execRtRealign_eq up ticks).trans (congrArg _ (if_pos ⟨hlive, hticks, hdue⟩))

end Sys2Proof.Machine
end

section
/-! ## Trap entry and return

What the handler finds and what a tret brings back (R311 to R313), thread by thread: each lane's status and pc go through TSTAT and TPCn
and come back from them. Then the proof of the statement over them. -/

namespace Sys2Proof.Machine

/-! ### Tables written lane after lane -/

theorem tget_foldl_tset_unless {β : Type} [DecidableEq β] (d : β) (p : Nat → Prop) [DecidablePred p] (v : Nat → β) (t : Table β)
    {l n : Nat} (hl : l < n) :
    tget d ((List.range n).foldl (fun x i => if p i then x else tset d x i (v i)) t) l = if p l then tget d t l else v l := by
  refine (foldl_view (view := fun x : Table β => tget d x l) (g := fun y => if p l then y else v l) (fun x i hi => ?_) (fun x => ?_)
    List.nodup_range t).trans (if_pos (List.mem_range.2 hl))
  · by_cases hp : p i <;> simp [hp, tget_tset, hi]
  · by_cases hp : p l <;> simp [hp]

theorem tget_foldl_tset_range {β : Type} [DecidableEq β] (d : β) (v : Nat → β) (t : Table β) {l n : Nat} (hl : l < n) :
    tget d ((List.range n).foldl (fun x i => tset d x i (v i)) t) l = v l := by
  simpa using tget_foldl_tset_unless d (fun _ => False) v t hl

/-! ### The trap registers (R312) -/

theorem Status.code_lt (x : Status) : x.code < 4 := by cases x <;> decide

/-- Codes of two bits packed lane after lane. -/
theorem foldl_codes (c : Nat → Nat) (hc : ∀ l, c l < 4) (n : Nat) :
    let packed := (List.range n).foldl (fun a l => a + c l * 4 ^ l) 0
    packed < 4 ^ n ∧ ∀ l, l < n → packed / 4 ^ l % 4 = c l := by
  induction n with
  | zero => exact ⟨Nat.one_pos, fun l hl => absurd hl (Nat.not_lt_zero l)⟩
  | succ n ih =>
    obtain ⟨hlt, hcodes⟩ := ih
    simp only [List.range_succ, List.foldl_append, List.foldl_cons, List.foldl_nil]
    generalize (List.range n).foldl (fun a l => a + c l * 4 ^ l) 0 = a at hlt hcodes ⊢
    have hn := hc n
    refine ⟨?_, fun l hl => ?_⟩
    · have hcode : c n * 4 ^ n ≤ 3 * 4 ^ n := Nat.mul_le_mul_right _ (by omega)
      rw [pow_succ]
      omega
    · rcases Nat.lt_succ_iff_lt_or_eq.1 hl with hlow | rfl
      · have hsplit : c n * 4 ^ n = 4 ^ l * (4 * (c n * 4 ^ (n - l - 1))) := by
          rw [show n = l + (1 + (n - l - 1)) by omega]
          simp only [pow_add, pow_one]
          rw [show l + (1 + (n - l - 1)) - l - 1 = n - l - 1 by omega]
          ring
        rw [hsplit, Nat.add_mul_div_left _ _ (by positivity), Nat.add_mul_mod_self_left]
        exact hcodes l hlow
      · rw [Nat.add_mul_div_right _ _ (by positivity), Nat.div_eq_of_lt hlt, Nat.zero_add, Nat.mod_eq_of_lt hn]

theorem trapAddress_toNat (a : Nat) : (trapAddress a).toNat = a % 2 ^ 57 / 8 * 8 := by
  simp only [trapAddress, BitVec.toNat_ofNat]
  omega

section
variable (W : Warp) (f : FaultRec)

theorem trapRegs_cause : (W.trapRegs f).cause.toNat =
    min 255 (W.faults.length - 1) * 2 ^ 16 + f.sub % 256 * 2 ^ 8 + f.cause % 256 := by
  simp only [Warp.trapRegs, BitVec.toNat_ofNat]
  omega

theorem trapRegs_index : (W.trapRegs f).index.toNat = (if f.deferred then 2 ^ 8 else 0) + f.index % 32 := by
  simp only [Warp.trapRegs, BitVec.toNat_ofNat, b2n]
  split <;> omega

theorem trapRegs_lanes : (W.trapRegs f).lanes.toNat = f.lanes.toNat := by
  have hlt := f.lanes.isLt
  simp only [Warp.trapRegs, BitVec.toNat_setWidth]
  omega

theorem trapRegs_stat {l : Nat} (hl : l < 32) : (W.trapRegs f).stat.toNat / 4 ^ l % 4 = (W.statusOf l).code := by
  obtain ⟨hlt, hcodes⟩ := foldl_codes (fun l => (W.statusOf l).code) (fun l => Status.code_lt _) 32
  have hstat : (W.trapRegs f).stat.toNat = (List.range 32).foldl (fun a l => a + (W.statusOf l).code * 4 ^ l) 0 :=
    (BitVec.toNat_ofNat _ 64).trans (Nat.mod_eq_of_lt (lt_of_lt_of_eq hlt (by norm_num)))
  rw [hstat]
  exact hcodes l hl

theorem trapRegs_pc {l : Nat} (hl : l < 32) : (tget 0 (W.trapRegs f).pcs l).toNat = W.pcOf l % 2 ^ 57 / 8 * 8 := by
  rw [← trapAddress_toNat]
  exact congrArg BitVec.toNat (tget_foldl_tset_range (0 : Double) (fun l => trapAddress (W.pcOf l)) [] hl)

theorem trapRegs_ridx : (W.trapRegs f).ridx.toNat = (W.resume.getD (W.issuePc, 16)).2 % 32 := by
  simp only [Warp.trapRegs, BitVec.toNat_ofNat]
  omega

end

/-! ### Entry (R311) -/

/-- A warp whose trap registers hold a fault. -/
def Warp.trapped (W : Warp) (f : FaultRec) : Warp := { W with trap := W.trapRegs f }

/-- A warp in its handler: every thread that has not exited runs at the handler's address. -/
def Warp.entersHandler (W : Warp) (tvec now : Nat) : Warp :=
  { W with
    handler := true, exits := 0, faults := [], resume := none, phase := .between, issuePc := tvec, readyAt := now, parks := false
    status := (List.range 32).foldl (fun x l => if W.statusOf l = .exited then x else tset .exited x l .running) W.status
    pcs := (List.range 32).foldl (fun x l => if W.statusOf l = .exited then x else tset 0 x l tvec) W.pcs }

theorem entersHandler_statusOf (W : Warp) (tvec now : Nat) {l : Nat} (hl : l < 32) :
    (W.entersHandler tvec now).statusOf l = if W.statusOf l = .exited then .exited else .running := by
  refine (tget_foldl_tset_unless Status.exited (fun i => W.statusOf i = .exited) (fun _ => .running) W.status hl).trans ?_
  split
  next hexited => exact hexited
  next => rfl

theorem entersHandler_pcOf (W : Warp) (tvec now : Nat) {l : Nat} (hl : l < 32) :
    (W.entersHandler tvec now).pcOf l = if W.statusOf l = .exited then W.pcOf l else tvec :=
  tget_foldl_tset_unless 0 (fun i => W.statusOf i = .exited) (fun _ => tvec) W.pcs hl

section
variable {s : State} {w : Nat} {W : Warp} (hW : s.warp? w = some W)
include hW

theorem State.warp_of_found : s.warp w = W := by
  rw [State.warp, tget_eq]
  exact congrArg (Option.getD · Warp.reset) hW

omit hW in
theorem budExit_warp? (s : State) (w l seq clause index v : Nat) : (s.budExit w l seq clause index).warp? v = s.warp? v := by
  unfold State.budExit
  split <;> rfl

/-- The exits of its bud threads leave a warp as it is. -/
theorem budExits_warp? (clause : Nat) (l : List Nat) :
    (l.foldl (fun t i => t.budExit w i (t.warp w).seq clause 16) s).warp? w = some W :=
  foldl_keeps (fun t : State => t.warp? w = some W) _ (fun t i h => (budExit_warp? t w i _ clause 16 w).trans h) l s hW

/-- A warp that ends by fault: its threads have exited, and its end is by fault. -/
theorem endByFault_warp (clause : Nat) : (s.endByFault w clause).warp? w = some { W.exitAll with byFault := true } := by
  refine (State.warp_onWarp _ _ _).trans (congrArg (Option.map _) (budExits_warp? ?_ clause _))
  exact hW

variable {f : FaultRec} (hf : earliest W.faults = some f)
include hf

omit hW hf in
/-- The address at which a slot's handlers run. -/
def State.handlerAt (s : State) (slot : Nat) : Nat := (s.slot slot).tvec.toNat % 2 ^ 57 / 8 * 8

theorem takeTrap_eq : s.takeTrap w =
    if W.handler then
      (s.ring (dieOfCore (coreOf w)) 0x11 (s.ident (s.ctxOfWarp w)) [f.clause, f.cause]).endByFault w f.clause
    else if (s.slot (s.ctxOfWarp w)).tvec = 0 then (s.onWarp w (Warp.trapped · f)).endByFault w f.clause
    else (s.onWarp w (Warp.trapped · f)).onWarp w fun V => V.entersHandler (s.handlerAt (s.ctxOfWarp w)) s.time.now := by
  simp only [State.takeTrap, State.warp_of_found hW, hf]
  rfl

theorem takeTrap_of_handled (hhandler : W.handler = false) (htvec : (s.slot (s.ctxOfWarp w)).tvec ≠ 0) :
    (s.takeTrap w).warp? w = some ((W.trapped f).entersHandler (s.handlerAt (s.ctxOfWarp w)) s.time.now) := by
  rw [takeTrap_eq hW hf, hhandler, if_neg Bool.false_ne_true, if_neg htvec]
  simp only [State.warp_onWarp, hW, Option.map_some]

theorem takeTrap_of_unhandled (h : W.handler = true ∨ (s.slot (s.ctxOfWarp w)).tvec = 0) :
    ∃ V : Warp, (s.takeTrap w).warp? w = some { V.exitAll with byFault := true } := by
  rw [takeTrap_eq hW hf]
  cases hhandler : W.handler with
  | true => exact ⟨W, endByFault_warp (s := s.ring _ _ _ _) hW f.clause⟩
  | false =>
    have htvec := h.resolve_left (by simp [hhandler])
    rw [if_neg Bool.false_ne_true, if_pos htvec]
    exact ⟨W.trapped f, endByFault_warp (by rw [State.warp_onWarp, hW]; rfl) f.clause⟩

end

/-! ### Return (R313) -/

theorem restoreThreads_statusOf (W : Warp) {l : Nat} (hl : l < 32) : W.restoreThreads.statusOf l =
    if inSet W.exits l then .exited else Status.ofCode (W.trap.stat.toNat / 4 ^ l % 4) := by
  have hfold : W.restoreThreads.status = (List.range 32).foldl (fun x i => tset .exited x i
      (if inSet W.exits i then .exited else Status.ofCode (W.trap.stat.toNat / 4 ^ i % 4))) W.status := by
    simp only [Warp.restoreThreads, apply_ite (tset Status.exited _ _)]
  rw [Warp.statusOf, hfold]
  exact tget_foldl_tset_range _ _ _ hl

theorem restoreThreads_pcOf (W : Warp) {l : Nat} (hl : l < 32) : W.restoreThreads.pcOf l = (tget 0 W.trap.pcs l).toNat :=
  tget_foldl_tset_range 0 (fun i => (tget 0 W.trap.pcs i).toNat) W.pcs hl

/-- A running thread stands where the handler was entered. -/
def Warp.standsAtReturn (W : Warp) : Prop :=
  ∃ l, l < 32 ∧ W.restoreThreads.statusOf l = .running ∧ W.restoreThreads.pcOf l = W.trap.raddr.toNat

theorem standsAtReturn_iff (W : Warp) : W.standsAtReturn ↔
    (lanesOf W.restoreThreads.running).any (fun l => W.restoreThreads.pcOf l = W.restoreThreads.trap.raddr.toNat) = true := by
  simp only [Warp.standsAtReturn, List.any_eq_true, mem_lanesOf, decide_eq_true_eq, and_assoc]
  refine exists_congr fun l => and_congr_right fun hl => ?_
  rw [Warp.running, inSet_laneSet _ hl, decide_eq_true_eq]
  rfl

theorem trapReturn_of_boundary {W : Warp} (h : W.trap.ridx.toNat = 16 ∨ ¬ W.standsAtReturn) :
    W.trapReturn = W.restoreThreads.settle := by
  refine if_pos (h.imp id fun hnot => ?_)
  rw [standsAtReturn_iff] at hnot
  simpa using hnot

theorem trapReturn_of_inside {W : Warp} (hidx : W.trap.ridx.toNat ≠ 16) (h : W.standsAtReturn) : W.trapReturn =
    { W.restoreThreads with resume := some (W.trap.raddr.toNat, W.trap.ridx.toNat), issuePc := W.trap.raddr.toNat } := by
  refine if_neg ?_
  rw [(standsAtReturn_iff W).1 h]
  exact fun hboundary => hidx (hboundary.resolve_right (by simp))

/-! ### The statement -/

section
variable {s : State} {w : Nat} (hres : resident w = true) (hphase : (s.warp w).phase = .entering)
include hres hphase

theorem execTrapEntry_of_dying (hdying : s.dying w = true) : execTrapEntry w s =
    .next (((s.onWarp w Warp.exitAll).progress (coreOf w) (s.ctxOfWarp w)).wake w) := by
  simp [execTrapEntry, hres, hphase, hdying]

theorem execTrapEntry_of_met (hdying : s.dying w = false) (hmet : s.entryMet w = true) : execTrapEntry w s =
    .next (((s.takeTrap w).progress (coreOf w) (s.ctxOfWarp w)).wake w) := by
  simp [execTrapEntry, hres, hphase, hdying, hmet]

end

/-- Settles O39: the entry by what takeTrap leaves of the warp, the return by what restoreThreads does. -/
theorem trapEntryAndReturn : Obligations.TrapEntryAndReturn := by
  unfold Obligations.TrapEntryAndReturn
  refine ⟨fun s w => execTrapEntry_of_met, fun s w => execTrapEntry_of_dying, ?entry, ?back⟩
  case entry =>
    intro s w W f hW hf tvec
    refine ⟨fun hhandler htvec => ?_, fun h => ?_⟩
    · refine ⟨_, takeTrap_of_handled hW hf hhandler htvec, rfl, rfl, rfl, rfl, rfl, rfl, rfl, rfl, rfl, rfl, rfl,
        trapRegs_cause W f, trapAddress_toNat _, trapRegs_index W f, BitVec.toNat_ofNat _ 64, trapRegs_lanes W f,
        BitVec.toNat_ofNat _ 64, trapAddress_toNat _, trapRegs_ridx W f,
        fun l hl => ⟨trapRegs_stat W f hl, trapRegs_pc W f hl⟩, fun l hl => ⟨fun hexited => ?_, fun hleft => ?_⟩⟩
      all_goals rw [entersHandler_statusOf _ _ _ hl, entersHandler_pcOf _ _ _ hl]
      · exact ⟨if_pos hexited, if_pos hexited⟩
      · exact ⟨if_neg hleft, if_neg hleft⟩
    · obtain ⟨V, hV⟩ := takeTrap_of_unhandled hW hf h
      exact ⟨_, hV, rfl, rfl, fun l => rfl⟩
  case back =>
    intro W
    refine ⟨fun l hl => ⟨restoreThreads_statusOf W hl, restoreThreads_pcOf W hl⟩, trapReturn_of_boundary, fun hidx hstands => ?_⟩
    rw [trapReturn_of_inside hidx hstands]
    exact ⟨rfl, rfl, rfl⟩

end Sys2Proof.Machine
end

section
/-! ## Every instruction and event goes on (R355, R358)

An instruction of a clause ends by `issue`, an engine's command by `command`, and every event by its own rules; each
answers another state. What a step comes to is then a stop only where `State.turn` itself stops. -/

namespace Sys2Proof.Machine

/-! ### What the instructions and events answer -/

theorem issue_goes (p : Spec) (body : Ctx → State → Out) (s : State) : Goes (issue p body s) := by
  simp only [issue]
  repeat' split
  all_goals exact ⟨_, rfl⟩

theorem command_goes (c : CmdSpec) (run : EngRef → Prog → State → State) (s : State) : Goes (command c run s) := by
  simp only [command]
  repeat' split
  all_goals exact ⟨_, rfl⟩

/-- Every command and every event goes on. -/
theorem exec_goes_of_unissued {i : Instr} (hneeds : needsOf i = none) (s : State) : Goes (exec i s) := by
  cases i with
  | meet g form d => cases form <;> nomatch hneeds
  | lpoll g form q => cases form <;> nomatch hneeds
  | amv g mode spec tile cv => cases mode <;> nomatch hneeds
  | cmdNop | cmdSeti | cmdAddi | cmdAdd | cmdMad | cmdLdg | cmdStg | cmdAtom | cmdMove | cmdPush | cmdStep | cmdRed |
    cmdSum | cmdSig | cmdTok | cmdWtok | cmdWbar | cmdWmem | cmdBr | cmdBrc | cmdLoop | cmdFence | cmdChunk | cmdEnd |
    cmdBadOpcode | cmdPushmc =>
    simp only [exec, execCmdNop, execCmdSeti, execCmdAddi, execCmdAdd, execCmdMad, execCmdLdg, execCmdStg,
      execCmdAtom, execCmdMove, execCmdPush, execCmdStep, execCmdRed, execCmdSum, execCmdSig, execCmdTok, execCmdWtok,
      execCmdWbar, execCmdWmem, execCmdBr, execCmdBrc, execCmdLoop, execCmdFence, execCmdChunk, execCmdEnd,
      execCmdBadOpcode, execCmdPushmc]
    exact command_goes _ _ s
  | unassignedOpcode | registerWindowWriteArrive | creditCharge | lockRequestArrive | mbctlEnable | mbctlKill |
    mbctlErrClear | ctxctlPreq | ctxctlResume | linkRetrain | coldReset | warmReset | clearStartRecord |
    readRingRecord | readStartRecord | readSensors | getMeasurements | getCertificate | challenge | keyUpdate |
    heartbeat | getReceipt | ideKeyProgram | interfaceReset | ideKeySetSwitch => exact ⟨_, rfl⟩
  | arbitrate | clauseBoundary | longLatencyResult | atomicReturn | writePerformed | atomicPerform | unlockArrive |
    fenceAcknowledge | waitMet | waitTimeout | waitMemoryPoll | ldwAction | copyGranuleLand | windowCopyFault |
    pushGranuleLand | recordInvalidationComplete | matrixOpPerform | warpEnd | watchdogFire | trapEntry |
    mailboxTakeEntry | dispatchAccept | groupPlace | dispatchComplete | dispatchKill | dispatchReplay | mbtailWrite |
    mbctxWrite | ctxidWrite | preemptSave | tlbictlInvalidate | tlbInvalidateComplete | apctlWrite | hostBar2Read |
    hostBar2Write | registerWrite | rootProgramAccept | rootProgramStart | engineWaitMet | engineWaitTimeout |
    canopyBlockAccept | canopyBlockStart | tokenDeliver | blockTokenTimeout | redChildArrive | reductionTimeout |
    redResultDeliver | collectivePacketIngress | attemptAbortArrive | agreementPropose | agreementVote |
    agreementCommit | agreementRoundTimeout | groupCommandComplete | declarationAccept | sweepRequestAccept | scanStep
    | wakeTake | byieldTake | sweepEnd | scrubSector | scrubWriteback | coreRetire | lateTransitionReplay |
    clockStepDown | clockStepUp | linkReplay | routeGenerationInstall | routePairSwitch | thermalClockStep |
    thermalPowerCut | rtRealign | installConfigurationRecord | keyExchange | setMode | liveActivation |
    ideIntegrityFailure | linkRetrainEnd | clockStepComplete | liveActivationEnd =>
    simp only [exec, execArbitrate, execClauseBoundary, execLongLatencyResult, execAtomicReturn, execWritePerformed,
      execAtomicPerform, execUnlockArrive, execFenceAcknowledge, execWaitMet, execWaitTimeout, execWaitMemoryPoll,
      execLdwAction, execCopyGranuleLand, execWindowCopyFault, execPushGranuleLand, execRecordInvalidationComplete,
      execMatrixOpPerform, execWarpEnd, execWatchdogFire, execTrapEntry, execMailboxTakeEntry, execDispatchAccept,
      execGroupPlace, execDispatchComplete, execDispatchKill, execDispatchReplay, execMbtailWrite, execMbctxWrite,
      execCtxidWrite, execPreemptSave, execTlbictlInvalidate, execTlbInvalidateComplete, execApctlWrite,
      execHostBar2Read, execHostBar2Write, execRegisterWrite, execRootProgramAccept, execRootProgramStart,
      execEngineWaitMet, execEngineWaitTimeout, execCanopyBlockAccept, execCanopyBlockStart, execTokenDeliver,
      execBlockTokenTimeout, execRedChildArrive, execReductionTimeout, execRedResultDeliver,
      execCollectivePacketIngress, execAttemptAbortArrive, execAgreementPropose, execAgreementVote,
      execAgreementCommit, execAgreementRoundTimeout, execGroupCommandComplete, execDeclarationAccept,
      execSweepRequestAccept, execScanStep, execWakeTake, execByieldTake, execSweepEnd, execScrubSector,
      execScrubWriteback, execCoreRetire, execLateTransitionReplay, execClockStepDown, execClockStepUp,
      execLinkReplay, execRouteGenerationInstall, execRoutePairSwitch, execThermalClockStep, execThermalPowerCut,
      execRtRealign, execInstallConfigurationRecord, execKeyExchange, execSetMode, execLiveActivation,
      execIdeIntegrityFailure, execLinkRetrainEnd, execClockStepComplete, execLiveActivationEnd]
    repeat' split
    all_goals exact ⟨_, rfl⟩
  | _ => nomatch hneeds

theorem exec_goes (i : Instr) (s : State) : Goes (exec i s) := by
  cases hneeds : needsOf i with
  | none => exact exec_goes_of_unissued hneeds s
  | some p =>
    obtain ⟨body, hexec⟩ := exec_eq_issue hneeds s
    exact hexec ▸ issue_goes p body s

/-! ### What a step comes to -/

/-- What moves next is an instruction or another state, and not a stop. -/
def Turn.Moves (t : Turn) : Prop := ∀ f, t ≠ .stop f

@[simp] theorem Turn.moves_run (i : Instr) (s : State) : (Turn.run i s).Moves := nofun

@[simp] theorem Turn.moves_go (s : State) : (Turn.go s).Moves := nofun

theorem State.quarterTurn_moves (s : State) (q : Nat) : (s.quarterTurn q).Moves := by
  unfold State.quarterTurn
  repeat' split
  all_goals simp

theorem State.commandTurn_moves (s : State) (e : EngRef) (h x : Nat) : (s.commandTurn e h x).Moves := by
  unfold State.commandTurn
  split <;> simp

theorem State.engineTurn_moves (s : State) (e : EngRef) : (s.engineTurn e).Moves := by
  unfold State.engineTurn
  repeat' split
  all_goals simp [State.commandTurn_moves]

theorem State.agentTurn_moves (s : State) : s.agentTurn.Moves := by
  unfold State.agentTurn
  split
  · exact s.quarterTurn_moves _
  · exact s.engineTurn_moves _

theorem State.moveTurn_moves (s : State) (m : Move) : (s.moveTurn m).Moves := by
  cases m with
  | issue q => exact State.quarterTurn_moves _ q
  | command e => exact State.engineTurn_moves _ e
  | event i => simp only [State.moveTurn]; split <;> simp
  | start => simp only [State.moveTurn]; split <;> simp
  | _ => exact Turn.moves_go _

/-- The module stops with nothing left on the agenda, without power or held failed, and only then. -/
theorem State.turn_eq_stop_iff {s : State} {f : Fault} : s.turn = .stop f ↔
    s.sched.agenda = [] ∧ ((f = .powerOff ∧ s.mod.power = false) ∨
      (f = .heldFailed ∧ s.mod.power = true ∧ s.mod.heldFailed = true)) := by
  cases hagenda : s.sched.agenda with
  | cons a t => simpa [State.turn, hagenda] using State.moveTurn_moves _ a.2 f
  | nil =>
    cases hpower : s.mod.power with
    | false => simp [State.turn, hagenda, hpower, @eq_comm _ f]
    | true =>
      cases hheld : s.mod.heldFailed with
      | true => simp [State.turn, hagenda, hpower, hheld, @eq_comm _ f]
      | false =>
        cases hstart : s.mod.startAt with
        | some k => simp [State.turn, hagenda, hpower, hheld, hstart]
        | none => simpa [State.turn, hagenda, hpower, hheld, hstart] using State.agentTurn_moves _ f

theorem step_ne_refused (s : State) (r : Refusal) : step s ≠ .refused r := by
  unfold step
  split
  next i t _ =>
    obtain ⟨u, hu⟩ := exec_goes i t
    simp [hu]
  all_goals simp

theorem step_eq_fault_iff {s : State} {f : Fault} : step s = .fault f ↔ s.turn = .stop f := by
  unfold step
  split
  next i t hturn =>
    obtain ⟨u, hu⟩ := exec_goes i t
    simp [hu, hturn]
  all_goals simp_all

/-- Settles O5: every instruction and event goes on, so a step stops the module only where nothing is left to move it. -/
theorem onlyPowerLossOrFailureStops : Obligations.OnlyPowerLossOrFailureStops :=
  ⟨exec_goes, step_ne_refused, fun _ _ => step_eq_fault_iff.trans State.turn_eq_stop_iff⟩

end Sys2Proof.Machine
end

section
/-! ## The scrubber and a retired core (R324 to R328) -/

namespace Sys2Proof.Machine

/-! ### Frames and sectors -/

section
variable (s : State) (die frame sector : Nat)

theorem State.ring_scrub (d code ctx : Nat) (data : List Nat) (e : Nat) :
    ((s.ring d code ctx data).die e).scrub = (s.die e).scrub :=
  State.die_onDie_keeps Die.scrub fun _ => rfl

/-- Retiring a frame changes the dies alone. -/
theorem State.retireFrame_parts : (s.retireFrame die frame).mem = s.mem ∧ (s.retireFrame die frame).comp = s.comp ∧
    (s.retireFrame die frame).ctl = s.ctl := by
  unfold State.retireFrame
  split <;> simp

/-- A die that is up is one of the module's. -/
theorem State.exists_die_of_dieUp (h : s.dieUp die = true) : ∃ d, tfind s.dies die = some d := by
  cases hd : tfind s.dies die with
  | some d => exact ⟨d, rfl⟩
  | none => simp [State.dieUp, State.die, tget_eq, hd, Die.reset] at h

theorem State.retired_retireFrame (h : ∃ d, tfind s.dies die = some d) :
    tget false ((s.retireFrame die frame).die die).scrub.retired frame = true := by
  obtain ⟨d, hd⟩ := h
  unfold State.retireFrame
  split
  next h => exact h
  next => rw [State.ring_scrub, s.die_onDie _ hd]; simp

theorem State.correctedError_mem : (s.correctedError sector).mem = s.mem := by
  simp only [State.correctedError]
  split
  · simp [(State.retireFrame_parts _ _ _).1]
  · simp

theorem State.markSector_parts : (s.markSector sector).mem = { s.mem with poison := tset false s.mem.poison sector true } ∧
    (s.markSector sector).comp = s.comp ∧ (s.markSector sector).ctl = s.ctl := by
  unfold State.markSector
  obtain ⟨hmem, hcomp, hctl⟩ := State.retireFrame_parts (State.ring _ _ _ _ _) (homeDie (sector * 32)) (sector / 2048)
  exact ⟨hmem, hcomp, hctl⟩

/-- A marked sector's frame is retired where the module holds its home die. -/
theorem State.retired_markSector (hup : s.dieUp (homeDie (sector * 32)) = true) :
    tget false ((s.markSector sector).die (homeDie (sector * 32))).scrub.retired (sector / 2048) = true := by
  obtain ⟨d, hd⟩ := s.exists_die_of_dieUp _ hup
  exact State.retired_retireFrame _ _ _ ⟨_, (tfind_tmap_same ..).trans (congrArg (Option.map _) hd)⟩

end

/-! ### The scrubber -/

theorem scrubSector_clean {s : State} {die sector : Nat} : exec (.scrubSector die sector 0) s = .next s := by
  simp [exec, execScrubSector]

section
variable {s : State} {die sector : Nat} (hhome : homeDie (sector * 32) = die)
  (hframe : tget false (s.die die).scrub.retired (sector / 2048) = false) (hup : s.dieUp die = true)
include hhome hframe hup

theorem scrubSector_corrected : exec (.scrubSector die sector 1) s =
    .next ((s.correctedError sector).scrubFlight die sector) := by
  simp [exec, execScrubSector, hhome, hframe, hup]

theorem scrubSector_uncorrectable : exec (.scrubSector die sector 2) s = .next (s.markSector sector) := by
  simp [exec, execScrubSector, hhome, hframe, hup]

end

/-! ### A retired core -/

theorem migrate_of_one {s : State} {core g : Nat} {x : Group} (hkeys : tkeys (s.groupsOn core) = [g])
    (hgroup : s.group? g = some x) : s.migrate core =
      if s.saveable [g] = false then s
      else if s.saveShort x.slot [g] then s.killWhere fun d => d.slot = x.slot
      else ((s.saveGroup g).onSlot x.slot fun y => { y with resuming := true }).resumeSlot x.slot := by
  simp [State.migrate, hkeys, hgroup]

theorem killForRepair_dispatch_of_accepted {s : State} {d : Nat} {x : Dispatch} (hx : s.dispatch? d = some x)
    (hphase : x.phase = .accepted) : (s.killForRepair d).dispatch? d = some { x with
      phase := .killing (if bitOf x.record.toNat 18 then 6 else 7)
        (bitOf x.record.toNat 18 && decide (x.attempts < 3)) } := by
  simp [State.killForRepair, hx, hphase]

theorem killForRepair_dispatch_of_other {s : State} {d : Nat} {x : Dispatch} (hx : s.dispatch? d = some x)
    (hphase : x.phase ≠ .accepted) : (s.killForRepair d).dispatch? d = some x := by
  rw [State.killForRepair, State.dispatch_onDispatch, hx, Option.map_some]
  split
  next h => exact absurd h hphase
  next => rfl

theorem killForRepair_dispatch_beside (s : State) {d e : Nat} (h : e ≠ d) :
    (s.killForRepair d).dispatch? e = s.dispatch? e := by
  simp [State.killForRepair, State.onDispatch, State.dispatch?, tfind_tmap, h.symm]

/-- Settles O53: each event by what the scrubber finds, or by how the retired core's groups stand. -/
theorem scrubbingAndRetirement : Obligations.ScrubbingAndRetirement := by
  refine ⟨?sector, ?writeback, ?retire, ?again, ?migrate, ?kill⟩
  case sector =>
    intro s die sector hhome hframe hup
    obtain ⟨hmem, hcomp, hctl⟩ := s.markSector_parts sector
    refine ⟨scrubSector_clean, ?_,
      s.markSector sector, scrubSector_uncorrectable hhome hframe hup, by rw [hmem], ?_, by rw [hmem], hcomp, hctl⟩
    · refine (scrubSector_corrected hhome hframe hup).trans ?_
      simp only [State.scrubFlight, State.correctedError_mem]
    · subst hhome
      exact s.retired_markSector sector hup
  case writeback =>
    intro s die sector v l hflight
    by_cases hv : tget 0 s.mem.versions sector = v <;> simp [exec, execScrubWriteback, hflight, hv]
  case retire =>
    intro s core intact hup
    simp only [exec, execCoreRetire, hup, if_true, Bool.true_and]
    cases intact <;> split <;> simp_all
  case again =>
    intro s core intact hup
    simp only [exec, execCoreRetire, hup, Bool.false_and, Bool.false_eq_true, if_false]
    split <;> rfl
  case migrate =>
    intro s core g x hkeys hgroup
    rw [migrate_of_one hkeys hgroup]
    refine ⟨fun hs => if_pos hs, fun hs hshort => ?_, fun hs hroom => ?_⟩
    · simp [hs, State.saveShort, hshort]
    · simp [hs, State.saveShort, Nat.not_lt.mpr hroom]
  case kill =>
    intro s d x hx
    exact ⟨killForRepair_dispatch_of_accepted hx, killForRepair_dispatch_of_other hx,
      fun e he => killForRepair_dispatch_beside s he⟩

end Sys2Proof.Machine
end

section
/-! ## Links, their retraining and the routes of a new generation (R289, R331 to R333) -/

namespace Sys2Proof.Machine

/-! ### A search of routes finds one that leads to its target -/

section
variable {up : Nat → Nat → Bool} {d t : Nat}

/-- Every way of a list leads from d to the die that it stands under, so that a route from there goes on from d. -/
def WaysLead (up : Nat → Nat → Bool) (d t : Nat) (seen : List (Nat × List (Nat × Nat))) : Prop :=
  ∀ x ∈ seen, ∀ rest, routeLeads up t x.1 rest = true → routeLeads up t d (x.2 ++ rest) = true

theorem WaysLead.start (up : Nat → Nat → Bool) (d t : Nat) : WaysLead up d t [(d, [])] := by
  intro x hx rest hrest
  obtain rfl := List.mem_singleton.mp hx
  exact hrest

/-- A way goes on by a link that works. -/
theorem WaysLead.append {seen : List (Nat × List (Nat × Nat))} (h : WaysLead up d t seen) {e l : Nat} {path : List (Nat × Nat)}
    (hpath : ∀ rest, routeLeads up t e rest = true → routeLeads up t d (path ++ rest) = true)
    (hup : (hopLinks e l t).all (fun k => up k.1 k.2) = true) :
    WaysLead up d t (seen ++ [(hopTo e l t, path ++ [(e, l)])]) := by
  intro x hx rest hrest
  rcases List.mem_append.mp hx with hx | hx
  · exact h x hx rest hrest
  · obtain rfl := List.mem_singleton.mp hx
    rw [List.append_assoc]
    exact hpath _ (by simpa [routeLeads, hrest] using hup)

theorem WaysLead.searchStep {seen : List (Nat × List (Nat × Nat))} (h : WaysLead up d t seen) :
    WaysLead up d t (searchStep up t seen) := by
  refine List.foldlRecOn seen _ h fun acc hacc x hx => ?_
  refine List.foldlRecOn (List.range 7) _ hacc fun acc hacc l _ => ?_
  dsimp only
  split
  next hnew => exact hacc.append (h x hx) (Bool.and_eq_true_iff.mp hnew).1
  next => exact hacc

theorem WaysLead.searchFrom (n : Nat) {seen : List (Nat × List (Nat × Nat))} (h : WaysLead up d t seen) :
    WaysLead up d t (searchFrom up t n seen) := by
  induction n generalizing seen with
  | zero => exact h
  | succ n ih =>
    simp only [Machine.searchFrom]
    split
    · exact h
    · exact ih h.searchStep

theorem routeLeads_of_searchRoute {path : List (Nat × Nat)} (h : searchRoute up d t = some path) :
    routeLeads up t d path = true := by
  unfold searchRoute at h
  split at h
  next hdt => simp [← Option.some.inj h, routeLeads, hdt]
  next =>
    obtain ⟨x, hfound, rfl⟩ := Option.map_eq_some_iff.mp h
    have hend : x.1 = t := by simpa using List.find?_some hfound
    have hways := (WaysLead.start up d t).searchFrom 64 x (List.mem_of_find?_eq_some hfound) []
    simpa using hways (by simp [routeLeads, hend])

theorem routeLeads_of_newRoute {s : State} {routes : List (Nat × Nat × List (Nat × Nat))} {path : List (Nat × Nat)}
    (h : s.newRoute routes d t = some path) : routeLeads s.linkUp t d path = true := by
  unfold State.newRoute at h
  split at h
  next hfound =>
    obtain rfl := Option.some.inj h
    have := List.find?_some hfound
    simp_all
  next => exact routeLeads_of_searchRoute h

end

/-! ### What a fold over a list sets -/

/-- What an element of the list sets and every element keeps holds at the fold's end. -/
theorem foldl_reaches_of_mem {α γ : Type} {P : γ → Prop} {f : γ → α → γ} {l : List α} {a : α} (ha : a ∈ l)
    (hset : ∀ x, P (f x a))
    (hkeep : ∀ x, ∀ e ∈ l, P x → P (f x e)) (x : γ) : P (l.foldl f x) := by
  obtain ⟨l₁, l₂, rfl⟩ := List.append_of_mem ha
  rw [List.foldl_append, List.foldl_cons]
  exact List.foldlRecOn l₂ f (hset _) fun y hy e he => hkeep y e (by simp [he]) hy

/-! ### A die takes the next route generation (R332) -/

section
variable {s : State} {routes : List (Nat × Nat × List (Nat × Nat))} {links : List (Nat × Nat)} {d : Nat}

/-- The pairs that a die's next route generation moves, with their routes. -/
def State.movedPairs (s : State) (routes : List (Nat × Nat × List (Nat × Nat))) (links : List (Nat × Nat)) (d : Nat) :
    List (Nat × List (Nat × Nat)) :=
  (s.affected d links).filterMap fun t => (s.newRoute routes d t).map fun path => (t, path)

theorem mem_movedPairs {e : Nat × List (Nat × Nat)} :
    e ∈ s.movedPairs routes links d ↔ e.1 ∈ s.affected d links ∧ s.newRoute routes d e.1 = some e.2 := by
  obtain ⟨t, path⟩ := e
  simp only [State.movedPairs, List.mem_filterMap, Option.map_eq_some_iff]
  constructor
  · rintro ⟨_, ht, _, hpath, hpair⟩
    cases hpair
    exact ⟨ht, hpath⟩
  · rintro ⟨ht, hpath⟩
    exact ⟨t, ht, path, hpath, rfl⟩

theorem routes_of_unaffected {t : Nat} (ht : t ∉ s.affected d links) (r : Table (List (Nat × Nat))) :
    tfind ((s.movedPairs routes links d).foldl (fun r e => tput r e.1 e.2) r) t = tfind r t :=
  List.foldlRecOn (motive := fun x => tfind x t = tfind r t) _ _ rfl fun x hx e he => by
    have hne : e.1 ≠ t := fun h => ht (h ▸ (mem_movedPairs.mp he).1)
    rw [tfind_tput_other _ _ hne, hx]

theorem routes_of_moved {t : Nat} {path : List (Nat × Nat)} (ht : t ∈ s.affected d links)
    (hpath : s.newRoute routes d t = some path) (r : Table (List (Nat × Nat))) :
    tfind ((s.movedPairs routes links d).foldl (fun r e => tput r e.1 e.2) r) t = some path := by
  refine foldl_reaches_of_mem (P := fun r => tfind r t = some path) (a := (t, path)) (mem_movedPairs.mpr ⟨ht, hpath⟩)
    (by simp) (fun x e he hx => ?_) r
  rw [tfind_tput]
  split
  next h =>
    subst h
    exact (mem_movedPairs.mp he).2.symm.trans hpath
  next => exact hx

theorem tput_keeps_mark {r : Table Nat} {k a mark : Nat} (h : tfind r k = some mark) : tfind (tput r a mark) k = some mark := by
  rw [tfind_tput]
  split
  · rfl
  · exact h

theorem rerouting_of_moved {t u mark : Nat} {path : List (Nat × Nat)} (ht : t ∈ s.affected d links)
    (hpath : s.newRoute routes d t = some path) (hu : u ∈ pairUnits) (r : Table Nat) :
    tfind ((s.movedPairs routes links d).foldl (fun r e => pairUnits.foldl (fun r u => tput r (pairKey u e.1) mark) r) r)
      (pairKey u t) = some mark := by
  refine foldl_reaches_of_mem (P := fun r => tfind r (pairKey u t) = some mark) (a := (t, path)) (mem_movedPairs.mpr ⟨ht, hpath⟩)
    (fun x => ?_) (fun x e _ hx => ?_) r
  · exact foldl_reaches (P := fun r => tfind r (pairKey u t) = some mark) hu (by simp) (fun _ _ => tput_keeps_mark) x
  · exact foldl_keeps (fun r => tfind r (pairKey u t) = some mark) _ (fun _ _ => tput_keeps_mark) _ _ hx

/-- The mark of a reroute's held pairs: its generation, and whether a pod plane failed. -/
theorem rerouteMark_eq (gen : Nat) (links : List (Nat × Nat)) : 2 * gen + b2n (links.any fun (_, k) => 5 ≤ k) =
    2 * gen + if ∃ e ∈ links, 5 ≤ e.2 then 1 else 0 := by
  simp only [b2n, List.any_eq_true, decide_eq_true_eq]

end

/-! ### Watchdogs pause, and a reroute ends (R333) -/

section
variable (s : State) (d e : Nat)

/-- Judging the pause of a die changes neither whether a reroute involves a die nor which dies there are. -/
theorem updatePause_inReroute : (tfind (s.updatePause d).dies e).map Die.inReroute = (tfind s.dies e).map Die.inReroute := by
  have hpause (t : State) (p : Option Nat) : (tfind (t.onDie d fun x => { x with pause := p }).dies e).map Die.inReroute =
      (tfind t.dies e).map Die.inReroute := by
    simp only [State.onDie, tfind_tmap]
    split <;> simp [Function.comp_def]
  unfold State.updatePause
  dsimp only
  split <;> split <;> simp [hpause]

/-- Dies that no reroute involves any more are freed of it, and the others stay. -/
theorem onDies_inReroute (ds : List Nat) :
    (tfind (s.onDies ds fun x => { x with inReroute := false }).dies e).map Die.inReroute =
      (tfind s.dies e).map fun x => x.inReroute && !ds.contains e := by
  induction ds generalizing s with
  | nil => simp [State.onDies]
  | cons a ds ih =>
    have hone : (tfind ((s.onDie a fun x => { x with inReroute := false }).updatePause a).dies e).map Die.inReroute =
        (tfind s.dies e).map fun x => x.inReroute && !decide (e = a) := by
      rw [updatePause_inReroute, State.onDie]
      simp only [tfind_tmap]
      split <;> simp_all [Function.comp_def, eq_comm]
    rw [State.onDies, List.foldl_cons, ← State.onDies, ih]
    cases hx : tfind ((s.onDie a fun x => { x with inReroute := false }).updatePause a).dies e <;>
      cases hy : tfind s.dies e <;> simp_all [Bool.and_assoc]

end

/-! ### Links (R331) -/

section
variable {s : State} {die link : Nat}

theorem execLinkReplay_eq (hin : (s.link die link).inUse = true) (hfailed : (s.link die link).failed = false) :
    execLinkReplay die link s =
      let counted := (linkEnds die link).foldl (fun t e => t.onLink e.1 e.2 fun l =>
          { l with replays := (l.replays.filter fun u => s.rt < u + 2 ^ 16) ++ [s.rt] })
        (s.onDie die fun d => { d with counts := { d.counts with replays := BitVec.ofNat 32 (bump 32 d.counts.replays.toNat) } })
      .next (if 16 < (counted.link die link).replays.length then counted.retrain die link else counted) := by
  simp only [execLinkReplay, hin, hfailed]
  rfl

theorem retrain_of_idle (hin : (s.link die link).inUse = true) (hfailed : (s.link die link).failed = false)
    (hidle : (s.link die link).retraining = none) :
    s.retrain die link =
      let t := s.ringLink die link 0x08 [(s.link die link).failures.length + 1]
      let t := (linkEnds die link).foldl (fun t e => t.onLink e.1 e.2 fun l => { l with retraining := some s.rt }) t
      (linkEnds die link).foldl (fun t e => t.updatePause e.1) t := by
  simp only [State.retrain, hin, hfailed, hidle]
  rfl

theorem execLinkRetrainEnd_of_up {since : Nat} (h : (s.link die link).retraining = some since) :
    execLinkRetrainEnd die link true s = .next ((linkEnds die link).foldl (fun t e => t.updatePause e.1)
      ((linkEnds die link).foldl (fun t e => t.onLink e.1 e.2 fun l =>
        { l with retraining := none, replays := [], failures := (s.link die link).failures, failed := false }) s)) := by
  simp only [execLinkRetrainEnd, h]
  rfl

/-- The failed attempts of a link within 2^24 rt, with one that fails now. -/
def State.linkTries (s : State) (die link : Nat) : List Nat :=
  ((s.link die link).failures.filter fun t => s.rt < t + 2 ^ 24) ++ [s.rt]

theorem execLinkRetrainEnd_of_down {since : Nat} (h : (s.link die link).retraining = some since) :
    execLinkRetrainEnd die link false s =
      let dead := decide (3 ≤ (s.linkTries die link).length)
      let t := (linkEnds die link).foldl (fun t e => t.onLink e.1 e.2 fun l =>
        { l with retraining := none, failures := s.linkTries die link, failed := dead }) s
      if dead then .next ((t.ringLink die link 0x09 []).onDies (t.rerouteDies die link) fun d => { d with inReroute := true })
      else .next (((linkEnds die link).foldl (fun t e => t.updatePause e.1) t).retrain die link) := by
  simp only [execLinkRetrainEnd, h]
  rfl

theorem execRouteGenerationInstall_of_failed {routes : List (Nat × Nat × List (Nat × Nat))}
    (hfailed : (s.link die link).failed = true) (hnew : (s.link die link).rerouted = false) :
    execRouteGenerationInstall die link routes s =
      let t := (s.rerouteDies die link).foldl (fun t d => t.reroute routes (linkEnds die link) d) s
      let t := (linkEnds die link).foldl (fun t e => t.onLink e.1 e.2 fun l => { l with rerouted := true }) t
      .next ((linkEnds die link).foldl (fun t e => t.ring e.1 0x0A 0 [((s.die die).counts.routeGen + 1).toNat, e.2]) t) := by
  simp only [execRouteGenerationInstall, hfailed, hnew]
  rfl

end

/-- A die's record once it has taken the next route generation. -/
theorem reroute_die {s : State} {d : Nat} {x : Die} (routes : List (Nat × Nat × List (Nat × Nat)))
    (links : List (Nat × Nat)) (hx : tfind s.dies d = some x) : ∃ y, tfind (s.reroute routes links d).dies d = some y ∧
    y.counts.routeGen = x.counts.routeGen + 1 ∧
    y.routes = (s.movedPairs routes links d).foldl (fun r e => tput r e.1 e.2) x.routes ∧
    y.rerouting = (s.movedPairs routes links d).foldl (fun r e => pairUnits.foldl (fun r u => tput r (pairKey u e.1)
      (2 * (x.counts.routeGen + 1).toNat + if ∃ e ∈ links, 5 ≤ e.2 then 1 else 0)) r) x.rerouting := by
  have hdie : s.die d = x := by simp [State.die, tget_eq, hx]
  refine ⟨_, (tfind_tmap_same ..).trans (congrArg (Option.map _) hx), ?_, ?_, ?_⟩
  · simp [hdie]
  · rfl
  · rw [← rerouteMark_eq, hdie]
    rfl

theorem involved_iff (s : State) (d : Nat) : s.involved d = true ↔
    ∃ e ∈ s.dies, e.2.reroutes true = true ∨ (e.1 / 32 = d / 32 ∧ e.2.reroutes false = true) := by
  simp [State.involved]

theorem settleReroute_die {s : State} {d : Nat} {x : Die} (hx : tfind s.dies d = some x) :
    ∃ y, tfind s.settleReroute.dies d = some y ∧ (y.inReroute = true ↔ x.inReroute = true ∧ s.involved d = true) := by
  have hkey : d ∈ tkeys s.dies := List.mem_map.mpr ⟨_, mem_of_tfind hx, rfl⟩
  have hview := onDies_inReroute s d ((tkeys s.dies).filter fun e => !s.involved e)
  rw [hx, Option.map_some, Option.map_eq_some_iff] at hview
  obtain ⟨y, hy, hin⟩ := hview
  refine ⟨y, hy, ?_⟩
  rw [hin]
  simp [hkey]

/-- Settles O54: each event of a link by how it ends, and the routes of a new generation by the list of the pairs that move. -/
theorem linksRetrainAndRoutesChange : Obligations.LinksRetrainAndRoutesChange := by
  refine ⟨?replay, ?retrained, ?install, ?reroute, ?leads, ?switch, ?settle⟩
  case replay =>
    intro s die link hin hfailed
    refine ⟨fun hfew => ?_, fun hmany => ?_, fun hidle => ?_⟩
    · exact (execLinkReplay_eq hin hfailed).trans (congrArg _ (if_neg (Nat.not_lt.mpr hfew)))
    · exact (execLinkReplay_eq hin hfailed).trans (congrArg _ (if_pos hmany))
    · exact congrArg _ (retrain_of_idle hin hfailed hidle)
  case retrained =>
    intro s die link since h
    refine ⟨execLinkRetrainEnd_of_up h, fun hfew => ?_, fun hthird => ?_⟩
    · refine (execLinkRetrainEnd_of_down h).trans ?_
      have hdead : decide (3 ≤ (s.linkTries die link).length) = false := decide_eq_false (Nat.not_le.mpr hfew)
      simp only [hdead]
      rfl
    · refine (execLinkRetrainEnd_of_down h).trans ?_
      have hdead : decide (3 ≤ (s.linkTries die link).length) = true := decide_eq_true hthird
      simp only [hdead]
      rfl
  case install => exact fun s die link routes hfailed hnew => execRouteGenerationInstall_of_failed hfailed hnew
  case reroute =>
    intro s routes links d x hx
    obtain ⟨y, hy, hgen, hroutes, hmarks⟩ := reroute_die routes links hx
    refine ⟨y, hy, hgen, fun t ht => ?_, fun t path ht hpath => ⟨?_, fun u hu => ?_⟩, fun e he => ?_⟩
    · rw [hroutes, routes_of_unaffected ht]
    · rw [hroutes, routes_of_moved ht hpath]
    · rw [hmarks, rerouting_of_moved ht hpath hu]
    · exact (tfind_tmap ..).trans (if_neg he.symm)
  case leads => exact fun s routes d t path => routeLeads_of_newRoute
  case switch => exact fun s home site hack => if_pos hack
  case settle =>
    intro s d x hx
    simpa only [involved_iff] using settleReroute_die hx

end Sys2Proof.Machine
end

section
/-! ## Agreement rounds (R302, R303) -/

namespace Sys2Proof.Machine

section
variable {s : State} {n : Nat} {r : Round}

/-! ### The proposal -/

section
variable (hr : tfind s.eng.rounds n = some r) (hphase : r.phase = .posted) (hfirst : s.roundBefore n r = false)
include hr hphase hfirst

theorem agreementPropose_of_badFields (hfields : r.fieldsOk = false) :
    exec (.agreementPropose n) s = .next (s.settleRound n r false 15) := by
  simp [exec, execAgreementPropose, hr, hphase, hfirst, hfields]

/-- A command whose fields stand goes on with its member list. -/
theorem agreementPropose_of_goodFields (hfields : r.fieldsOk = true) : exec (.agreementPropose n) s =
    match if r.opc = 2 then some [] else s.memberList r with
    | none => .next ((s.engMark 0 r.slot [(r.field 127 64, 2 * r.field 63 48)]).settleRound n r false 15)
    | some new =>
      if r.opc ≠ 0 && (s.oldMembers r).isEmpty then .next (s.settleRound n r false 12)
      else
        .next (s.onRound n fun r' =>
          { r' with
            members := new, old := s.oldMembers r, proposed := s.rt, phase := .proposed
            voters := sortNat (new ++ (s.oldMembers r).filter fun d => !new.contains d &&
              s.reachable ((sortNat (if r.opc = 2 then s.oldMembers r else new)).headD 0) d) }) := by
  simp only [exec, execAgreementPropose, hr, hphase, hfirst, hfields]
  rfl

theorem agreementPropose_of_noMembers (hfields : r.fieldsOk = true) (hopc : r.opc ≠ 2) (hlist : s.memberList r = none) :
    exec (.agreementPropose n) s =
      .next ((s.engMark 0 r.slot [(r.field 127 64, 2 * r.field 63 48)]).settleRound n r false 15) := by
  rw [agreementPropose_of_goodFields hr hphase hfirst hfields, if_neg hopc, hlist]

end

/-! ### The vote -/

theorem agreementVote_of_waiting {die : Nat} (hr : tfind s.eng.rounds n = some r) (hwaits : s.roundWaits r die = true) :
    exec (.agreementVote n die) s = .next s := by
  simp [exec, execAgreementVote, hr, hwaits]

/-- A voter that the proposal reaches holds new blocks, and votes unless a collective runs on it. -/
theorem agreementVote_of_reached {die : Nat} (hr : tfind s.eng.rounds n = some r) (hphase : r.phase = .proposed)
    (hvoter : die ∈ r.voters) (hvote : tfind r.votes die = none) (hreached : s.roundWaits r die = false) :
    exec (.agreementVote n die) s =
      let t := s.onRound n fun x => { x with holds := if x.holds.contains die then x.holds else die :: x.holds }
      if t.commRuns r die then .next t
      else .next (t.onRound n fun x => { x with votes := tput x.votes die (t.ballot n r die), lastVote := s.rt }) := by
  have hguard : (r.phase ≠ .proposed || !r.voters.contains die || (tfind r.votes die).isSome || s.roundWaits r die) = false := by
    simp [hphase, hvoter, hvote, hreached]
  simp only [exec, execAgreementVote, hr, hguard]
  rfl

/-! ### The commit -/

theorem voters_any_unvoted (hvoted : ∀ d ∈ r.voters, (tfind r.votes d).isSome = true) :
    (r.voters.any fun d => (tfind r.votes d).isNone) = false := by
  simpa [← Option.isSome_iff_ne_none] using hvoted

section
variable (hr : tfind s.eng.rounds n = some r) (hphase : r.phase = .proposed)
  (hvoted : ∀ d ∈ r.voters, (tfind r.votes d).isSome = true)
include hr hphase hvoted

theorem agreementCommit_of_no {code : Nat} (hcode : (tvals r.votes).find? (fun v => v ≠ 0) = some code) :
    exec (.agreementCommit n) s = .next (s.settleRound n r false code) := by
  simp only [exec, execAgreementCommit, hr, hphase, voters_any_unvoted hvoted, hcode]
  rfl

/-- With every vote yes the round's time and the way to its voters decide. -/
theorem agreementCommit_of_yes (hyes : ∀ v ∈ tvals r.votes, v = 0) : exec (.agreementCommit n) s =
    if r.proposed + r.timeout ≤ r.lastVote then .next (s.settleRound n r false 14)
    else if r.voters.any (s.roundWaits r) then .next s
    else
      .next (((r.voters.foldl (fun t d => (t.install r d).onDie d fun x =>
        { x with comms := tmap (fun c => { c with attempt := s.nextAttempt r d }) x.comms r.key }) s).dropNodes r).settleRound
          n r true 0) := by
  have hnone : (tvals r.votes).find? (fun v => v ≠ 0) = none := List.find?_eq_none.mpr fun v hv => by simp [hyes v hv]
  simp only [exec, execAgreementCommit, hr, hphase, voters_any_unvoted hvoted, hnone]
  rfl

end

theorem agreementRoundTimeout_of_missing (hr : tfind s.eng.rounds n = some r) (hphase : r.phase = .proposed)
    (hmissing : ∃ d ∈ r.voters, tfind r.votes d = none) (hlate : r.proposed + r.timeout ≤ s.rt) :
    exec (.agreementRoundTimeout n) s = .next (s.settleRound n r false 14) := by
  have hany : (r.voters.any fun d => (tfind r.votes d).isNone) = true := by simpa using hmissing
  simp [exec, execAgreementRoundTimeout, hr, hphase, hlate, hany]

theorem groupCommandComplete_of_committed {ok : Bool} {code : Nat} (hr : tfind s.eng.rounds n = some r)
    (hphase : r.phase = .committed ok code) :
    let t : State := { s with eng := { s.eng with rounds := tdel s.eng.rounds n } }
    exec (.groupCommandComplete n) s = .next (t.complete r.mailbox r.slot (r.field 255 192)
      (completionBytes (r.field 319 256) t.rt 0 0 0 code (if ok then 1 else 2))) := by
  simp only [exec, execGroupCommandComplete, hr, hphase]

end

/-- Settles O51: a round by its phase, the answer of its voters and the time of the last of them. -/
theorem agreementsGoOn : Obligations.AgreementsGoOn := by
  refine ⟨?propose, fun _ _ _ => rfl, ?vote, ?commit, fun _ _ _ _ _ => groupCommandComplete_of_committed⟩
  case propose =>
    intro s n r hr hphase hfirst
    refine ⟨agreementPropose_of_badFields hr hphase hfirst, agreementPropose_of_noMembers hr hphase hfirst, ?_, ?_⟩
    · intro new hfields hnew hopc hold
      rw [agreementPropose_of_goodFields hr hphase hfirst hfields, hnew]
      simp [hopc, hold]
    · intro new hfields hnew hknown
      have hexists : (r.opc ≠ 0 && (s.oldMembers r).isEmpty) = false := by
        rcases hknown with h | h <;> simp [h]
      rw [agreementPropose_of_goodFields hr hphase hfirst hfields, hnew]
      simp only [hexists]
      rfl
  case vote =>
    intro s n r die hr hphase hvoter hvote
    refine ⟨agreementVote_of_waiting hr, fun hreached => ⟨fun hruns => ?_, fun hidle => ?_⟩⟩
    · exact (agreementVote_of_reached hr hphase hvoter hvote hreached).trans (if_pos hruns)
    · exact (agreementVote_of_reached hr hphase hvoter hvote hreached).trans (if_neg (Bool.eq_false_iff.mp hidle))
  case commit =>
    intro s n r hr hphase
    refine ⟨fun hvoted => ⟨fun code => agreementCommit_of_no hr hphase hvoted, fun hyes hlate => ?_,
      fun hyes htime hwaits => ?_, fun hyes htime hreached => ?_⟩, agreementRoundTimeout_of_missing hr hphase⟩
    · rw [agreementCommit_of_yes hr hphase hvoted hyes, if_pos hlate]
    · rw [agreementCommit_of_yes hr hphase hvoted hyes, if_neg (Nat.not_le.mpr htime), if_pos (by simpa using hwaits)]
    · rw [agreementCommit_of_yes hr hphase hvoted hyes, if_neg (Nat.not_le.mpr htime), if_neg (by simpa using hreached)]

end Sys2Proof.Machine
end

section
/-! ## Reduction trees, results, attempts and aborts (R273 to R277, R280 to R282) -/

namespace Sys2Proof.Machine

/-! ### Tree nodes (R275, R281, R282) -/

/-- The node of a RED that a child enters, with its key: the one that stands, or a fresh one (R275). -/
def State.childNode (t : State) (c : Comm) (ctx comm : Nat) (attempt : BitVec 16) (seq level node die : Nat) : Nat × RedNode :=
  (t.redNode? ctx comm attempt seq level die).getD (tnext t.eng.reds,
    { ctx := ctx, comm := comm, attempt := attempt, seq := seq, level := level, die := die,
      children := treeChildren c.members level node, arrived := [], deadline := t.rt + c.redtmo, closed := false })

/-- A contribution enters a node: what the node does (R275, R280 to R282). -/
def State.enterChild (t : State) (c : Comm) (node child : Nat) (m : Contribution) (k : Nat) (r : RedNode) : State :=
  if r.closed then t
  else if r.arrived ≠ [] ∧ r.deadline ≤ t.rt then t.closeNode k r 0x16 [r.missing]
  else if ∃ x ∈ r.arrived, x.2.op ≠ m.op ∨ x.2.bf16 ≠ m.bf16 ∨ x.2.length ≠ m.length then t.closeNode k r 0x15 []
  else
    let q : RedNode := { r with arrived := tput r.arrived child m }
    if ∀ x ∈ r.children, (tfind q.arrived x).isSome = true then
      (t.putNode k none).forward c q node
        { m with data := combine m.op (r.children.map fun x => (tfind q.arrived x).elim [] Contribution.data) }
    else t.putNode k (some q)

/-- A contribution that is accepted enters its node. -/
theorem redChildArrive_of_accepted {s t : State} {n src ctx comm seq level child node die : Nat} {attempt : BitVec 16}
    {m : Contribution} {passed : List Nat} {c : Comm}
    (hflight : tfind s.eng.flights n =
      some { src := src, msg := .child ctx comm attempt seq level child node die m, passed := passed })
    (hwaits : s.pairWaits fabricUnit src die = false)
    (hjudged : (s.landed n).judgeArrival
      { src := src, msg := .child ctx comm attempt seq level child node die m, passed := passed } ctx comm attempt die = (t, true))
    (hc : t.comm? die ctx comm = some c) :
    exec (.redChildArrive n) s = .next (t.enterChild c node child m
      (t.childNode c ctx comm attempt seq level node die).1 (t.childNode c ctx comm attempt seq level node die).2) := by
  simp only [exec, execRedChildArrive, hflight, hwaits, hjudged, hc]
  generalize hnode : t.childNode c ctx comm attempt seq level node die = kr
  obtain ⟨k, r⟩ := kr
  rw [State.childNode] at hnode
  rw [hnode]
  have hlate : (!r.arrived.isEmpty && decide (r.deadline ≤ t.rt)) = true ↔ r.arrived ≠ [] ∧ r.deadline ≤ t.rt := by simp
  have hdiffers : (r.arrived.any fun x => x.2.op ≠ m.op || x.2.bf16 ≠ m.bf16 || x.2.length ≠ m.length) = true ↔
      ∃ x ∈ r.arrived, x.2.op ≠ m.op ∨ x.2.bf16 ≠ m.bf16 ∨ x.2.length ≠ m.length := by simp [or_assoc]
  simp only [State.enterChild, Bool.false_eq_true, if_false, hlate, hdiffers, List.all_eq_true, apply_ite Host.Outcome.next]

section
variable {t : State} {c : Comm} {node child k : Nat} {m : Contribution} {r : RedNode}

theorem enterChild_of_closed (h : r.closed = true) : t.enterChild c node child m k r = t := if_pos h

section
variable (hopen : r.closed = false)
include hopen

theorem enterChild_of_late (hlate : r.arrived ≠ [] ∧ r.deadline ≤ t.rt) :
    t.enterChild c node child m k r = t.closeNode k r 0x16 [r.missing] := by
  rw [State.enterChild, if_neg (Bool.eq_false_iff.mp hopen), if_pos hlate]

section
variable (htime : ¬(r.arrived ≠ [] ∧ r.deadline ≤ t.rt))
include htime

theorem enterChild_of_differs (h : ∃ x ∈ r.arrived, x.2.op ≠ m.op ∨ x.2.bf16 ≠ m.bf16 ∨ x.2.length ≠ m.length) :
    t.enterChild c node child m k r = t.closeNode k r 0x15 [] := by
  rw [State.enterChild, if_neg (Bool.eq_false_iff.mp hopen), if_neg htime, if_pos h]

/-- A contribution that agrees with those before it stands in its node, which forwards once every child is there. -/
theorem enterChild_of_agrees (h : ¬∃ x ∈ r.arrived, x.2.op ≠ m.op ∨ x.2.bf16 ≠ m.bf16 ∨ x.2.length ≠ m.length) :
    t.enterChild c node child m k r =
      if ∀ x ∈ r.children, (tfind (tput r.arrived child m) x).isSome = true then
        (t.putNode k none).forward c { r with arrived := tput r.arrived child m } node
          { m with data := combine m.op (r.children.map fun x => (tfind (tput r.arrived child m) x).elim [] Contribution.data) }
      else t.putNode k (some { r with arrived := tput r.arrived child m }) := by
  rw [State.enterChild, if_neg (Bool.eq_false_iff.mp hopen), if_neg htime, if_neg h]

end

end

end

theorem reductionTimeout_of_node {s : State} {k : Nat} {r : RedNode} (hr : tfind s.eng.reds k = some r) :
    exec (.reductionTimeout k) s =
      if r.closed = false ∧ r.deadline ≤ s.rt then .next (s.closeNode k r 0x16 [r.missing]) else .next s := by
  simp [exec, execReductionTimeout, hr]

/-! ### Results on their way down, and at the members (R276) -/

theorem redReleased_iff {s : State} {e : EngRef} {p : Prog} {w : RedWait} : s.redReleased e p w = true ↔
    (∀ y ∈ p.writes, w.place ≤ y.place) ∧ (∀ y ∈ p.reds, w.place ≤ y.2.place) ∧
      ∀ k ∈ s.pushesOf e, ∀ y, tfind s.comp.transfers k = some y → w.place ≤ y.place := by
  simp only [State.redReleased, Bool.and_eq_true, List.all_eq_true, decide_eq_true_eq, and_assoc]
  refine and_congr_right fun _ => and_congr_right fun _ => forall₂_congr fun k _ => ?_
  cases tfind s.comp.transfers k <;> simp

section
variable {s t : State} {n src ctx comm seq die : Nat} {attempt : BitVec 16} {passed : List Nat}

/-- A result that a node accepts goes on to what lies below the node. -/
theorem redResultDeliver_of_node {level node : Nat} {m : Contribution} {c : Comm}
    (hflight : tfind s.eng.flights n =
      some { src := src, msg := .result ctx comm attempt seq (some (level, node)) die m, passed := passed })
    (hwaits : s.pairWaits fabricUnit src die = false)
    (hjudged : (s.landed n).judgeArrival
      { src := src, msg := .result ctx comm attempt seq (some (level, node)) die m, passed := passed } ctx comm attempt die =
        (t, true))
    (hc : t.comm? die ctx comm = some c) :
    exec (.redResultDeliver n) s = .next (t.sendDown c ctx comm attempt seq level node die m) := by
  simp only [exec, execRedResultDeliver, hflight, hwaits, hjudged, hc]
  rfl

section
variable {m : Contribution} {e : EngRef} {p : Prog} {w : RedWait}
  (hflight : tfind s.eng.flights n = some { src := src, msg := .result ctx comm attempt seq none die m, passed := passed })
  (hwaiter : s.waiter? die ctx (seq * 256 + comm) = some (e, p, w))
include hflight hwaiter

theorem redResultDeliver_of_waiting (h : s.redReleased e p w = false ∨ s.pairWaits fabricUnit src die = true) :
    exec (.redResultDeliver n) s = .next s := by
  rcases h with h | h <;> simp [exec, execRedResultDeliver, hflight, hwaiter, h]

/-- A result that is accepted after its release is taken by the RED that waits for it. -/
theorem redResultDeliver_of_released {c : Comm} (hreleased : s.redReleased e p w = true)
    (hwaits : s.pairWaits fabricUnit src die = false)
    (hjudged : (s.landed n).judgeArrival
      { src := src, msg := .result ctx comm attempt seq none die m, passed := passed } ctx comm attempt die = (t, true))
    (hc : t.comm? die ctx comm = some c) (hstill : t.waiter? die ctx (seq * 256 + comm) = some (e, p, w)) :
    exec (.redResultDeliver n) s = .next (t.takeResult e p c (seq * 256 + comm) w m) := by
  simp only [exec, execRedResultDeliver, hflight, hwaiter, hreleased, hwaits, hjudged, hc, hstill]
  rfl

end

/-! ### Parts of ring and direct collectives (R277) -/

section
variable {block : Nat} {adding : Bool} {bytes : List Byte}
  (hflight : tfind s.eng.flights n =
    some { src := src, msg := .part ctx comm attempt seq block adding die bytes, passed := passed })
  (hwaits : s.pairWaits fabricUnit src die = false)
  (hjudged : s.judgeArrival { src := src, msg := .part ctx comm attempt seq block adding die bytes, passed := passed } ctx comm
    attempt die = (t, true))
include hflight hwaits hjudged

theorem redResultDeliver_of_noRed (hnone : t.waiter? die ctx (seq * 256 + comm) = none) :
    exec (.redResultDeliver n) s = .next t := by
  simp [exec, execRedResultDeliver, hflight, hwaits, hjudged, hnone]

theorem redResultDeliver_of_part {c : Comm} {e : EngRef} {p : Prog} {w : RedWait} (hc : t.comm? die ctx comm = some c)
    (hwaiter : t.waiter? die ctx (seq * 256 + comm) = some (e, p, w)) (hblock : w.block = some block) :
    exec (.redResultDeliver n) s =
      .next ((t.landed n).meetPart e p c comm (seq * 256 + comm) block adding w bytes) := by
  simp [exec, execRedResultDeliver, hflight, hwaits, hjudged, hc, hwaiter, hblock]

end

end

/-! ### Attempts (R280) -/

section
variable {s : State} {die slot comm : Nat} {attempt : BitVec 16}

theorem judgeAll_cons (s : State) (slot comm : Nat) (attempt : BitVec 16) (d : Nat) (l : List Nat) :
    s.judgeAll slot comm attempt (d :: l) =
      if (s.judgePacket d slot comm attempt).2 then (s.judgePacket d slot comm attempt).1.judgeAll slot comm attempt l
      else s.judgePacket d slot comm attempt := by
  rw [State.judgeAll]
  obtain ⟨t, ok⟩ := s.judgePacket d slot comm attempt
  cases ok <;> rfl

theorem judgeAll_one (s : State) (slot comm : Nat) (attempt : BitVec 16) (d : Nat) :
    s.judgeAll slot comm attempt [d] = s.judgePacket d slot comm attempt := by
  rw [judgeAll_cons]
  split
  next h => exact Prod.ext rfl h.symm
  next => rfl

section
variable {c : Comm} (hc : s.comm? die slot comm = some c)
include hc

theorem judgePacket_of_current (h : attempt = c.attempt) : s.judgePacket die slot comm attempt = (s, true) := by
  simp [State.judgePacket, hc, h]

theorem judgePacket_of_newer (hne : attempt ≠ c.attempt) (h : (attempt - c.attempt).toNat < 2 ^ 15) :
    s.judgePacket die slot comm attempt = (s.advanceAttempt die slot comm attempt, true) := by
  have hpos : (attempt - c.attempt).toNat ≠ 0 := fun h0 => hne (by bv_omega)
  simp only [State.judgePacket, hc, if_neg hpos]
  exact if_neg (Nat.not_le.mpr h)

theorem judgePacket_of_older (h : 2 ^ 15 ≤ (attempt - c.attempt).toNat) : s.judgePacket die slot comm attempt =
    (s.onDie die fun x => { x with counts := { x.counts with dropped := BitVec.ofNat 32 (bump 32 x.counts.dropped.toNat) } },
      false) := by
  have hpos : (attempt - c.attempt).toNat ≠ 0 := by omega
  simp only [State.judgePacket, hc, if_neg hpos]
  exact if_pos h

end

/-- The one packet on the fabric is judged at the next member die on its way. -/
theorem collectivePacketIngress_of_next {n goal : Nat} {x : Packet} (hflights : s.eng.flights = [(n, x)])
    (hmsg : x.msg.collective = some (slot, comm, attempt, goal)) (hwaits : s.pairWaits fabricUnit x.src goal = false)
    (hnext : (s.onTheWay x slot comm goal).head? = some die) :
    exec (.collectivePacketIngress die slot comm attempt) s =
      let t := (s.judgePacket die slot comm attempt).1
      if (s.judgePacket die slot comm attempt).2 then .next { t with
        eng := { t.eng with flights := tmap (fun x => { x with passed := x.passed ++ [die] }) t.eng.flights n } }
      else .next (t.landed n) := by
  obtain ⟨l, hway⟩ := List.head?_eq_some_iff.mp hnext
  have hhere : (die :: l).contains die = true := by simp
  simp only [exec, execCollectivePacketIngress, hflights, List.find?, hmsg, hwaits, hway, hhere, decide_true, Bool.not_false,
    Bool.and_self, List.idxOf_cons_self, zero_add, List.take_succ_cons, List.take_zero, judgeAll_one]
  obtain ⟨t, ok⟩ := s.judgePacket die slot comm attempt
  cases ok <;> rfl

theorem collectivePacketIngress_of_none (h : s.eng.flights = []) :
    exec (.collectivePacketIngress die slot comm attempt) s = .next s := by
  simp [exec, execCollectivePacketIngress, h]

theorem attemptAbortArrive_of_passes {n src : Nat} {passed : List Nat} {c : Comm}
    (hflight : tfind s.eng.flights n = some { src := src, msg := .abort slot comm attempt die, passed := passed })
    (hwaits : s.pairWaits fabricUnit src die = false) (hc : (s.landed n).comm? die slot comm = some c) :
    exec (.attemptAbortArrive n) s =
      .next (if c.attempt = attempt then (s.landed n).advanceAttempt die slot comm (attempt + 1) else s.landed n) := by
  simp only [exec, execAttemptAbortArrive, hflight, hwaits, hc, apply_ite Host.Outcome.next]
  rfl

end

/-- Settles O50: each packet by what it carries, once it is judged at the dies of its way. -/
theorem collectivesGoOn : Obligations.CollectivesGoOn := by
  refine ⟨?child, ?forward, ?timeout, ?node, ?result, ?part, ?arrival, ?packet, ?ingress,
    fun _ _ _ _ _ => collectivePacketIngress_of_none, fun _ _ _ _ _ _ _ _ _ => attemptAbortArrive_of_passes⟩
  case child =>
    intro s n src ctx comm attempt seq level child node die m passed t c x hflight hwaits hjudged hc fresh k r q late differs
    have henters : exec (.redChildArrive n) s = .next (t.enterChild c node child m k r) :=
      redChildArrive_of_accepted hflight hwaits hjudged hc
    refine ⟨fun hclosed => ?_, fun hopen hlate => ?_, fun hopen htime hdiffers => ?_, fun hopen htime hagrees => ⟨?_, ?_⟩⟩
    · rw [henters, enterChild_of_closed hclosed]
    · rw [henters, enterChild_of_late hopen hlate]
      rfl
    · rw [henters, enterChild_of_differs hopen htime hdiffers]
      rfl
    · rintro ⟨y, hy, hmissing⟩
      have hsome : ¬∀ x ∈ r.children, (tfind q.arrived x).isSome = true := fun h => by simpa [hmissing] using h y hy
      rw [henters, enterChild_of_agrees hopen htime hagrees, if_neg hsome]
    · intro hall
      rw [henters, enterChild_of_agrees hopen htime hagrees, if_pos hall]
  case forward =>
    intro s c r node m
    refine ⟨fun hlow => if_pos hlow, fun hroot => (if_neg (Nat.not_lt.mpr hroot)).trans ?_⟩
    have hlevel : r.level ≠ 0 := by omega
    simp only [State.sendDown, if_neg hlevel]
  case timeout =>
    intro s k r hr
    refine ⟨fun hwaits => ?_, fun hopen hlate => ?_⟩
    · rw [reductionTimeout_of_node hr, if_neg]
      rintro ⟨hopen, hlate⟩
      exact hwaits.elim (Bool.eq_false_iff.mp hopen) (Nat.not_lt.mpr hlate)
    · rw [reductionTimeout_of_node hr, if_pos ⟨hopen, hlate⟩]
      rfl
  case node =>
    intro s n src ctx comm attempt seq level node die m passed t c x hflight hwaits hjudged hc
    exact redResultDeliver_of_node hflight hwaits hjudged hc
  case result =>
    intro s n src ctx comm attempt seq die m passed e p w x hflight key hwaiter released
    refine ⟨fun h => redResultDeliver_of_waiting hflight hwaiter (h.imp_left fun hearly => ?_), fun hreleased hwaits t c hjudged hc
      hstill => ?_⟩
    · exact Bool.eq_false_iff.mpr fun hyes => hearly (redReleased_iff.mp hyes)
    · have htakes := redResultDeliver_of_released hflight hwaiter (redReleased_iff.mpr hreleased) hwaits hjudged hc hstill
      refine ⟨fun hgood => htakes.trans (congrArg _ ?_), fun k hbad => htakes.trans (congrArg _ ?_)⟩
      · simp only [State.takeResult, State.takePart]
        rw [hgood]
      · simp only [State.takeResult, State.takePart]
        rw [hbad]
  case part =>
    intro s n src ctx comm attempt seq block adding die bytes passed t x hflight hwaits hjudged key
    refine ⟨redResultDeliver_of_noRed hflight hwaits hjudged, fun c e p w hc hwaiter hblock => ?_⟩
    have hmeets := redResultDeliver_of_part hflight hwaits hjudged hc hwaiter hblock
    refine ⟨fun hplain => ?_, fun own b hadds hprog hown => ?_, fun k hadds hown => ?_⟩
    · rw [hmeets, State.meetPart, hplain]
      rfl
    · rw [hmeets, State.meetPart, if_pos hadds, hown, hprog]
    · rw [hmeets, State.meetPart, if_pos hadds, hown]
  case arrival =>
    intro s x slot comm attempt die way
    have hjudges : s.judgeArrival x slot comm attempt die = s.judgeAll slot comm attempt (way ++ [die]) := rfl
    refine ⟨fun hway => ?_, fun d r hway => ⟨fun hdrops => ?_, fun hpasses => ?_⟩⟩
    · rw [hjudges, hway, List.nil_append, judgeAll_one]
    · rw [hjudges, hway, List.cons_append, judgeAll_cons, if_neg (Bool.eq_false_iff.mp hdrops)]
    · rw [hjudges, hway, List.cons_append, judgeAll_cons, if_pos hpasses]
  case packet =>
    exact fun s die slot comm attempt c hc =>
      ⟨judgePacket_of_current hc, judgePacket_of_newer hc, judgePacket_of_older hc⟩
  case ingress =>
    intro s die slot comm attempt n x goal hflights hmsg hwaits hnext
    have hjudged := collectivePacketIngress_of_next hflights hmsg hwaits hnext
    exact ⟨fun hdrops => hjudged.trans (if_neg (Bool.eq_false_iff.mp hdrops)), fun hpasses => hjudged.trans (if_pos hpasses)⟩

end Sys2Proof.Machine
end
